-- ==== Sys2Proof/Word.lean ====
section
/-! DEFINITION. Word.lean: the words of the SDG-2048 and the shape of sparse storage. -/

namespace Sys2Proof

/-- A byte, the smallest addressable unit of the data address space (R400). -/
abbrev Byte := BitVec 8
/-- A 32-bit register word (R710) or FP32 pattern. -/
abbrev Word := BitVec 32
/-- A 64-bit LO/HI register pair (R15) or FP64 pattern. -/
abbrev DWord := BitVec 64
/-- A 64 B queue entry (R445); byte `i` is bits `8i+7 : 8i` (R12). -/
abbrev Entry := BitVec 512

/-- Sparse storage: keys strictly rising, no entry equal to what an unlisted key reads as. -/
abbrev NMap (α : Type) := List (Nat × α)

/-- Saturating 32-bit counter: the counters of the register pages marked "saturating". -/
def satAdd (w : Word) (n : Nat) : Word :=
  BitVec.ofNat 32 (min (w.toNat + n) 0xFFFFFFFF)

/-- One more on a saturating counter. -/
abbrev satInc (w : Word) : Word := satAdd w 1

end Sys2Proof
end

