-- ==== Sys2Proof/Syntax.lean ====
section
/-! DEFINITION. Syntax.lean: the commands of the block, one constructor per row of the table of operations and events.

Operands: `q` a queue number (R444), `core` a logical core (0 to 127), `phys` a physical core (0 to 131),
`ini` an initiator of register accesses (R710, R719: 0 west and 1 east management processor, 2 JTAG, 3 + n the
network on connection n), `addr` a register or data address. A row that is a queue's command names the queue and
takes its 64 B from the queue's ring (R449); a message, packet, sample or pin event carries what it brings. -/

namespace Sys2Proof

/-- The header of a message (R638): `WANT_REPLY` and the request tag. -/
structure MsgHdr where
  wantReply : Bool
  tag : Word
deriving DecidableEq, Repr

/-- The two public keys of a boot server that an OFFER carries (R662), 96 B each: ephemeral and static. -/
structure ServerKeys where
  ephemeral : List Byte
  static : List Byte
deriving DecidableEq, Repr

/-- Image data at an offset, as a CHUNK carries them (R663). -/
structure ImagePiece where
  offset : Nat
  data : List Byte
deriving DecidableEq, Repr

/-- One operation of a REG_ACCESS message (R640): kind 0 read, 1 write. -/
structure RegOp where
  kind : Nat
  addr : Word
  value : Word
deriving DecidableEq, Repr

/-- What a port sees of a received Ethernet frame that carries no message (R618, R621, R623, R625). -/
structure EthFrame where
  bytes : Nat          -- destination address to FCS, tag included
  badFcs : Bool
  vid : Option Nat     -- none: untagged
  pause : Bool         -- a PAUSE or PFC frame
  dstMac : BitVec 48
  dstIp : BitVec 128   -- IPv6, or IPv4 as ::ffff:a.b.c.d; 0 when the frame holds no IP packet
  fragment : Bool      -- IPv4 fragment, IPv4 options, or IPv6 extension headers
  udpPort : Option Nat -- none: no UDP datagram
  badChecksum : Bool
deriving DecidableEq, Repr

/-- A Relsen packet as a port receives it (R633): where it goes and where it came from, the 64 B header, the sealed message and
tag. -/
structure RxPacket where
  dstMac : BitVec 48
  dstIp : BitVec 128
  srcIp : BitVec 128
  srcPort : Nat
  ce : Bool            -- the IP header carried the CE mark (R645)
  header : Entry
  body : List Byte     -- encrypted message
  tag : BitVec 128
deriving DecidableEq, Repr

/-- The instructions that each test access port supports (R700). -/
inductive TapIns where
  | bypass | idcode | samplePreload | extest | clamp | highz
deriving DecidableEq, Repr

/-- One constructor per row of the table. -/
inductive Instr where
  -- queue control
  | nop (q : Nat) | wait (q : Nat) | signal (q : Nat) | stop (q : Nat) | forecast (q : Nat)
  | versionFence (q : Nat) | versionFenceTimeout (q : Nat) | segmentEntry (q : Nat)
  -- DMA
  | dmaCopy (q : Nat) | planeCopy (q : Nat) | scaleCopy (q : Nat) | railLaunch (q : Nat)
  | tableGather (q : Nat) | kvWrite (q : Nat) | dmaComplete (q : Nat)
  -- weight rail; `i` counts the queue's unfinished takes, oldest first
  | railTake (q : Nat) | takeStart (q i : Nat) | railBlockSend (stream : Nat)
  | railTakeComplete (q i : Nat) | railStreamClose (stream : Nat) | railStallTimeout (stream : Nat)
  -- run-ahead; `i` counts entries past the queue's oldest command
  | runAheadStart (q i : Nat) | runAheadConfirm (q : Nat)
  -- frames
  | frameMode (q : Nat) | frameRun (q : Nat) | frameRunT (q : Nat)
  | joinedRunStart (cluster mask tag : Nat) | sliceJoinTimeout (q : Nat)
  | promotion (core gang : Nat) | planeSwap (q : Nat) | planeExchange (core frame : Nat)
  | planeLoadComplete (core frame : Nat)
  -- ledger
  | ledgerClear (q : Nat) | ledgerDrain (q : Nat) | ledgerLoad (q : Nat)
  -- quantise unit
  | quantise (q : Nat) | quantExchange (cluster mask : Nat) | quantSettle (core : Nat)
  | quantExchangeTimeout (core : Nat) | scaleLoad (q : Nat) | statsRead (q : Nat)
  -- vector unit
  | vector (q : Nat) | sampleCollect (q : Nat) | sampleFinish (q : Nat)
  | sampleFinishJoin (cluster mask : Nat) | sampleJoinTimeout (core : Nat)
  -- stream engine
  | streamScore (q : Nat) | streamValue (q : Nat) | streamWgrad (q : Nat) | streamGemm (q : Nat)
  | streamCommandComplete (cluster : Nat)
  -- stash and contexts
  | stashSave (q : Nat) | stashLoad (q : Nat)
  | ctxCommit (q : Nat) | ctxOpen (q : Nat) | ctxClose (q : Nat)
  | closeHoldersReleased (ctx : Nat) | kvAreaZeroed (ctx : Nat)
  -- snapshots
  | snapshot (q : Nat) | quiesceEnd | snapQuiesceTimeout | snapshotCopyComplete
  | flashDrainComplete | snapDrainFailed (partner : Bool) | restore (q : Nat)
  -- messages
  | command (conn : Nat) (hdr : MsgHdr) (q : Nat) (entries : List Entry)
  | dataWrite (conn : Nat) (hdr : MsgHdr) (addr : Nat) (data : List Byte)
  | dataRead (conn : Nat) (hdr : MsgHdr) (addr len : Nat)
  | regAccess (conn : Nat) (hdr : MsgHdr) (ops : List RegOp)
  | tallyRemote (conn : Nat) (hdr : MsgHdr) (pairs : List (BitVec 16 × BitVec 16))
  | snapshotChunk (conn : Nat) (hdr : MsgHdr) (offset : Nat) (header : Bool) (data : List Byte)
  | offer (hdr : MsgHdr) (keys : ServerKeys) (signature : List Byte) (imageLen : Nat)
  | chunk (hdr : MsgHdr) (piece : ImagePiece)
  | attestReq (conn : Nat) (hdr : MsgHdr) (nonce : List Byte)
  -- Relsen transport
  | relsenPacket (port : Nat) (pkt : RxPacket)
  | ackTimer (conn : Nat) | lossDetectionTimer (conn : Nat) (packet : Nat)
  | retransmissionTimer (conn : Nat) | connectionLost (conn : Nat) | planeProbe (plane : Nat)
  | eventSend (die : Nat)
  -- ports, neighbours, PTP
  | frameReceive (port : Nat) (f : EthFrame)
  | arpRequest (port : Nat) (senderMac : BitVec 48) (senderIp targetIp : Word)
  | arpReply (port : Nat) (senderMac : BitVec 48) (senderIp : Word)
  | neighbourSolicitation (port : Nat) (senderMac : BitVec 48) (senderIp targetIp : BitVec 128)
  | neighbourAdvertisement (port : Nat) (targetMac : BitVec 48) (targetIp : BitVec 128)
  | neighbourExpiry (port : Nat) (ip : BitVec 128)
  | ptpSync (port : Nat) (domain seq : Nat)
  | ptpFollowUp (port : Nat) (domain seq : Nat) (origin : Nat)
  | ptpDelayResp (port : Nat) (domain seq : Nat) (receive : Nat)
  | ptpDelayReq
  | linkUp (port : Nat) (cr1 : Bool) | linkDown (port : Nat)
  | fecDegraded (port : Nat) (corrected uncorrectable : Nat)
  -- signals, scratchpad
  | remoteSignal (src : Nat) (tally : BitVec 16) | correctedWriteback (core : Nat)
  | slotTagTimeout (q : Nat) | scoreboardTimeout (q : Nat) | disciplineSwitch (core : Nat)
  -- tiers; `ctl` 0 to 7 a Tier 1 stack, 8 + c Tier 2 channel c; of a failure also 32 + r the rail root of region r
  | tierPatrol (ctl : Nat) | pageRetired (ctl : Nat) | tierChannelFailed (ctl : Nat)
  -- power
  | powerPeriod | avsbusSample (rail mv ma : Nat) | powerTelemetryLost (rail : Nat)
  | opPointStep (region : Nat) (failing : List Nat)
  | droopStretch (core : Nat) | stretchEnd (core : Nat) | clampEnd (core : Nat)
  | stepUpResume (region : Nat)
  | throttleAsserted | throttleReleased
  -- thermal and stopping inputs; `input` 0 COOLANT_OK, 1 LEAK_L
  | thermalSample (region : Nat) (readings : List (BitVec 16)) | ceilingStep (region : Nat)
  | thermalSensorFault (region sensor : Nat) | thermalTrip (region sensor : Nat)
  | coolantStop | leakStop | sidebandChatter (input : Nat) | chatterClear (input : Nat)
  | restartReady | feedIdChange (v : BitVec 4) | slotIdChanged (v : BitVec 6)
  | ppsEdge | vinOutOfRange (mv10 : BitVec 16) (stays : Bool)
  -- module power, resets, clocks
  | pwrEnRise | powerUpTimeout | powerOff (railFault : Bool) | coldReset (byResetL : Bool)
  | clockFailed (die : Nat) (domain : BitVec 7) | bridgeReplay (die : Nat) (failed : Bool) | mgmtFailed (die : Nat)
  -- boot
  | provisionRead (record : List Byte) | hello | tierZeroingComplete | imageVerify | imageStart
  -- fencing and remap
  | coreFence (phys : Nat) (cause : BitVec 16) | fenceComplete (phys : Nat)
  | unfenceComplete (phys : Nat) | coreRemapped (spare : Nat) | partitionResetComplete
  -- pairing, JTAG
  | pairingExchange (feed : BitVec 4) (index : BitVec 16) (hold : Nat) (refuses : Bool)
  | jtagInstruction (die : Nat) (ins : TapIns) | jtagTransition (target : Nat)
  -- register writes with a row of their own
  | stopRequest (ini q : Nat) | actionRetry (ini q : Nat) | actionSkip (ini q : Nat)
  | actionFlush (ini q : Nat) | ringConfig (ini q : Nat) (base : BitVec 48) (size : Nat)
  | tagEmpty (ini phys first count : Nat) | tagFill (ini phys first count : Nat)
  | tallyValueWrite (ini phys n : Nat) (v : Word)
  | hostFence (ini : Nat) (page : Nat) | unfence (ini : Nat) (page : Nat)
  | quiesceSet (ini phys : Nat) | quiesceRelease (ini phys : Nat)
  | portEnable (ini port : Nat) (on : Bool)
  | errClearRecord (ini page : Nat) | errClearCount (ini page : Nat)
  | errInject (ini page : Nat) (v : Word) | erraggClear (ini : Nat)
  | remapMap (ini spare logical : Nat) | remapUnmap (ini spare : Nat)
  | powerRestart (ini : Nat) | peakClear (ini : Nat) | maxClear (ini : Nat)
  | latencyClear (ini die : Nat)
  | warmReset (ini : Nat) (key : Byte) | partitionReset (ini part : Nat) (key : Byte)
  | lifecycleTransition (ini target : Nat) (key : BitVec 16) | unlockToken (ini : Nat) (last : Word)
  | connOpen (ini : Nat) | connClose (ini : Nat)
  | stagingWrite (ini : Nat) (offset : Nat) (v : Word)
  -- register reads that latch, and the general write
  | loRead (ini : Nat) (addr : Word) | queueLoRead (ini : Nat) | descRead (ini : Nat)
  | hiWrite (ini : Nat) (addr value : Word) | registerWrite (ini : Nat) (addr value : Word)
  -- completions
  | ledgerCommandComplete (core : Nat) | vectorCommandComplete (core : Nat)
  | quantiseCommandComplete (core : Nat) | sampleCollectComplete (core : Nat)
  | scaleLoadComplete (core : Nat) | statsReadComplete (core : Nat)
  | ctxCommitComplete (q : Nat) | restoreComplete | resetLRelease
  | stoppingInputReturn (input : Nat) | deviceQueueWake (q : Nat) | packetPacing (conn : Nat)
deriving DecidableEq, Repr

end Sys2Proof
end

