-- ==== Sys2Proof/Config.lean ====
section
/-! DEFINITION. Config.lean: the values that the spec leaves open, as constants without a body. Nothing in Lean can
evaluate one of them, so whatever is proved of the machine holds for every value of them. -/

namespace Sys2Proof.Config

/-- Results of the transcendental vector functions (R286): the spec bounds the error and states no bit pattern.
`op` is the operation code of R290; the value is a function of the operand alone (R280). Log entry 11. -/
opaque vectorFn (op : Nat) : Word → Word

/-- Sign and fraction of a NaN that the vector unit writes as a result (R280, R285): the spec says that the result is NaN
and states no pattern. A function of the operation and its operands. Log entry 20. -/
opaque nanBits (op : Nat) (operands : List Word) : BitVec 24

/-- Values that are drawn at random or from secrets the spec does not state (keys, nonces, ephemeral keys), one for
each value of the counter `State.oracle`. Log entry 12. -/
opaque freeBytes (n : Nat) (len : Nat) : List Byte

/-- Draw in mW that the power manager predicts at an operating point for each region, issue limit `k` and memory limit `j`, from
the part's own fused voltages, or with `none` from the family reference coefficients (R515, R523, R525): the spec gives no model of
draw. Log entry 13. -/
opaque predicted (own : Option (List Nat)) (n : Nat) (points : List Nat) (k j : Nat) : Nat

/-- Highest draw in mW that filler activity can hold at those settings below point 7 and 16/16 (R533, R534). Log entry 13. -/
opaque fillerReach (n : Nat) (points : List Nat) (k j : Nat) : Nat

/-- Conversion loss in microwatts of a rail's regulator at a load in microwatts (R503): fused. Log entry 13. -/
opaque conversionLoss (rail load : Nat) : Nat

/-- Fused weight in picojoules of one unit of a kind of work (R549): the spec names the kinds and no weight. Log entry 13. -/
opaque energyWeight (kind : Nat) : Nat

/-- Modelled energies of one period in picojoules (R549): the base energy of a region (8: of the die-level and device-level units),
the filler activity of a region. Log entry 13. -/
opaque baseEnergy (n region : Nat) : Nat
opaque fillerEnergy (n region : Nat) : Nat

/-- Which of the bytes that R368 allows byte `k` of a row takes whose source overlaps what its command writes.
Log entry 25. -/
opaque overlapPick (n k : Nat) : Nat

/-- Whether a sensor's reading lies inside its range (R542): the spec gives no range. Log entry 13. -/
opaque sensorInRange (reading : BitVec 16) : Bool

/-- A core's answer to a margin check or another event of the silicon that the spec leaves to it. Log entry 13. -/
opaque freeNat (n : Nat) : Nat

/-- Retention voltage of the core rails in mV (R545): the spec gives no figure. Log entry 13. -/
opaque retentionMv : Nat

/-- What the boot ROM derives from the fused secret (R668): the private scalar of the identity key; of the LMS key the key
identifier, the 34 private values of each one-time index and the randomizer of its signature. The spec does not state the
derivation. Log entry 14. -/
opaque identityScalar (secret : BitVec 256) : Nat
opaque lmsId (secret : BitVec 256) : BitVec 128
opaque lmsPrivate (secret : BitVec 256) (index i : Nat) : BitVec 256
opaque lmsRandom (secret : BitVec 256) (index : Nat) : BitVec 256

/-- Code of a TAP instruction in the 8-bit instruction register (R700): the spec gives none. Log entry 114. -/
opaque tapCode (instruction : Nat) : BitVec 8

end Sys2Proof.Config
end

