-- ==== Sys2Proof/Machine/State.lean ====
section
/-! DEFINITION. State.lean: everything the spec gives the SDG-2048 to hold, as plain data, and the state right after a
cold reset. Sparse maps (`NMap`) list only the entries that differ from what an unlisted key reads as; the default
of each map is the `reset` value of its element type, or zero. -/

namespace Sys2Proof.Machine

/-- No command of this block faults: every error of the spec is an event with a code (R557). -/
inductive Fault where
  /-- Raised by no command. -/
  | unused
deriving DecidableEq, Repr

/-- Why a command has no meaning. -/
inductive Refusal where
  /-- Raised by an arm of `exec` whose row has no meaning yet; safe, since nothing is claimed of it. -/
  | notModelled (mnemonic : String)
deriving DecidableEq, Repr

/-! ### Storage words -/

/-- Condition of a stored 32 B word (or ledger code word): sound, with one symbol wrong (a read corrects it),
uncorrectable, or holding the poison pattern of R410. -/
inductive WordCond where
  | sound | correctable | uncorrectable | poison
deriving DecidableEq, Repr

/-! ### Queues -/

/-- A command that a unit holds: its number within its queue, its queue, its 64 B. -/
structure Job where
  id : Nat
  q : Nat          -- queue number (R444)
  cmd : Entry
deriving DecidableEq, Repr

/-- Run-ahead standing of a command (R389 to R394). -/
inductive RunAhead where
  | none | unconfirmed | confirmed | cancelled
deriving DecidableEq, Repr

/-- The segment a queue is executing (R449). -/
structure Segment where
  addr : Nat
  count : Nat
  index : Nat
deriving DecidableEq, Repr

/-- Latest FORECAST of a queue (R467, R536): draw in W, start and duration in ns of device time. -/
structure Forecast where
  draw : Nat
  start : Nat
  duration : Nat
deriving DecidableEq, Repr

/-- A command that has issued and not completed: its number, and where it lies. -/
structure Flight where
  id : Nat
  head : Word
  seg : Option Segment
deriving DecidableEq, Repr

/-- One queue: the registers of the SEQ or DEVQUEUE page and what the sequencer holds. -/
structure QState where
  ringBase : BitVec 48
  ringSize : Nat
  head : Word
  tail : Word
  seg : Option Segment
  stopped : Bool            -- STOPPING or STOPPED (R472)
  heldStep : Nat            -- step of R459 that holds the oldest command
  stopCode : BitVec 16
  stopEnded : Bool
  stopHead : Word
  stopIndex : BitVec 16
  stopRequest : Bool
  issued : Word
  skipped : Word
  refused : Word
  stops : Word
  nextId : Nat              -- number of the next command to issue or to run ahead
  flight : List Flight      -- issued commands that have not completed, oldest first
  passed : List Nat         -- run-ahead commands already started, counted from the oldest unissued command
  woken : Bool              -- device queue: the wake of R455 has arrived
  waitTally : Nat           -- TALLY.WAIT_q
  waitValid : Bool
  threshold : Word
  forecast : Option Forecast
deriving DecidableEq, Repr

def QState.reset : QState :=
  { ringBase := 0, ringSize := 0, head := 0, tail := 0, seg := none, stopped := false, heldStep := 0,
    stopCode := 0, stopEnded := false, stopHead := 0, stopIndex := 0, stopRequest := false, issued := 0, skipped := 0,
    refused := 0, stops := 0, nextId := 0, flight := [], passed := [], woken := false, waitTally := 0, waitValid := false,
    threshold := 0, forecast := none }

/-! ### Frames -/

/-- State of a plane (R57). -/
inductive PlaneState where
  | empty | loading | loaded | poisoned
deriving DecidableEq, Repr

/-- A weight plane with what its load captured (R44 to R57, R110, R735). -/
structure Plane where
  st : PlaneState
  format : BitVec 3
  image : List Host.Cell       -- R48: byte offsets 0 to 16,383
  check : NMap (BitVec 4)      -- check lane of each row
  laneSum : NMap Int           -- lane-sum register of each lane, 17-bit signed
  c1 : List Byte               -- codebook entries, signed 8-bit
  c2 : List Byte
  pad : Byte
  rowsIn : Nat                 -- rows already written by the load in progress
  bad : Bool                   -- an uncorrectable word has arrived (R53)
deriving DecidableEq, Repr

def Plane.reset : Plane :=
  { st := .empty, format := 0, image := [], check := [], laneSum := [], c1 := [], c2 := [], pad := 0, rowsIn := 0,
    bad := false }

/-- A frame: two planes, which one is active, the pending mode (R111), the bead registers (R87). -/
structure Frame where
  p0 : Plane
  p1 : Plane
  active1 : Bool               -- plane 1 is the active plane
  swapPending : Bool           -- an issued PLANE_SWAP has not happened (R52, R60)
  pendFormat : BitVec 3
  pendPad : Byte
  pendC1 : List Byte
  pendC2 : List Byte
  beads : NMap Int             -- 21-bit signed
deriving DecidableEq, Repr

def Frame.reset : Frame :=
  { p0 := .reset, p1 := .reset, active1 := false, swapPending := false, pendFormat := 2, pendPad := 0, pendC1 := [],
    pendC2 := [], beads := [] }

/-- A stream that a run takes: who publishes it, where its vectors lie (R66, R463), the zero point that stands in for
channels past its extent, one for all vectors or, in a dynamic pass, one for each (R358), and the member's buffer of
slices that the feed has read and some gang of the member has not taken yet (R74). -/
structure StreamSrc where
  stream : Nat
  q : Nat                      -- queue of the run that publishes it
  addr : Nat
  stride : Nat
  extent : Nat
  zp : Nat
  zpv : Option (List Nat)
  fed : Nat                    -- slices that the feed has read, counted over all vectors
  buf : List (Nat × List Byte) -- their numbers and bytes, oldest first
deriving DecidableEq, Repr

/-- A frame run that has started: alone, or joined (R70). -/
structure Run where
  job : Job
  leadQ : Nat                  -- queue and number of the first member's run: equal in all members of a joined run
  leadId : Nat
  ns : Nat                     -- slices per vector at the executed width (R84)
  fmt : Nat                    -- format of its planes
  streams : List StreamSrc
  next : NMap Nat              -- next promotion group of each gang
deriving DecidableEq, Repr

/-- A PLANE_SWAP whose named frames have not all swapped (R60, R465). -/
structure SwapJob where
  job : Job
  waiting : List Nat
deriving DecidableEq, Repr

structure FramesRegs where
  checkEn : Bool
  mismatches : Word
  loadCorrected : Word
  dbgSel : Word
  slices : DWord
deriving DecidableEq, Repr

def FramesRegs.reset : FramesRegs :=
  { checkEn := true, mismatches := 0, loadCorrected := 0, dbgSel := 0, slices := 0 }

/-! ### Ledger -/

/-- A ledger command at the port (R160); `done` once its tiles have been moved or cleared. -/
structure LedgerJob where
  job : Job
  done : Bool
deriving DecidableEq, Repr

structure LedgerWin where
  base : BitVec 6
  count : BitVec 7
deriving DecidableEq, Repr

structure Ledger where
  entries : NMap Int           -- key (tile * 9 + row) * 128 + lane; row 8 is the lane-sum row (R133)
  sat : NMap Bool
  poison : NMap Bool
  cond : NMap WordCond         -- key (tile * 9 + row) * 24 + code word (R136)
  port : List LedgerJob
  win0 : LedgerWin
  win1 : LedgerWin
  win2 : LedgerWin
  win3 : LedgerWin
  dbgStale : DWord
  clamps : Word
  corrected : Word
  orderStalls : Word
  windowStops : Word
  addressWritesDropped : Word
deriving DecidableEq, Repr

def Ledger.reset : Ledger :=
  { entries := [], sat := [], poison := [], cond := [], port := [], win0 := ⟨0, 64⟩, win1 := ⟨0, 0⟩, win2 := ⟨0, 0⟩,
    win3 := ⟨0, 0⟩, dbgStale := 0, clamps := 0, corrected := 0, orderStalls := 0, windowStops := 0,
    addressWritesDropped := 0 }

/-! ### Quantise unit -/

/-- State of a tensor slot (R187). -/
inductive SlotState where
  | idle | pending | settled
deriving DecidableEq, Repr

/-- A scale record (R188). -/
structure ScaleRec where
  sign : BitVec 256
  lo : Word
  hi : Word
  seed : DWord
  clip : BitVec 16
  decay : BitVec 5
  update : Bool
  valid : Bool
deriving DecidableEq, Repr

def ScaleRec.reset : ScaleRec :=
  { sign := 0, lo := 0, hi := 0, seed := 0, clip := 0, decay := 0, update := false, valid := false }

/-- Statistics of a pass (R197, R736). -/
structure Stats where
  elements : Word
  pmin : Word
  pmax : Word
  clipped : Word
  nonfinite : Word
  minCode : BitVec 16
  maxCode : BitVec 16
  sse : DWord
  signal : DWord
deriving DecidableEq, Repr

/-- A member without a finite element (R736). -/
def Stats.empty : Stats :=
  { elements := 0, pmin := 0x7F800000, pmax := 0xFF800000, clipped := 0, nonfinite := 0, minCode := 0xFFFF, maxCode := 0,
    sse := 0, signal := 0 }

def Stats.reset : Stats :=
  { elements := 0, pmin := 0, pmax := 0, clipped := 0, nonfinite := 0, minCode := 0, maxCode := 0, sse := 0, signal := 0 }

structure Slot where
  record : ScaleRec
  st : SlotState
  tag : BitVec 24
  q : Nat
  dynamic : Bool
  stochastic : Bool
  base : Nat                   -- base width code: 0 A2, 1 A4, 2 A8
  widest : Nat
  cmds : List Job              -- QUANTISE commands of the pass, in order
  stats : Stats                -- the member's own; the combined ones once the pass has settled (R223)
  joint : Stats                -- combined at the exchange, for the settling
  settledWidth : Nat
  scale : Word
  zp : BitVec 16
  verdict : Byte               -- R223 byte 6
  vscale : List Word           -- dynamic pass: scale of each vector once exchanged
  vzp : List Nat
deriving DecidableEq, Repr

def Slot.reset : Slot :=
  { record := .reset, st := .idle, tag := 0, q := 0, dynamic := false, stochastic := false, base := 0, widest := 0,
    cmds := [], stats := .reset, joint := .reset, settledWidth := 0, scale := 0, zp := 0, verdict := 0, vscale := [], vzp := [] }

inductive QuantKind where
  | quantise | scaleLoad | statsRead
deriving DecidableEq, Repr

/-- A command of the quantise unit (R192) that has been served; phase 2: a `LAST` whose exchange is done. -/
structure QuantJob where
  job : Job
  kind : QuantKind
  phase : Nat
deriving DecidableEq, Repr

structure Quant where
  scale : NMap Word            -- scale registers; unlisted 1.0 (R179)
  slots : NMap Slot
  unit : List QuantJob
  vmin : NMap Word             -- per-vector ranges of the dynamic pass in progress (R215); unlisted +inf
  vmax : NMap Word             -- unlisted -inf
  zeros : List Nat             -- per-vector zero points of the latest settled dynamic pass (R358)
  zerosId : Word               -- verdict tensor id of that pass
  exchangeTimeout : BitVec 24
  eventEn : BitVec 6
  passes : Word
  widened : Word
  rescaled : Word
  clipOver : Word
  underuse : Word
  flatPos : Word
  flatNeg : Word
  flatZero : Word
  nonfinite : Word
  rerunClips : Word
  exchangeTimeouts : Word
  rerunCycles : DWord
  dbgIndex : BitVec 13
  dbgSlot : Byte
deriving DecidableEq, Repr

def Quant.reset : Quant :=
  { scale := [], slots := [], unit := [], vmin := [], vmax := [], zeros := [], zerosId := 0, exchangeTimeout := 0x100000,
    eventEn := 0x3F, passes := 0, widened := 0, rescaled := 0, clipOver := 0, underuse := 0, flatPos := 0, flatNeg := 0,
    flatZero := 0, nonfinite := 0, rerunClips := 0, exchangeTimeouts := 0, rerunCycles := 0, dbgIndex := 0, dbgSlot := 0 }

/-! ### Vector unit -/

inductive VecKind where
  | vector | collect | finish
deriving DecidableEq, Repr

structure VecJob where
  job : Job
  kind : VecKind
  joining : Bool               -- a finish that waits at its join (R295)
  fills : List Nat             -- slots that it writes
deriving DecidableEq, Repr

/-- A candidate (R293): logit and vocabulary index. -/
structure Cand where
  logit : Word
  index : Nat
deriving DecidableEq, Repr

structure Vec where
  unit : List VecJob
  rows : BitVec 10
  k : BitVec 9
  cands : NMap (List Cand)     -- best first, per row
  marked : NMap Bool           -- rows with non-finite logits seen (R294)
  joinTimeout : BitVec 24
  commands : Word
  nonfinite : Word
  convertSat : Word
  samples : Word
  sampleEmpty : Word
  draws : DWord
  mismatches : Word
  collectNonfinite : Word      -- cases that collects count (R294); no register shows it
deriving DecidableEq, Repr

def Vec.reset : Vec :=
  { unit := [], rows := 0, k := 0, cands := [], marked := [], joinTimeout := 0x100000, commands := 0, nonfinite := 0,
    convertSat := 0, samples := 0, sampleEmpty := 0, draws := 0, mismatches := 0,
    collectNonfinite := 0 }

/-! ### Scratchpad, tallies, DMA -/

/-- A range-scoreboard entry (R327). -/
structure SbEntry where
  id : Nat                     -- the job that holds it
  q : Nat
  lo : Nat
  hi : Nat
  write : Bool
deriving DecidableEq, Repr

structure Scratch where
  mem : List Host.Cell         -- byte offsets 0 to 0x1F_FFFF
  cond : NMap WordCond         -- key: word a[20:5]
  writeback : List Nat         -- corrected words queued for write-back (R315)
  tags : NMap Bool             -- slot tags; unlisted empty
  discipline : Bool            -- in force: 0 slot tags, 1 range scoreboard
  pendingMode : Option Bool    -- written and not yet in effect (R317)
  sb : List SbEntry
  guardTimeout : BitVec 24
  corrected : Word
  uncorrectable : Word
  writebackDropped : Word
  wideWait : DWord
  narrowWait : DWord
  guardWait : DWord
  guardTimeouts : Word
  inboundBytes : DWord
  sbSel : Word
  dmaBytes : DWord
  dmaKvRows : Word
  raStarted : Word
  raCancelled : Word
  gatherSkipped : Word
deriving DecidableEq, Repr

def Scratch.reset : Scratch :=
  { mem := [], cond := [], writeback := [], tags := [], discipline := false, pendingMode := none, sb := [],
    guardTimeout := 0x100000, corrected := 0, uncorrectable := 0, writebackDropped := 0, wideWait := 0, narrowWait := 0,
    guardWait := 0, guardTimeouts := 0, inboundBytes := 0, sbSel := 0, dmaBytes := 0, dmaKvRows := 0, raStarted := 0,
    raCancelled := 0, gatherSkipped := 0 }

structure TallySt where
  value : NMap Word
  signalsLocal : Word
  signalsIn : Word
  signalsOut : Word
  dropped : Word
  saturations : Word
  waitCycles : DWord
deriving DecidableEq, Repr

def TallySt.reset : TallySt :=
  { value := [], signalsLocal := 0, signalsIn := 0, signalsOut := 0, dropped := 0, saturations := 0, waitCycles := 0 }

/-- What the engine keeps between the turns of a command: the context of a KV write's entry, its length L and the rows that are
left of a list's entry, as (source, destination) (R370, R371); the address of a stash record and the verdict record that it keeps
(R439). -/
structure DmaSpot where
  ctx : Nat
  len : Nat
  rows : List (Nat × Nat)
  at_ : Nat
  kept : List Byte
deriving DecidableEq, Repr

/-- A CTX_COMMIT in progress, with the list entries that it has done. -/
structure CommitJob where
  job : Job
  pos : Nat
deriving DecidableEq, Repr

/-- A command in the DMA engine (R366, R440). `done`: its data has been moved. -/
structure DmaJob where
  job : Job
  ra : RunAhead
  done : Bool
  pos : Nat                    -- turns already taken: rows, beats, list entries
  off : Nat                    -- bytes of the present row that have been moved
  seen : List (Nat × Nat)      -- slots that the command has reached, as (logical core, slot)
  wrote : List (Nat × Nat)     -- slots that it has written
  olds : List (Nat × Nat × NMap Byte) -- ranges that it has written: address, length and the bytes that stood there (R368)
  spot : Option DmaSpot
deriving DecidableEq, Repr

/-- A RAIL_TAKE that has started, by its issue or ahead of it (R384 to R388). -/
structure Take where
  job : Job
  ra : RunAhead
  gen : Nat                    -- the launch that opened the stream it takes (`RailStream.gen`)
  targets : List (Nat × Bool)  -- its target planes: frame, and whether plane 1
  planesLeft : List Nat        -- frames whose plane is not complete
  scalesLeft : List Nat        -- scale blocks not yet written
  scalePoison : Bool           -- R383
deriving DecidableEq, Repr

/-- Standing of a core under fencing (R571, R575). -/
inductive FenceSt where
  | inService | fencing | fenced | unfencing
deriving DecidableEq, Repr

/-- A physical core. -/
structure Core where
  fence : FenceSt
  cause : BitVec 16
  quiesce : Bool
  queues : NMap QState         -- 0 to 3
  frames : NMap Frame          -- 0 to 15
  runs : List Run
  swaps : List SwapJob
  fr : FramesRegs
  ledger : Ledger
  quant : Quant
  vec : Vec
  scr : Scratch
  tally : TallySt
  dma : List DmaJob
  takes : List Take
  commits : List CommitJob     -- CTX_COMMIT in progress (R427)
  stretched : Bool             -- droop stretch active (R526)
  clamped : Bool               -- droop clamp active
  fallback : Bool              -- R512
  fallbackSeen : Bool          -- OP_POINT_FALLBACK raised since reset
  droopAt : Option Nat         -- device time of the latest DROOP_STRETCH event (R530)
  cycles : DWord
deriving DecidableEq, Repr

def Core.reset : Core :=
  { fence := .inService, cause := 0, quiesce := false, queues := [], frames := [], runs := [], swaps := [],
    fr := .reset, ledger := .reset, quant := .reset, vec := .reset, scr := .reset, tally := .reset, dma := [], takes := [],
    commits := [], stretched := false, clamped := false, fallback := false, fallbackSeen := false, droopAt := none,
    cycles := 0 }

/-! ### Contexts -/

inductive CtxState where
  | closed | opened | closing
deriving DecidableEq, Repr

/-- A context descriptor (R416). -/
structure Ctx where
  st : CtxState
  home : BitVec 5
  conn : BitVec 16
  kvBase : BitVec 48
  kvPages : Word
  capacity : Word
  written : Word
  committed : Word
  position : Word
  philox : DWord
  draws : DWord
  energy : DWord
  generation : Word
deriving DecidableEq, Repr

def Ctx.reset : Ctx :=
  { st := .closed, home := 0, conn := 0, kvBase := 0, kvPages := 0, capacity := 0, written := 0, committed := 0,
    position := 0, philox := 0, draws := 0, energy := 0, generation := 0 }

/-! ### Clusters, regions, dies -/

/-- What one effect of a stream command gave it: bytes that it read, a descriptor, or nothing. -/
inductive StreamStep where
  | data (bytes : NMap Byte)
  | descriptor (ctx : Ctx)
  | done
deriving DecidableEq, Repr

/-- A stream command that the engine has accepted, with the KV geometry entry it read (R264, R275), and how far it has come: its
effects so far, in order, so that a command which waits at a slot goes on from there (R321). -/
structure StreamJob where
  job : Job
  core : Nat                   -- logical core that issued it
  layerStride : Word
  headStride : Word
  past : List StreamStep
  seen : List (Nat × Nat)      -- slots that it has reached, as (logical core, slot)
  wrote : List (Nat × Nat)     -- slots that it has written
  puts : List (Nat × Nat)      -- ranges of other cores that it has written: address and length (R345)
  said : List (BitVec 16)      -- noted events already raised (R273)
  idx : Nat                    -- context-list index or row block (R274)
  holds : Option Nat           -- context held from its descriptor's read to its last KV read (R256)
  done : Bool                  -- every output is written; completion and signal are due
deriving DecidableEq, Repr

/-- A command as the engine accepts it. -/
def StreamJob.accept (j : Job) (core : Nat) (layer head : Word) : StreamJob :=
  { job := j, core := core, layerStride := layer, headStride := head, past := [], seen := [], wrote := [], puts := [], said := [], idx := 0
    holds := none, done := false }

structure KvGeo where
  layerStride : Word
  headStride : Word
deriving DecidableEq, Repr

def KvGeo.reset : KvGeo := ⟨0, 0⟩

structure Cluster where
  held : List StreamJob
  geo : NMap KvGeo             -- 0 to 3
  fenced : Bool                -- the stream engine is fenced
  checkEn : Bool
  mac : DWord
  kvBytes : DWord
  truncated : Word
  saturated : Word
  nonfinite : Word
  mismatches : Word
  commands : Word
  contextStops : Word
  joinTimeout : BitVec 24      -- SLICEBUS.JOIN_TIMEOUT
  joinTimeouts : Word
  bufferFull : DWord
  busCycles : DWord            -- CLUSTEL
deriving DecidableEq, Repr

def Cluster.reset : Cluster :=
  { held := [], geo := [], fenced := false, checkEn := true, mac := 0, kvBytes := 0, truncated := 0, saturated := 0,
    nonfinite := 0, mismatches := 0, commands := 0, contextStops := 0, joinTimeout := 0x100000, joinTimeouts := 0,
    bufferFull := 0, busCycles := 0 }

/-- Counters of one memory controller (a Tier 1 stack or a Tier 2 channel). -/
structure Ctl where
  corrected : Word
  uncorrectable : Word
  retired : Word
  sparesUsed : Nat             -- spare memory pages taken since manufacture (R410, R412)
  exhausted : Bool             -- TIER_SPARES_EXHAUSTED raised since reset (R411)
  lastRetired : BitVec 24
  failing : List Nat           -- memory pages (chpage) that wait for retirement
  patrol : Nat                 -- next memory page of the patrol
  checks : List Nat            -- check lines held by a Tier 2 channel's cache (R407)
deriving DecidableEq, Repr

def Ctl.reset : Ctl :=
  { corrected := 0, uncorrectable := 0, retired := 0, sparesUsed := 0, exhausted := false, lastRetired := 0, failing := [],
    patrol := 0, checks := [] }

/-- What a step of a region's operating point waits for (R511): the voltage, or the switch of the dividers. A step up takes the
voltage first, a step down the dividers. -/
inductive StepStage where
  | voltage | dividers
deriving DecidableEq, Repr

/-- A step of a region's operating point in progress (R511, R528). -/
structure PointStep where
  up : Bool
  stage : StepStage
  frozen : Bool
deriving DecidableEq, Repr

structure Region where
  fenced : Bool
  t1Scrub : BitVec 24
  t1Read : DWord
  t1Write : DWord
  t2Scrub : BitVec 24
  t2Read : DWord
  t2Write : DWord
  t2LastChannel : BitVec 2
  t2LastPage : BitVec 24
  checkMisses : Word
  rootBytes : DWord            -- RAIL.ROOT_BYTES
  poisonedWords : Word
  fabCorrected : Word          -- REGFAB
  sensorSel : BitVec 5         -- REGTHERM
  sensors : NMap (BitVec 16)   -- readings, 1/16 degree
  sensorFault : NMap Bool
  faultSeen : NMap Bool        -- THERMAL_SENSOR_FAULT raised since reset (R542)
  zone : BitVec 16
  hot : Nat                    -- sensor that the zone temperature came from
  ceiling : Nat
  atLimit : Bool               -- R540
  railMv : Nat                 -- voltage that the power manager has set on the region's core rail, in mV (R509, R686)
  filler : Bool                -- filler activity runs in the region
  fillerRan : Bool             -- it has run in the present period (R550)
  point : Nat
  target : Nat                 -- the point that the power manager calls for
  step : Option PointStep
  upHold : Bool                -- a droop holds back steps up (R528)
  holdHigh : Nat               -- consecutive periods with k = 16 (R517)
  holdLow : Nat                -- consecutive periods with k at most 12 (R518)
deriving DecidableEq, Repr

def Region.reset : Region :=
  { fenced := false, t1Scrub := 0x15180, t1Read := 0, t1Write := 0, t2Scrub := 0x15180, t2Read := 0, t2Write := 0,
    t2LastChannel := 0, t2LastPage := 0, checkMisses := 0, rootBytes := 0, poisonedWords := 0,
    fabCorrected := 0, sensorSel := 0, sensors := [], sensorFault := [], faultSeen := [], zone := 0, hot := 0, ceiling := 7,
    atLimit := false, railMv := 640, filler := false, fillerRan := false, point := 0, target := 0, step := none, upHold := false,
    holdHigh := 0, holdLow := 0 }

/-- An event record (R724) waiting for connection 0. -/
structure EventRec where
  code : BitVec 16
  severity : Nat
  injected : Bool
  first : Bool
  freeRunning : Bool
  source : Word
  time : DWord
  info : Word
  extra : Word
  seq : Word
deriving DecidableEq, Repr

structure Die where
  events : List EventRec       -- oldest first (R642)
  evSeq : Word
  bridgeUp : Bool
  replays : Word
  bridgeTx : DWord
  pllLocked : Bool
  refPresent : Bool
  domainSel : BitVec 7
  unlocks : Word
  fuseOk : Bool
  fuseCorrected : Word
  fmaxSel : BitVec 7
  fabCorrected : Word
  fabRequests : DWord
  latencyMax : BitVec 16
  imageRunning : Bool
  heartbeat : Word
  memCorrected : Word
  badAccess : Word
  channelsGood : Byte
  badBlocks : Word
  tap : TapIns                 -- instruction in the TAP's instruction register (R700)
  boundary : List Bool         -- boundary register, nearest `TDO` first (R700)
deriving DecidableEq, Repr

def Die.reset : Die :=
  { events := [], evSeq := 0, bridgeUp := false, replays := 0, bridgeTx := 0, pllLocked := false, refPresent := false,
    domainSel := 0, unlocks := 0, fuseOk := false, fuseCorrected := 0, fmaxSel := 0, fabCorrected := 0, fabRequests := 0,
    latencyMax := 0, imageRunning := false, heartbeat := 0, memCorrected := 0, badAccess := 0, channelsGood := 0,
    badBlocks := 0, tap := .idcode, boundary := [] }

/-! ### Rail -/

structure RailStream where
  isOpen : Bool
  tag : BitVec 16
  interleave : Nat
  scaleBlocks : Nat
  images : Nat
  position : Nat
  source : Nat
  q : Nat                      -- launching queue
  id : Nat                     -- the launching command's number in it
  signals : Bool               -- the launching command still performs its signal (R572)
  cmd : Entry
  takers : List Nat            -- logical cores, ascending
  gen : Nat                    -- number of the launch that opened it
deriving DecidableEq, Repr

def RailStream.reset : RailStream :=
  { isOpen := false, tag := 0, interleave := 0, scaleBlocks := 0, images := 0, position := 0, source := 0, q := 0, id := 0,
    signals := true, cmd := 0, takers := [], gen := 0 }

structure Rail where
  streams : NMap RailStream    -- 0 to 7
  launches : Nat               -- launches so far
  stallTimeout : BitVec 24
  stallCycles : DWord
  stallTimeouts : Word
  takersDropped : Word
  dbgStream : BitVec 3         -- selection of TAKERS_n, one for the device (R396)
deriving DecidableEq, Repr

def Rail.reset : Rail :=
  { streams := [], launches := 0, stallTimeout := 0x100000, stallCycles := 0, stallTimeouts := 0, takersDropped := 0,
    dbgStream := 0 }

/-! ### Closes -/

/-- A CTX_CLOSE in progress (R429): `zeroing` from step 3 on. -/
structure Close where
  ctx : Nat
  region : Nat
  job : Job
  record : Option Nat
  signals : Bool               -- its queue has not stopped over it
  zeroing : Bool
deriving DecidableEq, Repr

/-! ### Power and energy -/

/-- Which stop under R543 or R544 holds the device. -/
inductive StopCause where
  | none | coolant | leak | trip
deriving DecidableEq, Repr

structure Supply where        -- a supply rail (R689)
  mv : BitVec 16
  ma : Word
  missed : Bool               -- rated current in use (R504)
  sum : Nat                   -- samples of the present period: their sum in microwatts, and how many
  samples : Nat
deriving DecidableEq, Repr

def Supply.reset : Supply := ⟨0, 0, false, 0, 0⟩

structure Power where
  cap : BitVec 12
  rampUp : BitVec 11
  rampDown : BitVec 11
  uniform : Bool
  fillerEn : Bool
  forecastEn : Bool
  measured : BitVec 12
  budget : BitVec 12
  issue : Nat
  memory : Nat
  unattainable : Bool
  attainableFor : Nat          -- consecutive periods with the floor within budget (R522)
  throttle : Bool
  rampHold : Bool
  fillerActive : Bool
  fillerNext : Bool            -- filler activity runs in the present period
  fillerMw : Nat               -- its amount: the draw that it adds, in mW (R533)
  fillerKey : Nat              -- index of the free choice of the frames that run filler passes
  rampMissed : Bool            -- inside the condition of R534
  departed : Bool
  stop : StopCause
  tripped : Bool               -- a trip comparator has fired since the last restart (R543)
  restartReady : Bool
  peak : BitVec 12
  railSel : BitVec 6
  supplies : NMap Supply
  unattainablePeriods : Word
  fillerPeriods : Word
  droopEvents : Word
  telemetryLost : Word
deriving DecidableEq, Repr

def Power.reset : Power :=
  { cap := 2200, rampUp := 250, rampDown := 250, uniform := true, fillerEn := true, forecastEn := true, measured := 0,
    budget := 0, issue := 16, memory := 16, unattainable := false, attainableFor := 0, throttle := false, rampHold := false,
    fillerActive := false, fillerNext := false, fillerMw := 0, fillerKey := 0, rampMissed := false, departed := false,
    stop := .none, tripped := false, restartReady := false, peak := 0, railSel := 0, supplies := [],
    unattainablePeriods := 0, fillerPeriods := 0, droopEvents := 0, telemetryLost := 0 }

structure Thermal where
  throttleAt : Byte
  max : BitVec 16
  maxZone : BitVec 3
  throttlePeriods : Word
  limitPeriods : Word
  trips : Word
deriving DecidableEq, Repr

def Thermal.reset : Thermal :=
  { throttleAt := 95, max := 0, maxZone := 0, throttlePeriods := 0, limitPeriods := 0, trips := 0 }

/-- Work on a context in the present period: the command that did it, and its share of that command (R553). -/
structure Charge where
  q : Nat
  id : Nat
  ctx : Nat
  weight : Nat
deriving DecidableEq, Repr

structure Energy where        -- whole microjoules, and the fractions that R551 carries beside them
  total : DWord
  unattributed : DWord
  filler : DWord
  partition : NMap DWord
  queue : NMap DWord
  fracs : NMap Nat             -- picojoules below one microjoule, by counter (`fracKey`)
  charges : List Charge
  cmdWork : NMap Nat           -- the same activity of single commands that name contexts, by command and kind (R553)
  work : NMap Nat              -- activity of the present period, by queue and kind (R549)
  partMap : BitVec 24
  mapNow : BitVec 24           -- the map of the present period (R552)
  qsel : BitVec 10
  calFactor : Word
deriving DecidableEq, Repr

def Energy.reset : Energy :=
  { total := 0, unattributed := 0, filler := 0, partition := [], queue := [], fracs := [], charges := [], cmdWork := [], work := [],
    partMap := 0, mapNow := 0, qsel := 0, calFactor := 0x3F800000 }

/-! ### Errors -/

/-- The writable or stored part of a page's common header (R713). -/
structure PageHdr where
  code : BitVec 16
  info : Word
  time : DWord
  count : Word
  worst : Nat                  -- highest severity since the record was written (R561)
  inject : Word
  route : Word
  lock : Bool
deriving DecidableEq, Repr

def PageHdr.reset : PageHdr :=
  { code := 0, info := 0, time := 0, count := 0, worst := 0, inject := 0, route := 1, lock := false }

structure LogEntry where
  code : BitVec 16
  severity : Nat
  injected : Bool
  source : Word
  info : Word
  time : DWord
deriving DecidableEq, Repr

structure ErrAgg where
  log : List LogEntry          -- newest first, at most 16 (R567)
  logLost : Word
  worst : Nat
  deviceStopped : Bool
  stopCode : BitVec 16
  logSel : BitVec 4
  injectEn : Bool
  fences : Word
deriving DecidableEq, Repr

def ErrAgg.reset : ErrAgg :=
  { log := [], logLost := 0, worst := 0, deviceStopped := false, stopCode := 0, logSel := 0, injectEn := false, fences := 0 }

structure Spare where
  logical : Option Nat         -- mapped, serving or starting for this logical core
  starting : Bool
deriving DecidableEq, Repr

def Spare.reset : Spare := ⟨none, false⟩

structure Remap where
  spares : NMap Spare
  map : NMap (Option Nat)      -- logical core to its spare (none: its own physical core)
  remaps : Word
deriving DecidableEq, Repr

def Remap.reset : Remap := { spares := [], map := [], remaps := 0 }

/-! ### Snapshots and flash -/

inductive SnapPhase where
  | idle | quiescing | copying | restoring
deriving DecidableEq, Repr

structure FlashSlot where
  complete : Bool
  sequence : Word
  length : Nat
  image : List Host.Cell
  lost : NMap WordCond         -- by 32 B word: an uncorrectable word of the copied state (R414)
deriving DecidableEq, Repr

def FlashSlot.reset : FlashSlot := ⟨false, 0, 0, [], []⟩

structure Snap where
  stagingBase : BitVec 48
  stagingSize : BitVec 10
  holdBase : BitVec 48
  holdSize : BitVec 10
  partnerConn : BitVec 12
  partnerEn : Bool
  acceptCorrelated : Bool
  partnerState : Nat           -- 0 none, 1 pairing, 2 paired, 3 refused
  correlated : Bool
  partnerFeed : BitVec 4
  partnerIndex : BitVec 16
  partnerHold : Nat
  netRate : BitVec 6
  phase : SnapPhase
  job : Job                    -- the SNAPSHOT or RESTORE in progress
  start : Nat                  -- device time at issue, ns
  endTime : DWord              -- device time at the end of the quiesce
  flashDraining : Bool
  partnerDraining : Bool
  drainPos : Nat               -- next chunk of the image to send to the partner
  headerMsg : Option Word      -- the message that carries the header chunk, once sent
  drainFailed : Bool
  stagingValid : Bool
  holdValid : Bool
  holdFilling : Bool           -- chunks of a partner image arrive, the header is still to come
  sequence : Word
  partnerSequence : Word
  holdSequence : Word
  lastStop : DWord
  imageBytes : DWord
  snapshots : Word
  restores : Word
  skews : Word
  wearWarned : Bool
deriving DecidableEq, Repr

def Snap.reset : Snap :=
  { stagingBase := 0, stagingSize := 0, holdBase := 0, holdSize := 0, partnerConn := 0, partnerEn := false,
    acceptCorrelated := false, partnerState := 0, correlated := false, partnerFeed := 0, partnerIndex := 0,
    partnerHold := 0, netRate := 60, phase := .idle, job := ⟨0, 0, 0⟩, start := 0, endTime := 0, flashDraining := false,
    partnerDraining := false, drainPos := 0, headerMsg := none, drainFailed := false, stagingValid := false,
    holdValid := false, holdFilling := false, sequence := 0, partnerSequence := 0, holdSequence := 0, lastStop := 0,
    imageBytes := 0, snapshots := 0, restores := 0, skews := 0,
    wearWarned := false }

/-- What local flash holds outside the registers (R412, R602, R613, R670). -/
structure Flash where
  slot0 : FlashSlot
  slot1 : FlashSlot
  writtenGib : Word
  wear : BitVec 10
  retired : NMap (List Nat)    -- retirement lists: the memory pages that spares serve, by controller (R412)
  lmsEpoch : Option Nat        -- index record: the epoch it names (none: lost)
  lmsNext : Nat
deriving DecidableEq, Repr

/-! ### Network -/

structure Neighbour where
  ip : BitVec 128
  mac : BitVec 48
  at_ : Nat                    -- device time at which it was learnt, ns
deriving DecidableEq, Repr

structure Port where
  enable : Bool
  linkUp : Bool
  cr1 : Bool
  training : Bool
  vid : BitVec 12
  acceptUntagged : Bool
  ipv4 : Word
  ipv4Prefix : BitVec 6
  ipv6 : BitVec 128
  ipv6Prefix : Byte
  fecLimit : Word
  fecAt : Option Nat           -- device time of the latest FEC_DEGRADED (R620)
  txUntil : Nat                -- device time at which its transmit queue is empty, ns (R646)
  fecCorrected : Word
  fecUncorrected : Word
  rxFrames : DWord
  txFrames : DWord
  rxDropped : Word
  strangers : Word
  strangerAt : Option Nat      -- device time of the latest STRANGER_DROPPED
  linkDowns : Word
  neighbours : List Neighbour
deriving DecidableEq, Repr

def Port.reset : Port :=
  { enable := true, linkUp := false, cr1 := false, training := false, vid := 0, acceptUntagged := false, ipv4 := 0,
    ipv4Prefix := 0, ipv6 := 0, ipv6Prefix := 0, fecLimit := 0x10000, fecAt := none, txUntil := 0, fecCorrected := 0,
    fecUncorrected := 0, rxFrames := 0,
    txFrames := 0, rxDropped := 0, strangers := 0, strangerAt := none, linkDowns := 0, neighbours := [] }

inductive ConnState where
  | closed | keyed | opened | lost
deriving DecidableEq, Repr

/-- A message as it travels: its number, its type (R640) and its bytes (R638). -/
structure Msg where
  number : Word
  type : Byte
  bytes : List Byte
deriving DecidableEq, Repr

/-- A message that a packet has brought, and the die of the port that received it (R616). -/
structure RxMsg where
  number : Word
  type : Byte
  bytes : List Byte
  die : Nat
deriving DecidableEq, Repr

/-- A sent packet that has not been acknowledged. -/
structure Sent where
  packet : Nat
  msg : Option Msg
  at_ : Nat                    -- device time, ns
  planeB : Bool
  probe : Bool                 -- a probe of a down plane (R646)
deriving DecidableEq, Repr

/-- The fields of a connection that software writes (R649). -/
structure ConnCfg where
  peerA : BitVec 128
  peerB : BitVec 128
  port : BitVec 16
  regEn : Bool
  dscp : BitVec 6
  pcp : BitVec 3
deriving DecidableEq, Repr

def ConnCfg.reset : ConnCfg := ⟨0, 0, 47712, false, 0, 0⟩

structure Conn where
  st : ConnState
  cfg : ConnCfg                -- in force
  staged : ConnCfg             -- written, taken at the next OPEN
  generation : Word
  keyOut : BitVec 256          -- module to peer
  keyIn : BitVec 256
  nextPacket : Nat
  rxBelow : Nat                -- every packet number below it has been received
  rxAbove : List Nat           -- received packet numbers above it, ascending
  nextMsg : Word
  rxMsg : Word                 -- next message number to apply
  early : List RxMsg           -- messages held for order (R636)
  rxDie : Option Nat           -- die that received the message applied last; none where no packet brought it
  unsent : List Msg
  unacked : List Sent
  ackDue : Nat                 -- packets received and not yet acknowledged
  peerAcked : Nat              -- packet numbers below it are acknowledged by the peer
  heardAt : Nat                -- device time of the peer's latest acknowledgement
  echo : Bool                  -- CE seen, CWR not yet
  sendCwr : Bool
  srtt : Nat                   -- ns
  srttA : Nat                  -- the same of each plane; 0 before its first sample (R646)
  srttB : Nat
  sentA : Nat                  -- packets sent on each plane in the present round trip
  sentB : Nat
  rttvar : Nat
  rto : Nat
  cwnd : Nat
  alpha : Nat                  -- in 1/2^16
  ackedBytes : Nat
  echoedBytes : Nat
  roundEnd : Nat               -- packet number that ends the present round trip
  cutAt : Nat                  -- no further cut before this packet number is acknowledged
  window : Nat                 -- peer's window
  rxAt : Nat                   -- device time at which the newest packet arrived, ns
  maxAcked : Option Nat        -- highest packet number that the peer has acknowledged
  retransmits : Word
deriving DecidableEq, Repr

def Conn.reset : Conn :=
  { st := .closed, cfg := .reset, staged := .reset, generation := 0, keyOut := 0, keyIn := 0, nextPacket := 0, rxBelow := 0,
    rxAbove := [], nextMsg := 0, rxMsg := 0, early := [], rxDie := none, unsent := [], unacked := [], ackDue := 0, peerAcked := 0,
    heardAt := 0, echo := false, sendCwr := false, srtt := 0, srttA := 0, srttB := 0, sentA := 0, sentB := 0, rttvar := 0,
    rto := 200000, cwnd := 65536, alpha := 0,
    ackedBytes := 0, echoedBytes := 0, roundEnd := 0, cutAt := 0, window := 1024, rxAt := 0, maxAcked := none,
    retransmits := 0 }

/-- Connection 0 as the boot ROM opens it (R661): KEYED, generation 1, zero keys, REG_EN reads 1. -/
def Conn.boot : Conn := { Conn.reset with st := .keyed, generation := 1 }

structure Transport where
  conns : NMap Conn            -- unlisted: `Conn.reset`
  sel : BitVec 12
  gwA : BitVec 128
  gwB : BitVec 128
  lostTimeout : BitVec 24
  planeA : Bool
  planeB : Bool
  lossesA : Nat                -- consecutive losses on the plane (R624)
  lossesB : Nat
  duplicates : Word
  eventsLost : Word
  eventsLostAt : Option Nat
  tokensDropped : Word
  keyxPeer : List Byte
  keyxModule : List Byte
  keyxSig : List Byte
  ports : NMap Port
deriving DecidableEq, Repr

def Transport.reset : Transport :=
  { conns := [(0, Conn.boot)], sel := 0, gwA := 0, gwB := 0, lostTimeout := 0xF4240, planeA := true, planeB := true,
    lossesA := 0, lossesB := 0, duplicates := 0, eventsLost := 0, eventsLostAt := none, tokensDropped := 0, keyxPeer := [],
    keyxModule := [],
    keyxSig := [], ports := [] }

structure TimeSt where
  now : DWord                  -- ns
  port : BitVec 3
  ipv6 : Bool
  domain : Byte
  ptpEn : Bool
  servo : Int                  -- correction that the servo has found and device time does not follow yet (R627, R698)
  state : Nat                  -- 0 free-running, 1 uncalibrated, 2 locked, 3 holdover
  offset : Int
  pathDelay : Int
  lockNs : BitVec 16
  pps : DWord
  ppsAt : Option Nat           -- device time of the latest accepted PPS edge
  steps : Word
  syncSeq : Option Nat         -- Sync whose Follow_Up is awaited
  t2 : Int                     -- local receive time of that Sync
  interval : Nat               -- sync interval, ns: the time between the last two Syncs
  lastMs : Int                 -- t2 - t1 of the latest complete Sync
  delaySeq : Option Nat        -- Delay_Req whose Delay_Resp is awaited
  t3 : Int
  nextDelay : Nat
  good : Nat                   -- consecutive sync intervals below LOCK_NS
deriving DecidableEq, Repr

def TimeSt.reset : TimeSt :=
  { now := 0, port := 0, ipv6 := false, domain := 0, ptpEn := true, servo := 0, state := 0, offset := 0, pathDelay := 0,
    lockNs := 100, pps := 0, ppsAt := none, steps := 0, syncSeq := none, t2 := 0, interval := 0, lastMs := 0,
    delaySeq := none, t3 := 0, nextDelay := 0, good := 0 }

/-! ### Boot, fuses, sideband -/

/-- How far the boot of R655 has come. -/
inductive BootPhase where
  | provisioning | helloDue | helloSent | fetching | verified | running | off | held
deriving DecidableEq, Repr

/-- The provisioning record in use (R658). -/
structure Provision where
  slot : BitVec 6
  overIpv6 : Bool
  index : BitVec 16
  serverA : BitVec 128
  serverB : BitVec 128
  serverPort : Nat
  serverHash : List Byte       -- 48 B
deriving DecidableEq, Repr

/-- What the running image told (R664). -/
structure ImageInfo where
  version : Word
  hash : List Byte
  security : Byte
  ecdsaSlot : BitVec 2
  lmsSlot : BitVec 2
deriving DecidableEq, Repr

def ImageInfo.reset : ImageInfo := ⟨0, [], 0, 0, 0⟩

structure Boot where
  phase : BootPhase
  provision : Option Provision
  provisionBad : Bool          -- PROVISION_INVALID raised since reset (R659)
  server : Nat                 -- 0 server A, 1 server B: whom the next HELLO goes to
  ephemeral : Nat              -- ephemeral private scalar of the latest HELLO
  slotId : BitVec 6            -- SLOT_ID as read at the latest reset (R693)
  imageLen : Nat
  image : List Host.Cell
  got : List (Nat × Nat)       -- offset and length of each stored chunk
  info : ImageInfo
  zeroed : Bool                -- both tiers have been zeroed since the last loss (R657)
  verified : Bool
  ready : Bool
  wiping : Bool
  bootTimeMs : Word
  lastReset : BitVec 3
  partBusy : Option Nat        -- partition reset in progress
  mode : BitVec 2
  exhausted : Bool             -- LMS_STS.EXHAUSTED
  nonce : BitVec 256
  unlock : List Host.Cell      -- bytes written to SECURITY.UNLOCK
  unlockTarget : Option Nat    -- a token for this state has passed (R673, R675)
deriving DecidableEq, Repr

def Boot.reset : Boot :=
  { phase := .provisioning, provision := none, provisionBad := false, server := 0, ephemeral := 0, slotId := 0, imageLen := 0,
    image := [], got := [], info := .reset, zeroed := false, verified := false, ready := false, wiping := true,
    bootTimeMs := 0, lastReset := 0, partBusy := none, mode := 0, exhausted := false, nonce := 0, unlock := [],
    unlockTarget := none }

/-- How the three copies of a fuse word agree (R729). -/
inductive FuseVote where
  | agreed | outvoted | lost
deriving DecidableEq, Repr

/-- Fuses (R665, R668, R670, R672, the FUSE page): burned once, kept by every reset. -/
structure Fuses where
  lifecycle : BitVec 3
  flashKeyGen : BitVec 6
  ecdsaHash : NMap (List Byte) -- per key slot
  lmsHash : NMap (List Byte)
  ecdsaRevoked : BitVec 4
  lmsRevoked : BitVec 4
  svMin : BitVec 7
  lmsEpochs : BitVec 11
  deviceId : DWord
  secret : BitVec 256
  sparePresent : BitVec 4
  mac : NMap (BitVec 48)
  votes : NMap FuseVote        -- fuse words whose three copies do not all agree; even numbers in the west die (R729)
  vtable : NMap (BitVec 10)    -- key die * 8 + point, mV
  fmax : NMap (BitVec 10)      -- key die * 66 + domain, MHz
deriving DecidableEq, Repr

structure Sideband where
  pwrEn : Bool
  resetL : Bool
  coolantOk : Bool
  leakL : Bool
  rawCoolant : Bool            -- latest samples of those two (R692, R694)
  rawLeak : Bool
  throttleL : Bool
  pps : Bool
  feed : BitVec 4
  slot : BitVec 6
  chatterCoolant : Bool
  chatterLeak : Bool
  coolantTransitions : Word
  leakTransitions : Word
  coolantMoves : List Nat      -- device times of the transitions counted in the last 10 ms, ns
  leakMoves : List Nat
  throttleAssertions : Word
  chatterEvents : Word
  quietAt : Nat                -- device time at which a stopping input last showed a loss or a transition, ns
  ppsEdges : Word
  ppsIgnored : Word
  vin : BitVec 16
  vinAt : Option Nat
  on : Bool                    -- PWR_GOOD is high
  retryHold : Bool             -- PWR_EN has to stay low for 1 s first (R686, R687)
deriving DecidableEq, Repr

/-! ### Register latches and what leaves the module -/

/-- A latched HI word, a held LO write, or latched descriptor words of one initiator. -/
structure Latch where
  ini : Nat
  addr : Word
  value : Word
deriving DecidableEq, Repr

/-- A signal under way through the fabric (R338). -/
structure Signal where
  src : Nat                    -- queue that performed it
  tally : BitVec 16
  inc : BitVec 16
  op : Nat                     -- opcode of the command that it is of
deriving DecidableEq, Repr

/-- Source MAC address, VLAN ID and PCP of a frame that a port sends (R619). -/
structure EthHead where
  src : BitVec 48
  vid : BitVec 12
  pcp : BitVec 3
deriving DecidableEq, Repr

/-- IP and UDP fields of a packet that the module sends (R623, R625, R645): addresses, TTL or hop limit, DSCP, ECN, UDP ports. An
IPv4 address stands in its mapped form, and an IPv4 packet has DF set. -/
structure IpHead where
  src : BitVec 128
  dst : BitVec 128
  limit : Nat
  dscp : BitVec 6
  ecn : BitVec 2
  srcPort : Nat
  dstPort : Nat
deriving DecidableEq, Repr

/-- What the module has sent: a record for the reader of a run, not state of the part. Each frame carries its header; `nextMac` is
the destination that the port has resolved, and `sum` the UDP checksum. -/
inductive Out where
  | message (conn : Nat) (type : Byte) (bytes : List Byte)
  | packet (eth : EthHead) (nextMac : BitVec 48) (ip : IpHead) (sum : BitVec 16) (conn port : Nat) (header : Entry)
      (body tag : List Byte)
  | arpReply (eth : EthHead) (port : Nat) (mac : BitVec 48) (ip : Word)
  | neighbourAdvert (eth : EthHead) (port : Nat) (mac : BitVec 48) (ip : BitVec 128)
  | arpRequest (eth : EthHead) (port : Nat) (ip : Word)
  | neighbourSolicit (eth : EthHead) (port : Nat) (ip : BitVec 128)
  | delayReq (eth : EthHead) (ip : IpHead) (sum : BitVec 16) (port : Nat) (body : List Byte)
deriving DecidableEq, Repr

/-- The whole machine. -/
structure State where
  pending : List Instr
  oracle : Nat
  outbox : List Out            -- newest last
  time : TimeSt
  mem : List Host.Cell         -- Tier 1 and Tier 2, by data address (R400)
  memCond : NMap WordCond      -- key: data address / 32
  split : BitVec 7             -- TIER2.SPLIT
  splitNext : BitVec 7
  ctls : NMap Ctl              -- 0 to 7 Tier 1 stacks, 8 to 31 Tier 2 channels
  cores : NMap Core            -- by physical core
  clusters : NMap Cluster
  regions : NMap Region
  dies : NMap Die
  devq : NMap QState           -- device queues 0 to 15
  rail : Rail
  ctxs : NMap Ctx
  closes : List Close
  ctxSel : BitVec 16
  ctxWritesDropped : Word
  ctxCorrected : Word
  ctxCond : NMap WordCond      -- key: context * 2 + word of its descriptor
  fabric : List Signal         -- oldest first
  power : Power
  thermal : Thermal
  energy : Energy
  err : ErrAgg
  pages : NMap PageHdr         -- key: page address / 4,096
  remap : Remap
  snap : Snap
  flash : Flash
  net : Transport
  boot : Boot
  fuses : Fuses
  side : Sideband
  hiLatch : List Latch
  loHeld : List Latch
deriving DecidableEq, Repr

/-! ### Reset -/

/-- Fuses as the model sets them out (the spec: "fused"); DESIGN CHOICE, log entry 3. Unlisted keys read zero, but for the two
tables of the FUSE page (`Fuses.mv`, `Fuses.maxMhz`). -/
def Fuses.reset : Fuses :=
  { lifecycle := 3, flashKeyGen := 0, ecdsaHash := [], lmsHash := [], ecdsaRevoked := 0, lmsRevoked := 0, svMin := 0,
    lmsEpochs := 1, deviceId := 0, secret := 0, sparePresent := 0xF, mac := [], votes := [], vtable := [], fmax := [] }

/-- Flash as the model sets it out (the spec: "from flash"); DESIGN CHOICE, log entry 4. -/
def Flash.reset : Flash :=
  { slot0 := .reset, slot1 := .reset, writtenGib := 0, wear := 0, retired := [], lmsEpoch := some 0, lmsNext := 0 }

/-- Pins as the model sets them out (the spec: "from pins"); DESIGN CHOICE, log entry 5. -/
def Sideband.reset : Sideband :=
  { pwrEn := true, resetL := true, coolantOk := true, leakL := true, rawCoolant := true, rawLeak := true,
    throttleL := true, pps := false, feed := 0, slot := 0,
    chatterCoolant := false, chatterLeak := false, coolantTransitions := 0, leakTransitions := 0, coolantMoves := [],
    leakMoves := [], throttleAssertions := 0, chatterEvents := 0, quietAt := 0, ppsEdges := 0, ppsIgnored := 0, vin := 0,
    vinAt := none, on := true,
    retryHold := false }

/-- The machine right after the cold reset that `PWR_GOOD` starts (R650, R651, R655). -/
def State.reset : State :=
  { pending := [], oracle := 0, outbox := [], time := .reset, mem := [], memCond := [], split := 64, splitNext := 64,
    ctls := [], cores := [], clusters := [], regions := [], dies := [], devq := [], rail := .reset, ctxs := [],
    closes := [], ctxSel := 0, ctxWritesDropped := 0, ctxCorrected := 0, ctxCond := [], fabric := [], power := .reset,
    thermal := .reset, energy := .reset, err := .reset, pages := [], remap := .reset, snap := .reset, flash := .reset,
    net := .reset, boot := .reset, fuses := .reset, side := .reset, hiLatch := [], loHeld := [] }

end Sys2Proof.Machine
end

