-- ==== Sys2Proof/Machine/Store.lean ====
section
/-! DEFINITION. Store.lean: reading and writing sparse storage. A map lists, with keys strictly rising, only the entries
that differ from its default; every write keeps that form. -/

namespace Sys2Proof.Machine

/-- What a sparse map holds at `k`. -/
def nget {α : Type} (d : α) : NMap α → Nat → α
  | [], _ => d
  | (k', v) :: m, k => if k' = k then v else nget d m k

/-- Put an entry among keys that rise. -/
def ninsert {α : Type} (k : Nat) (v : α) : NMap α → NMap α
  | [] => [(k, v)]
  | (k', v') :: m => if k < k' then (k, v) :: (k', v') :: m else (k', v') :: ninsert k v m

/-- The entries whose key a test keeps. -/
def nkeep {α : Type} (p : Nat → Bool) (m : NMap α) : NMap α := m.filter fun e => p e.1

/-- Set the entry at `k`; setting the default removes it. -/
def nset {α : Type} [DecidableEq α] (d : α) (m : NMap α) (k : Nat) (v : α) : NMap α :=
  let m' := nkeep (fun k' => !decide (k' = k)) m
  if v = d then m' else ninsert k v m'

/-- Change the entry at `k`. -/
def nmod {α : Type} [DecidableEq α] (d : α) (m : NMap α) (k : Nat) (f : α → α) : NMap α :=
  nset d m k (f (nget d m k))

/-- The entries of `[base, base + len)`, with their keys counted from `base`. -/
def nblock {α : Type} (m : NMap α) (base len : Nat) : NMap α :=
  (nkeep (fun k => decide (base ≤ k) && decide (k < base + len)) m).map fun e => (e.1 - base, e.2)

/-- Replace the entries of `[base, base + len)` by those of a block whose keys lie below `len`. -/
def nput {α : Type} (m : NMap α) (base len : Nat) (blk : NMap α) : NMap α :=
  nkeep (fun k => decide (k < base)) m ++ (nkeep (fun k => decide (k < len)) blk).map (fun e => (e.1 + base, e.2))
    ++ nkeep (fun k => decide (base + len ≤ k)) m

/-- Reset the entries of `[base, base + len)` to the default. -/
def nclear {α : Type} (m : NMap α) (base len : Nat) : NMap α :=
  nkeep (fun k => decide (k < base) || decide (base + len ≤ k)) m

/-- The canonical form of sparse storage: keys strictly rise and no entry holds the default. -/
def NMap.wf {α : Type} [DecidableEq α] (d : α) : NMap α → Bool
  | [] => true
  | (_, v) :: [] => !decide (v = d)
  | (k, v) :: (k', v') :: m => !decide (v = d) && decide (k < k') && NMap.wf d ((k', v') :: m)

/-- A block of bytes in canonical form, whatever form it comes in. -/
def canonBlock (blk : NMap Byte) : NMap Byte :=
  if NMap.wf 0 blk then blk else blk.foldl (fun m e => nset 0 m e.1 e.2) []

/-- Write `len` bytes of a memory. -/
def putMem (m : List Host.Cell) (base len : Nat) (blk : NMap Byte) : List Host.Cell := nput m base len (canonBlock blk)

/-- Form of a memory: bytes that differ from zero, addresses strictly rising (R651 zeroes every memory). -/
abbrev Memory.wf (m : List Host.Cell) : Bool := NMap.wf (0 : Byte) m

/-- The byte at an address of a memory. -/
def byteAt (m : List Host.Cell) (a : Nat) : Byte := nget 0 m a

/-- A list of bytes as a sparse block; `i` is the offset of its first byte. -/
def blockOf (i : Nat) : List Byte → NMap Byte
  | [] => []
  | b :: bs => if b = 0 then blockOf (i + 1) bs else (i, b) :: blockOf (i + 1) bs

/-- The bytes of a sparse block, from the `n`-th last on (the block is `len` bytes long in all). -/
def bytesOf (blk : NMap Byte) (len : Nat) : Nat → List Byte
  | 0 => []
  | n + 1 => byteAt blk (len - (n + 1)) :: bytesOf blk len n

/-- All bytes of a sparse block. -/
def blockBytes (blk : NMap Byte) (len : Nat) : List Byte := bytesOf blk len len

/-- Little-endian value of a list of bytes (R12). -/
def leNat : List Byte → Nat
  | [] => 0
  | b :: bs => b.toNat + 256 * leNat bs

/-- Big-endian value of a list of bytes: network order and cryptographic values (R12). -/
def beNat (bs : List Byte) : Nat := leNat bs.reverse

/-- The `n` little-endian bytes of a value. -/
def leBytes : Nat → Nat → List Byte
  | 0, _ => []
  | n + 1, v => BitVec.ofNat 8 v :: leBytes n (v / 256)

/-- The `n` big-endian bytes of a value. -/
def beBytes (n v : Nat) : List Byte := (leBytes n v).reverse

/-- Little-endian value of the `n` bytes of a block at `a`. -/
def blkNat (blk : NMap Byte) (a n : Nat) : Nat := leNat (blockBytes (nblock blk a n) n)

/-- Increasing numbers `base, base + 1, …`, `n` of them. -/
def upTo (base : Nat) : Nat → List Nat
  | 0 => []
  | n + 1 => base :: upTo (base + 1) n

/-- Numbers of the bits set in `v` among bits 0 to `n - 1`, ascending. -/
def bitsOf (v n : Nat) : List Nat := (upTo 0 n).filter fun i => v.testBit i

/-- Bits `hi : lo` of a number. -/
def nbits (v hi lo : Nat) : Nat := (v >>> lo) % 2 ^ (hi + 1 - lo)

/-- Least element of a list of numbers, or `d` for none. -/
def minOr (d : Nat) : List Nat → Nat
  | [] => d
  | a :: as => as.foldl min a

/-- Greatest element of a list of numbers, or `d` for none. -/
def maxOr (d : Nat) : List Nat → Nat
  | [] => d
  | a :: as => as.foldl max a

/-- 1 for true, 0 for false: a one-bit field. -/
def b2n (b : Bool) : Nat := if b then 1 else 0

end Sys2Proof.Machine
end

