-- ==== Sys2Proof/Machine/Crypto.lean ====
section
/-! DEFINITION. Crypto.lean: the published algorithms that the spec names: CRC-32 (R658), SHA-256, SHA-384, HMAC and HKDF (R631),
AES-256-GCM (R634), ECDSA and ECDH on P-384 (R631, R662, R665), and LMS_SHA256_M32_H20 keys and signatures
(R664, R668, R669). Values are byte lists in the order that each standard gives. -/

namespace Sys2Proof.Machine

/-! ### CRC-32 (IEEE 802.3) -/

def crcByte (c : BitVec 32) (b : Byte) : BitVec 32 :=
  (upTo 0 8).foldl (fun c _ => if c.getLsbD 0 then (c >>> 1) ^^^ 0xEDB88320 else c >>> 1) (c ^^^ b.setWidth 32)

def crc32 (bs : List Byte) : Nat := (~~~(bs.foldl crcByte 0xFFFFFFFF)).toNat

/-! ### SHA-2 -/

/-- Constants of SHA-256. -/
def sha256K : List (BitVec 32) :=
  [0x428A2F98, 0x71374491, 0xB5C0FBCF, 0xE9B5DBA5, 0x3956C25B, 0x59F111F1, 0x923F82A4, 0xAB1C5ED5,
   0xD807AA98, 0x12835B01, 0x243185BE, 0x550C7DC3, 0x72BE5D74, 0x80DEB1FE, 0x9BDC06A7, 0xC19BF174] ++
  [0xE49B69C1, 0xEFBE4786, 0x0FC19DC6, 0x240CA1CC, 0x2DE92C6F, 0x4A7484AA, 0x5CB0A9DC, 0x76F988DA,
   0x983E5152, 0xA831C66D, 0xB00327C8, 0xBF597FC7, 0xC6E00BF3, 0xD5A79147, 0x06CA6351, 0x14292967] ++
  [0x27B70A85, 0x2E1B2138, 0x4D2C6DFC, 0x53380D13, 0x650A7354, 0x766A0ABB, 0x81C2C92E, 0x92722C85,
   0xA2BFE8A1, 0xA81A664B, 0xC24B8B70, 0xC76C51A3, 0xD192E819, 0xD6990624, 0xF40E3585, 0x106AA070] ++
  [0x19A4C116, 0x1E376C08, 0x2748774C, 0x34B0BCB5, 0x391C0CB3, 0x4ED8AA4A, 0x5B9CCA4F, 0x682E6FF3,
   0x748F82EE, 0x78A5636F, 0x84C87814, 0x8CC70208, 0x90BEFFFA, 0xA4506CEB, 0xBEF9A3F7, 0xC67178F2]

def sha256Init : List (BitVec 32) := [0x6A09E667, 0xBB67AE85, 0x3C6EF372, 0xA54FF53A,
  0x510E527F, 0x9B05688C, 0x1F83D9AB, 0x5BE0CD19]

/-- Constants of SHA-384. -/
def sha512K : List (BitVec 64) :=
  [0x428A2F98D728AE22, 0x7137449123EF65CD, 0xB5C0FBCFEC4D3B2F, 0xE9B5DBA58189DBBC,
   0x3956C25BF348B538, 0x59F111F1B605D019, 0x923F82A4AF194F9B, 0xAB1C5ED5DA6D8118,
   0xD807AA98A3030242, 0x12835B0145706FBE, 0x243185BE4EE4B28C, 0x550C7DC3D5FFB4E2,
   0x72BE5D74F27B896F, 0x80DEB1FE3B1696B1, 0x9BDC06A725C71235, 0xC19BF174CF692694] ++
  [0xE49B69C19EF14AD2, 0xEFBE4786384F25E3, 0x0FC19DC68B8CD5B5, 0x240CA1CC77AC9C65,
   0x2DE92C6F592B0275, 0x4A7484AA6EA6E483, 0x5CB0A9DCBD41FBD4, 0x76F988DA831153B5,
   0x983E5152EE66DFAB, 0xA831C66D2DB43210, 0xB00327C898FB213F, 0xBF597FC7BEEF0EE4,
   0xC6E00BF33DA88FC2, 0xD5A79147930AA725, 0x06CA6351E003826F, 0x142929670A0E6E70] ++
  [0x27B70A8546D22FFC, 0x2E1B21385C26C926, 0x4D2C6DFC5AC42AED, 0x53380D139D95B3DF,
   0x650A73548BAF63DE, 0x766A0ABB3C77B2A8, 0x81C2C92E47EDAEE6, 0x92722C851482353B,
   0xA2BFE8A14CF10364, 0xA81A664BBC423001, 0xC24B8B70D0F89791, 0xC76C51A30654BE30,
   0xD192E819D6EF5218, 0xD69906245565A910, 0xF40E35855771202A, 0x106AA07032BBD1B8] ++
  [0x19A4C116B8D2D0C8, 0x1E376C085141AB53, 0x2748774CDF8EEB99, 0x34B0BCB5E19B48A8,
   0x391C0CB3C5C95A63, 0x4ED8AA4AE3418ACB, 0x5B9CCA4F7763E373, 0x682E6FF3D6B2B8A3,
   0x748F82EE5DEFB2FC, 0x78A5636F43172F60, 0x84C87814A1F0AB72, 0x8CC702081A6439EC,
   0x90BEFFFA23631E28, 0xA4506CEBDE82BDE9, 0xBEF9A3F7B2C67915, 0xC67178F2E372532B] ++
  [0xCA273ECEEA26619C, 0xD186B8C721C0C207, 0xEADA7DD6CDE0EB1E, 0xF57D4F7FEE6ED178,
   0x06F067AA72176FBA, 0x0A637DC5A2C898A6, 0x113F9804BEF90DAE, 0x1B710B35131C471B,
   0x28DB77F523047D84, 0x32CAAB7B40C72493, 0x3C9EBE0A15C9BEBC, 0x431D67C49C100D4C,
   0x4CC5D4BECB3E42B6, 0x597F299CFC657E2A, 0x5FCB6FAB3AD6FAEC, 0x6C44198C4A475817]

def sha384Init : List (BitVec 64) := [0xCBBB9D5DC1059ED8, 0x629A292A367CD507, 0x9159015A3070DD17,
  0x152FECD8F70E5939, 0x67332667FFC00B31, 0x8EB44A8768581511,
  0xDB0C2E0D64F98FA7, 0x47B5481DBEFA4FA4]

/-- What tells the two word sizes apart: the rotations of the upper and lower sigma functions, and the constants. -/
structure Sha (w : Nat) where
  big0 : Nat × Nat × Nat
  big1 : Nat × Nat × Nat
  small0 : Nat × Nat × Nat     -- the third is a shift
  small1 : Nat × Nat × Nat
  k : List (BitVec w)

def sha256Par : Sha 32 := ⟨(2, 13, 22), (6, 11, 25), (7, 18, 3), (17, 19, 10), sha256K⟩
def sha512Par : Sha 64 := ⟨(28, 34, 39), (14, 18, 41), (1, 8, 7), (19, 61, 6), sha512K⟩

def rot3 {w : Nat} (x : BitVec w) (r : Nat × Nat × Nat) : BitVec w := x.rotateRight r.1 ^^^ x.rotateRight r.2.1 ^^^ x.rotateRight r.2.2
def rotShift {w : Nat} (x : BitVec w) (r : Nat × Nat × Nat) : BitVec w := x.rotateRight r.1 ^^^ x.rotateRight r.2.1 ^^^ x >>> r.2.2

/-- `n` further words of a message schedule, newest first. -/
def shaExtend {w : Nat} (p : Sha w) : Nat → List (BitVec w) → List (BitVec w)
  | 0, ws => ws
  | n + 1, ws => shaExtend p n
      ((rotShift (ws.getD 1 0) p.small1 + ws.getD 6 0 + rotShift (ws.getD 14 0) p.small0 + ws.getD 15 0) :: ws)

/-- One round on the eight working words `a` to `h`. -/
def shaRound {w : Nat} (p : Sha w) (v : List (BitVec w)) (kw : BitVec w × BitVec w) : List (BitVec w) :=
  match v with
  | [a, b, c, d, e, f, g, h] =>
    let t1 := h + rot3 e p.big1 + ((e &&& f) ^^^ (~~~e &&& g)) + kw.1 + kw.2
    let t2 := rot3 a p.big0 + ((a &&& b) ^^^ (a &&& c) ^^^ (b &&& c))
    [t1 + t2, a, b, c, d + t1, e, f, g]
  | _ => v

/-- `n` big-endian words of `k` bytes. -/
def beWords (w k : Nat) : Nat → List Byte → List (BitVec w)
  | 0, _ => []
  | n + 1, bs => BitVec.ofNat w (beNat (bs.take k)) :: beWords w k n (bs.drop k)

def shaBlock {w : Nat} (p : Sha w) (h : List (BitVec w)) (block : List Byte) : List (BitVec w) :=
  let ws := (shaExtend p (p.k.length - 16) (beWords w (w / 8) 16 block).reverse).reverse
  List.zipWith (· + ·) h ((List.zip p.k ws).foldl (shaRound p) h)

/-- The blocks of a padded message, `n` of them. -/
def shaBlocks {w : Nat} (p : Sha w) (size : Nat) : Nat → List (BitVec w) → List Byte → List (BitVec w)
  | 0, h, _ => h
  | n + 1, h, bs => shaBlocks p size n (shaBlock p h (bs.take size)) (bs.drop size)

/-- Padding to whole blocks of `size` bytes, with a length field of `lenBytes`. -/
def shaPad (size lenBytes : Nat) (bs : List Byte) : List Byte :=
  let used := (bs.length + 1 + lenBytes) % size
  bs ++ 0x80 :: (List.replicate ((size - used) % size) 0 ++ beBytes lenBytes (8 * bs.length))

def sha256 (bs : List Byte) : List Byte :=
  let m := shaPad 64 8 bs
  (shaBlocks sha256Par 64 (m.length / 64) sha256Init m).flatMap fun x => beBytes 4 x.toNat

def sha384 (bs : List Byte) : List Byte :=
  let m := shaPad 128 16 bs
  ((shaBlocks sha512Par 128 (m.length / 128) sha384Init m).flatMap fun x => beBytes 8 x.toNat).take 48

/-! ### HMAC and HKDF with SHA-384 -/

def hmac384 (key msg : List Byte) : List Byte :=
  let k := if 128 < key.length then sha384 key else key
  let k := k ++ List.replicate (128 - k.length) 0
  sha384 (k.map (· ^^^ 0x5C) ++ sha384 (k.map (· ^^^ 0x36) ++ msg))

/-- 64 B of output. -/
def hkdf384 (salt ikm info : List Byte) : List Byte :=
  let prk := hmac384 salt ikm
  let t1 := hmac384 prk (info ++ [1])
  (t1 ++ hmac384 prk (t1 ++ info ++ [2])).take 64

/-! ### AES-256 and GCM -/

/-- Product in the field of AES. -/
def gfMul (a b : Byte) : Byte :=
  ((upTo 0 8).foldl (fun (r : Byte × Byte) i =>
    (if b.getLsbD i then r.1 ^^^ r.2 else r.1, if r.2.getLsbD 7 then (r.2 <<< 1) ^^^ 0x1B else r.2 <<< 1)) (0, a)).1

/-- Inverse in that field (0 for 0): the 254th power. -/
def gfInv (a : Byte) : Byte :=
  let sq := fun x => gfMul x x
  let p2 := sq a
  let p4 := sq p2
  let p8 := sq p4
  let p16 := sq p8
  let p32 := sq p16
  let p64 := sq p32
  let p128 := sq p64
  gfMul p2 (gfMul p4 (gfMul p8 (gfMul p16 (gfMul p32 (gfMul p64 p128)))))

def sbox (a : Byte) : Byte :=
  let x := gfInv a
  x ^^^ x.rotateLeft 1 ^^^ x.rotateLeft 2 ^^^ x.rotateLeft 3 ^^^ x.rotateLeft 4 ^^^ 0x63

/-- Words of the key schedule, newest first, `n` more of them. -/
def aesExpand : Nat → List (List Byte) → Byte → List (List Byte)
  | 0, ws, _ => ws
  | n + 1, ws, rcon =>
    let i := ws.length
    let prev := ws.headD []
    let t := if i % 8 = 0 then
        (match prev with
        | a :: rest => (rest ++ [a]).map sbox
        | [] => [])
      else if i % 8 = 4 then prev.map sbox else prev
    let t := if i % 8 = 0 then (match t with
        | a :: rest => (a ^^^ rcon) :: rest
        | [] => []) else t
    aesExpand n (List.zipWith (· ^^^ ·) t (ws.getD 7 []) :: ws) (if i % 8 = 0 then gfMul rcon 2 else rcon)

/-- The 15 round keys of AES-256, 16 B each. -/
def aesKeys (key : List Byte) : List (List Byte) :=
  let ws := (aesExpand 52 ((upTo 0 8).map fun i => (key.drop (4 * i)).take 4).reverse 1).reverse
  (upTo 0 15).map fun r => ((ws.drop (4 * r)).take 4).flatten

/-- SubBytes and ShiftRows: byte `i` of the state (column `i / 4`, row `i % 4`). -/
def aesShift (s : List Byte) : List Byte := (upTo 0 16).map fun i => sbox (s.getD ((i + 4 * (i % 4)) % 16) 0)

def aesMix (s : List Byte) : List Byte :=
  (upTo 0 16).map fun i =>
    let at_ := fun k => s.getD (i / 4 * 4 + (i + k) % 4) 0
    gfMul 2 (at_ 0) ^^^ gfMul 3 (at_ 1) ^^^ at_ 2 ^^^ at_ 3

def xorBytes (a b : List Byte) : List Byte := List.zipWith (· ^^^ ·) a b

def aesEncrypt (keys : List (List Byte)) (block : List Byte) : List Byte :=
  let s := (upTo 1 13).foldl (fun s r => xorBytes (aesMix (aesShift s)) (keys.getD r [])) (xorBytes block (keys.getD 0 []))
  xorBytes (aesShift s) (keys.getD 14 [])

/-- Product in the field of GHASH. -/
def ghMul (x y : BitVec 128) : BitVec 128 :=
  ((upTo 0 128).foldl (fun (r : BitVec 128 × BitVec 128) i =>
    (if x.getLsbD (127 - i) then r.1 ^^^ r.2 else r.1,
      if r.2.getLsbD 0 then (r.2 >>> 1) ^^^ (0xE1 <<< 120) else r.2 >>> 1)) (0, y)).1

/-- Blocks of 16 B of a string that is padded with zeros, `n` of them. -/
def ghBlocks (h : BitVec 128) : Nat → BitVec 128 → List Byte → BitVec 128
  | 0, y, _ => y
  | n + 1, y, bs =>
    let b := bs.take 16
    ghBlocks h n (ghMul (y ^^^ BitVec.ofNat 128 (beNat (b ++ List.replicate (16 - b.length) 0))) h) (bs.drop 16)

def blocks16 (bs : List Byte) : Nat := (bs.length + 15) / 16

/-- Key stream applied from counter `c` on. -/
def gcmCtr (keys : List (List Byte)) (nonce : List Byte) (text : List Byte) : List Byte :=
  xorBytes text ((upTo 0 (blocks16 text)).flatMap fun i => aesEncrypt keys (nonce ++ beBytes 4 (i + 2)))

def gcmTag (keys : List (List Byte)) (nonce aad sealed : List Byte) : List Byte :=
  let h := BitVec.ofNat 128 (beNat (aesEncrypt keys (List.replicate 16 0)))
  let y := ghBlocks h (blocks16 sealed) (ghBlocks h (blocks16 aad) 0 aad) sealed
  let y := ghMul (y ^^^ BitVec.ofNat 128 (8 * aad.length * 2 ^ 64 + 8 * sealed.length)) h
  xorBytes (beBytes 16 y.toNat) (aesEncrypt keys (nonce ++ beBytes 4 1))

/-- AES-256-GCM: the sealed text and its tag. -/
def gcmSeal (key nonce aad text : List Byte) : List Byte × List Byte :=
  let keys := aesKeys key
  let c := gcmCtr keys nonce text
  (c, gcmTag keys nonce aad c)

/-- The plain text, or nothing when the tag does not match. -/
def gcmOpen (key nonce aad sealed tag : List Byte) : Option (List Byte) :=
  let keys := aesKeys key
  if gcmTag keys nonce aad sealed = tag then some (gcmCtr keys nonce sealed) else none

/-! ### P-384 -/

def p384P : Nat := 2 ^ 384 - 2 ^ 128 - 2 ^ 96 + 2 ^ 32 - 1
def p384N : Nat := 0xFFFFFFFFFFFFFFFFFFFFFFFFFFFFFFFFFFFFFFFFFFFFFFFFC7634D81F4372DDF581A0DB248B0A77AECEC196ACCC52973
def p384B : Nat := 0xB3312FA7E23EE7E4988E056BE3F82D19181D9C6EFE8141120314088F5013875AC656398D8A2ED19D2A85C8EDD3EC2AEF
def p384Gx : Nat := 0xAA87CA22BE8B05378EB1C71EF320AD746E1D3B628BA79B9859F741E082542A385502F25DBF55296C3A545E3872760AB7
def p384Gy : Nat := 0x3617DE4A96262C6F5D9E98BF9292DC29F8F41DBD289A147CE9DA3113B5F0B8C00A60B1CE1D7E819D7A431D7C90EA0E5F

/-- Power of `b` modulo `m`; exponents below 2^384. -/
def powMod (b e m : Nat) : Nat :=
  (upTo 0 384).foldl (fun r i => let r := r * r % m; if e.testBit (383 - i) then r * b % m else r) (1 % m)

/-- Inverse modulo a prime. -/
def invMod (a m : Nat) : Nat := powMod (a % m) (m - 2) m

/-- An affine point, or the point at infinity. -/
abbrev Point := Option (Nat × Nat)

/-- Sum of two points of the curve. -/
def ecAdd (a b : Point) : Point :=
  match a, b with
  | none, b => b
  | a, none => a
  | some (x1, y1), some (x2, y2) =>
    if x1 = x2 ∧ (y1 + y2) % p384P = 0 then none else
    let l := if x1 = x2 then (3 * x1 * x1 + (p384P - 3)) * invMod (2 * y1) p384P % p384P
      else (y2 + (p384P - y1)) * invMod (x2 + (p384P - x1)) p384P % p384P
    let x3 := (l * l + 2 * p384P - x1 - x2) % p384P
    some (x3, (l * (x1 + p384P - x3) + p384P - y1) % p384P)

def ecMul (k : Nat) (p : Point) : Point :=
  (upTo 0 384).foldl (fun r i => let r := ecAdd r r; if k.testBit (383 - i) then ecAdd r p else r) none

def p384G : Point := some (p384Gx, p384Gy)

/-- A point from its 96 B (R631), where they name one of the curve. -/
def ecPoint (bs : List Byte) : Point :=
  let x := beNat (bs.take 48)
  let y := beNat (bs.drop 48)
  if bs.length = 96 ∧ x < p384P ∧ y < p384P ∧ y * y % p384P = (x * x * x + (p384P - 3) * x + p384B) % p384P then some (x, y) else none

def pointBytes (p : Point) : List Byte :=
  match p with
  | some (x, y) => beBytes 48 x ++ beBytes 48 y
  | none => List.replicate 96 0

/-- Public key of a private scalar. -/
def ecPublic (d : Nat) : List Byte := pointBytes (ecMul d p384G)

/-- ECDH: the x-coordinate of the product, 48 B; nothing where the peer's key is no point of the curve. -/
def ecdh (d : Nat) (peer : List Byte) : Option (List Byte) :=
  match ecMul d (ecPoint peer) with
  | some (x, _) => some (beBytes 48 x)
  | none => none

/-- ECDSA over a SHA-384 hash: `r` then `s`. -/
def ecdsaVerify (key hash sig : List Byte) : Bool :=
  let r := beNat (sig.take 48)
  let s := beNat (sig.drop 48)
  let q := ecPoint key
  if sig.length ≠ 96 ∨ r = 0 ∨ p384N ≤ r ∨ s = 0 ∨ p384N ≤ s ∨ q = none then false else
  let w := invMod s p384N
  match ecAdd (ecMul (beNat hash * w % p384N) p384G) (ecMul (r * w % p384N) q) with
  | some (x, _) => x % p384N == r
  | none => false

/-- Signature with private scalar `d` and the scalar `k` of this signature. -/
def ecdsaSign (d k : Nat) (hash : List Byte) : List Byte :=
  let r := match ecMul k p384G with
    | some (x, _) => x % p384N
    | none => 0
  beBytes 48 r ++ beBytes 48 (invMod k p384N * (beNat hash + r * d) % p384N)

/-! ### LMS_SHA256_M32_H20 with LMOTS_SHA256_N32_W8 -/

/-- `n` steps of a hash chain, the next of them step `j`. -/
def lmsChain (pre : List Byte) : Nat → Nat → List Byte → List Byte
  | 0, _, x => x
  | n + 1, j, x => lmsChain pre n (j + 1) (sha256 (pre ++ beBytes 1 j ++ x))

/-- From a leaf to the root, through `n` nodes of the path. -/
def lmsRoot (id : List Byte) : Nat → Nat → List Byte → List Byte → List Byte
  | 0, _, x, _ => x
  | n + 1, node, x, path =>
    let sib := path.take 32
    let pair := if node % 2 = 1 then sib ++ x else x ++ sib
    lmsRoot id n (node / 2) (sha256 (id ++ beBytes 4 (node / 2) ++ [0x83, 0x83] ++ pair)) (path.drop 32)

/-- The 34 digits that a one-time signature signs: the hash of the message and its checksum. `pre`: identifier and index. -/
def lmsDigits (pre random msg : List Byte) : List Byte :=
  let h := sha256 (pre ++ [0x81, 0x81] ++ random ++ msg)
  h ++ beBytes 2 ((h.map fun b => 255 - b.toNat).sum)

/-- The leaf of the tree over the ends of the chains of index `q`. -/
def lmsLeaf (id q ends : List Byte) (node : Nat) : List Byte :=
  sha256 (id ++ beBytes 4 node ++ [0x82, 0x82] ++ sha256 (id ++ q ++ [0x80, 0x80] ++ ends))

def lmsVerify (key msg sig : List Byte) : Bool :=
  let id := (key.drop 8).take 16
  let q := sig.take 4
  let y := sig.drop 40
  if key.length ≠ 56 ∨ sig.length ≠ 1772 ∨ beNat (key.take 4) ≠ 8 ∨ beNat ((key.drop 4).take 4) ≠ 4 ∨ 2 ^ 20 ≤ beNat q ∨
    beNat ((sig.drop 4).take 4) ≠ 4 ∨ beNat ((sig.drop 1128).take 4) ≠ 8 then false else
  let digits := lmsDigits (id ++ q) ((sig.drop 8).take 32) msg
  let ends := (upTo 0 34).flatMap fun i =>
    let a := (digits.getD i 0).toNat
    lmsChain (id ++ q ++ beBytes 2 i) (255 - a) a ((y.drop (32 * i)).take 32)
  let leaf := 2 ^ 20 + beNat q
  lmsRoot id 20 leaf (lmsLeaf id q ends leaf) (sig.drop 1132) = key.drop 24

/-! Keys and signatures, from a key identifier and the private values of each index -/

/-- Private value `i` of index `q`, taken through `n` steps of its chain. -/
def lmsEnd (id : List Byte) (x : Nat → Nat → BitVec 256) (q n i : Nat) : List Byte :=
  lmsChain (id ++ beBytes 4 q ++ beBytes 2 i) n 0 (beBytes 32 (x q i).toNat)

/-- Node `node` of the tree, `n` levels above the leaves. -/
def lmsNode (id : List Byte) (x : Nat → Nat → BitVec 256) : Nat → Nat → List Byte
  | 0, node => lmsLeaf id (beBytes 4 (node - 2 ^ 20)) ((upTo 0 34).flatMap (lmsEnd id x (node - 2 ^ 20) 255)) node
  | n + 1, node =>
    sha256 (id ++ beBytes 4 node ++ [0x83, 0x83] ++ (lmsNode id x n (2 * node) ++ lmsNode id x n (2 * node + 1)))

/-- The public key: its type words, its identifier, the root. -/
def lmsPublicKey (id : List Byte) (x : Nat → Nat → BitVec 256) : List Byte :=
  beBytes 4 8 ++ beBytes 4 4 ++ id ++ lmsNode id x 20 1

/-- The signature of a message with index `q`: the index, the one-time signature, the type word, the path to the root. -/
def lmsSignature (id : List Byte) (x : Nat → Nat → BitVec 256) (random : List Byte) (q : Nat) (msg : List Byte) : List Byte :=
  let digits := lmsDigits (id ++ beBytes 4 q) random msg
  beBytes 4 q ++ beBytes 4 4 ++ random ++ (upTo 0 34).flatMap (fun i => lmsEnd id x q (digits.getD i 0).toNat i) ++ beBytes 4 8 ++
    (upTo 0 20).flatMap fun h =>
      let node := (2 ^ 20 + q) / 2 ^ h
      lmsNode id x h (if node % 2 = 1 then node - 1 else node + 1)

/-- The LMS key of a fused secret, and its signature of a message (R668, R669). -/
def lmsShown (secret : BitVec 256) : List Byte := lmsPublicKey (beBytes 16 (Config.lmsId secret).toNat) (Config.lmsPrivate secret)
def lmsSigned (secret : BitVec 256) (q : Nat) (msg : List Byte) : List Byte :=
  lmsSignature (beBytes 16 (Config.lmsId secret).toNat) (Config.lmsPrivate secret) (beBytes 32 (Config.lmsRandom secret q).toNat) q msg

end Sys2Proof.Machine
end

