-- ==== Sys2Proof/Machine/Access.lean ====
section
/-! DEFINITION. Access.lean: the parts of the state by their number, and the numbering of cores, clusters, regions,
dies and pages (R5, R6, R444, R707, R708). -/

namespace Sys2Proof.Machine

/-! ### Replacing one part of the state -/

def State.setPending (s : State) (v : List Instr) : State := { s with pending := v }
def State.setOracle (s : State) (v : Nat) : State := { s with oracle := v }
def State.setOutbox (s : State) (v : List Out) : State := { s with outbox := v }
def State.setTime (s : State) (v : TimeSt) : State := { s with time := v }
def State.setMem (s : State) (v : List Host.Cell) : State := { s with mem := v }
def State.setMemCond (s : State) (v : NMap WordCond) : State := { s with memCond := v }
def State.setSplit (s : State) (v : BitVec 7) : State := { s with split := v }
def State.setSplitNext (s : State) (v : BitVec 7) : State := { s with splitNext := v }
def State.setCtls (s : State) (v : NMap Ctl) : State := { s with ctls := v }
def State.setCores (s : State) (v : NMap Core) : State := { s with cores := v }
def State.setClusters (s : State) (v : NMap Cluster) : State := { s with clusters := v }
def State.setRegions (s : State) (v : NMap Region) : State := { s with regions := v }
def State.setDies (s : State) (v : NMap Die) : State := { s with dies := v }
def State.setDevq (s : State) (v : NMap QState) : State := { s with devq := v }
def State.setRail (s : State) (v : Rail) : State := { s with rail := v }
def State.setCtxs (s : State) (v : NMap Ctx) : State := { s with ctxs := v }
def State.setCloses (s : State) (v : List Close) : State := { s with closes := v }
def State.setCtxSel (s : State) (v : BitVec 16) : State := { s with ctxSel := v }
def State.setCtxWritesDropped (s : State) (v : Word) : State := { s with ctxWritesDropped := v }
def State.setCtxCorrected (s : State) (v : Word) : State := { s with ctxCorrected := v }
def State.setCtxCond (s : State) (v : NMap WordCond) : State := { s with ctxCond := v }
def State.setFabric (s : State) (v : List Signal) : State := { s with fabric := v }
def State.setPower (s : State) (v : Power) : State := { s with power := v }
def State.setThermal (s : State) (v : Thermal) : State := { s with thermal := v }
def State.setEnergy (s : State) (v : Energy) : State := { s with energy := v }
def State.setErr (s : State) (v : ErrAgg) : State := { s with err := v }
def State.setPages (s : State) (v : NMap PageHdr) : State := { s with pages := v }
def State.setRemap (s : State) (v : Remap) : State := { s with remap := v }
def State.setSnap (s : State) (v : Snap) : State := { s with snap := v }
def State.setFlash (s : State) (v : Flash) : State := { s with flash := v }
def State.setNet (s : State) (v : Transport) : State := { s with net := v }
def State.setBoot (s : State) (v : Boot) : State := { s with boot := v }
def State.setFuses (s : State) (v : Fuses) : State := { s with fuses := v }
def State.setSide (s : State) (v : Sideband) : State := { s with side := v }
def State.setHiLatch (s : State) (v : List Latch) : State := { s with hiLatch := v }
def State.setLoHeld (s : State) (v : List Latch) : State := { s with loHeld := v }

/-! ### Parts by number -/

def State.core (s : State) (p : Nat) : Core := nget .reset s.cores p
def State.setCore (s : State) (p : Nat) (c : Core) : State := s.setCores (nset .reset s.cores p c)
def State.modCore (s : State) (p : Nat) (f : Core → Core) : State := s.setCore p (f (s.core p))

def State.cluster (s : State) (c : Nat) : Cluster := nget .reset s.clusters c
def State.modCluster (s : State) (c : Nat) (f : Cluster → Cluster) : State :=
  s.setClusters (nmod .reset s.clusters c f)

def State.region (s : State) (r : Nat) : Region := nget .reset s.regions r
def State.modRegion (s : State) (r : Nat) (f : Region → Region) : State :=
  s.setRegions (nmod .reset s.regions r f)

def State.die (s : State) (d : Nat) : Die := nget .reset s.dies d
def State.modDie (s : State) (d : Nat) (f : Die → Die) : State := s.setDies (nmod .reset s.dies d f)

def State.ctl (s : State) (k : Nat) : Ctl := nget .reset s.ctls k
def State.modCtl (s : State) (k : Nat) (f : Ctl → Ctl) : State := s.setCtls (nmod .reset s.ctls k f)

def State.ctx (s : State) (n : Nat) : Ctx := nget .reset s.ctxs n
def State.modCtx (s : State) (n : Nat) (f : Ctx → Ctx) : State := s.setCtxs (nmod .reset s.ctxs n f)

def State.conn (s : State) (n : Nat) : Conn := nget .reset s.net.conns n
def State.modConn (s : State) (n : Nat) (f : Conn → Conn) : State :=
  s.setNet { s.net with conns := nmod .reset s.net.conns n f }

def State.port (s : State) (n : Nat) : Port := nget .reset s.net.ports n
def State.modPort (s : State) (n : Nat) (f : Port → Port) : State :=
  s.setNet { s.net with ports := nmod .reset s.net.ports n f }

def State.page (s : State) (pg : Nat) : PageHdr := nget .reset s.pages pg
def State.modPage (s : State) (pg : Nat) (f : PageHdr → PageHdr) : State :=
  s.setPages (nmod .reset s.pages pg f)

def State.stream (s : State) (n : Nat) : RailStream := nget .reset s.rail.streams n
def State.modStream (s : State) (n : Nat) (f : RailStream → RailStream) : State :=
  s.setRail { s.rail with streams := nmod .reset s.rail.streams n f }

def State.spare (s : State) (n : Nat) : Spare := nget .reset s.remap.spares n

/-- Numbers of the cores, clusters and so on that a list of numbers names, each changed in turn. -/
def State.forEach (s : State) (ns : List Nat) (f : State → Nat → State) : State := ns.foldl f s

/-- The next open value (log entry 13). -/
def State.open_ (s : State) : Nat × State := (Config.freeNat s.oracle, s.setOracle (s.oracle + 1))

/-! ### Logical and physical cores (R6, R577 to R580) -/

/-- A spare's register, where the map of the logical cores stays as it is. -/
def Remap.put (m : Remap) (n : Nat) (x : Spare) : Remap := { m with spares := nset .reset m.spares n x }

/-- Spare `n` serves logical core `l` (R579), and takes it from a spare that served it until now. -/
def Remap.serve (m : Remap) (n l : Nat) : Remap :=
  let spares := match nget none m.map l with
    | none => m.spares
    | some k => nset .reset m.spares k .reset
  { spares := nset .reset spares n ⟨some l, false⟩, map := nset none m.map l (some n), remaps := satInc m.remaps }

/-- Spare `n` gives logical core `l` back to its own physical core (R580). -/
def Remap.free (m : Remap) (n l : Nat) : Remap :=
  { m with spares := nset .reset m.spares n .reset, map := nset none m.map l none }

/-- The physical core that logical core `l` runs on. -/
def State.physOf (s : State) (l : Nat) : Nat :=
  match nget none s.remap.map l with
  | none => l
  | some n => 128 + n

/-- The logical core that physical core `p` serves, if any. -/
def State.logOf (s : State) (p : Nat) : Option Nat :=
  if p < 128 then if s.physOf p = p then some p else none
  else if (s.spare (p - 128)).starting then none else (s.spare (p - 128)).logical

/-- A core without a logical number is dark (R714). -/
def State.dark (s : State) (p : Nat) : Bool := (s.logOf p).isNone

/-- The logical number of a core that a record names: its own, or for a dark core its physical number. -/
def State.logOr (s : State) (p : Nat) : Nat := (s.logOf p).getD (p % 128)

def State.lcore (s : State) (l : Nat) : Core := s.core (s.physOf l)
def State.modLcore (s : State) (l : Nat) (f : Core → Core) : State := s.modCore (s.physOf l) f

/-- A core takes no work unless it is in service (R571). -/
def State.lfenced (s : State) (l : Nat) : Bool := !decide ((s.lcore l).fence = .inService)

/-- Whether a stop has halted the clocks of the cores (R545, R582). -/
def State.halted (s : State) : Bool := decide (s.power.stop ≠ .none) || s.err.deviceStopped

/-- Cluster, region and die of a logical core (R5). -/
def clusterOf (l : Nat) : Nat := l / 4
def regionOf (l : Nat) : Nat := l / 16
def dieOf (l : Nat) : Nat := l / 64
/-- Die of a physical core, spares among them. -/
def dieOfPhys (p : Nat) : Nat := if p < 128 then p / 64 else (p - 128) / 2 % 2
/-- Region of a physical core: spare n sits in region 0 or 3 of its die. -/
def regionOfPhys (p : Nat) : Nat := if p < 128 then p / 16 else (p - 128) / 2 * 4 + (if p % 2 = 0 then 0 else 3)

/-- Logical cores of cluster `c` that a 4-bit member mask names. -/
def members (c mask : Nat) : List Nat := (bitsOf mask 4).map fun k => c * 4 + k

/-- The physical cores of the module: 128 and four spares. -/
def allPhys : List Nat := upTo 0 132

/-! ### Queues (R444) -/

def State.queue (s : State) (q : Nat) : QState :=
  if q < 512 then nget .reset (s.lcore (q / 4)).queues (q % 4) else nget .reset s.devq (q - 512)

def State.modQueue (s : State) (q : Nat) (f : QState → QState) : State :=
  if q < 512 then s.modLcore (q / 4) fun c => { c with queues := nmod .reset c.queues (q % 4) f }
  else s.setDevq (nmod .reset s.devq (q - 512) f)

/-- Queue of a physical core, whether or not the core has a logical number. -/
def Core.queue (c : Core) (i : Nat) : QState := nget .reset c.queues i
def Core.modQueue (c : Core) (i : Nat) (f : QState → QState) : Core :=
  { c with queues := nmod .reset c.queues i f }

/-! ### Register pages, by page number (address / 4,096; R707, R708) -/

def pgIdent : Nat := 0
def pgMode : Nat := 1
def pgPower : Nat := 2
def pgThermal : Nat := 3
def pgSideband : Nat := 4
def pgContext : Nat := 5
def pgSnapshot : Nat := 6
def pgTransport : Nat := 7
def pgTime : Nat := 8
def pgErragg : Nat := 9
def pgSecurity : Nat := 10
def pgRemap : Nat := 11
def pgEnergy : Nat := 12
def pgDevqueue : Nat := 13

def pgDie (d n : Nat) : Nat := 0x400 + d * 0x40 + n
def pgDiemgt (d : Nat) : Nat := pgDie d 0
def pgBridge (d : Nat) : Nat := pgDie d 1
/-- Port by device-wide number (R5). -/
def pgEth (p : Nat) : Nat := pgDie (p / 4) (2 + p % 4)
def pgClock (d : Nat) : Nat := pgDie d 6
def pgFuse (d : Nat) : Nat := pgDie d 7
def pgFlash (d : Nat) : Nat := pgDie d 8
def pgFabric (d : Nat) : Nat := pgDie d 9

/-- Third form of R707, by die, region, cslot, kslot and block. -/
def pgForm (die reg cslot kslot block : Nat) : Nat :=
  0x1000 + die * 0x800 + reg * 0x200 + cslot * 0x40 + kslot * 8 + block

def pgRegion (r block : Nat) : Nat := pgForm (r / 4) (r % 4) 7 0 block
def pgTier1 (r : Nat) : Nat := pgRegion r 0
def pgTier2 (r : Nat) : Nat := pgRegion r 1
def pgRail (r : Nat) : Nat := pgRegion r 2
def pgRegfab (r : Nat) : Nat := pgRegion r 3
def pgRegtherm (r : Nat) : Nat := pgRegion r 4

def pgCluster (c block : Nat) : Nat := pgForm (c / 16) (c / 4 % 4) (c % 4) 7 block
def pgStream (c : Nat) : Nat := pgCluster c 0
def pgSlicebus (c : Nat) : Nat := pgCluster c 1
def pgClustel (c : Nat) : Nat := pgCluster c 2

/-- Page of a physical core (R709); spare n sits at kslot 4 of cluster 0 of region 0, or of cluster 3 of region 3. -/
def pgCore (p block : Nat) : Nat :=
  if p < 128 then pgForm (p / 64) (p / 16 % 4) (p / 4 % 4) (p % 4) block
  else if p % 2 = 0 then pgForm ((p - 128) / 2) 0 0 4 block else pgForm ((p - 128) / 2) 3 3 4 block

def bSeq : Nat := 0
def bFrames : Nat := 1
def bLedger : Nat := 2
def bQuant : Nat := 3
def bVector : Nat := 4
def bScratch : Nat := 5
def bTally : Nat := 6
def bCoretel : Nat := 7

/-- Page of a logical core. -/
def State.pgL (s : State) (l block : Nat) : Nat := pgCore (s.physOf l) block

/-- Page that owns the queue registers of queue `q`. -/
def State.pgQueue (s : State) (q : Nat) : Nat := if q < 512 then s.pgL (q / 4) bSeq else pgDevqueue

/-- The kinds of mapped page, with their instance (R712). -/
inductive PageKind where
  | device (n : Nat) | die (d n : Nat) | region (r block : Nat) | cluster (c block : Nat) | core (p block : Nat)
deriving DecidableEq, Repr

/-- What a page number maps (R707, R708), or nothing. -/
def pageKind (pg : Nat) : Option PageKind :=
  if pg < 14 then some (.device pg)
  else if 0x400 ≤ pg ∧ pg < 0x480 then
    let d := (pg - 0x400) / 0x40
    let n := pg % 0x40
    if n < 10 then some (.die d n) else none
  else if 0x1000 ≤ pg ∧ pg < 0x2000 then
    let x := pg - 0x1000
    let die := x / 0x800
    let reg := x / 0x200 % 4
    let cs := x / 0x40 % 8
    let ks := x / 8 % 8
    let b := x % 8
    let r := die * 4 + reg
    if cs < 4 ∧ ks < 4 then some (.core ((r * 4 + cs) * 4 + ks) b)
    else if ks = 4 ∧ reg = 0 ∧ cs = 0 then some (.core (128 + die * 2) b)
    else if ks = 4 ∧ reg = 3 ∧ cs = 3 then some (.core (129 + die * 2) b)
    else if cs < 4 ∧ ks = 7 ∧ b < 3 then some (.cluster (r * 4 + cs) b)
    else if cs = 7 ∧ ks = 0 ∧ b < 5 then some (.region r b)
    else none
  else none

/-- Die that numbers the events of a page (R725); device pages count to the west die (log entry 16). -/
def dieOfPage (pg : Nat) : Nat :=
  match pageKind pg with
  | some (.die d _) => d
  | some (.region r _) => r / 4
  | some (.cluster c _) => c / 16
  | some (.core p _) => dieOfPhys p
  | _ => 0

/-! ### Snapshot numbers (R602) -/

/-- Sequence number of the newest complete image in flash, 0 for none. -/
def Flash.newest (f : Flash) : Word :=
  let v := fun x : FlashSlot => if x.complete then x.sequence else 0
  if (v f.slot0).toNat < (v f.slot1).toNat then v f.slot1 else v f.slot0

/-- The number that a snapshot in progress will have. -/
def State.nextSequence (s : State) : Word := s.flash.newest + 1

end Sys2Proof.Machine
end

