-- ==== Sys2Proof/Machine/Operands.lean ====
section
/-! DEFINITION. Operands.lean: the fields of a 64 B command (R452), its signed and address forms, the range checks that
several commands share, and the striping rule of R351. The operands of each opcode are read in its family's file with
these functions. -/

namespace Sys2Proof.Machine

/-- The `n`-byte little-endian field that starts at byte `i` of a command (R12). -/
def fld (e : Entry) (i n : Nat) : Nat := (e.toNat >>> (8 * i)) % 2 ^ (8 * n)

/-- Bits `hi : lo` of byte `i`. -/
def fbits (e : Entry) (i hi lo : Nat) : Nat := nbits (fld e i 1) hi lo

/-- Bit `b` of byte `i`. -/
def fbit (e : Entry) (i b : Nat) : Bool := (fld e i 1).testBit b

/-- Bytes `i` to `i + n - 1` are zero: reserved bytes (R734). -/
def fzero (e : Entry) (i n : Nat) : Bool := fld e i n == 0

/-- Bytes of a field in order. -/
def fbytes (e : Entry) (i n : Nat) : List Byte := leBytes n (fld e i n)

/-- A 16-bit field as a signed number. -/
def signed16 (v : Nat) : Int := if v < 0x8000 then (v : Int) else (v : Int) - 0x10000

/-- An 8-bit field as a signed number. -/
def signed8 (v : Nat) : Int := if v < 0x80 then (v : Int) else (v : Int) - 0x100

/-! ### Header (R452) -/

def opcode (e : Entry) : Nat := fld e 0 1
def waitEn (e : Entry) : Bool := fbit e 1 0
def signalEn (e : Entry) : Bool := fbit e 1 1
def skipIfWidened (e : Entry) : Bool := fbit e 1 2
def skipIfNotWidened (e : Entry) : Bool := fbit e 1 3
def runAheadOk (e : Entry) : Bool := fbit e 1 4
def barrier (e : Entry) : Bool := fbit e 1 5
def waitTallyOf (e : Entry) : Nat := fld e 2 2
def thresholdOf (e : Entry) : Nat := fld e 4 4
def signalTallyOf (e : Entry) : Nat := fld e 8 2
def incrementOf (e : Entry) : Nat := fld e 10 2
def verdictId (e : Entry) : Nat := fld e 12 4
def verdictSlot (e : Entry) : Nat := fld e 12 1
def verdictTag (e : Entry) : Nat := fld e 13 3

/-- Tally number and logical core of a tally index (R333); bits [15:13] are reserved. -/
def tallyNum (i : Nat) : Nat := i % 64
def tallyCore (i : Nat) : Nat := i / 64 % 128
def tallyReserved (i : Nat) : Bool := decide (i ≥ 0x2000)

/-! ### Frame runs (R463), and what is left of one that has started -/

def runFrames (e : Entry) : List Nat := bitsOf (fld e 16 2) 16
def frameGang (e : Entry) (f : Nat) : Nat := nbits (fld e 18 4) (2 * f + 1) (2 * f)
def runVectors (e : Entry) : Nat := fld e 48 2

/-- Slices of each promotion group of a vector, as (first, count) (R80, R101). -/
def promoGroups (fmt ns : Nat) : List (Nat × Nat) :=
  let w := if fmt ≤ 2 then 4 else 2
  (upTo 0 ((ns + w - 1) / w)).map fun i => (i * w, min w (ns - i * w))

def Run.groups (r : Run) : Nat := runVectors r.job.cmd * (promoGroups r.fmt r.ns).length
/-- Whether gang `g` of the run has promotions left. -/
def Run.gangLeft (r : Run) (g : Nat) : Bool :=
  (runFrames r.job.cmd).any (fun f => frameGang r.job.cmd f == g) && decide (nget 0 r.next g < r.groups)
def Run.usesFrame (r : Run) (f : Nat) : Bool := (runFrames r.job.cmd).contains f && r.gangLeft (frameGang r.job.cmd f)
def Run.left (r : Run) : Bool := (upTo 0 4).any r.gangLeft

/-- `FRAME_RUN_T` (R96). -/
def runTransposed (e : Entry) : Bool := opcode e == 0x22
def gangBase (e : Entry) (g : Nat) : Nat := fbits e (58 + g) 5 0
/-- `W8` lane half of a gang. -/
def gangHalf (e : Entry) (g : Nat) : Bool := fbit e (58 + g) 6

/-- Tiles that eight vectors of a gang take (R90, R100). -/
def groupTiles (transposed : Bool) (fmt : Nat) : Nat :=
  if transposed then 2 else match fmt with
    | 0 => 4
    | 1 => 2
    | _ => 1

/-- Tiles that gang `g` of a run touches (R148). -/
def gangTiles (e : Entry) (fmt g : Nat) : List Nat :=
  upTo (gangBase e g) (groupTiles (runTransposed e) fmt * ((runVectors e + 7) / 8))

/-- Gangs that a run uses, ascending (R68). -/
def runGangs (e : Entry) : List Nat := (upTo 0 4).filter fun g => (runFrames e).any fun f => frameGang e f == g

/-- Whether the run still has promotions to write into tile `t`. -/
def Run.touches (r : Run) (t : Nat) : Bool :=
  (runGangs r.job.cmd).any fun g => r.gangLeft g && (gangTiles r.job.cmd r.fmt g).contains t

/-! ### Ledger commands (R150, R152) -/

def ledFirst (e : Entry) : Nat := fbits e 16 5 0
def ledCount (e : Entry) : Nat := fld e 17 1
def ledTiles (e : Entry) : List Nat := upTo (ledFirst e) (ledCount e)

/-! ### Rail takes (R384, R385) -/

/-- Frames that a RAIL_TAKE's planes entries name, in the order of R385, with the image that each takes. -/
def takeEntries (e : Entry) : List Nat := upTo 0 (fld e 17 1)
def takeKind (e : Entry) (i : Nat) : Nat := fbits e (30 + 8 * i) 1 0
def takeFirst (e : Entry) (i : Nat) : Nat := fld e (24 + 8 * i) 4
def takeMask (e : Entry) (i : Nat) : Nat := fld e (28 + 8 * i) 2
def takeArg (e : Entry) (i : Nat) : Nat := fld e (31 + 8 * i) 1

def takeFrames (e : Entry) : List Nat :=
  (takeEntries e).flatMap fun i => if takeKind e i = 1 then bitsOf (takeMask e i) 16 else []

/-! ### Shared limits -/

def mult (n a : Nat) : Bool := a % n == 0
def within (lo hi v : Nat) : Bool := decide (lo ≤ v) && decide (v ≤ hi)

/-- Size of a scratchpad (R304). -/
def scratchSize : Nat := 0x200000

/-- A byte range of a scratchpad: low and high offset, high included. -/
structure Rng where
  lo : Nat
  hi : Nat
deriving DecidableEq, Repr

def Rng.meets (a b : Rng) : Bool := decide (a.lo ≤ b.hi) && decide (b.lo ≤ a.hi)

/-- The range of `len` bytes at `a`. -/
def rng (a len : Nat) : Rng := ⟨a, a + len - 1⟩

/-- Hull of `n` pieces of `len` bytes, `stride` apart (R327). -/
def strided (a n stride len : Nat) : Rng := ⟨a, a + (n - 1) * stride + len - 1⟩

/-- Slots that a range touches (R319). -/
def Rng.slots (r : Rng) : List Nat := upTo (r.lo / 4096) (r.hi / 4096 + 1 - r.lo / 4096)

/-- Slots that strided pieces touch. -/
def pieceSlots (a n stride len : Nat) : List Nat :=
  if stride ≤ 4096 then (strided a n stride len).slots
  else (upTo 0 n).flatMap fun i => (rng (a + i * stride) len).slots

/-- Members of a mask in ascending order, and their count (R351). -/
def maskCount (mask : Nat) : Nat := (bitsOf mask 4).length

/-- Rank of core `k` of a cluster among the members of a mask. -/
def rankOf (mask k : Nat) : Nat := ((bitsOf mask 4).filter fun j => decide (j < k)).length
/-- Operation of a VECTOR command (R279). -/
def vOp (e : Entry) : Nat := fld e 16 1

end Sys2Proof.Machine
end

