-- ==== Sys2Proof/Machine/LedgerStore.lean ====
section
/-! DEFINITION. LedgerStore.lean: entries, flags, check words and address window of a core's ledger (R133 to R145, R168
to R170). -/

namespace Sys2Proof.Machine

/-- Largest magnitude of an entry (R134). -/
def ledMax : Int := 140737488355327

/-- Saturation of R143. -/
def ledClamp (x : Int) : Int := if x > ledMax then ledMax else if x < -ledMax then -ledMax else x

/-- Key of row `row` of tile `t`; row 8 is the lane-sum row. -/
def ledRow (t row : Nat) : Nat := t * 9 + row

def Ledger.entry (L : Ledger) (t row lane : Nat) : Int := nget 0 L.entries (ledRow t row * 128 + lane)
def Ledger.row (L : Ledger) (t row : Nat) : NMap Int := nblock L.entries (ledRow t row * 128) 128
def Ledger.setRow (L : Ledger) (t row : Nat) (blk : NMap Int) : Ledger :=
  { L with entries := nput L.entries (ledRow t row * 128) 128 blk }

/-- A row as the values that its lanes take, zero entries left out. -/
def rowOf (f : Nat → Int) : NMap Int :=
  (upTo 0 128).filterMap fun l => if f l = 0 then none else some (l, f l)

/-- Code words (R136) that hold lanes `lo` to `hi - 1`. -/
def ledWords (lo hi : Nat) : List Nat := if lo < hi then upTo (48 * lo / 256) ((48 * hi - 1) / 256 + 1 - 48 * lo / 256) else []

/-- Conditions of the code words that a read of lanes `lo` to `hi - 1` of a row meets. -/
def Ledger.conds (L : Ledger) (t row lo hi : Nat) : List WordCond :=
  (ledWords lo hi).filterMap fun w =>
    let c := nget .sound L.cond (ledRow t row * 24 + w)
    if c = .sound then none else some c

/-- Fresh check bits for the code words of lanes `lo` to `hi - 1`; with `keepBad`, a word whose contents are lost stays
so, since the values written were formed from it (log entry 17). -/
def Ledger.freshWords (L : Ledger) (t row lo hi : Nat) (keepBad : Bool) : Ledger :=
  { L with
    cond := nkeep (fun k => !((ledWords lo hi).any fun w => k == ledRow t row * 24 + w) ||
      (keepBad && (nget .sound L.cond k == .uncorrectable))) L.cond }

/-- Add a value to each lane of a row, all at once, and saturate once (R142 to R144); `add l` is the sum of what reaches
lane `l`. Counts the clamps. -/
def Ledger.addRow (L : Ledger) (t row lo hi : Nat) (add : Nat → Int) : Ledger × Nat :=
  let old := L.row t row
  let exact := fun l => nget 0 old l + (if lo ≤ l ∧ l < hi then add l else 0)
  let n := ((upTo 0 128).filter fun l => decide (exact l ≠ ledClamp (exact l))).length
  ((L.setRow t row (rowOf fun l => ledClamp (exact l))).freshWords t row lo hi true, n)

/-- Write values into lanes `lo` to `hi - 1` of a row, saturated (R158). A code word that it writes in part is not read first, and
is sound afterwards (log entry 98). -/
def Ledger.writeRow (L : Ledger) (t row lo hi : Nat) (v : Nat → Int) : Ledger × Nat :=
  let old := L.row t row
  let n := ((upTo lo (hi - lo)).filter fun l => decide (v l ≠ ledClamp (v l))).length
  ((L.setRow t row (rowOf fun l => if lo ≤ l ∧ l < hi then ledClamp (v l) else nget 0 old l)).freshWords t row lo hi false, n)

/-- Clear a tile, lane-sum row and flags included (R151). -/
def Ledger.clearTile (L : Ledger) (t : Nat) : Ledger :=
  { L with
    entries := nclear L.entries (t * 9 * 128) (9 * 128)
    cond := nclear L.cond (t * 9 * 24) (9 * 24)
    sat := nset false L.sat t false
    poison := nset false L.poison t false }

/-- The bytes of a tile in the address window (R168, R169). -/
def Ledger.tileBytes (L : Ledger) (inFlight : Bool) (t : Nat) : NMap Byte :=
  let es := nblock L.entries (t * 9 * 128) (9 * 128)
  let st := b2n (nget false L.sat t) + 2 * b2n (nget false L.poison t) + 4 * b2n inFlight
  (es.flatMap fun e => blockOf (6 * e.1) (leBytes 6 (e.2 % 2 ^ 48).toNat)) ++ blockOf 0x1F00 (leBytes 4 st)

/-- Tiles of the window that a range of offsets touches. -/
def windowTiles (off len : Nat) : List Nat := upTo (off / 0x2000) ((off + len - 1) / 0x2000 + 1 - off / 0x2000)

/-- A read of the address window: `len` bytes from `off`. -/
def Ledger.window (L : Ledger) (inFlight : Nat → Bool) (off len : Nat) : NMap Byte :=
  nblock ((windowTiles off len).flatMap fun t => (L.tileBytes (inFlight t) t).map fun e => (e.1 + t * 0x2000, e.2)) off len

/-- Code words that a window read of `[off, off + len)` meets, as (tile, row, word). -/
def windowWords (off len : Nat) : List (Nat × Nat × Nat) :=
  (windowTiles off len).flatMap fun t => (upTo 0 9).flatMap fun r => (upTo 0 24).filterMap fun w =>
    let a := t * 0x2000 + 768 * r + 32 * w
    if a < off + len ∧ off < a + 32 then some (t, r, w) else none

end Sys2Proof.Machine
end

