-- ==== Sys2Proof/Machine/Events.lean ====
section
/-! DEFINITION. Events.lean: how an error is recorded, logged and sent (R557 to R568, R724, R725, R642). -/

namespace Sys2Proof.Machine

/-- Severities of R557. -/
abbrev noted : Nat := 0
abbrev contained : Nat := 1
abbrev fenceSev : Nat := 2
abbrev deviceStopSev : Nat := 3

/-- First-error record and count of a page (R560, R561). -/
def PageHdr.record (h : PageHdr) (now : DWord) (code : BitVec 16) (sev info : Nat) : PageHdr :=
  if h.count = 0 then
    { h with code := code, info := BitVec.ofNat 32 (info % 2 ^ 28 + 2 ^ 30 * sev), time := now, count := 1, worst := sev }
  else
    { h with
      count := satInc h.count
      info := h.info ||| 0x20000000 ||| (if sev > h.worst then 0x10000000 else 0)
      worst := max h.worst sev }

/-- An event that finds the die's queue full (R642): the oldest noted event makes room, or the new one is dropped. -/
def pushEvent (q : List EventRec) (e : EventRec) : List EventRec × Bool :=
  if q.length < 4096 then (q ++ [e], false)
  else (if q.any (fun x => x.severity == noted) then q.eraseP (fun x => x.severity == noted) ++ [e] else q, true)

/-- An entry of the ERRAGG log (R567): the newest first, 16 at most. -/
def ErrAgg.enter (a : ErrAgg) (e : LogEntry) : ErrAgg :=
  { a with
    log := (e :: a.log).take 16
    logLost := if a.log.length < 16 then a.logLost else satInc a.logLost
    worst := max a.worst e.severity }

/-- Codes whose information no rule states: it is open (log entry 40). -/
def openInfoCodes : List (BitVec 16) :=
  [0x0701, 0x0703, 0x0710, 0x0711, 0x0713, 0x0802, 0x0803, 0x0807, 0x0808, 0x0809] ++
  [0x0A01, 0x0A02, 0x0A03, 0x0A05, 0x0A06, 0x0A07, 0x0A08, 0x0A09, 0x0A0A]

/-- Codes of the FRAMES page that name a frame and its active plane, and those that name none; R93 lays the information of both
out in 20 bits, and what the code does not give of it is open (R586; log entry 40). -/
def planeCodes : List (BitVec 16) := [0x0102, 0x0120, 0x0122]
def runCodes : List (BitVec 16) := [0x0121, 0x0123, 0x0124, 0x0125, 0x0126, 0x0127, 0x0128, 0x0129]

/-- Information of an event: what the raiser gives, or open. -/
def State.infoOf (s : State) (code : BitVec 16) (info : Nat) : Nat × State :=
  if openInfoCodes.contains code then s.open_
  else if planeCodes.contains code then (let o := s.open_; (info % 32 + o.1 % 2 ^ 15 * 32, o.2))
  else if runCodes.contains code then (let o := s.open_; (o.1 % 2 ^ 20, o.2))
  else (info, s)

/-- Record, log and queue one event. `emit` is false where a chapter's rate limit holds the EVENT back (R563). -/
def State.raiseOne (s : State) (pg : Nat) (code : BitVec 16) (sev info extra : Nat) (emit inj : Bool) : State :=
  let h := s.page pg
  let info32 := BitVec.ofNat 32 (info % 2 ^ 28 + 2 ^ 30 * sev)
  let first := h.count = 0
  let s := s.modPage pg fun h => h.record s.time.now code sev info
  let src := BitVec.ofNat 32 (4096 * pg)
  let s := if sev ≥ contained ∨ h.route.getLsbD 1 then
      s.setErr (s.err.enter ⟨code, sev, inj, src, info32, s.time.now⟩) else s
  if emit ∧ (sev ≥ contained ∨ h.route.getLsbD 0) then
    let d := dieOfPage pg
    let rec_ : EventRec :=
      { code := code, severity := sev, injected := inj, first := first, freeRunning := s.time.state ≠ 2, source := src,
        time := s.time.now, info := if first then info32 else info32 ||| (s.page pg).info &&& 0x30000000,
        extra := BitVec.ofNat 32 extra, seq := (s.die d).evSeq }
    let r := pushEvent (s.die d).events rec_
    let s := s.modDie d fun x => { x with events := r.1, evSeq := x.evSeq + 1 }
    if r.2 then s.setNet { s.net with eventsLost := satInc s.net.eventsLost } else s
  else s

/-- One second of device time, in ns. -/
def oneSecond : Nat := 1000000000

/-- At most once per second: whether the latest happening lies a second back. -/
def State.secondPast (s : State) (at_ : Option Nat) : Bool :=
  match at_ with
  | none => true
  | some t => decide (t + oneSecond ≤ s.time.now.toNat)

/-- Raise an event on a page; each loss under R642 raises EVENTS_LOST (0x080A), whose EVENT goes at most once per second (R563). -/
def State.raiseFull (s : State) (pg : Nat) (code : BitVec 16) (sev info extra : Nat) (emit inj : Bool) : State :=
  let lost := s.net.eventsLost
  let i := s.infoOf code info
  let s := i.2.raiseOne pg code sev i.1 extra emit inj
  if s.net.eventsLost = lost then s
  else if s.secondPast s.net.eventsLostAt then
    (s.setNet { s.net with eventsLostAt := some s.time.now.toNat }).raiseOne pgTransport 0x080A noted 0 0 true false
  else s.raiseOne pgTransport 0x080A noted 0 0 false false

/-- Raise an event with its page's information. -/
def State.raise (s : State) (pg : Nat) (code : BitVec 16) (sev info : Nat) : State :=
  s.raiseFull pg code sev info 0 true false

/-- Raise a noted event that a chapter sends at most once per 65,536: `before` counts the earlier ones. -/
def State.raiseRare (s : State) (pg : Nat) (code : BitVec 16) (info : Nat) (before : Word) : State :=
  s.raiseFull pg code noted info 0 (before.toNat % 65536 = 0) false

/-- Noted errors of one kind, as many as the number says, of which a chapter's limit lets at most the first raise an EVENT, if `emit`.
Each of them counts (R563). -/
def State.raiseEach (s : State) (pg : Nat) (code : BitVec 16) (info : Nat) (emit : Bool) : Nat → State
  | 0 => s
  | n + 1 => (s.raiseFull pg code noted info 0 emit false).raiseEach pg code info false n

/-- A register write that the block refuses adds 1 to the page's `ERR_COUNT` and names no code. -/
def State.countBad (s : State) (pg : Nat) : State := s.modPage pg fun h => { h with count := satInc h.count }

end Sys2Proof.Machine
end

