-- ==== Sys2Proof/Machine/Stops.lean ====
section
/-! DEFINITION. Stops.lean: what a stop ends in a core, and the stops of the whole device (R378, R393, R474, R543 to R548, R565,
R582). -/

namespace Sys2Proof.Machine

/-! ### Planes, takes and run-ahead commands that a stop touches -/

def Frame.idle (f : Frame) : Plane := if f.active1 then f.p0 else f.p1
def Frame.active (f : Frame) : Plane := if f.active1 then f.p1 else f.p0
def Frame.setIdle (f : Frame) (p : Plane) : Frame := if f.active1 then { f with p0 := p } else { f with p1 := p }

def Core.frame (c : Core) (f : Nat) : Frame := nget .reset c.frames f
def Core.modFrame (c : Core) (f : Nat) (g : Frame → Frame) : Core := { c with frames := nmod .reset c.frames f g }

/-- Plane 0 or plane 1 of a frame. -/
def Frame.plane (f : Frame) (plane1 : Bool) : Plane := if plane1 then f.p1 else f.p0
def Frame.setPlane (f : Frame) (plane1 : Bool) (p : Plane) : Frame := if plane1 then { f with p1 := p } else { f with p0 := p }

/-- Loads that end before their last row leave their planes EMPTY (R57). -/
def Core.emptyTargets (c : Core) (fs : List Nat) : Core :=
  fs.foldl (fun c f => c.modFrame f fun x =>
    if x.idle.st = .loading then x.setIdle { x.idle with st := .empty } else x) c

/-- A cancelled load leaves its target planes EMPTY, whatever had arrived (R393). -/
def Core.voidTargets (c : Core) (fs : List Nat) : Core :=
  fs.foldl (fun c f => c.modFrame f fun x => x.setIdle { x.idle with st := .empty }) c

/-- Target planes of a take become EMPTY, the LOADED ones too (R378, R382). -/
def Core.voidPlanes (c : Core) (ps : List (Nat × Bool)) : Core :=
  ps.foldl (fun c p => c.modFrame p.1 fun x => x.setPlane p.2 { x.plane p.2 with st := .empty }) c

/-- Stream that a RAIL_TAKE names, and whether it carries `LAST` (R384). -/
def takeStream (e : Entry) : Nat := fbits e 16 2 0
def takeLast (e : Entry) : Bool := fbit e 16 3

/-- Whether a take is of opening `gen` of stream `n`, and whether it is one that no skip has ended (R393). -/
def Take.isOn (t : Take) (n gen : Nat) : Bool := takeStream t.job.cmd == n && t.gen == gen
def Take.live (t : Take) (n gen : Nat) : Bool := t.isOn n gen && decide (t.ra ≠ .cancelled)

/-- Frame that a plane copy names (R361). -/
def copyKind (e : Entry) : Nat := fbits e 16 1 0
def copyFrame (e : Entry) : Nat := fbits e 17 3 0
def isPlaneCopy (e : Entry) : Bool := opcode e == 0x10 && copyKind e == 1

/-- An issued command of a queue is no longer in progress. -/
def QState.release (x : QState) (id : Nat) : QState := { x with flight := x.flight.filter fun f => f.id != id }

/-- Unconfirmed run-ahead commands of queue `q`. -/
def Core.unconfirmed (c : Core) (q : Nat) : List Job :=
  ((c.dma.filter fun d => d.ra == .unconfirmed && d.job.q == q).map fun d => d.job) ++
    (c.takes.filter fun t => t.ra == .unconfirmed && t.job.q == q).map fun t => t.job

/-- Place of an unconfirmed command in its queue's `passed`: both follow the order of the starts. -/
def Core.aheadPlace (c : Core) (j : Job) : Nat := ((c.unconfirmed j.q).filter fun i => decide (i.id < j.id)).length

def Core.dropTake (c : Core) (j : Job) : Core :=
  { c with takes := c.takes.filter fun t => !(t.job.q == j.q && t.job.id == j.id) }

/-- A take ends with its core's part in the stream (R378): its targets become EMPTY. One that has issued is no longer in
progress; one that runs ahead is cancelled, and its queue has not passed it any more (R392). -/
def Core.endTake (c : Core) (t : Take) : Core :=
  let k := c.aheadPlace t.job
  let c := (c.voidPlanes t.targets).dropTake t.job
  if t.ra = .unconfirmed then
    { c.modQueue (t.job.q % 4) (fun x => { x with passed := x.passed.eraseIdx k }) with
      scr := { c.scr with raCancelled := satInc c.scr.raCancelled } }
  else c.modQueue (t.job.q % 4) fun x => x.release t.job.id

/-- Every unfinished take of core `l` on the present opening of a stream ends. -/
def State.endTakes (s : State) (l stream : Nat) : State :=
  s.modLcore l fun c => (c.takes.filter fun t => t.live stream (s.stream stream).gen).foldl Core.endTake c

/-- A core leaves a stream's taker set (R378); through a fence it raises RAIL_TAKER_DROPPED (0x0454). -/
def State.leaveStream (s : State) (l stream : Nat) (fenced : Bool) : State :=
  if !(s.stream stream).takers.contains l then s else
  let s := s.modStream stream fun x => { x with takers := x.takers.filter (· ≠ l) }
  let s := s.endTakes l stream
  if fenced then
    let s : State := s.setRail { s.rail with takersDropped := satInc s.rail.takersDropped }
    s.raise (pgRail (regionOf l)) 0x0454 noted (stream + l * 8)
  else s

/-- A run-ahead command is cancelled before confirmation (R393): its planes become EMPTY. -/
def Core.cancelRunAhead (c : Core) (i : Nat) : Core :=
  let dm := c.dma.filter fun d => d.ra == .unconfirmed && d.job.q % 4 == i
  let tk := c.takes.filter fun t => t.ra == .unconfirmed && t.job.q % 4 == i
  let c := c.voidTargets ((dm.filter fun d => isPlaneCopy d.job.cmd).map (fun d => copyFrame d.job.cmd) ++
    tk.flatMap fun t => takeFrames t.job.cmd)
  let n := dm.length + tk.length
  let c := c.modQueue i fun x => { x with passed := [] }
  { c with
    dma := c.dma.filter fun d => !(d.ra == .unconfirmed && d.job.q % 4 == i)
    takes := c.takes.filter fun t => !(t.ra == .unconfirmed && t.job.q % 4 == i)
    scr := { c.scr with
      raCancelled := satAdd c.scr.raCancelled n
      sb := c.scr.sb.filter fun b => !dm.any (fun d => d.job.id == b.id && d.job.q == b.q) } }

/-! ### A queue stops (R474), and the units of a core end -/

def QState.index (x : QState) : Nat := match x.seg with
  | some sg => sg.index
  | none => 0

def QState.stopAt (x : QState) (code : BitVec 16) (ended : Bool) : QState :=
  { x with
    stopped := true, stopCode := code, stopEnded := ended, stopHead := x.head
    stopIndex := BitVec.ofNat 16 x.index, stopRequest := false, stops := satInc x.stops, heldStep := 0
    waitValid := false, passed := [], woken := false }

/-- Every unit of a core ends its commands without writes and without signals. -/
def Core.endUnits (c : Core) : Core :=
  let loading := (upTo 0 16).filter fun f => decide ((c.frame f).idle.st = .loading)
  let c := c.emptyTargets loading
  let dm := c.dma.filter fun d => d.ra == .unconfirmed
  let tk := c.takes.filter fun t => t.ra == .unconfirmed
  let n := dm.length + tk.length
  let c := c.voidTargets ((dm.filter fun d => isPlaneCopy d.job.cmd).map (fun d => copyFrame d.job.cmd) ++
    tk.flatMap fun t => takeFrames t.job.cmd)
  let c := (upTo 0 4).foldl (fun c i => c.modQueue i fun x => { x with flight := [], passed := [], heldStep := 0, waitValid := false }) c
  { c with
    runs := [], swaps := [], dma := [], takes := [], commits := []
    frames := c.frames.filterMap fun e => if e.2.swapPending then
      (let f := { e.2 with swapPending := false }; if f = .reset then none else some (e.1, f)) else some e
    ledger := { c.ledger with port := [] }
    quant := { c.quant with unit := [] }
    vec := { c.vec with unit := [] }
    scr := { c.scr with sb := [], raCancelled := satAdd c.scr.raCancelled n } }

/-- Information of the events of R586. -/
def errInfo (l cl r : Nat) (cause : BitVec 16) : Nat := l + 2 ^ 7 * cl + 2 ^ 12 * r + 2 ^ 15 * (cause.toNat % 4096)

/-! ### Stops of the whole device (R582, R543 to R548) -/

/-- All 528 queues stop with one code, whatever stop they had, and their units end without signals. With `rewind`, a
queue stands before its oldest command that had not completed (R548). -/
def QState.deviceStop (x : QState) (code : BitVec 16) (rewind : Bool) : QState :=
  let x := match rewind, x.flight with
    | true, f :: _ => { x with head := f.head, seg := f.seg }
    | _, _ => x
  { x.stopAt code false with flight := [] }

def State.stopEverything (s : State) (code : BitVec 16) (rewind : Bool) : State :=
  let s := s.forEach allPhys fun s p =>
    if s.dark p then s else
    s.modCore p fun c =>
      let c := (upTo 0 4).foldl (fun c i => c.modQueue i fun x => x.deviceStop code rewind) c
      let c := c.endUnits
      if c.fence = .inService then c else { c with fence := .fenced }
  let s := s.forEach (upTo 0 16) fun s n =>
    s.setDevq (nmod .reset s.devq n fun x => x.deviceStop code rewind)
  let s : State := (s.setCloses []).setRail { s.rail with streams := [] }
  let s := s.forEach (upTo 0 32) fun s c => s.modCluster c fun x => { x with held := [] }
  s.forEach (upTo 0 4) fun s n =>
    if (s.spare n).starting then s.setRemap (s.remap.put n .reset) else s

/-- Staging holds no complete image any more: the header there, if any, loses its `COMPLETE` bit (R588, R601). What an ended copy
leaves in the rest of staging is not said; the model leaves it as it was (DESIGN CHOICE, log entry 113). -/
def State.voidStaging (s : State) : State :=
  let a := s.snap.stagingBase.toNat + 2
  if s.snap.stagingSize = 0 then s
  else s.setMem (putMem s.mem a 1 (blockOf 0 [BitVec.ofNat 8 (nget 0 s.mem a).toNat &&& 0xFB]))

/-- A device-stop or stop during the quiesce or the copy of a snapshot abandons it (R601). -/
def State.abandonSnap (s : State) : State :=
  match s.snap.phase with
  | .quiescing | .copying =>
    (s.voidStaging.setSnap { s.snap with phase := .idle, stagingValid := false }).raise pgSnapshot 0x0907 noted
      (s.nextSequence.toNat % 65536)
  | .restoring => s.setSnap { s.snap with phase := .idle }
  | .idle => s

/-- An error of severity device-stop (R582): the page's event is already raised. In a device that a stop holds, an error is counted
and logged and no more (R565). -/
def State.deviceStop (s : State) (cause : BitVec 16) : State :=
  if s.err.deviceStopped ∨ s.power.stop ≠ .none then s else
  let s := s.abandonSnap.stopEverything 0x0B01 false
  let s : State := s.setErr { s.err with deviceStopped := true, stopCode := cause }
  s.raiseFull pgErragg 0x0B01 deviceStopSev (errInfo 0 0 0 cause) cause.toNat true false

/-- Coolant, leak and trip stops (R543 to R545): the event is already raised. Filler activity stops, and the core rails drop to the
retention voltage, which ends a step of an operating point under way. -/
def State.powerStop (s : State) (why : StopCause) (code : BitVec 16) : State :=
  if s.err.deviceStopped ∨ s.power.stop ≠ .none then s else
  let s := s.abandonSnap.stopEverything code true
  let s := s.forEach (upTo 0 8) fun s r => s.modRegion r fun x =>
    { x with filler := false, railMv := Config.retentionMv, target := x.point, step := none }
  s.setPower { s.power with stop := why, restartReady := false, fillerActive := false, fillerNext := false, fillerMw := 0 }

/-- Raise an event of severity device-stop and stop the device with it. -/
def State.raiseStop (s : State) (pg : Nat) (code : BitVec 16) (info : Nat) : State :=
  (s.raise pg code deviceStopSev info).deviceStop code

end Sys2Proof.Machine
end

