-- ==== Sys2Proof/Machine/Ops.lean ====
section
/-! DEFINITION. Ops.lean: the data address map and its reads and writes with the integrity code (R400 to R414, R304 to
R316, R168 to R171), slot tags and the activity of the queues. -/

namespace Sys2Proof.Machine

/-! ### The data address map (R400, R401) -/

/-- One range of the map that holds an address, with the offset within it. -/
inductive Place where
  | tier1 (r off : Nat) | tier2 (off : Nat) | scratch (l off : Nat) | ledger (l off : Nat)
deriving DecidableEq, Repr

def tier1Size : Nat := 0x10_0000_0000
def tier2Base : Nat := 0x0100_0000_0000
def tier2Size : Nat := 0x180_0000_0000
def scratchBase : Nat := 0x0400_0000_0000
def ledgerBase : Nat := 0x0500_0000_0000
def ledgerSize : Nat := 0x80000

def scratchAddr (l off : Nat) : Nat := scratchBase + scratchSize * l + off

def placeOf (a : Nat) : Option Place :=
  if a < 8 * tier1Size then some (.tier1 (a / tier1Size) (a % tier1Size))
  else if tier2Base ≤ a ∧ a < tier2Base + tier2Size then some (.tier2 (a - tier2Base))
  else if scratchBase ≤ a ∧ a < scratchBase + 128 * scratchSize then
    some (.scratch ((a - scratchBase) / scratchSize) ((a - scratchBase) % scratchSize))
  else if ledgerBase ≤ a ∧ a < ledgerBase + 128 * ledgerSize then
    some (.ledger ((a - ledgerBase) / ledgerSize) ((a - ledgerBase) % ledgerSize))
  else none

/-- The place of an access that lies wholly within one range (R401). -/
def wholePlace (a len : Nat) : Option Place :=
  match placeOf a, placeOf (a + (len - 1)) with
  | some (.tier1 r o), some (.tier1 r' _) => if r = r' then some (.tier1 r o) else none
  | some (.tier2 o), some (.tier2 _) => some (.tier2 o)
  | some (.scratch l o), some (.scratch l' _) => if l = l' then some (.scratch l o) else none
  | some (.ledger l o), some (.ledger l' _) => if l = l' then some (.ledger l o) else none
  | _, _ => none

def Place.isTier : Place → Bool
  | .tier1 _ _ => true
  | .tier2 _ => true
  | _ => false

/-- Wholly in Tier 1 (R421): a run of its stacks. -/
def inTier1 (a len : Nat) : Bool := decide (a + len ≤ 8 * tier1Size)
def inTier2 (a len : Nat) : Bool := decide (tier2Base ≤ a) && decide (a + len ≤ tier2Base + tier2Size)
/-- Wholly in one tier. -/
def inTier (a len : Nat) : Bool := inTier1 a len || inTier2 a len

/-- Channel and memory page of a Tier 2 offset (R404). -/
def State.tier2Map (s : State) (o : Nat) : Nat × Nat :=
  let b := 24 * 2 ^ 30 * s.split.toNat
  if o < b then (o / 4096 % 24, o / 4096 / 24)
  else
    let per := (tier2Size - b) / 8
    let r := (o - b) / per
    let m := (o - b) % per / 4096
    (3 * r + m % 3, b / (24 * 4096) + m / 3)

/-- Controller that holds a tier address: 0 to 7 Tier 1 stacks, 8 + c channel c of Tier 2. -/
def State.ctlOf (s : State) (a : Nat) : Nat :=
  if a < tier2Base then a / tier1Size else 8 + (s.tier2Map (a - tier2Base)).1

/-- Region of a controller. -/
def ctlRegion (k : Nat) : Nat := if k < 8 then k else (k - 8) / 3
/-- Page of a controller. -/
def ctlPage (k : Nat) : Nat := if k < 8 then pgTier1 k else pgTier2 ((k - 8) / 3)

/-- Memory page within the stack or channel of a tier address. -/
def State.memPage (s : State) (a : Nat) : Nat :=
  if a < tier2Base then a % tier1Size / 4096 else (s.tier2Map (a - tier2Base)).2

/-- Information of a tier event (R442). -/
def State.tierInfo (s : State) (a : Nat) : Nat :=
  s.memPage a + (if a < tier2Base then 0 else (s.tier2Map (a - tier2Base)).1 % 3 * 2 ^ 24)

/-- A tier event on the page of the controller that holds `a`. -/
def State.tierEvent (s : State) (a : Nat) (code : BitVec 16) (sev : Nat) : State :=
  s.raise (ctlPage (s.ctlOf a)) code sev (s.tierInfo a)

/-- Corrections that a tier's page has counted, on all its channels. -/
def State.pageCorrected (s : State) (k : Nat) : Word :=
  if k < 8 then (s.ctl k).corrected
  else
    let r := (k - 8) / 3
    satAdd (s.ctl (8 + 3 * r)).corrected ((s.ctl (9 + 3 * r)).corrected.toNat + (s.ctl (10 + 3 * r)).corrected.toNat)

/-- Ask the controller to retire the memory page of `a` (R408, R409): PAGE_RETIRED does it. -/
def State.failPage (s : State) (a : Nat) : State :=
  s.modCtl (s.ctlOf a) fun k => if k.failing.contains (a / 4096) then k else { k with failing := k.failing ++ [a / 4096] }

/-! ### Who reads or writes (R308, R347) -/

/-- An initiator: its queue within its core, its order in R308, whether the scratchpad sees it as inbound, its die (none: the
network, whose packets arrive on either), and the queue whose commands do the access (R549). -/
structure Who where
  q : Nat
  src : Nat
  inbound : Bool
  die : Option Nat
  user : Option Nat
deriving DecidableEq, Repr

/-- A unit of the core of queue `q`, by its order in R308. -/
def unitWho (q src : Nat) : Who := ⟨q % 4, src, false, some (dieOf (q / 4)), some q⟩

def scratchInfo (off : Nat) (w : Who) : Nat := off / 32 % 65536 + 2 ^ 16 * (w.q % 4) + 2 ^ 18 * w.src

/-! ### Injection (R584) -/

/-- Whether injection is open: lifecycle state TEST or test mode, with `ERRAGG.INJECT_EN` set. -/
def State.injectOpen (s : State) : Bool := (decide (s.fuses.lifecycle = 1) || decide (s.boot.mode = 2)) && s.err.injectEn

/-- What an armed injection of kind 1 or 2 does to the next word that the page's block writes; it fires and disarms. -/
def State.takeInjection (s : State) (pg : Nat) : State × WordCond :=
  let i := (s.page pg).inject
  let kind := i.toNat % 8
  if s.injectOpen ∧ i.getLsbD 3 ∧ (kind = 1 ∨ kind = 2) then
    (if i.getLsbD 4 then s else s.modPage pg fun h => { h with inject := h.inject &&& 0xFFFFFFF7 },
      if kind = 1 then .correctable else .uncorrectable)
  else (s, .sound)

/-- Whether an armed injection of kind 3 fails the block's next check compare; it fires and disarms. -/
def State.takeCheckFault (s : State) (pg : Nat) : State × Bool :=
  let i := (s.page pg).inject
  if s.injectOpen ∧ i.getLsbD 3 ∧ i.toNat % 8 = 3 then
    (if i.getLsbD 4 then s else s.modPage pg fun h => { h with inject := h.inject &&& 0xFFFFFFF7 }, true)
  else (s, false)

/-! ### Reads -/

/-- Result of a read: the bytes, and how many of them precede the first word that cannot be read (all: `code` 0). -/
structure Rd where
  blk : NMap Byte
  good : Nat
  code : BitVec 16
deriving DecidableEq, Repr

def lostWord (c : WordCond) : Bool := decide (c = .uncorrectable) || decide (c = .poison)

/-- Words `a / 32` of a condition map within `[a, a + len)` that are not sound, ascending. -/
def condsIn (m : NMap WordCond) (a len : Nat) : NMap WordCond :=
  nkeep (fun k => decide (a / 32 ≤ k) && decide (k ≤ (a + len - 1) / 32)) m

/-- Key of the first lost word among conditions. -/
def firstLost : NMap WordCond → Option Nat
  | [] => none
  | (k, c) :: m => if lostWord c then some k else firstLost m

def rdOf (m : List Host.Cell) (conds : NMap WordCond) (a len : Nat) (code : BitVec 16) : Rd :=
  let blk := nblock m a len
  match firstLost (condsIn conds a len) with
  | none => ⟨blk, len, 0⟩
  | some k => ⟨blk, k * 32 - a, code⟩

/-- Whether an accumulate, clear or load to a ledger tile is under way (R170): a run has promotions to it left, or a command at
the port names it. A command that queues at the port behind its holder counts as under way too (log entry 18). -/
def Core.tileStale (c : Core) (t : Nat) : Bool :=
  c.runs.any (fun r => r.touches t) ||
    c.ledger.port.any fun j => decide (opcode j.job.cmd ≠ 0x29) && (ledTiles j.job.cmd).contains t

/-- The same, drains included (R169). -/
def Core.tileBusy (c : Core) (t : Nat) : Bool :=
  c.tileStale t || c.ledger.port.any fun j => (ledTiles j.job.cmd).contains t

/-- Read `len` bytes at a data address, without the marks that the read leaves. The caller has checked the range. -/
def State.peek (s : State) (a len : Nat) : Rd :=
  match wholePlace a len with
  | some (.tier1 _ _) => rdOf s.mem s.memCond a len 0x0502
  | some (.tier2 _) => rdOf s.mem s.memCond a len 0x0502
  | some (.scratch l off) => rdOf (s.lcore l).scr.mem (s.lcore l).scr.cond off len 0x0402
  | some (.ledger l off) =>
    let c := s.lcore l
    let L := c.ledger
    let blk := L.window c.tileBusy off len
    match (windowWords off len).find? fun x => decide (nget .sound L.cond (ledRow x.1 x.2.1 * 24 + x.2.2) = .uncorrectable) with
    | none => ⟨blk, len, 0⟩
    | some x => ⟨blk, x.1 * 0x2000 + 768 * x.2.1 + 32 * x.2.2 - off, 0x0114⟩
  | none => ⟨[], 0, 0x0441⟩

/-- A scratchpad read met a word that is not sound (R314 to R316). -/
def State.noteScratchWord (s : State) (l : Nat) (w : Who) (k : Nat) (c : WordCond) : State :=
  let pg := s.pgL l bScratch
  let sc := (s.lcore l).scr
  if lostWord c then
    (s.modLcore l fun c => { c with scr := { c.scr with uncorrectable := satInc c.scr.uncorrectable } }).raise pg 0x0402
      contained (scratchInfo (32 * k) w)
  else
    let s := s.modLcore l fun c =>
      let room := c.scr.writeback.length < 8
      { c with scr := { c.scr with
          corrected := satInc c.scr.corrected
          writeback := if c.scr.writeback.contains k then c.scr.writeback
            else if room then c.scr.writeback ++ [k] else c.scr.writeback
          writebackDropped := if room ∨ c.scr.writeback.contains k then c.scr.writebackDropped
            else satInc c.scr.writebackDropped } }
    s.raiseRare pg 0x0401 (scratchInfo (32 * k) w) sc.corrected

/-- A corrected word is written back and read again; where the error persists, its memory page fails (R408). The write-back is a
write of the block, at which an armed injection fires (DEDUCED, log entry 101). -/
def State.writeBackTier (s : State) (k : Nat) : State :=
  let r := s.takeInjection (ctlPage (s.ctlOf (32 * k)))
  let s : State := r.1.setMemCond (nset .sound r.1.memCond k r.2)
  if r.2 = .sound then s else s.failPage (32 * k)

/-- A tier read met a word that is not sound (R408 to R410). -/
def State.noteTierWord (s : State) (k : Nat) (c : WordCond) : State :=
  let a := 32 * k
  let ctl := s.ctlOf a
  if c = .correctable then
    let before := s.pageCorrected ctl
    let s := s.modCtl ctl fun x => { x with corrected := satInc x.corrected }
    (s.raiseRare (ctlPage ctl) 0x0501 (s.tierInfo a) before).writeBackTier k
  else
    let s := s.modCtl ctl fun x => { x with uncorrectable := satInc x.uncorrectable }
    let s := if c = .poison then s else s.failPage a
    s.tierEvent a 0x0502 contained

/-- Information of a LEDGER event: tile and queue (R172). -/
def ledInfo (t q : Nat) : Nat := t % 64 + q % 4 * 64

/-- A ledger window read met a code word that is not sound (R170); the record names the queue whose command reads. -/
def State.noteLedgerWord (s : State) (l : Nat) (w : Who) (x : Nat × Nat × Nat) (c : WordCond) : State :=
  let pg := s.pgL l bLedger
  if c = .uncorrectable then s.raise pg 0x0114 contained (ledInfo x.1 w.q)
  else (s.modLcore l fun c => { c with ledger := { c.ledger with corrected := satInc c.ledger.corrected } }).raise pg 0x0113
    noted (ledInfo x.1 w.q)

/-- Tiles that a window read found busy (R170). -/
def State.noteStale (s : State) (l off len : Nat) : State :=
  s.modLcore l fun c =>
    { c with ledger := { c.ledger with
        dbgStale := ((windowTiles off len).filter c.tileStale).foldl (fun m t => m ||| BitVec.ofNat 64 (2 ^ t)) c.ledger.dbgStale } }

/-- Check lines of 96 B that the 256 KiB cache of a channel holds. -/
def checkLines : Nat := 2730

/-- The access to the 1 KiB of data of one check line: a line that the cache does not hold is read, counted and held (R407).
Which line a full cache gives up is open (log entry 41). -/
def State.checkLine (s : State) (line : Nat) : State :=
  let k := s.ctlOf (line * 1024)
  if (s.ctl k).checks.contains line then s else
  let s := s.modRegion (ctlRegion k) fun r => { r with checkMisses := satInc r.checkMisses }
  if (s.ctl k).checks.length < checkLines then s.modCtl k fun c => { c with checks := c.checks ++ [line] }
  else
    let o := s.open_
    o.2.modCtl k fun c => { c with checks := c.checks.eraseIdx (o.1 % checkLines) ++ [line] }

/-- The check lines of an access to Tier 2. -/
def State.checkAccess (s : State) (a len : Nat) : State :=
  if a < tier2Base then s else s.forEach (upTo (a / 1024) ((a + len - 1) / 1024 + 1 - a / 1024)) State.checkLine

/-- The parts of a range that lie in one stack of Tier 1, or in one memory page of Tier 2 (R404): address and length. -/
def tierParts (a len : Nat) : List (Nat × Nat) :=
  let u := if a < tier2Base then tier1Size else 4096
  (upTo (a / u) ((a + len - 1) / u + 1 - a / u)).map fun k => (max a (u * k), min (a + len) (u * (k + 1)) - max a (u * k))

/-- Bytes that the page of a part's controller counts. -/
def State.countPart (s : State) (write : Bool) (p : Nat × Nat) : State :=
  let n : DWord := BitVec.ofNat 64 p.2
  s.modRegion (ctlRegion (s.ctlOf p.1)) fun r =>
    if p.1 < tier2Base then if write then { r with t1Write := r.t1Write + n } else { r with t1Read := r.t1Read + n }
    else if write then { r with t2Write := r.t2Write + n } else { r with t2Read := r.t2Read + n }

/-- Bytes that the counters of the pages take for a tier access, and its check lines. -/
def State.countTier (s : State) (a len : Nat) (write : Bool) : State :=
  (tierParts a len).foldl (fun s p => s.countPart write p) (s.checkAccess a len)

/-! ### Activity of the queues (R549) -/

/-- Kinds of work: 0 slices, 1 MACs, 2 scratchpad bytes, 3 memory bytes, 4 packets. -/
def workKinds : Nat := 5
def workKey (q kind : Nat) : Nat := 8 * q + kind

/-- A queue's commands do `n` units of a kind of work. -/
def State.countWork (s : State) (q kind n : Nat) : State :=
  if n = 0 then s else
  s.setEnergy { s.energy with work := nset 0 s.energy.work (workKey q kind) (nget 0 s.energy.work (workKey q kind) + n) }

/-- The bytes of an access, as work of the queue whose command makes it. -/
def State.countBytes (s : State) (w : Who) (a len : Nat) : State :=
  match w.user, placeOf a with
  | some q, some (.scratch _ _) => s.countWork q 2 len
  | some q, some (.ledger _ _) => s.countWork q 2 len
  | some q, some _ => s.countWork q 3 len
  | _, _ => s

/-! ### The die fabric (R731) -/

/-- A die's fabric carries a word, at which an injection armed on its page fires (DEDUCED, log entry 103): a corrected word is
counted, an uncorrectable one stops the device. -/
def State.fabricWord (s : State) (d : Nat) : State :=
  let before := (s.die d).fabCorrected
  let r := s.takeInjection (pgFabric d)
  match r.2 with
  | .sound => r.1
  | .correctable => (r.1.modDie d fun x => { x with fabCorrected := satInc x.fabCorrected }).raiseRare (pgFabric d) 0x0B16 0 before
  | _ => r.1.raiseStop (pgFabric d) 0x0B12 0

/-- A die's fabric carries a request (FABRIC.REQUESTS; log entry 29). -/
def State.countFabric (s : State) (d : Nat) : State :=
  (s.modDie d fun x => { x with fabRequests := x.fabRequests + 1 }).fabricWord d

/-- An access from outside the core: its bytes, and a request of the fabric of its die. -/
def State.countInbound (s : State) (l len : Nat) (w : Who) : State :=
  if w.inbound then
    (s.modLcore l fun c => { c with scr := { c.scr with inboundBytes := c.scr.inboundBytes + BitVec.ofNat 64 len } }).countFabric
      (dieOf l)
  else s

/-- A read of a ledger window from outside the core is a request too. -/
def State.noteRemote (s : State) (l : Nat) (w : Who) : State := if w.inbound then s.countFabric (dieOf l) else s

/-- Die whose memory holds a data address. -/
def State.dieAt (s : State) (a : Nat) : Nat :=
  match placeOf a with
  | some (.tier1 _ _) => ctlRegion (s.ctlOf a) / 4
  | some (.tier2 _) => ctlRegion (s.ctlOf a) / 4
  | some (.scratch l _) => dieOf l
  | some (.ledger l _) => dieOf l
  | none => 0

/-- Bytes of a range that lie on the other die than `d`; a memory page lies on one die. -/
def State.farBytes (s : State) (d a len : Nat) : Nat :=
  (((upTo (a / 4096) ((a + len - 1) / 4096 + 1 - a / 4096)).filter fun k => s.dieAt (4096 * k) != d).map fun k =>
    min (4096 * (k + 1)) (a + len) - max (4096 * k) a).sum

/-- The bridge carries the bytes of an access whose memory lies on the other die (R39): the die that holds the data sends them for
a read, the initiator's die for a write (`BRIDGE.TX_BYTES`; log entry 28). -/
def State.countBridge (s : State) (w : Who) (a len : Nat) (write : Bool) : State :=
  match w.die with
  | none => s
  | some d =>
    let n := s.farBytes d a len
    if n = 0 then s else s.modDie (if write then d else 1 - d) fun x => { x with bridgeTx := x.bridgeTx + BitVec.ofNat 64 n }

/-- The marks that a read of a range of a tier leaves: its words that are not sound, and its bytes. -/
def State.noteTier (s : State) (a len : Nat) : State :=
  ((condsIn s.memCond a len).foldl (fun s e => s.noteTierWord e.1 e.2) s).countTier a len false

/-- The marks that a read of the words in `[a, a + len)` leaves in its memory. -/
def State.noteWords (s : State) (w : Who) (a len : Nat) : State :=
  match wholePlace a len with
  | some (.tier1 _ _) | some (.tier2 _) => s.noteTier a len
  | some (.scratch l off) =>
    ((condsIn (s.lcore l).scr.cond off len).foldl (fun s e => s.noteScratchWord l w e.1 e.2) s).countInbound l len w
  | some (.ledger l off) =>
    let L := (s.lcore l).ledger
    (windowWords off len).foldl (fun s x =>
      let c := nget .sound L.cond (ledRow x.1 x.2.1 * 24 + x.2.2)
      if c = .sound then s else s.noteLedgerWord l w x c) ((s.noteStale l off len).noteRemote l w)
  | none => s

/-- The marks that a read of `len` bytes at `a` leaves: corrections, counters, events. -/
def State.noteRead (s : State) (w : Who) (a len : Nat) : State :=
  if len = 0 then s else ((s.noteWords w a len).countBridge w a len false).countBytes w a len

/-- Read with its marks: up to and including the first word that cannot be read. -/
def State.read (s : State) (w : Who) (a len : Nat) : Rd × State :=
  let r := s.peek a len
  (r, s.noteRead w a (if r.good = len then len else min len (r.good + 32 - (a + r.good) % 32)))

/-! ### Writes -/

/-- Words that a write of `[a, a + len)` covers in part. -/
def partialWords (a len : Nat) : List Nat :=
  (if a % 32 ≠ 0 ∨ len < 32 then [a / 32] else []) ++
    (if (a + len) % 32 ≠ 0 ∧ (a + len) / 32 ≠ a / 32 then [(a + len) / 32] else [])

/-- Partial words of a write whose contents are lost, so that their part is dropped (R313, R406). -/
def lostPartial (conds : NMap WordCond) (a len : Nat) : List Nat :=
  (partialWords a len).filter fun k => lostWord (nget .sound conds k)

/-- Bytes of a memory after a write; the parts in lost words are dropped. -/
def putBytes (m : List Host.Cell) (conds : NMap WordCond) (a len : Nat) (blk : NMap Byte) : List Host.Cell :=
  (lostPartial conds a len).foldl (fun m' k => putMem m' (k * 32) 32 (nblock m (k * 32) 32)) (putMem m a len blk)

/-- Conditions after a write: fresh check bits, except in the words that dropped their part. -/
def putConds (conds : NMap WordCond) (a len : Nat) : NMap WordCond :=
  nkeep (fun k => !(decide (a / 32 ≤ k) && decide (k ≤ (a + len - 1) / 32)) || (lostPartial conds a len).contains k) conds

/-- Write to a tier. The code is 0, or tells of a word that dropped its part. -/
def State.writeTier (s : State) (a len : Nat) (blk : NMap Byte) : State × BitVec 16 :=
  let lost := lostPartial s.memCond a len
  let soft := (partialWords a len).filter fun k => decide (nget .sound s.memCond k = .correctable)
  let s := soft.foldl (fun s k => s.noteTierWord k .correctable) s
  let s := lost.foldl (fun s k => s.noteTierWord k (nget .sound s.memCond k)) s
  let m := putBytes s.mem s.memCond a len blk
  let cs := putConds s.memCond a len
  let s : State := (s.setMem m).setMemCond cs
  let inj := s.takeInjection (ctlPage (s.ctlOf a))
  let s := inj.1
  let s := if inj.2 = .sound then s else s.setMemCond (nset .sound s.memCond (a / 32) inj.2)
  (s.countTier a len true, if lost.isEmpty then 0 else 0x0502)

/-- Write to a logical core's scratchpad. -/
def State.writeScratch (s : State) (w : Who) (l off len : Nat) (blk : NMap Byte) : State × BitVec 16 :=
  let sc := (s.lcore l).scr
  let lost := lostPartial sc.cond off len
  let soft := (partialWords off len).filter fun k => decide (nget .sound sc.cond k = .correctable)
  let s := soft.foldl (fun s k => s.noteScratchWord l w k .correctable) s
  let s := lost.foldl (fun s k => s.noteScratchWord l w k .uncorrectable) s
  let s := s.modLcore l fun c =>
    { c with scr := { c.scr with
        mem := putBytes c.scr.mem c.scr.cond off len blk
        cond := putConds c.scr.cond off len
        writeback := c.scr.writeback.filter fun k => !(decide (off / 32 ≤ k) && decide (k ≤ (off + len - 1) / 32)) } }
  let inj := s.takeInjection (s.pgL l bScratch)
  let s := inj.1
  let s := if inj.2 = .sound then s else
    s.modLcore l fun c => { c with scr := { c.scr with cond := nset .sound c.scr.cond (off / 32) inj.2 } }
  (s.countInbound l len w, if lost.isEmpty then 0 else 0x0402)

/-- Write `len` bytes at a data address. The ledger drops and counts a write to its window (R171). -/
def State.write (s : State) (w : Who) (a len : Nat) (blk : NMap Byte) : State × BitVec 16 :=
  if len = 0 then (s, 0) else
  let s := (s.countBridge w a len true).countBytes w a len
  match wholePlace a len with
  | some (.tier1 _ _) => s.writeTier a len blk
  | some (.tier2 _) => s.writeTier a len blk
  | some (.scratch l off) => s.writeScratch w l off len blk
  | some (.ledger l _) =>
    (s.modLcore l fun c => { c with ledger := { c.ledger with addressWritesDropped := satInc c.ledger.addressWritesDropped } }, 0)
  | none => (s, 0x0441)

/-- Write a list of bytes. -/
def State.writeBytes (s : State) (w : Who) (a : Nat) (bs : List Byte) : State × BitVec 16 :=
  s.write w a bs.length (blockOf 0 bs)

/-- The logical core whose fenced window an access meets (R573). -/
def State.fencedWindow (s : State) (a : Nat) : Bool :=
  match placeOf a with
  | some (.scratch l _) => s.lfenced l
  | some (.ledger l _) => s.lfenced l
  | _ => false

/-- The initiator of a DMA command of queue `q` of core `l` for an access at `a` (R308). -/
def dmaWho (l q a : Nat) : Who :=
  match placeOf a with
  | some (.scratch l' _) => ⟨q % 4, if l' = l then 6 else 7, l' != l, some (dieOf l), some q⟩
  | some (.ledger l' _) => ⟨q % 4, if l' = l then 6 else 7, l' != l, some (dieOf l), some q⟩
  | _ => ⟨q % 4, 6, false, some (dieOf l), some q⟩

/-- The network, as an initiator. Its reads are no queue's; an event of theirs has 0 in its queue bits (DESIGN CHOICE, log entry
111). -/
def netWho : Who := ⟨0, 7, true, none, none⟩

/-- A command of device queue `q`, as an initiator: its accesses count as that queue's work (R549). -/
def deviceWho (q : Nat) : Who := { netWho with die := some ((q - 512) / 8), user := some q }

/-! ### Slot tags (R319 to R323) -/

/-- Set the tags of slots `first` to `first + count - 1`. -/
def Scratch.setTags (c : Scratch) (slots : List Nat) (full : Bool) : Scratch :=
  { c with tags := slots.foldl (fun m k => nset false m k full) c.tags }

def State.setTags (s : State) (l : Nat) (slots : List Nat) (full : Bool) : State :=
  s.modLcore l fun c => { c with scr := c.scr.setTags slots full }

/-- Fill slots under R322, where the core is in slot-tag mode. -/
def State.fillSlots (s : State) (l : Nat) (slots : List Nat) : State :=
  if (s.lcore l).scr.discipline then s else s.setTags l slots true

/-! ### Energy of contexts (R553) -/

/-- Work of a command on a context, for the attribution at the end of the period. -/
def Energy.charge (x : Energy) (j : Job) (ctx weight : Nat) : Energy :=
  let mine := fun c : Charge => c.q == j.q && c.id == j.id && c.ctx == ctx
  if x.charges.any mine then
    { x with charges := x.charges.map fun c => if mine c then { c with weight := c.weight + weight } else c }
  else { x with charges := x.charges ++ [⟨j.q, j.id, ctx, weight⟩] }

def State.charge (s : State) (j : Job) (ctx weight : Nat) : State :=
  if weight = 0 then s else s.setEnergy (s.energy.charge j ctx weight)

/-- Key of a kind of work of command `id` of queue `q`. -/
def cmdKey (q id kind : Nat) : Nat := 8 * (528 * id + q) + kind

/-- What a queue's work has grown by since `old` is work of the command `j`. -/
def State.countCommand (s : State) (j : Job) (old : Energy) : State :=
  s.setEnergy { s.energy with cmdWork := (upTo 0 workKinds).foldl (fun m k =>
    nset 0 m (cmdKey j.q j.id k) (nget 0 m (cmdKey j.q j.id k) +
      (nget 0 s.energy.work (workKey j.q k) - nget 0 old.work (workKey j.q k)))) s.energy.cmdWork }

end Sys2Proof.Machine
end

