-- ==== Sys2Proof/Machine/Queue.lean ====
section
/-! DEFINITION. Queue.lean: how a queue fetches and checks its commands and how it stops (R445 to R478), with the
producer-consumer discipline of R318 to R332. -/

namespace Sys2Proof.Machine

/-! ### Fetch (R445 to R451) -/

def QState.ringAddr (x : QState) (i : Nat) : Nat := x.ringBase.toNat + 64 * (i % 2 ^ x.ringSize)

/-- Address of the queue's oldest command or segment entry; none for an empty ring. -/
def QState.frontAddr (x : QState) : Option Nat :=
  match x.seg with
  | some sg => some (sg.addr + 64 * sg.index)
  | none => if x.head = x.tail then none else some (x.ringAddr x.head.toNat)

def entryOf (b : NMap Byte) : Entry := BitVec.ofNat 512 (leNat (blockBytes b 64))

/-- What the sequencer fetches. -/
inductive Fetched where
  | nothing
  | lost (a : Nat) (code : BitVec 16)
  | segment (e : Entry)
  | nested (e : Entry)
  | cmd (e : Entry)
deriving DecidableEq, Repr

def State.front (s : State) (q : Nat) : Fetched :=
  match (s.queue q).frontAddr with
  | none => .nothing
  | some a =>
    let r := s.peek a 64
    if r.code ≠ 0 then .lost a r.code
    else
      let e := entryOf r.blk
      if opcode e = 0xFE then (if (s.queue q).seg.isSome then .nested e else .segment e) else .cmd e

/-! ### Segments (R445, R448, R449) -/

/-- Whether a range lies in memory that a queue's ring or segments may use (R445): one tier, or its own core's scratchpad. -/
def ringPlace (q a len : Nat) : Bool :=
  inTier a len || match wholePlace a len with
    | some (.scratch l _) => decide (q < 512) && l == q / 4
    | _ => false

def segmentOk (q : Nat) (e : Entry) : Bool :=
  within 1 65536 (fld e 16 4) && mult 64 (fld e 8 6) && ringPlace q (fld e 8 6) (64 * fld e 16 4)

/-- The queue takes its commands from the segment that its oldest entry names. -/
def QState.enter (x : QState) (e : Entry) : QState := { x with seg := some ⟨fld e 8 6, fld e 16 4, 0⟩ }

/-- The entry at a queue's front, where it can be read. -/
def State.entryAt (s : State) (x : QState) : Option Entry :=
  match x.frontAddr with
  | none => none
  | some a =>
    let r := s.peek a 64
    if r.code ≠ 0 then none else some (entryOf r.blk)

/-- The initiator of a queue's fetches. -/
def fetchWho (q : Nat) : Who := ⟨q % 4, 7, false, some (if q < 512 then dieOf (q / 4) else (q - 512) / 8), none⟩

/-- The marks of the read that fetches a queue's oldest entry. A command that the queue already holds has been fetched. -/
def State.fetchMarks (s : State) (q : Nat) : State :=
  match decide ((s.queue q).heldStep = 0), (s.queue q).frontAddr with
  | true, some a => (s.read (fetchWho q) a 64).2
  | _, _ => s

/-- A queue in front of a sound segment entry enters the segment, so that its front is the segment's first command. -/
def State.enterFront (s : State) (q : Nat) : State :=
  match s.front q with
  | .segment e => if segmentOk q e then (s.fetchMarks q).modQueue q fun x => x.enter e else s
  | _ => s

/-! ### Stopping (R472 to R475) -/

/-- A check that fails: its code, the page that owns the condition, severity and information. -/
structure Stop where
  code : BitVec 16
  pg : Nat
  sev : Nat
  info : Nat
  extra : Nat
deriving DecidableEq, Repr

/-- One queue stops, with what its stop ends: its unconfirmed run-ahead commands (R393), and its core's part in every open
stream of which it has a take (R378). -/
def State.stopOne (s : State) (q : Nat) (code : BitVec 16) (ended : Bool) : State :=
  if (s.queue q).stopped then s else
  let s := s.modQueue q fun x => x.stopAt code ended
  if q < 512 then
    let l := q / 4
    let mine := (s.lcore l).takes.filter fun t => t.job.q == q && t.live (takeStream t.job.cmd) (s.stream (takeStream t.job.cmd)).gen
    let s := s.modLcore l fun c => c.cancelRunAhead (q % 4)
    mine.foldl (fun s t => s.leaveStream l (takeStream t.job.cmd) false) s
  else s

/-- Frames that a PLANE_SWAP names (R465). -/
def swapMask (e : Entry) : Nat := fld e 16 2

/-- A stop of the FRAMES page that names a frame and its active plane (R93). -/
def State.planeStop (s : State) (q f : Nat) (plane1 : Bool) (code : BitVec 16) : Stop :=
  ⟨code, s.pgL (q / 4) bFrames, contained, f + b2n plane1 * 16, 0⟩

/-- Whether an issued PLANE_SWAP on a frame of the mask has not happened yet (R60). -/
def Core.swapPends (c : Core) (mask : Nat) : Bool := (bitsOf mask 16).any fun f => (c.frame f).swapPending

/-- The idle plane of a named frame that holds no complete weights: the stop of R61. Of several such frames the lowest gives the
code, which R61 leaves open (DESIGN CHOICE, log entry 111). -/
def State.swapStop (s : State) (q : Nat) (e : Entry) : Option Stop :=
  let c := s.lcore (q / 4)
  let st := fun f => (c.frame f).idle.st
  ((bitsOf (swapMask e) 16).find? fun f => decide (st f = .empty) || decide (st f = .poisoned)).map fun f =>
    s.planeStop q f (c.frame f).active1 (if st f = .empty then 0x0120 else 0x0122)

/-- A PLANE_SWAP that waits at its planes when one of them has become EMPTY or POISONED (R61). -/
def State.swapLost (s : State) (q : Nat) : Option Stop :=
  if (s.queue q).heldStep ≠ 7 ∨ (s.queue q).stopped then none else
  match s.front q with
  | .cmd e => if opcode e = 0x23 ∧ !(s.lcore (q / 4)).swapPends (swapMask e) then s.swapStop q e else none
  | _ => none

/-- The swaps of core `l` that wait at a plane which will not come stop their queues, lowest queue first. Each such stop may
empty further planes, so that this repeats; the core has four queues. -/
def State.sweepSwaps (s : State) (l : Nat) : Nat → State
  | 0 => s
  | n + 1 =>
    match (upTo (4 * l) 4).findSome? fun q => (s.swapLost q).map fun st => (q, st) with
    | none => s
    | some x => ((s.raiseFull x.2.pg x.2.code x.2.sev x.2.info x.2.extra true false).stopOne x.1 x.2.code false).sweepSwaps l n

/-- Stop a queue; a queue that has stopped keeps its stop. -/
def State.stopQueue (s : State) (q : Nat) (code : BitVec 16) (ended : Bool) : State :=
  if q < 512 then (s.stopOne q code ended).sweepSwaps (q / 4) 4 else s.stopOne q code ended

/-- A command fails a check before issue. -/
def State.stopWith (s : State) (q : Nat) (st : Stop) : State :=
  (s.raiseFull st.pg st.code st.sev st.info st.extra true false).stopQueue q st.code false

/-! ### Whether a queue may issue -/

/-- Whether a queue may issue at all: it exists, its device runs, and neither a stop, a fence nor a quiesce holds it. -/
def State.mayIssue (s : State) (q : Nat) : Bool :=
  decide (q < 528) && !(s.queue q).stopped && !s.err.deviceStopped && decide (s.power.stop = .none) &&
    decide (s.snap.phase = .idle) && (decide (512 ≤ q) || (!s.lfenced (q / 4) && !(s.lcore (q / 4)).quiesce))

/-! ### Header checks (R457) -/

def queueInfo (s : State) (q op : Nat) : Nat := q % 512 % (if q < 512 then 4 else 16) + (s.queue q).head.toNat % 65536 * 16 + 2 ^ 20 * op

/-- A stop of the SEQ or DEVQUEUE page (R479). -/
def State.seqStop (s : State) (q : Nat) (e : Entry) (code : BitVec 16) (sev extra : Nat) : Stop :=
  ⟨code, s.pgQueue q, sev, queueInfo s q (opcode e), extra⟩

/-- A stop of the TALLY page; a device queue has none and its own page records it. -/
def State.tallyStop (s : State) (q : Nat) (e : Entry) (t : Nat) : Stop :=
  if q < 512 then ⟨0x0421, s.pgL (q / 4) bTally, contained, t + 2 ^ 16 * (q % 4), 0⟩ else s.seqStop q e 0x0421 contained 0

/-- A stop of the QUANT page (R225). -/
def State.quantStop (s : State) (q slot : Nat) (code : BitVec 16) : Stop :=
  ⟨code, s.pgL (q / 4) bQuant, contained, slot % 256 + q % 4 * 256, 0⟩

def sharedOps : List Nat := [0x00, 0x01, 0x02, 0x03, 0x08]
def deviceOps : List Nat := [0x78, 0x79, 0x7A, 0x7B]
def coreOps : List Nat :=
  [0x09, 0x10, 0x11, 0x12, 0x20, 0x21, 0x22, 0x23, 0x28, 0x29, 0x2A, 0x30, 0x31, 0x32, 0x40, 0x41, 0x50, 0x51, 0x52, 0x53,
    0x60, 0x61, 0x70]

/-- Users tally of a VERSION_FENCE (R469). -/
def usersTally (e : Entry) : Nat := fld e 16 2

def State.headerCheck (s : State) (q : Nat) (e : Entry) : Option Stop :=
  let op := opcode e
  let dev := decide (512 ≤ q)
  if !(sharedOps.contains op || deviceOps.contains op || coreOps.contains op) then some (s.seqStop q e 0x0603 contained 0)
  else if !(sharedOps.contains op || (if dev then deviceOps.contains op else coreOps.contains op)) then
    some (s.seqStop q e 0x0604 contained 0)
  else if fbits e 1 7 6 ≠ 0 ∨ (dev ∧ verdictId e ≠ 0) then some (s.seqStop q e 0x0605 contained 0)
  else if waitEn e ∧ (tallyReserved (waitTallyOf e) ∨ (!dev ∧ tallyCore (waitTallyOf e) ≠ q / 4)) then
    some (s.tallyStop q e (waitTallyOf e))
  else if signalEn e ∧ tallyReserved (signalTallyOf e) then some (s.tallyStop q e (signalTallyOf e))
  else if op = 0x09 ∧ (tallyReserved (usersTally e) ∨ tallyCore (usersTally e) ≠ q / 4) then
    some (s.tallyStop q e (usersTally e))
  else if op = 0x30 ∧ (skipIfWidened e ∨ skipIfNotWidened e) then some (s.quantStop q (verdictSlot e) 0x0216)
  else if (skipIfWidened e ∨ skipIfNotWidened e) ∧ verdictId e = 0 then some (s.seqStop q e 0x0605 contained 0)
  else if dev ∧ waitEn e ∧ s.lfenced (tallyCore (waitTallyOf e)) then
    some (s.seqStop q e 0x0410 contained 0)
  else none

/-! ### Steps 1 to 4 of R459 -/

inductive Gate where
  | go | skip
  | hold (step : Nat)
  | stop (st : Stop)
deriving DecidableEq, Repr

/-- Whether a command waits for every earlier one of its queue: `BARRIER`, `STOP` (R466), `SIGNAL` with a tag action
(R324). -/
def waitsAsBarrier (e : Entry) : Bool :=
  barrier e || opcode e == 0x03 || (opcode e == 0x02 && fbits e 20 1 0 != 0 && fld e 18 2 != 0)

/-- Value of a tally by its index. -/
def State.tallyAt (s : State) (t : Nat) : Word := nget 0 (s.lcore (tallyCore t)).tally.value (tallyNum t)

def State.waitMet (s : State) (q : Nat) (e : Entry) : Bool :=
  if q < 512 then decide (thresholdOf e ≤ (s.tallyAt (waitTallyOf e)).toNat) else (s.queue q).woken

def State.slot (s : State) (l n : Nat) : Slot := nget .reset (s.lcore l).quant.slots n

/-- `WIDENED` bit of a verdict (R223 byte 6). -/
def Slot.widened (t : Slot) : Bool := t.verdict.getLsbD 2

/-- Steps 3 and 4: the verdict of a consumer, and its skip flags (R211, R213, R358). -/
def State.verdictSteps (s : State) (q : Nat) (e : Entry) : Gate :=
  let sl := s.slot (q / 4) (verdictSlot e)
  if 512 ≤ q ∨ verdictId e = 0 ∨ opcode e = 0x30 then .go
  else if sl.st = .idle ∨ sl.tag.toNat ≠ verdictTag e then .stop (s.quantStop q (verdictSlot e) 0x0211)
  else if sl.st = .pending then .hold 3
  else if (opcode e = 0x21 ∨ opcode e = 0x22) ∧ sl.dynamic ∧ (s.lcore (q / 4)).quant.zerosId.toNat ≠ verdictId e then
    .stop (s.quantStop q (verdictSlot e) 0x0211)
  else if (skipIfWidened e ∧ sl.widened) ∨ (skipIfNotWidened e ∧ !sl.widened) then .skip
  else .go

/-- Steps 1 to 4. A command that a later step holds has passed steps 1 and 2, which are comparisons of one moment (R337, R469), and
does not wait at them again; the verdict and the steps after it are conditions on what the command then uses (log entry 116). -/
def State.headerSteps (s : State) (q : Nat) (e : Entry) : Gate :=
  let held := (s.queue q).heldStep
  if held < 2 ∧ waitsAsBarrier e ∧ !(s.queue q).flight.isEmpty then .hold 1
  else if held < 3 ∧ waitEn e ∧ !s.waitMet q e then .hold 2
  else if held < 3 ∧ opcode e = 0x09 ∧ s.tallyAt (usersTally e) ≠ 0 then .hold 2
  else s.verdictSteps q e

/-! ### Passing a command -/

/-- Pass the oldest command. -/
def QState.advance (x : QState) : QState :=
  let x := { x with passed := (x.passed.filter (0 < ·)).map (· - 1), heldStep := 0, waitValid := false, woken := false }
  match x.seg with
  | some sg =>
    if sg.index + 1 < sg.count then { x with seg := some { sg with index := sg.index + 1 } }
    else { x with seg := none, head := x.head + 1 }
  | none => { x with head := x.head + 1 }

/-! ### The commands that follow the oldest one (R390) -/

/-- The next commands of queue `q` in standing `x`, oldest first: at most `n` of them, over ring entries and segments, up to
an entry that cannot be read or a segment entry that breaks R448. -/
def State.ahead (s : State) (q : Nat) (x : QState) : Nat → List Entry
  | 0 => []
  | n + 1 =>
    match s.entryAt x with
    | none => []
    | some e =>
      if opcode e = 0xFE ∧ x.seg.isNone then
        if segmentOk q e then
          match s.entryAt (x.enter e) with
          | none => []
          | some e' => e' :: s.ahead q (x.enter e).advance n
        else []
      else e :: s.ahead q x.advance n

/-! ### Producer-consumer discipline (R318 to R332) -/

/-- A scratchpad operand: its hull, its slots, and what the command does with them. -/
structure Access where
  hull : Rng
  slots : List Nat
  write : Bool
deriving DecidableEq, Repr

/-- `n` pieces of `len` bytes, `stride` apart, from offset `a`; nothing for none. -/
def pieces (a n stride len : Nat) (write : Bool) : List Access :=
  if n = 0 ∨ len = 0 then [] else [⟨strided a n stride len, pieceSlots a n stride len, write⟩]

def readSlots (as_ : List Access) : List Nat := (as_.filter fun a => !a.write).flatMap fun a => a.slots
def writeSlots (as_ : List Access) : List Nat := (as_.filter fun a => a.write).flatMap fun a => a.slots

def Scratch.full (c : Scratch) (k : Nat) : Bool := nget false c.tags k

/-- Slots that R320 does not permit now, the first of them. -/
def Scratch.blockedSlot (c : Scratch) (as_ : List Access) : Option Nat :=
  let rs := readSlots as_
  match rs.find? fun k => !c.full k with
  | some k => some k
  | none => (writeSlots as_).find? fun k => c.full k && !rs.contains k

/-- Whether the range scoreboard lets a command of queue `i` issue (R328). -/
def Scratch.sbOk (c : Scratch) (i : Nat) (as_ : List Access) : Bool :=
  as_.all (fun a => c.sb.all fun b => !(a.hull.meets ⟨b.lo, b.hi⟩ && (a.write || b.write))) &&
    decide ((c.sb.filter fun b => b.q % 4 == i).length + as_.length ≤ 16)

/-- Step 6 for a command of queue `q` whose scratchpad operands are `as_`. -/
def State.guardOk (s : State) (q : Nat) (as_ : List Access) : Bool :=
  let c := (s.lcore (q / 4)).scr
  if c.discipline then c.sbOk (q % 4) as_ else (c.blockedSlot as_).isNone

/-- Enter the ranges of a job (R327). -/
def State.enterJob (s : State) (j : Job) (as_ : List Access) : State :=
  s.modLcore (j.q / 4) fun c =>
    { c with
      scr := if c.scr.discipline then
          { c.scr with sb := c.scr.sb ++ as_.map fun a => ⟨j.id, j.q, a.hull.lo, a.hull.hi, a.write⟩ }
        else c.scr }

/-- Release a job's scoreboard entries (R329). -/
def State.releaseJob (s : State) (j : Job) : State :=
  s.modLcore (j.q / 4) fun c => { c with scr := { c.scr with sb := c.scr.sb.filter fun b => b.id != j.id || b.q != j.q } }

/-- Every read of a job has been made: its read entries go (R329). -/
def State.releaseReads (s : State) (j : Job) : State :=
  s.modLcore (j.q / 4) fun c =>
    { c with scr := { c.scr with sb := c.scr.sb.filter fun b => b.id != j.id || b.q != j.q || b.write } }

/-- A core's job ends without its signal, and its queue stops (R367, R472); the owning page's event is already raised. -/
def State.dropJob (s : State) (j : Job) (code : BitVec 16) : State :=
  ((s.releaseJob j).modQueue j.q fun x => x.release j.id).stopQueue j.q code true

/-- The same, raising the event. -/
def State.endJob (s : State) (j : Job) (st : Stop) : State :=
  (s.raiseFull st.pg st.code st.sev st.info st.extra true false).dropJob j st.code

end Sys2Proof.Machine
end

