-- ==== Sys2Proof/Machine/FenceOps.lean ====
section
/-! DEFINITION. FenceOps.lean: what a fence, an unfence and a stop of the device do (R557 to R583, R543 to R548). -/

namespace Sys2Proof.Machine

/-! ### Members of shared work (R572) -/

/-- Join masks of the shared commands. -/
def runMask (e : Entry) : Nat := fbits e 51 3 0
def quantMask (e : Entry) : Nat := fbits e 18 3 0
def sampleMask (e : Entry) : Nat := fbits e 17 3 0

/-- Whether a mask names the logical core `l`. -/
def names (mask l : Nat) : Bool := mask.testBit (l % 4)

/-- A core of a mask of `l`'s cluster that is fenced, `l` itself apart. -/
def State.maskFenced (s : State) (l mask : Nat) : Bool :=
  (members (clusterOf l) mask).any fun k => k != l && s.lfenced k

def State.frameStop (s : State) (q : Nat) (code : BitVec 16) : Stop := ⟨code, s.pgL (q / 4) bFrames, contained, 0, 0⟩
def State.vectorStop (s : State) (q op : Nat) (code : BitVec 16) : Stop :=
  ⟨code, s.pgL (q / 4) bVector, contained, q % 4 + op * 4, 0⟩

/-- A QUANTISE that waits at the exchange (R193). -/
def QuantJob.waiting (j : QuantJob) : Bool := decide (j.kind = .quantise) && j.phase == 1 && fbit j.job.cmd 16 1

/-- A pass ends without settling: its slot returns to IDLE. -/
def Quant.idleSlot (u : Quant) (n : Nat) : Quant :=
  { u with slots := nmod .reset u.slots n fun t => { t with st := .idle } }

/-- Core `k` ends the work that it shares with the fenced core `l` of its cluster. -/
def State.endShared (s : State) (l k : Nat) : State :=
  let c := s.lcore k
  let runs := c.runs.filter fun r => names (runMask r.job.cmd) l
  let qs := c.quant.unit.filter fun j => j.waiting && names (quantMask j.job.cmd) l
  let vs := c.vec.unit.filter fun j => j.joining && names (sampleMask j.job.cmd) l
  let s := s.modLcore k fun c =>
    { c with
      runs := c.runs.filter fun r => !names (runMask r.job.cmd) l
      quant := qs.foldl (fun u j => u.idleSlot (verdictSlot j.job.cmd))
        { c.quant with unit := c.quant.unit.filter fun j => !(j.waiting && names (quantMask j.job.cmd) l) }
      vec := { c.vec with unit := c.vec.unit.filter fun j => !(j.joining && names (sampleMask j.job.cmd) l) } }
  let s := s.forEach (upTo (4 * k) 4) fun s q =>
    match (s.queue q).heldStep, s.front q with
    | 7, .cmd e => if (opcode e = 0x21 ∨ opcode e = 0x22) ∧ names (runMask e) l then s.stopWith q (s.frameStop q 0x0129) else s
    | _, _ => s
  let s := runs.foldl (fun s r => s.endJob r.job (s.frameStop r.job.q 0x0129)) s
  let s := qs.foldl (fun s j => s.endJob j.job (s.quantStop j.job.q (verdictSlot j.job.cmd) 0x0219)) s
  vs.foldl (fun s j => s.endJob j.job (s.vectorStop j.job.q 0xFF 0x0318)) s

/-! ### Fencing a core (R571) -/

/-- A fence cause in physical core `p` starts its fence, cycles 0 to 66 of R571. A core that is fencing or fenced goes
on as it does; a core that is being unfenced stays fenced; an error in a stopped device is counted and no more (R565). A dark core
holds nothing to fence. -/
def State.startFence (s : State) (p : Nat) (cause : BitVec 16) : State :=
  match s.err.deviceStopped, s.logOf p with
  | true, _ => s
  | _, none => s
  | false, some l =>
    let cl := clusterOf l
    let report := fun (s : State) =>
      let s : State := s.setErr { s.err with fences := satInc s.err.fences }
      s.raiseFull pgErragg 0x0B02 fenceSev (errInfo l cl (regionOf l) cause) cause.toNat true false
    match (s.core p).fence with
    | .fencing => s
    | .fenced => s
    | .unfencing => report (s.modCore p fun c => { c with fence := .fenced, cause := cause })
    | .inService =>
      let s := s.forEach (upTo 0 8) fun s n => s.leaveStream l n true
      let s := s.modCore p fun c => { c.endUnits with fence := .fencing, cause := cause }
      let s := s.forEach (upTo 0 8) fun s n =>
        s.modStream n fun x => if x.isOpen ∧ x.q / 4 = l then { x with signals := false } else x
      let s := s.modCluster cl fun x => { x with held := x.held.filter fun j => j.core != l }
      let s := s.forEach (members cl 15) fun s k => if k = l then s else s.endShared l k
      report s

/-- Cycle 67 of a fence: every queue of the core is STOPPED with CORE_FENCED (0x0B02). The queues of a stopped device keep that
stop (R548, R565). -/
def State.endFence (s : State) (p : Nat) : State :=
  if (s.core p).fence = .fencing then
    if s.power.stop ≠ .none then s.modCore p fun c => { c with fence := .fenced } else
    s.modCore p fun c =>
      { (upTo 0 4).foldl (fun c i => c.modQueue i fun x => x.stopAt 0x0B02 false) c with fence := .fenced }
  else s

/-! ### Stream engine, cluster and region (R272, R570) -/

/-- Information of a STREAM event: issuing core, queue, and index (R274). -/
def streamInfo (q idx : Nat) : Nat := q / 4 % 4 + q % 4 * 4 + idx % 512 * 16

/-- A stream engine is fenced: the commands that it holds stop their queues with STREAM_FENCED (0x030A). -/
def State.fenceEngine (s : State) (c : Nat) : State :=
  if (s.cluster c).fenced ∨ s.err.deviceStopped then s else
  let held := (s.cluster c).held
  let s := s.modCluster c fun x => { x with fenced := true, held := [] }
  held.foldl (fun s j => s.endJob j.job ⟨0x030A, pgStream c, contained, streamInfo j.job.q j.idx, 0⟩) s

/-- R276: the held commands and open outputs are cleared. -/
def State.unfenceEngine (s : State) (c : Nat) : State :=
  if !(s.cluster c).fenced then s else
  let held := (s.cluster c).held
  let s := s.modCluster c fun x => { x with fenced := false, held := [] }
  held.foldl (fun s j => (s.releaseJob j.job).modQueue j.job.q fun x => x.release j.job.id) s

/-- Physical cores that serve the logical cores of a range. -/
def State.physOfAll (s : State) (ls : List Nat) : List Nat := ls.map s.physOf

/-- A cluster is fenced for a cause (R586); its cores are fenced for CLUSTER_FENCED (R741). -/
def State.fenceCluster (s : State) (c : Nat) (cause : BitVec 16) : State :=
  let s := s.raiseFull pgErragg 0x0B03 fenceSev (errInfo 0 c (c / 4) cause) cause.toNat true false
  let s := s.forEach (s.physOfAll (upTo (4 * c) 4)) fun s p => s.startFence p 0x0B03
  s.fenceEngine c

/-- A region likewise. -/
def State.fenceRegion (s : State) (r : Nat) (cause : BitVec 16) : State :=
  let s := s.raiseFull pgErragg 0x0B04 fenceSev (errInfo 0 0 r cause) cause.toNat true false
  let s := if s.err.deviceStopped then s else s.modRegion r fun x => { x with fenced := true }
  let s := s.forEach (s.physOfAll (upTo (16 * r) 16)) fun s p => s.startFence p 0x0B04
  s.forEach (upTo (4 * r) 4) fun s c => s.fenceEngine c

/-! ### Unfencing a core (R575, R576) -/

/-- What an unfence, a remap and the resets that reach a core leave in it: memories, planes, pending modes, tallies,
scale registers, slots, tags and queues at their reset values; page registers as they stand. -/
def Core.wipe (c : Core) : Core :=
  { c with
    queues := (upTo 0 4).foldl (fun m i => nmod .reset m i fun x =>
      { QState.reset with
        ringBase := x.ringBase, stopCode := x.stopCode, stopEnded := x.stopEnded, stopHead := x.stopHead, stopIndex := x.stopIndex
        issued := x.issued, skipped := x.skipped, refused := x.refused, stops := x.stops, nextId := x.nextId
        forecast := x.forecast }) c.queues
    frames := c.frames.filterMap fun e =>
      let f := { Frame.reset with active1 := e.2.active1, beads := e.2.beads }
      if f = .reset then none else some (e.1, f)
    runs := [], swaps := [], dma := [], takes := [], commits := []
    ledger := { c.ledger with entries := [], sat := [], poison := [], cond := [], port := [] }
    quant := { c.quant with
      scale := [], slots := [], unit := [], vmin := [], vmax := [], zeros := [], zerosId := 0 }
    vec := { c.vec with unit := [], cands := [], marked := [] }
    scr := { c.scr with mem := [], cond := [], writeback := [], tags := [], sb := [] }
    tally := { c.tally with value := [] } }

/-- Whether a physical core lies in a region of the partition that a partition reset has under way (R552, R653). -/
def State.inReset (s : State) (p : Nat) : Bool :=
  s.boot.partBusy.any fun part => s.energy.partMap.toNat / 8 ^ regionOfPhys p % 8 == part

/-- A write of 0 to `PAGE_CTL.FENCE` of a fenced core starts its unfence; before cycle 67 it counts an error (R576). A core that a
partition reset holds fenced stays so until that reset ends, which is the wider one (R654). -/
def State.startUnfence (s : State) (p pg : Nat) : State :=
  match (s.core p).fence with
  | .fencing => s.countBad pg
  | .fenced => if s.dark p || s.inReset p then s else s.modCore p fun c => { c with fence := .unfencing }
  | _ => s

def State.endUnfence (s : State) (p : Nat) : State :=
  if (s.core p).fence = .unfencing ∧ !s.halted ∧ !s.inReset p then
    let l := s.logOr p
    (s.modCore p fun c => { c.wipe with fence := .inService, cause := 0 }).raise pgErragg 0x0B05 noted
      (errInfo l (clusterOf l) (regionOf l) 0)
  else s

/-- Take the response that an error code's severity asks for in a core: fence it. `inj`: an injection fired (R585). -/
def State.raiseFence (s : State) (p block : Nat) (code : BitVec 16) (info : Nat) (inj : Bool) : State :=
  (s.raiseFull (pgCore p block) code fenceSev info 0 true inj).startFence p code

end Sys2Proof.Machine
end

