-- ==== Sys2Proof/Machine/Issue.lean ====
section
/-! DEFINITION. Issue.lean: tallies and signals (R333 to R341), and how a queue holds, skips, issues and completes its
commands (R452 to R461). -/

namespace Sys2Proof.Machine

/-! ### Tallies and signals (R333 to R341) -/

/-- Result of adding a signed increment to a tally (R334). -/
def tallyAdd (v : Word) (inc : Int) : Word × Bool :=
  let x := (v.toNat : Int) + inc
  if x > 0xFFFFFFFF then (0xFFFFFFFF, true) else if x < 0 then (0, true) else (BitVec.ofNat 32 x.toNat, false)

/-- A block of physical core `p` writes a word of its storage, at which an armed injection fires (R584). An uncorrectable word in
tally storage or in the sequencer's state fences the core (R569); the cause of that fence has no code of its own (log entry
101). -/
def State.strikeAt (s : State) (p block : Nat) : State :=
  let r := s.takeInjection (pgCore p block)
  if r.2 = .uncorrectable ∧ (block = bTally ∨ block = bSeq) then
    let o := r.1.open_
    o.2.startFence p (BitVec.ofNat 16 o.1)
  else r.1

def State.strike (s : State) (l block : Nat) : State := s.strikeAt (s.physOf l) block

/-- The same for the sequencer of queue `q`. On the page of the device queues the injection fires; no rule says what a lost word of
its block's state does (log entry 101). -/
def State.strikeSeq (s : State) (q : Nat) : State := if q < 512 then s.strike (q / 4) bSeq else (s.takeInjection pgDevqueue).1

/-- Whether a source of signals is one of the queues of logical core `l`. -/
def ownSource (l src : Nat) : Bool := decide (src < 512) && src / 4 == l

/-- Apply the signals that reach tally `n` of logical core `l` in one cycle, from the sources `srcs`: their increments make `inc`, with
one clamp (R335). An event names the queue of the first source. -/
def State.applySignals (s : State) (l n : Nat) (inc : Int) (srcs : List Nat) : State :=
  let r := tallyAdd (nget 0 (s.lcore l).tally.value n) inc
  let s := s.modLcore l fun c =>
    let t := c.tally
    { c with tally := { t with
        value := nset 0 t.value n r.1
        signalsLocal := satAdd t.signalsLocal (srcs.countP (ownSource l))
        signalsIn := satAdd t.signalsIn (srcs.countP fun x => !ownSource l x)
        saturations := if r.2 then satInc t.saturations else t.saturations } }
  let s := if r.2 then s.raise (s.pgL l bTally) 0x0420 noted (l * 64 + n + 2 ^ 16 * (srcs.headD 0 % 4)) else s
  s.strike l bTally

/-- Apply one signal. -/
def State.applySignal (s : State) (l n : Nat) (inc : Int) (src : Nat) : State := s.applySignals l n inc [src]

/-- Sources whose oldest signal to a tally arrives in the same cycle as that of `src`: which of them do is open (log entry 23). -/
def State.sameCycle (s : State) (src : Nat) (tally : BitVec 16) : List Nat × State :=
  let srcs := ((s.fabric.filter fun g => g.tally == tally && g.src != src).map fun g => g.src).eraseDups
  if srcs.isEmpty then ([], s) else
  let o := s.open_
  ((srcs.zipIdx.filter fun e => o.1.testBit e.2).map fun e => e.1, o.2)

/-- The oldest signal of a source to a tally leaves the fabric: its increment. -/
def State.takeSignal (s : State) (src : Nat) (tally : BitVec 16) : Int × State :=
  match s.fabric.find? fun g => g.src == src && g.tally == tally with
  | none => (0, s)
  | some g => (signed16 g.inc.toNat, s.setFabric (s.fabric.eraseP fun g => g.src == src && g.tally == tally))

/-- The signals of several sources leave the fabric: the exact sum of their increments. -/
def State.takeSignals (s : State) (srcs : List Nat) (tally : BitVec 16) : Int × State :=
  srcs.foldl (fun a src => let r := a.2.takeSignal src tally; (a.1 + r.1, r.2)) (0, s)

/-- A signal of source `src` is applied, with those of other sources that reach the tally in the same cycle (R335). -/
def State.landSignal (s : State) (src : Nat) (tally : BitVec 16) (inc : Int) : State :=
  let others := s.sameCycle src tally
  let r := others.2.takeSignals others.1 tally
  r.2.applySignals (tallyCore tally.toNat) (tallyNum tally.toNat) (inc + r.1) (src :: others.1)

/-- The source that stands for the network among the sources of signals (R341). -/
def netSource : Nat := 528

/-- Whether a signal that is at its tally waits for others of its cycle. One that the clamp would change may, by an open choice;
one behind a waiting signal of its source does (log entry 23). A signal that is not clamped makes the same sum either way. -/
def State.awaitsOthers (s : State) (src : Nat) (tally : BitVec 16) (inc : Int) : Bool × State :=
  if s.fabric.any fun g => g.src == src && g.tally == tally then (true, s)
  else if (tallyAdd (nget 0 (s.lcore (tallyCore tally.toNat)).tally.value (tallyNum tally.toNat)) inc).2 then
    let o := s.open_
    (o.1 % 2 == 1, o.2)
  else (false, s)

/-- A signal from the core's own queues or the network reaches its tally: it is applied at once, or waits for others of its
cycle, with which `REMOTE_SIGNAL` applies it. -/
def State.reachTally (s : State) (src : Nat) (tally inc : BitVec 16) (op : Nat) : State :=
  let w := s.awaitsOthers src tally (signed16 inc.toNat)
  if w.1 then w.2.setFabric (w.2.fabric ++ [⟨src, tally, inc, op⟩]) else w.2.landSignal src tally (signed16 inc.toNat)

/-- Perform a signal of queue `q` (R334, R338): at its own core's tally at once, through the fabric to another's. -/
def State.performSignal (s : State) (q tally inc op : Nat) : State :=
  if ownSource (tallyCore tally) q then s.reachTally q (BitVec.ofNat 16 tally) (BitVec.ofNat 16 inc) op
  else
    let s : State := s.setFabric (s.fabric ++ [⟨q, BitVec.ofNat 16 tally, BitVec.ofNat 16 inc, op⟩])
    if q < 512 then
      (s.modLcore (q / 4) fun c => { c with tally := { c.tally with signalsOut := satInc c.tally.signalsOut } }).countFabric
        (dieOf (q / 4))
    else s.countFabric ((q - 512) / 8)

/-- The header signal of a command (R453, R454). -/
def State.headerSignal (s : State) (q : Nat) (e : Entry) : State :=
  if signalEn e then s.performSignal q (signalTallyOf e) (incrementOf e) (opcode e) else s

/-! ### Holding, skipping, issuing, completing -/

def State.hold (s : State) (q step : Nat) (e : Entry) : State :=
  s.modQueue q fun x =>
    { x with
      heldStep := step
      waitValid := step == 2 && waitEn e
      waitTally := if step == 2 && waitEn e then tallyNum (waitTallyOf e) else x.waitTally
      threshold := if step == 2 && waitEn e then BitVec.ofNat 32 (thresholdOf e) else x.threshold }

/-- R461. -/
def State.skip (s : State) (q : Nat) (e : Entry) : State :=
  (s.modQueue q fun x => { x.advance with skipped := satInc x.skipped }).headerSignal q e

/-- The oldest command issues under number `id` and is in progress. -/
def QState.issueAs (x : QState) (id : Nat) : QState :=
  { x.advance with issued := satInc x.issued, flight := x.flight ++ [⟨id, x.head, x.seg⟩] }

/-- The job that the oldest command becomes when it issues. -/
def State.newJob (s : State) (q : Nat) (e : Entry) : Job := ⟨(s.queue q).nextId, q, e⟩

/-- The oldest command issues and is in progress. -/
def State.issue (s : State) (q : Nat) : State :=
  s.modQueue q fun x => { x.issueAs x.nextId with nextId := x.nextId + 1 }

/-- An issued command completes: its header signal fires (R454). -/
def State.finish (s : State) (j : Job) : State := (s.modQueue j.q fun x => x.release j.id).headerSignal j.q j.cmd

/-- A command that issues and completes at once. -/
def State.issueFinish (s : State) (q : Nat) (e : Entry) : State :=
  (s.modQueue q fun x => { x.advance with issued := satInc x.issued, nextId := x.nextId + 1 }).headerSignal q e

/-- A queue takes its oldest command through R457 and R459. `isRow` says whether the command is the row's own;
`later` makes steps 5 to 7, and `effect` is what the command does from its issue on. -/
def State.tryIssue (s : State) (q : Nat) (isRow : Entry → Bool) (later : State → Entry → Gate)
    (effect : State → Entry → State) : State :=
  if !s.mayIssue q || (s.queue q).passed.contains 0 then s else
  match s.front q with
  | .nothing => s
  | .segment _ => s
  | .lost _ code => (s.fetchMarks q).stopQueue q code false
  | .nested e => s.stopWith q (s.seqStop q e 0x0606 contained 0)
  | .cmd e =>
    match s.headerCheck q e with
    | some st => (s.fetchMarks q).stopWith q st
    | none =>
      if !isRow e then s else
      let s := s.fetchMarks q
      match s.headerSteps q e with
      | .hold n => s.hold q n e
      | .stop st => s.stopWith q st
      | .skip => s.skip q e
      | .go =>
        match later s e with
        | .hold n => s.hold q n e
        | .stop st => s.stopWith q st
        | .skip => s.skip q e
        | .go => effect s e

/-- A core's job completes: its written slots fill, its ranges go, its header signal fires (R322, R329). -/
def State.finishJob (s : State) (j : Job) (fills : List Nat) : State :=
  ((s.fillSlots (j.q / 4) fills).releaseJob j).finish j

end Sys2Proof.Machine
end

