-- ==== Sys2Proof/Machine/Send.lean ====
section
/-! DEFINITION. Send.lean: the messages that the module sends (R636, R638, R641). -/

namespace Sys2Proof.Machine

/-- The 8 B header of a message (R638). -/
def msgHeader (response : Bool) (status tag : Nat) : List Byte :=
  leBytes 1 (b2n response) ++ leBytes 1 0 ++ leBytes 2 status ++ leBytes 4 tag

/-- A message takes the connection's next message number and waits to be sent (R636). -/
def Conn.enqueue (c : Conn) (type : Byte) (bytes : List Byte) : Conn :=
  { c with unsent := c.unsent ++ [⟨c.nextMsg, type, bytes⟩], nextMsg := c.nextMsg + 1 }

/-- A connection that may send (R630). -/
def Conn.live (c : Conn) : Bool := decide (c.st = .keyed) || decide (c.st = .opened)

/-- Send a message on connection `n`; a connection that may not send drops it. -/
def State.sendMsg (s : State) (n : Nat) (type : Byte) (bytes : List Byte) : State :=
  if (s.conn n).live then
    (s.modConn n fun c => c.enqueue type bytes).setOutbox (s.outbox ++ [.message n type bytes])
  else s

/-- A message that answers no request: its tag is open (log entry 13). -/
def State.sendOwn (s : State) (n : Nat) (type : Byte) (body : List Byte) : State :=
  let t := s.open_
  t.2.sendMsg n type (msgHeader false 0 (t.1 % 2 ^ 32) ++ body)

/-! ### Messages that arrive (R636 to R640) -/

/-- A connection that takes REG_ACCESS (R629): the management connection, or one with `REG_EN`, once the image runs. -/
def State.regConn (s : State) (n : Nat) : Bool :=
  decide (n < 4096) && decide ((s.conn n).st = .keyed ∨ (s.conn n).st = .opened) && (n == 0 || (s.conn n).cfg.regEn) &&
    decide (s.boot.phase = .running)

/-- What a request leaves: its status (0 for success) and the body of its response after the 8 B header. -/
structure Answer where
  status : Nat
  body : List Byte
deriving DecidableEq, Repr

/-- Answer a request that asks for it or that failed (R639). -/
def State.respond (s : State) (n : Nat) (type : Byte) (hdr : MsgHdr) (always : Bool) (a : Answer) : State :=
  if always ∨ hdr.wantReply ∨ a.status ≠ 0 then s.sendMsg n type (msgHeader true a.status hdr.tag.toNat ++ a.body) else s

/-- Whether an address has the form ::ffff:a.b.c.d. -/
def mappedV4 (a : BitVec 128) : Bool := a.toNat / 2 ^ 32 == 0xFFFF

/-- The 8 B header of a request. -/
def reqHeader (h : MsgHdr) : List Byte := leBytes 1 (2 * b2n h.wantReply) ++ leBytes 3 0 ++ leBytes 4 h.tag.toNat

/-- Body of a COMMAND, a DATA_WRITE, a DATA_READ, a REG_ACCESS, a TALLY_REMOTE and a SNAPSHOT_CHUNK, after the header (R640). -/
def commandBody (q : Nat) (entries : List Entry) : List Byte :=
  leBytes 2 q ++ leBytes 2 entries.length ++ leBytes 4 0 ++ entries.flatMap fun e => leBytes 64 e.toNat
def dataBody (addr len : Nat) (data : List Byte) : List Byte := leBytes 8 (addr % 2 ^ 48) ++ leBytes 4 len ++ leBytes 4 0 ++ data
def regBody (ops : List RegOp) : List Byte :=
  leBytes 1 ops.length ++ leBytes 7 0 ++
    ops.flatMap fun o => leBytes 1 o.kind ++ leBytes 3 0 ++ leBytes 4 o.addr.toNat ++ leBytes 4 o.value.toNat
def tallyBody (pairs : List (BitVec 16 × BitVec 16)) : List Byte :=
  leBytes 1 pairs.length ++ leBytes 7 0 ++ pairs.flatMap fun p => leBytes 2 p.1.toNat ++ leBytes 2 p.2.toNat
def chunkBody (offset : Nat) (header : Bool) (data : List Byte) : List Byte :=
  leBytes 8 offset ++ leBytes 4 data.length ++ leBytes 1 (b2n header) ++ leBytes 3 0 ++ data
/-- Body of a BOOT message. -/
def bootBody (subtype : Byte) (fields : List Byte) : List Byte := subtype :: List.replicate 7 0 ++ fields

/-- Whether `n` bytes from byte `i` on are zero. -/
def zeroAt (b : List Byte) (i n : Nat) : Bool := ((b.drop i).take n).all fun x => x == 0

/-- The little-endian field of `n` bytes at byte `i`. -/
def fieldAt (b : List Byte) (i n : Nat) : Nat := leNat ((b.drop i).take n)

/-- A request whose format is that of its type (R638, R640, R737): the length is right and every zero field is zero. Counts and
kinds are checked where the request is applied. -/
def wellFormed (conn : Nat) (type : Byte) (b : List Byte) : Bool :=
  decide (8 ≤ b.length) && (b.getD 0 0 &&& 0xFD == 0) && zeroAt b 1 1 &&
    match type.toNat with
    | 1 => decide (b.length = 16 + 64 * fieldAt b 10 2) && zeroAt b 12 4
    | 2 => decide (b.length = 24 + fieldAt b 16 4) && zeroAt b 14 2 && zeroAt b 20 4
    | 3 => decide (b.length = 24) && zeroAt b 14 2 && zeroAt b 20 4
    | 6 => decide (b.length = 16 + 12 * fieldAt b 8 1) && zeroAt b 9 7 &&
        (upTo 0 (fieldAt b 8 1)).all fun i => zeroAt b (17 + 12 * i) 1
    | 7 => decide (b.length = 16 + 4 * fieldAt b 8 1) && zeroAt b 9 7
    | 8 => decide (b.length = 24 + fieldAt b 16 4) && (b.getD 20 0 &&& 0xFE == 0) && zeroAt b 21 3
    | 9 => zeroAt b 9 7 &&
        (match (b.getD 8 0).toNat with
        | 2 => conn == 0 && decide (b.length = 308)
        | 4 => conn == 0 && decide (b.length = 24 + fieldAt b 20 4)
        | 6 => decide (b.length = 48)
        | _ => false)
    | _ => false

/-- Whether a connection accepts a message now (R639): a BOOT message only in its phase of the boot exchange (R661, R663), a request
for attestation only with register access (R669). -/
def State.accepts (s : State) (conn : Nat) (type : Byte) (b : List Byte) : Bool :=
  wellFormed conn type b &&
    match type.toNat, (b.getD 8 0).toNat with
    | 9, 2 => decide (s.boot.phase = .helloSent)
    | 9, 4 => decide (s.boot.phase = .fetching)
    | 9, 6 => s.regConn conn
    | _, _ => true

/-- Bytes of a message that mean nothing in a request are passed over: the status of the header, and in a REG_ACCESS those of
the operations. -/
def sameMsg (type : Byte) (a b : List Byte) : Bool :=
  a.length == b.length && (upTo 0 a.length).all fun i =>
    a.getD i 0 == b.getD i 0 || i == 2 || i == 3 || (type == 6 && decide (16 ≤ i) && ((i - 16) % 12 == 2 || (i - 16) % 12 == 3))

/-- The next message in order that a packet has brought and that has not been applied. -/
def Conn.nextArrived (c : Conn) : Option RxMsg := c.early.find? fun m => m.number == c.rxMsg

/-- Whether this message may be applied next: the connection is in use, and where a packet has brought the next message in
order, this is it. -/
def State.arrives (s : State) (n : Nat) (type : Byte) (bytes : List Byte) : Bool :=
  (s.conn n).live && decide (n < 4096) &&
    match (s.conn n).nextArrived with
    | none => true
    | some m => m.type == type && sameMsg type m.bytes bytes

/-- The next message in order is applied: the one after it is next. -/
def Conn.applied (c : Conn) : Conn :=
  { c with
    early := c.early.filter fun m => m.number != c.rxMsg, rxMsg := c.rxMsg + 1, rxDie := c.nextArrived.map RxMsg.die }

/-- Messages that come next in order and have no meaning: a response ends there, and a request whose format or type the
connection does not accept is answered with NET_OPERAND_INVALID (0x0811; R639). At most `k` of them. -/
def State.refuseNext (s : State) (n : Nat) : Nat → State
  | 0 => s
  | k + 1 =>
    match (s.conn n).nextArrived with
    | none => s
    | some m =>
      if s.accepts n m.type m.bytes then s else
      let t := s.modConn n Conn.applied
      let t := if (m.bytes.getD 0 0).getLsbD 0 ∨ m.bytes.length < 8 then t
        else t.sendMsg n m.type (msgHeader true 0x0811 (fieldAt m.bytes 4 4))
      t.refuseNext n k

def State.refuseMalformed (s : State) (n : Nat) : State := s.refuseNext n (s.conn n).early.length

/-- A BOOT request that comes next is taken: answered where it asks for it or failed, and the messages behind it are looked at. -/
def State.bootAnswer (s : State) (n : Nat) (hdr : MsgHdr) (status : Nat) : State :=
  (s.respond n 0x09 hdr false ⟨status, []⟩).refuseMalformed n

end Sys2Proof.Machine
end

