-- ==== Sys2Proof/Machine/Control.lean ====
section
/-! DEFINITION. Control.lean: the control commands of the queues (R466 to R471, R323, R324), segments (R448 to R451),
signals that arrive (R337 to R340), and the stop, restart and ring registers (R472 to R477). -/

namespace Sys2Proof.Machine

/-- Every meaning answers a next state. -/
abbrev Res := Host.Outcome State Fault Refusal

/-- A die's heartbeat advances once a millisecond while the image runs on it (DIEMGT page). -/
def State.beat (s : State) (d : Nat) : State :=
  if (s.die d).imageRunning then s.modDie d fun x => { x with heartbeat := x.heartbeat + 1 } else s

/-- Device time goes on by one period of the 100 MHz reference, 10 ns (R698; log entry 1). -/
def State.tick (s : State) : State :=
  let t := s.time.now + 10
  let ms := t.toNat / 1000000 ≠ s.time.now.toNat / 1000000
  let s : State := s.setTime { s.time with now := t }
  if ms then (s.beat 0).beat 1 else s

/-- A row whose command is the one with this opcode. -/
def hasOp (op : Nat) (e : Entry) : Bool := opcode e == op

/-! ### NOP, WAIT, STOP, FORECAST -/

/-- R471, R734: a control command without operands. -/
def noOperands (e : Entry) : Bool := fzero e 16 48

def State.queueOperands (ok : Entry → Bool) (q : Nat) (s : State) (e : Entry) : Gate :=
  if ok e then .go else .stop (s.seqStop q e 0x0607 contained 0)

/-- NOP: issues and completes at once; its signal follows (R454). -/
def execNop (q : Nat) (s : State) : Res :=
  .next (s.tryIssue q (hasOp 0x00) (State.queueOperands noOperands q) fun s e => s.issueFinish q e)

/-- WAIT: the same, once its header wait is met (R336, R337). -/
def execWait (q : Nat) (s : State) : Res :=
  .next (s.tryIssue q (hasOp 0x01) (State.queueOperands noOperands q) fun s e => s.issueFinish q e)

/-- STOP (R466): waits as `BARRIER` does, signals, and stops its queue before itself with QUEUE_STOP_COMMAND (0x0602). -/
def execStop (q : Nat) (s : State) : Res :=
  .next (s.tryIssue q (hasOp 0x03) (State.queueOperands (fun e => fzero e 20 44) q)
    fun s e => (s.headerSignal q e).stopWith q (s.seqStop q e 0x0602 noted (fld e 16 4)))

/-- Limits of a FORECAST (R467). -/
def forecastOk (e : Entry) : Bool :=
  within 0 2200 (fld e 16 2) && fzero e 18 2 && within 0 1000000 (fld e 20 4) && within 1 1000000 (fld e 24 4) && fzero e 28 36

/-- The forecast that a FORECAST leaves with the power manager (R468), in ns of device time. -/
def forecastOf (now : DWord) (e : Entry) : Forecast :=
  ⟨fld e 16 2, now.toNat + 1000 * fld e 20 4, 1000 * fld e 24 4⟩

def execForecast (q : Nat) (s : State) : Res :=
  .next (s.tryIssue q (hasOp 0x08) (State.queueOperands forecastOk q)
    fun s e => (s.modQueue q fun x => { x with forecast := some (forecastOf s.time.now e) }).issueFinish q e)

/-! ### VERSION_FENCE (R469, R470) -/

def versionFenceOk (e : Entry) : Bool := fzero e 18 2 && fzero e 24 40

def execVersionFence (q : Nat) (s : State) : Res :=
  .next (s.tryIssue q (hasOp 0x09) (State.queueOperands versionFenceOk q) fun s e => s.issueFinish q e)

/-- Whether a cycle-counted timeout of queue `q` can expire: it runs unless the queue has stopped or a snapshot holds the
device (R597); `QUIESCE` of the core leaves it counting (R716). -/
def State.timed (s : State) (q : Nat) : Bool :=
  decide (q < 528) && !(s.queue q).stopped && !s.err.deviceStopped && decide (s.power.stop = .none) &&
    decide (s.snap.phase = .idle) && (decide (512 ≤ q) || !s.lfenced (q / 4))

/-- The users tally has not held 0 for the fence's timeout. -/
def execVersionFenceTimeout (q : Nat) (s : State) : Res :=
  .next (match s.timed q, s.front q with
    | true, .cmd e =>
      if opcode e = 0x09 ∧ fld e 20 4 ≠ 0 ∧ s.headerCheck q e = none ∧ s.headerSteps q e = .hold 2 ∧
          (!waitEn e ∨ s.waitMet q e) then
        s.stopWith q (s.seqStop q e 0x0601 contained 0)
      else s
    | _, _ => s)

/-! ### SIGNAL (R323, R324) -/

def tagFirst (e : Entry) : Nat := fld e 16 2
def tagCount (e : Entry) : Nat := fld e 18 2
def tagAction (e : Entry) : Nat := fbits e 20 1 0
def tagRemote (e : Entry) : Bool := fbit e 20 2
def tagCore (q : Nat) (e : Entry) : Nat := if tagRemote e then fld e 22 2 else q / 4
/-- Whether the command acts on tags at all. -/
def tagActs (e : Entry) : Bool := tagAction e != 0 && tagCount e != 0

def signalOk (q : Nat) (e : Entry) : Bool :=
  within 0 511 (tagFirst e) && decide (tagFirst e + tagCount e ≤ 512) && tagAction e != 3 && fbits e 20 7 3 == 0 &&
    fzero e 21 1 && within 0 127 (fld e 22 2) && fzero e 24 40 && !(decide (512 ≤ q) && tagActs e && !tagRemote e)

/-- Page and information of a stop that the SCRATCH page records; a device queue's own page stands in (R347). -/
def State.scratchStop (s : State) (q : Nat) (e : Entry) (code : BitVec 16) (word src : Nat) : Stop :=
  if q < 512 then ⟨code, s.pgL (q / 4) bScratch, contained, word % 65536 + 2 ^ 16 * (q % 4) + 2 ^ 18 * src, 0⟩
  else s.seqStop q e code contained 0

def execSignal (q : Nat) (s : State) : Res :=
  .next (s.tryIssue q (hasOp 0x02)
    (fun s e =>
      if !signalOk q e then .stop (s.scratchStop q e 0x0432 (tagFirst e * 128) 0)
      else if tagActs e ∧ tagRemote e ∧ s.lfenced (tagCore q e) then .stop (s.scratchStop q e 0x0410 (tagFirst e * 128) 0)
      else .go)
    fun s e =>
      let s := if tagActs e then s.setTags (tagCore q e) (upTo (tagFirst e) (tagCount e)) (tagAction e == 2) else s
      s.issueFinish q e)

/-! ### Segments (R448, R449, R451) -/

def execSegmentEntry (q : Nat) (s : State) : Res :=
  .next (if !s.mayIssue q then s else
    match s.front q with
    | .segment e =>
      if segmentOk q e then ((s.fetchMarks q).modQueue q fun x => x.enter e).strikeSeq q
      else (s.fetchMarks q).stopWith q ((s.fetchMarks q).seqStop q e 0x0606 contained 0)
    | _ => s)

/-! ### Signals that arrive (R337 to R340), wakes (R455) -/

/-- A signal to a fenced core is dropped; the sending core counts it (R340), and a device queue stops after it (R455). -/
def State.dropSignal (s : State) (src : Nat) (tally : BitVec 16) (op : Nat) : State :=
  if src < 512 then
    let before := (s.lcore (src / 4)).tally.dropped
    let s := s.modLcore (src / 4) fun c => { c with tally := { c.tally with dropped := satInc c.tally.dropped } }
    s.raiseRare (s.pgL (src / 4) bTally) 0x0410 (tally.toNat + 2 ^ 16 * (src % 4)) before
  else if src < 528 then
    (s.raise pgDevqueue 0x0410 contained (queueInfo s src op)).stopQueue src 0x0410 true
  else s

/-- The oldest signal of a source to a tally arrives and is applied (R338), with those of other sources that arrive in the same
cycle (R335). A signal of the core's own queues that waits for others of its cycle goes with a fence of the core. -/
def execRemoteSignal (src : Nat) (tally : BitVec 16) (s : State) : Res :=
  .next (match s.fabric.find? fun g => g.src == src && g.tally == tally with
    | none => s
    | some g =>
      let l := tallyCore tally.toNat
      let r := s.takeSignal src tally
      if s.lfenced l then if ownSource l src then r.2 else r.2.dropSignal src tally g.op
      else r.2.landSignal src tally r.1)

/-- The wake of a target core whose tally meets the wait of a device queue's oldest command, once that has passed step 1. -/
def execDeviceQueueWake (q : Nat) (s : State) : Res :=
  .next (match decide (512 ≤ q) && s.mayIssue q, s.front q with
    | true, .cmd e =>
      if s.headerCheck q e = none ∧ (!waitsAsBarrier e ∨ (s.queue q).flight.isEmpty) ∧ waitEn e ∧ thresholdOf e ≤ (s.tallyAt (waitTallyOf e)).toNat then
        s.modQueue q fun x => { x with woken := true }
      else s
    | _, _ => s)

/-! ### Stop, restart and ring registers (R472 to R477) -/

/-- State of a queue as `Qn_STS.STATE` reports it. -/
def State.queueState (s : State) (q : Nat) : Nat :=
  let x := s.queue q
  if x.stopped ∨ (q < 512 ∧ (s.lcore (q / 4)).fence = .fencing) then
    if x.flight.isEmpty ∧ x.stopped then 4 else 3
  else if x.heldStep ≠ 0 then 2
  else if x.head ≠ x.tail ∨ x.seg.isSome ∨ !x.flight.isEmpty then 1
  else 0

/-- R475. -/
def State.requestStop (s : State) (q : Nat) : State :=
  if q < 528 ∧ !(s.queue q).stopped then
    let op := match s.front q with
      | .cmd e => opcode e
      | .segment e => opcode e
      | _ => 0
    (s.raise (s.pgQueue q) 0x0608 noted (queueInfo s q op)).stopQueue q 0x0608 false
  else s

/-- R476: 1 retry, 2 skip, 3 flush, of a queue that is STOPPED. After a stop that came from an issued command, skip resumes
with the command that `STOP_HEAD` names, as retry does. -/
def QState.resume (x : QState) (act : Nat) : QState :=
  match act with
  | 1 => { x with stopped := false }
  | 2 => if x.stopEnded ∨ x.frontAddr = none then { x with stopped := false } else { x.advance with stopped := false }
  | 3 => { x with stopped := false, head := x.tail, seg := none }
  | _ => x

/-- R476: only a STOPPED queue takes an action. The command before which a queue stands at a segment entry is the segment's
first one, so that skip enters the segment. While the device is stopped the write has no effect: R548 and R582 keep every queue
stopped (log entry 94). -/
def State.queueAction (s : State) (q act : Nat) : State :=
  if s.queueState q ≠ 4 ∨ q ≥ 528 ∨ s.power.stop ≠ .none ∨ s.err.deviceStopped then s else
  (if act = 2 ∧ !(s.queue q).stopEnded then s.enterFront q else s).modQueue q fun x => x.resume act

/-- R477: a write to the ring registers, effective only while the queue is IDLE or STOPPED. -/
def State.setRing (s : State) (q : Nat) (base : BitVec 48) (size : Nat) : State :=
  if s.queueState q = 0 ∨ s.queueState q = 4 then
    (s.modQueue q fun x =>
      { x with ringBase := base &&& 0xFFFFFFFFFFC0, ringSize := size, head := 0, tail := 0, seg := none }).strikeSeq q
  else s.countBad (s.pgQueue q)

/-! ### Who may reach a register page (R710) -/

/-- Lifecycle states in which the module runs images (R672). -/
def State.runsImages (s : State) : Bool := decide (1 ≤ s.fuses.lifecycle.toNat) && decide (s.fuses.lifecycle.toNat ≤ 4)

/-- Whether an initiator's access reaches page `pg`: a management processor, JTAG, or the network. -/
def State.reaches (s : State) (ini pg : Nat) : Bool :=
  s.side.on &&
    (if ini < 2 then s.runsImages
    else if ini = 2 then pg == pgIdent || decide (s.fuses.lifecycle = 1)
    else s.regConn (ini - 3))

/-- What a snapshot holds (R597): requests that write. -/
def State.holdsWrites (s : State) : Bool := decide (s.snap.phase ≠ .idle)

/-- Whether a write that a row of the table names reaches page `pg`: while a snapshot holds the device, a message of the
network that writes a register is not taken (R597). -/
def State.admits (s : State) (ini pg : Nat) : Bool := s.reaches ini pg && !(decide (3 ≤ ini) && s.holdsWrites)

/-- A write row: `f` where it reaches the page and, for an rw or w1s field, the page is not locked (R18, R717). -/
def State.regRow (s : State) (ini pg : Nat) (lockable : Bool) (f : State → State) : Res :=
  .next (if s.admits ini pg && !(lockable && (s.page pg).lock) then f s else s)

/-- A read that a row of the table names. -/
def State.regRead (s : State) (ini pg : Nat) (f : State → State) : Res := .next (if s.reaches ini pg then f s else s)

end Sys2Proof.Machine
end

