-- ==== Sys2Proof/Machine/CtxTable.lean ====
section
/-! DEFINITION. CtxTable.lean: the context table and the reads of its descriptors (R416 to R419, R727). -/

namespace Sys2Proof.Machine

/-- Contexts of the device (R35). -/
def ctxCount : Nat := 40960

/-- Information of a context event (R442). -/
def ctxInfo (n q : Nat) : Nat :=
  n % 65536 + (if q < 512 then 2 ^ 16 * (q / 4) + 2 ^ 24 * (q % 4) else 2 ^ 23 + 2 ^ 24 * ((q - 512) % 16))

def ctxStop (n q : Nat) (code : BitVec 16) : Stop := ⟨code, pgContext, contained, ctxInfo n q, 0⟩

/-- State code of R416. -/
def CtxState.code : CtxState → Nat
  | .closed => 0
  | .opened => 1
  | .closing => 2

/-- The 64 B of a descriptor (R416). -/
def Ctx.bytes (c : Ctx) : List Byte :=
  leBytes 1 c.st.code ++ leBytes 1 c.home.toNat ++ leBytes 2 c.conn.toNat ++ leBytes 6 c.kvBase.toNat ++ leBytes 2 0 ++
    leBytes 4 c.kvPages.toNat ++ leBytes 4 c.capacity.toNat ++ leBytes 4 c.written.toNat ++ leBytes 4 c.committed.toNat ++
    leBytes 4 c.position.toNat ++ leBytes 8 c.philox.toNat ++ leBytes 8 c.draws.toNat ++ leBytes 8 c.energy.toNat ++
    leBytes 4 c.generation.toNat ++ leBytes 4 0

/-- A descriptor is read: its two words are checked and corrected, and a corrected word goes back sound. An uncorrectable
word stops the device (R727); the answer says whether the descriptor can be used. The events of R733 carry no information. -/
def State.ctxRead (s : State) (n : Nat) : State × Bool :=
  [2 * n, 2 * n + 1].foldl (fun (a : State × Bool) k =>
    if !a.2 then a else
    match nget .sound a.1.ctxCond k with
    | .sound => a
    | .correctable =>
      let before := a.1.ctxCorrected
      (((a.1.setCtxCorrected (satInc before)).setCtxCond (nset .sound a.1.ctxCond k .sound)).raiseRare pgContext 0x0527
        0 before, true)
    | _ => (a.1.raiseStop pgContext 0x0528 0, false)) (s, true)

/-- A descriptor is changed, with fresh check bits; an armed injection strikes the word written (R584). -/
def State.ctxWrite (s : State) (n : Nat) (f : Ctx → Ctx) : State :=
  let s := s.modCtx n f
  let s : State := s.setCtxCond (nset .sound (nset .sound s.ctxCond (2 * n) .sound) (2 * n + 1) .sound)
  let i := s.takeInjection pgContext
  if i.2 = .sound then i.1 else i.1.setCtxCond (nset .sound i.1.ctxCond (2 * n) i.2)

/-- Contexts that a cluster homes: open or closing (R37, R429). -/
def State.homed (s : State) (cl : Nat) : Nat :=
  (s.ctxs.filter fun e => decide (e.2.st ≠ .closed) && e.2.home.toNat == cl).length

end Sys2Proof.Machine
end

