-- ==== Sys2Proof/Machine/Fp.lean ====
section
/-! DEFINITION. Fp.lean: IEEE 754 arithmetic on patterns, computed exactly on integers and rounded once to nearest even
(R174, R280), and the operand formats of R226. -/

namespace Sys2Proof.Machine

/-! ### Formats -/

/-- A binary format: `p` significand bits with the hidden one, `eb` exponent bits. -/
structure FpFmt where
  p : Nat
  eb : Nat

def FpFmt.f32 : FpFmt := ⟨24, 8⟩
def FpFmt.f64 : FpFmt := ⟨53, 11⟩
def FpFmt.bf16 : FpFmt := ⟨8, 8⟩

/-- Exponent of the lowest bit of a subnormal. -/
def FpFmt.emin (f : FpFmt) : Int := 2 - 2 ^ (f.eb - 1) - ((f.p : Int) - 1)
/-- Pattern of +∞. -/
def FpFmt.infinity (f : FpFmt) : Nat := (2 ^ f.eb - 1) * 2 ^ (f.p - 1)
/-- A quiet NaN; the vector unit writes its own patterns (log entry 20). -/
def FpFmt.nan (f : FpFmt) : Nat := f.infinity + 2 ^ (f.p - 2)
def FpFmt.signBit (f : FpFmt) : Nat := 2 ^ (f.p - 1 + f.eb)

/-- A value: the finite one is (−1)^neg × m × 2^e. -/
inductive Fl where
  | nan
  | inf (neg : Bool)
  | fin (neg : Bool) (m : Nat) (e : Int)
deriving DecidableEq, Repr

def FpFmt.unpack (f : FpFmt) (x : Nat) : Fl :=
  let m := x % 2 ^ (f.p - 1)
  let ex := x / 2 ^ (f.p - 1) % 2 ^ f.eb
  let neg := x.testBit (f.p - 1 + f.eb)
  if ex = 2 ^ f.eb - 1 then (if m = 0 then .inf neg else .nan)
  else if ex = 0 then .fin neg m f.emin
  else .fin neg (m + 2 ^ (f.p - 1)) (f.emin + (ex : Int) - 1)

/-! ### Rounding -/

/-- n / d to the nearest integer, ties to even. -/
def rneRat (n d : Nat) : Nat :=
  let q := n / d
  let r := n % d
  if 2 * r > d ∨ (2 * r = d ∧ q % 2 = 1) then q + 1 else q

/-- ⌊log2 (n / d)⌋ for n, d > 0. -/
def log2Rat (n d : Nat) : Int :=
  let l : Int := (Nat.log2 n : Int) - (Nat.log2 d : Int)
  if (if 0 ≤ l then d * 2 ^ l.toNat ≤ n else d ≤ n * 2 ^ (-l).toNat) then l else l - 1

/-- Magnitude pattern of the value n / d × 2^e, rounded to nearest even; past the largest finite value, +∞. -/
def FpFmt.roundMag (f : FpFmt) (n d : Nat) (e : Int) : Nat :=
  if n = 0 then 0 else
  let q := max f.emin (log2Rat n d + e - ((f.p : Int) - 1))
  let k := if q ≤ e then rneRat (n * 2 ^ (e - q).toNat) d else rneRat n (d * 2 ^ (q - e).toNat)
  min ((q - f.emin).toNat * 2 ^ (f.p - 1) + k) f.infinity

def FpFmt.round (f : FpFmt) (neg : Bool) (n d : Nat) (e : Int) : Nat :=
  f.roundMag n d e + (if neg then f.signBit else 0)

/-- Pattern of a value. -/
def FpFmt.pack (f : FpFmt) : Fl → Nat
  | .nan => f.nan
  | .inf neg => f.infinity + (if neg then f.signBit else 0)
  | .fin neg m e => f.round neg m 1 e

/-! ### Arithmetic on values -/

def signed (neg : Bool) (m : Nat) : Int := if neg then -(m : Int) else m

/-- Exact sum; a sum of zero is −0 only when both terms are −0. -/
def Fl.add : Fl → Fl → Fl
  | .nan, _ => .nan
  | _, .nan => .nan
  | .inf a, .inf b => if a = b then .inf a else .nan
  | .inf a, _ => .inf a
  | _, .inf b => .inf b
  | .fin a m e, .fin b n k =>
    let lo := min e k
    let x := signed a (m * 2 ^ (e - lo).toNat) + signed b (n * 2 ^ (k - lo).toNat)
    if x = 0 then .fin (a && b) 0 lo else .fin (decide (x < 0)) x.natAbs lo

def Fl.neg : Fl → Fl
  | .nan => .nan
  | .inf a => .inf (!a)
  | .fin a m e => .fin (!a) m e

def Fl.mul : Fl → Fl → Fl
  | .nan, _ => .nan
  | _, .nan => .nan
  | .inf a, .inf b => .inf (a != b)
  | .inf a, .fin b n _ => if n = 0 then .nan else .inf (a != b)
  | .fin a m _, .inf b => if m = 0 then .nan else .inf (a != b)
  | .fin a m e, .fin b n k => .fin (a != b) (m * n) (e + k)

/-- Correctly rounded quotient in a format. -/
def FpFmt.divide (f : FpFmt) : Fl → Fl → Nat
  | .nan, _ => f.nan
  | _, .nan => f.nan
  | .inf _, .inf _ => f.nan
  | .inf a, .fin b _ _ => f.pack (.inf (a != b))
  | .fin a _ _, .inf b => f.round (a != b) 0 1 0
  | .fin a m e, .fin b n k =>
    if n = 0 then (if m = 0 then f.nan else f.pack (.inf (a != b))) else f.round (a != b) m n (e - k)

/-- ⌊√n⌋ by bits: `k` more bits below `r`. -/
def isqrtGo (n : Nat) : Nat → Nat → Nat
  | 0, r => r
  | k + 1, r => if (r + 2 ^ k) * (r + 2 ^ k) ≤ n then isqrtGo n k (r + 2 ^ k) else isqrtGo n k r

/-- Correctly rounded square root: 64 further bits with a sticky bit below settle the rounding. -/
def FpFmt.sqrt (f : FpFmt) : Fl → Nat
  | .nan => f.nan
  | .inf neg => if neg then f.nan else f.infinity
  | .fin neg m e =>
    if m = 0 then f.round neg 0 1 0
    else if neg then f.nan
    else
      let n := m * 2 ^ (if e % 2 = 0 then 64 else 65)
      let k := if e % 2 = 0 then e - 64 else e - 65
      let r := isqrtGo n (Nat.log2 n / 2 + 1) 0
      f.round false (2 * r + (if r * r = n then 0 else 1)) 1 (k / 2 - 1)

/-! ### FP32 and FP64 words -/

def fl32 (w : Word) : Fl := FpFmt.f32.unpack w.toNat
def w32 (x : Fl) : Word := BitVec.ofNat 32 (FpFmt.f32.pack x)
def fl64 (w : DWord) : Fl := FpFmt.f64.unpack w.toNat
def w64 (x : Fl) : DWord := BitVec.ofNat 64 (FpFmt.f64.pack x)

def fAdd (a b : Word) : Word := w32 ((fl32 a).add (fl32 b))
def fSub (a b : Word) : Word := w32 ((fl32 a).add (fl32 b).neg)
def fMul (a b : Word) : Word := w32 ((fl32 a).mul (fl32 b))
def fDiv (a b : Word) : Word := BitVec.ofNat 32 (FpFmt.f32.divide (fl32 a) (fl32 b))
def fSqrt (a : Word) : Word := BitVec.ofNat 32 (FpFmt.f32.sqrt (fl32 a))
/-- a × b + c with one rounding. -/
def fFma (a b c : Word) : Word := w32 (((fl32 a).mul (fl32 b)).add (fl32 c))
def fNeg (a : Word) : Word := a ^^^ 0x80000000
def dAdd (a b : DWord) : DWord := w64 ((fl64 a).add (fl64 b))
/-- The square of an FP32 value, exact in FP64. -/
def dSquare (a : Word) : DWord := w64 ((fl32 a).mul (fl32 a))

def isNan (w : Word) : Bool := decide (fl32 w = .nan)
def isFinite (w : Word) : Bool := decide (w.toNat / 2 ^ 23 % 256 ≠ 255)

/-- FP32 pattern of an integer, rounded to nearest even (R282). -/
def fOfInt (x : Int) : Word := BitVec.ofNat 32 (FpFmt.f32.round (decide (x < 0)) x.natAbs 1 0)
/-- FP32 pattern of 2^e. -/
def fPow2 (e : Int) : Word := BitVec.ofNat 32 (FpFmt.f32.round false 1 1 e)

/-- Order of two numbers that are not NaN; the two zeros are equal. -/
def fKey (w : Word) : Int := signed (w.getLsbD 31) (w.toNat % 2 ^ 31)
def fLt (a b : Word) : Bool := decide (fKey a < fKey b)
def fLe (a b : Word) : Bool := decide (fKey a ≤ fKey b)
/-- Smaller and larger number, the first of two equal ones. -/
def fMin (a b : Word) : Word := if fLt b a then b else a
def fMax (a b : Word) : Word := if fLt a b then b else a

/-- Nearest integer of a finite value, ties to even; 0 for others. -/
def flRound : Fl → Int
  | .fin neg m e => signed neg (if 0 ≤ e then m * 2 ^ e.toNat else rneRat m (2 ^ (-e).toNat))
  | _ => 0

/-- Floor of a finite value, and its fraction in units of 2^-24 as a rational n / d. -/
def flFloor : Fl → Int
  | .fin neg m e => if 0 ≤ e then signed neg (m * 2 ^ e.toNat) else (signed neg m).fdiv (2 ^ (-e).toNat)
  | _ => 0

/-- frac(t) × 2^24 > r (R182). -/
def fracAbove (x : Fl) (r : Nat) : Bool :=
  match x with
  | .fin neg m e =>
    if 0 ≤ e then false
    else
      let d : Nat := 2 ^ (-e).toNat
      decide (((signed neg m) % (d : Int)).toNat * 2 ^ 24 > r * d)
  | _ => false

/-- A NaN that a unit writes as a result: its pattern is open (log entry 20). -/
def nanWord (op : Nat) (operands : List Word) : Word :=
  let p := Config.nanBits op operands
  let frac := p.toNat % 0x800000
  BitVec.ofNat 32 (0x7F800000 + (if frac = 0 then 0x400000 else frac) + (if p.getLsbD 23 then 0x80000000 else 0))

def nanFix (op : Nat) (operands : List Word) (y : Word) : Word := if isNan y then nanWord op operands else y

def fOne : Word := 0x3F800000
def maxF32 : Word := 0x7F7FFFFF
def minNormal : Word := 0x00800000

/-! ### Operand formats (R226, R227) -/

/-- FP8 E4M3: no infinity, NaN is all ones. -/
def e4m3 (b : Nat) : Fl :=
  let neg := b.testBit 7
  let ex := b / 8 % 16
  let m := b % 8
  if ex = 15 ∧ m = 7 then .nan
  else if ex = 0 then .fin neg m (-9) else .fin neg (m + 8) ((ex : Int) - 10)

/-- FP8 E5M2. -/
def e5m2 (b : Nat) : Fl := FpFmt.unpack ⟨3, 5⟩ b

/-- E2M1 (R227): values in halves. -/
def e2m1 (b : Nat) : Fl :=
  let neg := b.testBit 3
  let ex := b / 2 % 4
  let m := b % 2
  if ex = 0 then .fin neg m (-1) else .fin neg (m + 2) ((ex : Int) - 2)

/-- E8M0 scale. -/
def e8m0 (b : Nat) : Fl := if b = 255 then .nan else .fin false 1 ((b : Int) - 127)

def bf16 (x : Nat) : Fl := FpFmt.bf16.unpack x
/-- A BF16 value as FP32, exactly. -/
def bf16Word (x : Nat) : Word := BitVec.ofNat 32 (x * 65536)

/-- Magnitude code of a small format, rounded to nearest even without a limit on the exponent. -/
def smallRaw (p : Nat) (emin : Int) (m : Nat) (e : Int) : Nat :=
  if m = 0 then 0 else
  let q := max emin (log2Rat m 1 + e - ((p : Int) - 1))
  let k := if q ≤ e then m * 2 ^ (e - q).toNat else rneRat m (2 ^ (q - e).toNat)
  (q - emin).toNat * 2 ^ (p - 1) + k

/-- The same, saturated at `top`. -/
def smallMag (p : Nat) (emin : Int) (top : Nat) (m : Nat) (e : Int) : Nat := min (smallRaw p emin m e) top

/-- Whether a conversion to a small format saturates: an infinity, or a value that rounds past `top`. -/
def smallSat (p : Nat) (emin : Int) (top : Nat) : Fl → Bool
  | .nan => false
  | .inf _ => true
  | .fin _ m e => decide (top < smallRaw p emin m e)

/-- Conversion to E4M3, saturating (R281). -/
def toE4m3 : Fl → Nat
  | .nan => 0x7F
  | .inf neg => 0x7E + 0x80 * b2n neg
  | .fin neg m e => smallMag 4 (-9) 0x7E m e + 0x80 * b2n neg

/-- Conversion to E5M2, saturating (R281). -/
def toE5m2 : Fl → Nat
  | .nan => 0x7F
  | .inf neg => 0x7B + 0x80 * b2n neg
  | .fin neg m e => smallMag 3 (-16) 0x7B m e + 0x80 * b2n neg

/-- Conversion of a finite value to E2M1, saturating at 6. -/
def toE2m1 : Fl → Nat
  | .fin neg m e => smallMag 2 (-1) 7 m e + 8 * b2n neg
  | .inf neg => 7 + 8 * b2n neg
  | .nan => 7

/-- Conversion to BF16. -/
def toBf16 (x : Fl) : Nat := FpFmt.bf16.pack x

/-! ### Philox4x32-10 (R183, R298) -/

/-- One round on the counter (c0, c1, c2, c3) with key (k0, k1). -/
def philoxRound (c : Nat × Nat × Nat × Nat) (k0 k1 : Nat) : Nat × Nat × Nat × Nat :=
  let p0 := 0xD2511F53 * c.1
  let p1 := 0xCD9E8D57 * c.2.2.1
  let hi := fun (x : Nat) => x / 2 ^ 32 % 2 ^ 32
  let lo := fun (x : Nat) => x % 2 ^ 32
  (hi p1 ^^^ c.2.1 ^^^ k0, lo p1, hi p0 ^^^ c.2.2.2 ^^^ k1, lo p0)

def philoxGo : Nat → Nat × Nat × Nat × Nat → Nat → Nat → Nat × Nat × Nat × Nat
  | 0, c, _, _ => c
  | n + 1, c, k0, k1 => philoxGo n (philoxRound c k0 k1) ((k0 + 0x9E3779B9) % 2 ^ 32) ((k1 + 0xBB67AE85) % 2 ^ 32)

/-- The four output words for a counter and a 64-bit key. -/
def philox (seed : Nat) (c0 c1 c2 c3 : Nat) : List Nat :=
  let w := fun (x : Nat) => x % 2 ^ 32
  let r := philoxGo 10 (w c0, w c1, w c2, w c3) (w seed) (w (seed / 2 ^ 32))
  [r.1, r.2.1, r.2.2.1, r.2.2.2]

end Sys2Proof.Machine
end

