-- ==== Sys2Proof/Machine/Power.lean ====
section
/-! DEFINITION. Power.lean: the power manager's measurement, budget, actuators, filler activity and energy attribution (R501 to
R525, R531 to R537, R549 to R553), droop (R526 to R530) and the thermal limits (R538 to R543). Draws are in mW. -/

namespace Sys2Proof.Machine

/-- Information of a POWER or THERMAL event (R554): the region, and the core or the sensor. -/
def powerInfo (r x : Nat) : Nat := r + 8 * x

/-- Whether the power manager sets actuators: the image runs (R656) and no stop holds the clocks (R545). -/
def State.powered (s : State) : Bool := decide (s.boot.phase = .running) && decide (s.power.stop = .none)

/-! ### Voltages of the core rails (R509, R510) -/

/-- Family reference voltage of an operating point, in mV (R510). -/
def referenceMv (p : Nat) : Nat := [640, 665, 680, 700, 725, 760, 800, 850].getD p 850

/-- The fused voltage table of a die (R510). An entry that the fuses do not list is the family reference voltage, which no entry
exceeds (log entry 3). -/
def Fuses.mv (f : Fuses) (d p : Nat) : Nat := (nget (BitVec.ofNat 10 (referenceMv p)) f.vtable (d * 8 + p)).toNat

/-- Voltage of a region's core rail at a point (R510, R523, R525). -/
def State.pointMv (s : State) (r p : Nat) : Nat := if s.power.uniform then referenceMv p else s.fuses.mv (r / 4) p

/-! ### Measurement (R502 to R504, R689) -/

/-- Rated current of a rail in mA. -/
def ratedMa (rail : Nat) : Nat :=
  if rail < 8 then 260000 else if rail < 10 then 120000 else if rail < 18 then 60000 else if rail < 26 then 50000
  else if rail < 34 then 40000 else if rail < 36 then 30000 else if rail = 36 then 20000 else 3000

/-- Region that a rail supplies; none for the rails of a die or of the module. -/
def railRegion (rail : Nat) : Option Nat :=
  if rail < 8 then some rail else if 10 ≤ rail ∧ rail < 18 then some (rail - 10) else if 18 ≤ rail ∧ rail < 26 then some (rail - 18)
  else if 26 ≤ rail ∧ rail < 34 then some (rail - 26) else none

/-- Raise an event of the POWER page (R554): its region, which is open where the event concerns no one region (log entry 40). -/
def State.raiseRegion (s : State) (code : BitVec 16) (r : Option Nat) : State :=
  match r with
  | some r => s.raise pgPower code noted r
  | none => let o := s.open_; o.2.raise pgPower code noted (o.1 % 8)

def railCount : Nat := 38

def State.supply (s : State) (rail : Nat) : Supply := nget .reset s.power.supplies rail
def State.modSupply (s : State) (rail : Nat) (f : Supply → Supply) : State :=
  s.setPower { s.power with supplies := nmod .reset s.power.supplies rail f }

/-- The regulator of a core rail reports `mv`: a step up that waits for its new voltage goes on to the dividers (R511). A frozen
one stays at its stage (R528). The new voltage counts as reported once the report is not below it (log entry 102). -/
def Region.reported (x : Region) (mv : Nat) : Region :=
  { x with step := x.step.map fun st =>
      if st.up ∧ st.stage = .voltage ∧ !st.frozen ∧ x.railMv ≤ mv then { st with stage := .dividers } else st }

/-- A regulator reports a rail (R502). -/
def execAvsbusSample (rail mv ma : Nat) (s : State) : Res :=
  .next (if rail < railCount ∧ s.side.on then
    let s := s.modSupply rail fun x =>
      { mv := BitVec.ofNat 16 mv, ma := BitVec.ofNat 32 ma, missed := false
        sum := x.sum + mv % 2 ^ 16 * (ma % 2 ^ 32), samples := x.samples + 1 }
    if rail < 8 then s.modRegion rail fun x => x.reported (mv % 2 ^ 16) else s
  else s)

/-- A rail has missed four samples (R504). For a core rail that has missed them already, 1 ms has passed without an answer:
the region stays at the point that it holds (R691). -/
def execPowerTelemetryLost (rail : Nat) (s : State) : Res :=
  .next (if !decide (rail < railCount) || !s.side.on then s
    else if !(s.supply rail).missed then
      let s := ((s.setPower { s.power with telemetryLost := satInc s.power.telemetryLost }).modSupply rail fun x =>
        { x with missed := true }).raiseRegion 0x0706 (railRegion rail)
      -- R569: the loss of every rail's measurements stops the device
      if (upTo 0 railCount).all (fun k => (s.supply k).missed) then s.deviceStop 0x0706 else s
    else if rail < 8 ∧ (s.region rail).step.isSome then
      (s.modRegion rail fun r => { r with step := none, target := r.point }).raiseRegion 0x0706 (some rail)
    else s)

/-- Load of a rail in one period, in microwatts: the mean of its samples, or its rated current. -/
def Supply.load (x : Supply) (rail : Nat) : Nat :=
  if x.missed then x.mv.toNat * ratedMa rail
  else if x.samples = 0 then x.mv.toNat * x.ma.toNat
  else x.sum / x.samples

/-- P_n in microwatts (R503). -/
def State.draw (s : State) : Nat :=
  ((upTo 0 railCount).map fun k => (s.supply k).load k + Config.conversionLoss k ((s.supply k).load k)).sum

/-! ### Forecasts (R536, R537) -/

/-- The latest forecast of every queue that has one (R536): a logical core's queues are those of the core that serves it. -/
def State.forecasts (s : State) : List Forecast := (upTo 0 528).filterMap fun q => (s.queue q).forecast

/-- Forecast draw in W at a time: the largest of those active, within the cap. -/
def State.forecastDraw (s : State) (t : Nat) : Nat :=
  min (maxOr 0 ((s.forecasts.filter fun f => decide (f.start ≤ t) && decide (t < f.start + f.duration)).map (·.draw))) s.power.cap.toNat

/-- A forecast that is active or pending. -/
def State.forecastLive (s : State) : Bool := s.forecasts.any fun f => decide (s.time.now.toNat < f.start + f.duration)

/-- Where the forecasts hold the ramp floor, in mW, at time `t` of the next period: on lines that rise at the ramp-up limit and
reach each draw at its start, which may lie before `t`. -/
def State.forecastFloor (s : State) (draw t : Nat) : Nat :=
  maxOr 0 ((s.forecasts.filter fun f =>
      decide (s.time.now.toNat ≤ f.start) && decide (draw < 1000 * min f.draw s.power.cap.toNat)).map fun f =>
    1000 * min f.draw s.power.cap.toNat - s.power.rampUp.toNat * (f.start - t) / 1000)

/-! ### Settings (R505 to R524) -/

/-- What the power manager sets: a point for each region, issue limit k, memory limit j. -/
structure Setting where
  points : List Nat
  k : Nat
  j : Nat
deriving DecidableEq, Repr

/-- The floor (R520). -/
def Setting.floor : Setting := ⟨List.replicate 8 0, 1, 4⟩

/-- What a prediction goes by: the period, and in free mode the part's own fused voltages (R523, R525). -/
structure Basis where
  n : Nat
  own : Option (List Nat)
deriving DecidableEq, Repr

def State.basis (s : State) (n : Nat) : Basis :=
  ⟨n, if s.power.uniform then none else some ((upTo 0 16).map fun i => s.fuses.mv (i / 8) (i % 8))⟩

def Setting.draw (x : Setting) (n : Basis) : Nat := Config.predicted n.own n.n x.points x.k x.j

/-- Greatest number from `lo` to `hi` that passes. -/
def greatest (ok : Nat → Bool) (lo hi : Nat) : Option Nat := (upTo lo (hi + 1 - lo)).reverse.find? ok

/-- Twice the divider of a point (R510); frequencies go as its inverse. -/
def pointDivider (p : Nat) : Nat := [16, 14, 13, 12, 11, 10, 9, 8].getD p 8

/-- R515: issue limit, then points, then memory limit, each below what it is now: the draw has been over the budget with the present
one. -/
def Setting.lower (x : Setting) (n : Basis) (budget : Nat) : Setting :=
  let fits := fun y : Setting => decide (y.draw n ≤ budget)
  match greatest (fun k => fits { x with k := k }) 1 (x.k - 1) with
  | some k => { x with k := k }
  | none =>
    let down := fun d => x.points.map (· - d)
    let best := fun d => greatest (fun k => fits ⟨down d, k, x.j⟩) 1 16
    match (upTo 1 (maxOr 0 x.points)).find? fun d => (best d).isSome with
    | some d => ⟨down d, (best d).getD 1, x.j⟩
    | none => ⟨x.points.map fun _ => 0, 1, (greatest (fun j => fits ⟨x.points.map fun _ => 0, 1, j⟩) 4 (x.j - 1)).getD 4⟩

/-- One region up by one point (R517), where the prediction meets the budget. -/
def Setting.raiseRegion (x : Setting) (n : Basis) (budget r : Nat) : Setting :=
  let p := x.points.getD r 0
  let y : Setting := ⟨x.points.set r (p + 1), min x.k (16 * pointDivider (p + 1) / pointDivider p), x.j⟩
  if y.draw n ≤ budget then y else x

/-- k after a region goes down from point `p` (R518): its throughput does not grow. -/
def tradedLimit (k p : Nat) : Nat := min 16 (k * pointDivider (p - 1) / pointDivider p)

/-- Regions down by one point each (R518). The issue limit is the module's: it is set once, to the least that the rule gives for
any of them, so that no region's throughput grows (DEDUCED, log entry 102). -/
def Setting.trade (x : Setting) (rs : List Nat) : Setting :=
  let rs := rs.filter fun r => decide (0 < x.points.getD r 0)
  if rs.isEmpty then x else
  ⟨rs.foldl (fun ps r => ps.set r (x.points.getD r 0 - 1)) x.points, minOr 16 (rs.map fun r => tradedLimit x.k (x.points.getD r 0)), x.j⟩

/-- R517 and R518: memory, issue limit, then the regions whose hold has lasted 16 periods. -/
def Setting.raise (x : Setting) (n : Basis) (budget : Nat) (ups downs : List Nat) : Setting :=
  let fits := fun y : Setting => decide (y.draw n ≤ budget)
  let x := { x with j := (greatest (fun j => fits { x with j := j }) x.j 16).getD x.j }
  if x.j < 16 then x else
  let x := { x with k := (greatest (fun k => fits { x with k := k }) x.k 16).getD x.k }
  if x.k = 16 then ups.foldl (fun y r => y.raiseRegion n budget r) x
  else if x.k ≤ 12 then x.trade downs
  else x

/-! ### Operating points (R509 to R513, R528, R529) -/

/-- Logical cores whose clocks follow a region's operating point. -/
def State.regionCores (s : State) (r : Nat) : List Nat :=
  (upTo 0 128).filter fun l => regionOfPhys (s.physOf l) == r

def State.regionStretched (s : State) (r : Nat) : Bool := (s.regionCores r).any fun l => (s.lcore l).stretched

/-- The point that a region may have at most: its ceiling (R539), or 0 at its thermal limit (R540). -/
def Region.top (r : Region) : Nat := if r.atLimit then 0 else r.ceiling

/-- A step down switches its dividers, unless a droop freezes it (R511, R528). -/
def Region.switchDown (x : Region) : Region :=
  match x.step with
  | some st => if !st.up ∧ st.stage = .dividers ∧ !st.frozen then { x with point := x.point - 1, step := some { st with stage := .voltage } }
    else x
  | none => x

/-- Start the next step toward the region's target, one point at a time (R511): a step up raises the rail's voltage first, a step
down switches the dividers first. None starts while a stop holds the rails at their retention voltage (R545). -/
def State.startStep (s : State) (r : Nat) : State :=
  let x := s.region r
  if s.power.stop ≠ .none ∨ x.step.isSome ∨ x.target = x.point then s
  else if x.point < x.target then
    if x.upHold then s
    else s.modRegion r fun y => { y with railMv := s.pointMv r (y.point + 1), step := some ⟨true, .voltage, false⟩ }
  else s.modRegion r fun y => { y with step := some ⟨false, .dividers, s.regionStretched r⟩ : Region }.switchDown

/-- The voltage of every core rail follows the mode (R509, R510): a step up waits for its new voltage again. A step down keeps its
voltage until it lowers it (R511), and a frozen step keeps its stage (R528) until it resumes. The retention voltage of a stop follows
no mode (R545). -/
def State.setVoltages (s : State) : State :=
  if s.power.stop ≠ .none then s else
  s.forEach (upTo 0 8) fun s r => s.modRegion r fun x =>
    match x.step with
    | none => { x with railMv := s.pointMv r x.point }
    | some st => if st.up ∧ !st.frozen then { x with railMv := s.pointMv r (x.point + 1), step := some { st with stage := .voltage } } else x

def State.setTargets (s : State) (points : List Nat) : State :=
  s.forEach (upTo 0 8) fun s r =>
    (s.modRegion r fun x => { x with target := min (points.getD r 0) x.top }).startStep r

/-- Cores in fallback, by logical number. -/
def State.anyFallback (s : State) : Bool := (upTo 0 128).any fun l => (s.lcore l).fallback

/-- Region of the first core in fallback. -/
def State.fallbackRegion (s : State) : Option Nat :=
  ((upTo 0 128).find? fun l => (s.lcore l).fallback).map fun l => regionOfPhys (s.physOf l)

/-- Enter or leave the condition of UNIFORM_DEPARTED (R524). -/
def State.setDeparted (s : State) (cond : Bool) (r : Option Nat) : State :=
  let was := s.power.departed
  let s : State := s.setPower { s.power with departed := cond }
  if cond ∧ !was then s.raiseRegion 0x0705 r else s

/-- A core fails its margin check at the new point (R512). -/
def State.fallBack (s : State) (r l : Nat) : State :=
  let seen := (s.lcore l).fallbackSeen
  let s := s.modLcore l fun c => { c with fallback := true, fallbackSeen := true }
  s.raiseEach pgPower 0x0704 (powerInfo r l) (!seen) 1

/-- Whether a region's step can end: a step up has its voltage reported, a step down has switched its dividers and its regulator
answers the voltage write (R511, R691), and no droop freezes it (R528). -/
def State.stepReady (s : State) (r : Nat) (st : PointStep) : Bool :=
  !st.frozen && (if st.up then decide (st.stage = .dividers) else decide (st.stage = .voltage) && !(s.supply r).missed)

/-- The last stage of a step: a step up switches its dividers, a step down lowers the voltage (R511). -/
def State.lastStage (s : State) (r : Nat) (st : PointStep) : State :=
  s.modRegion r fun x =>
    if st.up then { x with point := x.point + 1, step := none } else { x with railMv := s.pointMv r x.point, step := none }

/-- The cores of a region run their margin check at its point; those of the list fail it (R512, R524). -/
def State.marginCheck (s : State) (r : Nat) (failing : List Nat) : State :=
  let s := s.forEach (s.regionCores r) fun s l =>
    if failing.contains l then s.fallBack r l else s.modLcore l fun c => { c with fallback := false }
  if s.power.uniform ∧ (s.regionCores r).any (fun l => (s.lcore l).fallback) then s.setDeparted true (some r) else s

/-- A region's step completes, and its cores run their margin check. -/
def execOpPointStep (region : Nat) (failing : List Nat) (s : State) : Res :=
  .next (match decide (region < 8) && s.powered, (s.region region).step with
    | true, some st =>
      if !s.stepReady region st then s else
      ((s.lastStage region st).marginCheck region failing).startStep region
    | _, _ => s)

/-! ### Energy (R549 to R553) -/

/-- Keys of the fractions: 0 total, 1 unattributed, 2 filler, 8 + p partitions, 16 + q queues, 1,024 + n contexts. -/
def fracTotal : Nat := 0
def fracUnattributed : Nat := 1
def fracFiller : Nat := 2
def fracPartition (p : Nat) : Nat := 8 + p
def fracQueue (q : Nat) : Nat := 16 + q
def fracCtx (n : Nat) : Nat := 1024 + n

/-- Add picojoules to a counter of whole microjoules and its fraction. -/
def addPj (w : DWord) (frac : Nat) (d : Int) : DWord × Nat :=
  let t : Int := frac + d
  (w + BitVec.ofInt 64 (t / 1000000), (t % 1000000).toNat)

def Energy.bump (x : Energy) (key : Nat) (w : DWord) (d : Int) : DWord × Energy :=
  let r := addPj w (nget 0 x.fracs key) d
  (r.1, { x with fracs := nset 0 x.fracs key r.2 })

def Energy.addTotal (x : Energy) (d : Int) : Energy :=
  let r := x.bump fracTotal x.total d
  { r.2 with total := r.1 }
def Energy.addUnattributed (x : Energy) (d : Int) : Energy :=
  let r := x.bump fracUnattributed x.unattributed d
  { r.2 with unattributed := r.1 }
def Energy.addFiller (x : Energy) (d : Int) : Energy :=
  let r := x.bump fracFiller x.filler d
  { r.2 with filler := r.1 }
def Energy.addPartition (x : Energy) (p : Nat) (d : Int) : Energy :=
  let r := x.bump (fracPartition p) (nget 0 x.partition p) d
  { r.2 with partition := nset 0 r.2.partition p r.1 }
def Energy.addQueue (x : Energy) (q : Nat) (d : Int) : Energy :=
  let r := x.bump (fracQueue q) (nget 0 x.queue q) d
  { r.2 with queue := nset 0 r.2.queue q r.1 }

/-- The partition of a region in a map (R552). -/
def partitionOf (map : BitVec 24) (r : Nat) : Nat := map.toNat / 8 ^ r % 8

/-- κ as a fraction (R550), limited to 0.5 to 2; 1 where no queue used anything (log entry 13). -/
def kappa (num den : Int) : Int × Int :=
  if den = 0 then (1, 1) else if 2 * num < den then (1, 2) else if 2 * den < num then (2, 1) else (num, den)

/-- Modelled energy in picojoules of what a command has done in the period (R549, R553). -/
def Energy.command (x : Energy) (q id : Nat) : Nat :=
  ((upTo 0 workKinds).map fun k => Config.energyWeight k * nget 0 x.cmdWork (cmdKey q id k)).sum

/-- Whether the command of a key of `Energy.cmdWork` is still in its stream engine, and has yet to work on a context in the period. -/
def State.uncharged (s : State) (cs : List Charge) (key : Nat) : Bool :=
  let q := key / 8 % 528
  let id := key / 8 / 528
  !cs.any (fun c => c.q == q && c.id == id) && (s.cluster (clusterOf (q / 4))).held.any fun g => g.job.q == q && g.job.id == id

/-- The energy that work on contexts adds to their descriptors (R553): a command's in the period, in proportion to what it spent on
each. What a command has done without any context's work yet stays for a later period (log entry 13). -/
def State.chargeContexts (s : State) (k : Int × Int) : State :=
  let cs := s.energy.charges
  let used := s.energy
  let s : State := s.setEnergy { s.energy with charges := [], cmdWork := s.energy.cmdWork.filter fun e => s.uncharged cs e.1 }
  cs.foldl (fun s c =>
    let all := ((cs.filter fun d => d.q == c.q && d.id == c.id).map (·.weight)).sum
    if (s.ctx c.ctx).st = .closed then s else
    let share : Int := (used.command c.q c.id : Int) * k.1 / k.2 * c.weight / all
    let r := s.energy.bump (fracCtx c.ctx) (s.ctx c.ctx).energy share
    (s.setEnergy r.2).ctxWrite c.ctx fun d => { d with energy := r.1 }) s

/-- D_q of R549 in picojoules: each kind of work of a queue's commands at its fused weight. -/
def Energy.dynamic (x : Energy) (q : Nat) : Nat :=
  ((upTo 0 workKinds).map fun k => Config.energyWeight k * nget 0 x.work (workKey q k)).sum

/-- Attribution of one period whose mean draw was `uw` microwatts. -/
def State.attribute (s : State) (n uw : Nat) : State :=
  let e : Int := uw * 64
  let filler := fun r : Nat => if (s.region r).fillerRan then (Config.fillerEnergy n r : Int) else 0
  let base : Int := ((upTo 0 9).map fun r => (Config.baseEnergy n r : Int)).sum + ((upTo 0 8).map filler).sum
  let used : Int := ((upTo 0 528).map fun q => (s.energy.dynamic q : Int)).sum
  let k := kappa (e - base) used
  let share := fun q : Nat => (s.energy.dynamic q : Int) * k.1 / k.2
  let regional := fun r : Nat => ((upTo (64 * r) 64).map share).sum + Config.baseEnergy n r + filler r
  let map := s.energy.mapNow
  let x := s.energy.addTotal e
  let x := x.addFiller ((upTo 0 8).map filler).sum
  let x := (upTo 0 528).foldl (fun x q => x.addQueue q (share q)) x
  let x := (upTo 0 8).foldl (fun x r => x.addPartition (partitionOf map r) (regional r)) x
  let x := x.addUnattributed (e - ((upTo 0 8).map regional).sum - ((upTo 512 16).map share).sum)
  let x := { x with
    calFactor := BitVec.ofNat 32 (FpFmt.f32.round false k.1.toNat k.2.toNat 0), mapNow := x.partMap, work := [] }
  (s.setEnergy x).chargeContexts k

/-! ### The end of a period (R505, R515 to R522, R532 to R537) -/

/-- Allowance of one period in mW for a limit in W/ms (R531). -/
def allowance (limit : BitVec 11) : Nat := 64 * limit.toNat

/-- Limit from the cap or, while `THROTTLE_L` is asserted, the floor (R515). -/
def State.baseLimit (s : State) (n : Basis) : Nat :=
  if s.power.throttle then Setting.floor.draw n else 1000 * s.power.cap.toNat

def State.budget (s : State) (n : Basis) (draw : Nat) : Nat := min (s.baseLimit n) (draw + allowance s.power.rampUp)

/-- The setting in force, as the power manager called for it. -/
def State.setting (s : State) : Setting := ⟨(upTo 0 8).map fun r => (s.region r).target, s.power.issue, s.power.memory⟩

/-- Hold counters of R517 and R518 at the end of a period. -/
def State.countHolds (s : State) : State :=
  s.forEach (upTo 0 8) fun s r =>
    s.modRegion r fun x =>
      { x with
        holdHigh := if s.power.issue = 16 then x.holdHigh + 1 else 0
        holdLow := if s.power.issue ≤ 12 then x.holdLow + 1 else 0 }

/-- Regions that may go up (R517, R528, R539) and those that may be lowered (R518). -/
def State.upRegions (s : State) : List Nat :=
  (upTo 0 8).filter fun r =>
    let x := s.region r
    decide (16 ≤ x.holdHigh) && decide (x.point = x.target) && x.step.isNone && !x.upHold && decide (x.target < x.top)
def State.downRegions (s : State) : List Nat :=
  (upTo 0 8).filter fun r => decide (16 ≤ (s.region r).holdLow) && decide (0 < (s.region r).target)

/-- The setting for the next period. -/
def State.plan (s : State) (n : Basis) (draw budget : Nat) : Setting :=
  let x := s.setting
  if s.power.throttle ∨ budget < Setting.floor.draw n then .floor
  else if budget < draw then x.lower n budget
  else x.raise n budget s.upRegions s.downRegions

/-- CAP_UNATTAINABLE on entry, and its end after 16 periods (R522). -/
def State.attainability (s : State) (low : Bool) : State :=
  let p := s.power
  if low then
    let s : State := (s.setPower { p with
      unattainable := true, attainableFor := 0, unattainablePeriods := satInc p.unattainablePeriods })
    if p.unattainable then s else s.raise pgPower 0x0701 noted 0
  else if p.unattainable then
    s.setPower { p with unattainable := decide (p.attainableFor + 1 < 16), attainableFor := p.attainableFor + 1 }
  else s

/-- The draw that ramp shaping and forecasts hold up in the next period (R533, R537), within the budget. -/
def State.rampFloor (s : State) (draw budget : Nat) : Nat :=
  let f := draw - allowance s.power.rampDown
  min budget (if s.power.forecastEn then max f (s.forecastFloor draw (s.time.now.toNat + 64000)) else f)

/-- Highest draw in mW that filler activity can hold (R534): 1,900 W with every region at point 7 and 16/16 issue, none at its
thermal limit and no core fenced; open at other settings. -/
def State.fillerReach (s : State) (n : Basis) (x : Setting) : Nat :=
  let whole := x.points.all (· == 7) && x.k == 16 && (upTo 0 8).all (fun r => !(s.region r).atLimit) && (upTo 0 128).all (fun l => !s.lfenced l)
  if whole then 1900000 else Config.fillerReach n.n x.points x.k x.j

/-- Filler activity for the next period in the regions that are not at their thermal limit, its amount, and RAMP_FLOOR_MISSED on
entry (R533 to R535). The amount brings the predicted draw up to the floor, or as near as the actuators allow. -/
def State.planFiller (s : State) (n : Basis) (draw budget : Nat) (x : Setting) (low : Bool) : State :=
  let p := s.power
  let allowed := p.fillerEn && !p.throttle && !low
  let cool := (upTo 0 8).any fun r => !(s.region r).atLimit
  let floor := s.rampFloor draw budget
  let reach := s.fillerReach n x
  let short := allowed && decide (x.draw n < floor)
  let missed := short && !(cool && decide (floor ≤ reach))
  let runs := short && cool
  let s : State := s.setPower { p with
    fillerNext := runs, fillerMw := if runs then min floor reach - x.draw n else 0, fillerKey := n.n, rampMissed := missed }
  let s := s.forEach (upTo 0 8) fun s r =>
    s.modRegion r fun y => { y with filler := runs && !y.atLimit, fillerRan := runs && !y.atLimit }
  if missed ∧ !p.rampMissed then s.raise pgPower 0x0703 noted 0 else s

/-- The power manager's actions for the next period. -/
def State.manage (s : State) (k draw : Nat) : State :=
  let n := s.basis k
  let budget := s.budget n draw
  let low := decide (budget < Setting.floor.draw n)
  let s := s.countHolds
  let x := s.plan n draw budget
  let free := s.plan n draw (s.baseLimit n)
  let departs := s.power.uniform && (decide (budget < draw) && decide (s.setting.draw n ≤ budget) || s.anyFallback)
  let s := s.attainability low
  let s := s.setDeparted departs s.fallbackRegion
  let old := s.setting
  let s : State := (s.setPower { s.power with
    budget := BitVec.ofNat 12 (min 4095 (budget / 1000)), issue := x.k, memory := x.j
    rampHold := decide (draw ≤ budget) && decide (x ≠ free) && decide (budget < s.baseLimit n) })
  let s := s.forEach (upTo 0 8) fun s r =>
    if x.points.getD r 0 = old.points.getD r 0 then s
    else s.modRegion r fun y => { y with holdHigh := 0, holdLow := 0 }
  (s.setTargets x.points).planFiller n draw budget x low

/-- The regions' filler activity has ended; it ran in no part of the next period. -/
def State.stopFiller (s : State) : State :=
  s.forEach (upTo 0 8) fun s r => s.modRegion r fun y => { y with filler := false, fillerRan := false }

/-- POWER_PERIOD: measurement, attribution, then the next period's settings. -/
def execPowerPeriod (s : State) : Res :=
  .next (if !s.side.on then s else
    let n := s.oracle
    let uw := s.draw
    let w := BitVec.ofNat 12 (min 4095 (uw / 1000000))
    let ran := s.power.fillerNext
    let s : State := (((s.setOracle (n + 1)).setPower { s.power with
        measured := w, peak := if s.power.peak.toNat < w.toNat then w else s.power.peak
        supplies := s.power.supplies.filterMap fun e =>
          let x := { e.2 with sum := 0, samples := 0 }
          if x = .reset then none else some (e.1, x)
        fillerActive := ran, fillerNext := false
        fillerPeriods := if ran then satInc s.power.fillerPeriods else s.power.fillerPeriods }).setThermal { s.thermal with
        throttlePeriods := satAdd s.thermal.throttlePeriods ((upTo 0 8).filter fun r => decide ((s.region r).ceiling < 7)).length
        limitPeriods := satAdd s.thermal.limitPeriods ((upTo 0 8).filter fun r => (s.region r).atLimit).length })
    let s := s.attribute n uw
    let s := s.stopFiller
    if s.powered then s.manage n (uw / 1000) else s)

/-- Issue limit in sixteenths that a core's frames obey (R85, R507, R527, R540). -/
def State.issueLimit (s : State) (p : Nat) : Nat :=
  let k := if (s.region (regionOfPhys p)).atLimit then min s.power.issue 1 else s.power.issue
  if (s.core p).clamped then min k 4 else k

/-! ### Droop (R526 to R530) -/

/-- A detector falls below its threshold: stretch, clamp, and a step in progress freezes. -/
def execDroopStretch (core : Nat) (s : State) : Res :=
  .next (if !decide (core < 128) || !s.powered || (s.lcore core).stretched then s else
    let r := regionOfPhys (s.physOf core)
    let say := match (s.lcore core).droopAt with
      | none => true
      | some t => decide (t + 1000000 ≤ s.time.now.toNat)
    let s := s.modLcore core fun c =>
      { c with stretched := true, clamped := true, droopAt := if say then some s.time.now.toNat else c.droopAt }
    let s : State := s.setPower { s.power with droopEvents := satInc s.power.droopEvents }
    let s := s.modRegion r fun x => { x with upHold := true, step := x.step.map fun st => { st with frozen := true } }
    s.raiseFull pgPower 0x0702 noted (powerInfo r core) 0 say false)

/-- The stretch ends; a frozen step down resumes once no stretch is active in the region. -/
def execStretchEnd (core : Nat) (s : State) : Res :=
  .next (if !decide (core < 128) || !(s.lcore core).stretched then s else
    let r := regionOfPhys (s.physOf core)
    let s := s.modLcore core fun c => { c with stretched := false }
    if s.regionStretched r then s
    else s.modRegion r fun x => { x with step := x.step.map fun st => if st.up then st else { st with frozen := false } : Region }.switchDown)

def execClampEnd (core : Nat) (s : State) : Res :=
  .next (if decide (core < 128) && !(s.lcore core).stretched then s.modLcore core fun c => { c with clamped := false } else s)

/-- A resumed step up whose rail stands at another voltage than the mode in force gives its next point raises that one first
(R511, R523). -/
def Region.resumeUp (x : Region) (mv : Nat) : Region :=
  match x.step with
  | some st => if st.up ∧ x.railMv ≠ mv then { x with railMv := mv, step := some { st with stage := .voltage } } else x
  | none => x

/-- No stretch in the region for 2 µs: a frozen step up resumes, and steps up may start. -/
def execStepUpResume (region : Nat) (s : State) : Res :=
  .next (if !decide (region < 8) || s.regionStretched region then s else
    (s.modRegion region fun x =>
      { x with upHold := false, step := x.step.map fun st => { st with frozen := false } : Region }.switchDown.resumeUp
        (s.pointMv region (x.point + 1))).startStep region)

/-! ### THROTTLE_L (R521) -/

/-- An accepted low level: every actuator to the floor, filler activity ends. -/
def execThrottleAsserted (s : State) : Res :=
  .next (if !s.side.on || !s.side.throttleL then s else
    let s : State := 
      (s.setSide { s.side with throttleL := false, throttleAssertions := satInc s.side.throttleAssertions }).setPower
        { s.power with throttle := true, issue := 1, memory := 4, fillerNext := false, fillerMw := 0 }
    let s := s.forEach (upTo 0 8) fun s r => s.modRegion r fun x => { x with filler := false }
    (s.setTargets Setting.floor.points).raise pgPower 0x0713 noted 0)

/-- Release: the actuators rise under R517 at the ends of the following periods. -/
def execThrottleReleased (s : State) : Res :=
  .next (if !s.side.on || s.side.throttleL then s else
    (s.setSide { s.side with throttleL := true }).setPower { s.power with throttle := false })

/-! ### Thermal limits (R538 to R543) -/

/-- Reading of a sensor as its zone takes it: a faulty one as 105 °C (R542). -/
def Region.sensorAt (x : Region) (k : Nat) : Int :=
  if nget false x.sensorFault k then 1680 else (nget 0 x.sensors k).toInt

/-- Zone temperature in 1/16 °C, and the sensor that it comes from: the highest of the first `n` sensors and of every faulty one;
of several, the lowest-numbered sensor (DESIGN CHOICE, log entry 102). -/
def Region.hottest (x : Region) (n : Nat) : Option (Int × Nat) :=
  match (upTo 0 32).filter fun k => decide (k < n) || nget false x.sensorFault k with
  | [] => none
  | k :: ks => some (ks.foldl (fun a k => if a.1 < x.sensorAt k then (x.sensorAt k, k) else a) (x.sensorAt k, k))

/-- The zone takes a new temperature from sensor `k`: its maximum, and entry to or exit from the limit of 105 °C, at which the
region's filler activity stops (R540). After a trip, a zone above 85 °C ends the readiness to restart (R543). -/
def State.setZone (s : State) (r : Nat) (t : Int) (k : Nat) : State :=
  let w := BitVec.ofInt 16 t
  let was := (s.region r).atLimit
  let s := s.modRegion r fun x =>
    { x with
      zone := w, hot := k, atLimit := decide (1680 ≤ t) || (x.atLimit && decide (1600 ≤ t))
      ceiling := if x.atLimit ∧ t < 1600 then 0 else x.ceiling }
  let s : State := if s.thermal.max.toInt < t then s.setThermal { s.thermal with max := w, maxZone := BitVec.ofNat 3 r } else s
  let s := (s.modRegion r fun x =>
    { x with target := min x.target x.top, filler := x.filler && !x.atLimit }).startStep r
  let s := if s.power.tripped ∧ 1360 < t then s.setPower { s.power with restartReady := false } else s
  if (s.region r).atLimit ∧ !was then s.raise pgThermal 0x0722 noted (powerInfo r k) else s

/-- The zone treats a sensor as faulty; THERMAL_SENSOR_FAULT once per sensor and reset (R542). -/
def State.sensorFails (s : State) (r k : Nat) : State :=
  let seen := nget false (s.region r).faultSeen k
  let s := s.modRegion r fun x =>
    { x with sensorFault := nset false x.sensorFault k true, faultSeen := nset false x.faultSeen k true }
  s.raiseEach pgThermal 0x0723 (powerInfo r k) (!seen) 1

/-- A sensor's reading arrives: outside the range it is faulty; a changed one inside the range is faulty no longer (R542). -/
def State.sensorReads (s : State) (r k : Nat) (v : BitVec 16) : State :=
  let old := nget 0 (s.region r).sensors k
  let s := s.modRegion r fun x => { x with sensors := nset 0 x.sensors k v }
  if !Config.sensorInRange v then s.sensorFails r k
  else if v = old then s
  else s.modRegion r fun x => { x with sensorFault := nset false x.sensorFault k false }

/-- Readings of a region's sensors, in sensor order. -/
def execThermalSample (region : Nat) (readings : List (BitVec 16)) (s : State) : Res :=
  .next (if !decide (region < 8) || !s.side.on then s else
    let rs := readings.take 32
    let s := rs.zipIdx.foldl (fun s v => s.sensorReads region v.2 v.1) s
    match (s.region region).hottest rs.length with
    | none => s
    | some t => s.setZone region t.1 t.2)

/-- Every 1.024 ms (R539). -/
def execCeilingStep (region : Nat) (s : State) : Res :=
  .next (if !decide (region < 8) || !s.side.on then s else
    let x := s.region region
    let t := x.zone.toInt
    let at_ : Int := 16 * s.thermal.throttleAt.toNat
    let c := if at_ ≤ t then x.ceiling - 1 else if t ≤ at_ - 48 then min 7 (x.ceiling + 1) else x.ceiling
    let s := (s.modRegion region fun y => { y with ceiling := c, target := min y.target (if y.atLimit then 0 else c) }).startStep region
    if x.ceiling = 7 ∧ c < 7 then s.raise pgThermal 0x0721 noted (powerInfo region x.hot) else s)

/-- A sensor shows no change for 1 s while its region is active, or reads outside its range: the zone takes it as 105 °C (R542). -/
def execThermalSensorFault (region sensor : Nat) (s : State) : Res :=
  .next (if !decide (region < 8) || !decide (sensor < 32) || !s.side.on then s else
    let s := s.sensorFails region sensor
    let x := s.region region
    if x.zone.toInt < 1680 then s.setZone region 1680 sensor else s.setZone region x.zone.toInt x.hot)

/-- A trip comparator sees a sensor above 115 °C (R543): the trip counts, and the device stops as for a coolant loss. A device that
a stop holds already stays as it is (R565), but a restart then needs the zones cool. -/
def execThermalTrip (region sensor : Nat) (s : State) : Res :=
  .next (if !decide (region < 8) || !decide (sensor < 32) || !s.side.on then s else
    let s : State := (s.setThermal { s.thermal with trips := satInc s.thermal.trips }).setPower
      { s.power with tripped := true, restartReady := false }
    (s.raise pgThermal 0x0720 deviceStopSev (powerInfo region sensor)).powerStop .trip 0x0720)

end Sys2Proof.Machine
end

