-- ==== Sys2Proof/Machine/Ledger.lean ====
section
/-! DEFINITION. Ledger.lean: accesses to the ledger's rows with their flags and events (R136 to R146), and the ledger
commands and their port (R147 to R162). -/

namespace Sys2Proof.Machine

/-! ### Rows with their marks -/

def State.modLedger (s : State) (l : Nat) (f : Ledger → Ledger) : State :=
  s.modLcore l fun c => { c with ledger := f c.ledger }

/-- A read of lanes `lo` to `hi - 1` of a row by a promotion, a lane-sum addition or a command of queue `q`: corrections
are counted, an uncorrectable word poisons the tile (R136, R137). It reads the code words that hold those lanes, and no others of
the row (log entry 98). The information of LEDGER_CORRECTED, which R172 does not list, is tile and queue too (DESIGN CHOICE, log
entry 111). -/
def State.ledgerRead (s : State) (q t row lo hi : Nat) : State :=
  let l := q / 4
  ((s.lcore l).ledger.conds t row lo hi).foldl (fun s c =>
    if c = .uncorrectable then
      (s.modLedger l fun L => { L with poison := nset false L.poison t true }).raise (s.pgL l bLedger) 0x0114 contained (ledInfo t q)
    else (s.modLedger l fun L => { L with corrected := satInc L.corrected }).raise (s.pgL l bLedger) 0x0113 noted (ledInfo t q)) s

/-- `n` clamps in a tile (R144, R145). -/
def State.ledgerClamps (s : State) (q t n : Nat) : State :=
  if n = 0 then s else
  let l := q / 4
  let was := nget false (s.lcore l).ledger.sat t
  let s := s.modLedger l fun L => { L with sat := nset false L.sat t true, clamps := satAdd L.clamps n }
  if was then s else s.raise (s.pgL l bLedger) 0x0111 noted (ledInfo t q)

/-- An armed injection strikes the first code word that a write covers (R584). -/
def State.ledgerInject (s : State) (l t row lo : Nat) : State :=
  let r := s.takeInjection (s.pgL l bLedger)
  match r.2 with
  | .sound => r.1
  | c => r.1.modLedger l fun L => { L with cond := nset .sound L.cond (ledRow t row * 24 + 48 * lo / 256) c }

/-- Add to lanes `lo` to `hi - 1` of a row (R140 to R145). -/
def State.ledgerAdd (s : State) (q t row lo hi : Nat) (v : Nat → Int) : State :=
  let l := q / 4
  let s := s.ledgerRead q t row lo hi
  let r := (s.lcore l).ledger.addRow t row lo hi v
  ((s.modLedger l fun _ => r.1).ledgerInject l t row lo).ledgerClamps q t r.2

/-- Clear a tile (R151, R157): an armed injection strikes its first code word. -/
def State.ledgerClear (s : State) (l t : Nat) : State := (s.modLedger l fun L => L.clearTile t).ledgerInject l t 0 0

/-- Write lanes `lo` to `hi - 1` of a row in overwrite mode (R158). -/
def State.ledgerPut (s : State) (q t row lo hi : Nat) (v : Nat → Int) : State :=
  let l := q / 4
  let r := (s.lcore l).ledger.writeRow t row lo hi v
  ((s.modLedger l fun _ => r.1).ledgerInject l t row lo).ledgerClamps q t r.2

/-! ### The allocation window (R147 to R149) -/

def Ledger.win (L : Ledger) (i : Nat) : LedgerWin :=
  match i with
  | 0 => L.win0
  | 1 => L.win1
  | 2 => L.win2
  | _ => L.win3

/-- First of the tiles that lies outside queue `q`'s window, or above 63. -/
def State.outsideWindow (s : State) (q : Nat) (tiles : List Nat) : Option Nat :=
  let w := (s.lcore (q / 4)).ledger.win (q % 4)
  tiles.find? fun t => !(within w.base.toNat 63 t && decide (t < w.base.toNat + w.count.toNat))

def State.ledgerStop (s : State) (q t : Nat) (code : BitVec 16) (sev : Nat) : Stop :=
  ⟨code, s.pgL (q / 4) bLedger, sev, ledInfo t q, 0⟩

/-- R148: the stop with LEDGER_WINDOW (0x0110). -/
def State.windowStop (s : State) (q : Nat) (tiles : List Nat) : Option Stop :=
  (s.outsideWindow q tiles).map fun t => s.ledgerStop q t 0x0110 contained

/-- `LEDGER.WINDOW_STOPS` counts a queue that has just stopped with LEDGER_WINDOW. -/
def State.countWindow (before s : State) (q : Nat) : State :=
  if (s.queue q).stopped ∧ !(before.queue q).stopped ∧ (s.queue q).stopCode = 0x0110 then
    s.modLedger (q / 4) fun L => { L with windowStops := satInc L.windowStops }
  else s

/-! ### Operands (R150, R152 to R155) -/

def ledVectors (e : Entry) : Nat := fld e 18 1
def ledLanes (e : Entry) : Nat := fld e 19 1
def ledLanesum (e : Entry) : Bool := fbit e 20 0
def ledOnly (e : Entry) : Bool := fbit e 20 1
/-- `CLEAR_AFTER` of a drain, `ADD` of a load. -/
def ledBit2 (e : Entry) : Bool := fbit e 20 2
def ledStopIfSat (e : Entry) : Bool := fbit e 20 3
def ledOffset (e : Entry) : Nat := fld e 24 4
def ledStride (e : Entry) : Nat := fld e 28 4

def imageSize (e : Entry) : Nat := if ledOnly e then 1024 else if ledLanesum e then 9216 else 8192

def clearOk (e : Entry) : Bool := fbits e 16 7 6 == 0 && within 1 64 (ledCount e) && fzero e 18 46

/-- Limits of R155 for a drain or load. The valid-vector count is tested with `LANESUM_ONLY` too: R155 gives its range without an
exception, and R153 says that it plays no part there (DESIGN CHOICE, log entry 111). -/
def moveOk (e : Entry) : Bool :=
  fbits e 16 7 6 == 0 && within 1 64 (ledCount e) && within 1 8 (ledVectors e) && within 1 128 (ledLanes e) &&
    !(ledLanesum e && ledOnly e) && fbits e 20 7 4 == 0 && !(opcode e == 0x2A && ledStopIfSat e) && fzero e 21 3 &&
    fzero e 32 32 && mult 32 (ledOffset e) && mult 32 (ledStride e) &&
    (ledCount e == 1 || decide (imageSize e ≤ ledStride e)) &&
    decide (ledOffset e + (ledCount e - 1) * ledStride e + imageSize e ≤ scratchSize)

/-- Rows that a drain or load moves of the `i`-th named tile, with their place in the image (R152, R153). -/
def imageRows (e : Entry) (i : Nat) : List (Nat × Nat) :=
  if ledOnly e then [(8, 0)]
  else
    ((upTo 0 (if i + 1 = ledCount e then ledVectors e else 8)).map fun v => (v, 1024 * v)) ++
      (if ledLanesum e then [(8, 8192)] else [])

/-- Ranges of scratchpad that a drain or load touches. -/
def imageRanges (e : Entry) : List Rng :=
  (upTo 0 (ledCount e)).flatMap fun i =>
    (imageRows e i).map fun r => rng (ledOffset e + i * ledStride e + r.2) (8 * ledLanes e)

/-- A scratchpad operand from the ranges that it touches. -/
def accessOf (write : Bool) (rs : List Rng) : List Access :=
  match rs with
  | [] => []
  | r :: _ => [⟨⟨minOr r.lo (rs.map Rng.lo), maxOr r.hi (rs.map Rng.hi)⟩, (rs.flatMap Rng.slots).eraseDups, write⟩]

def ledAccess (e : Entry) : List Access :=
  if opcode e = 0x28 then [] else accessOf (opcode e == 0x29) (imageRanges e)

/-! ### Moving tiles -/

/-- The ledger port, as an initiator (R308). -/
def portWho (q : Nat) : Who := unitWho q 3

/-- A step of a command that ends at a check: the state, and the stop that ended it. -/
abbrev Ended := State × Option Stop

/-- Go on with each element until one ends the command. -/
def eachUntil {α : Type} (s : State) (f : State → α → Ended) : List α → Ended
  | [] => (s, none)
  | x :: xs =>
    match f s x with
    | (s, some st) => (s, some st)
    | (s, none) => eachUntil s f xs

/-- A stop whose event has been raised where the word was met. -/
def quietStop (code : BitVec 16) : Stop := ⟨code, 0, 0, 0, 0⟩

/-- Image of `n` lanes of a row: 8-byte entries (R153). -/
def rowImage (row : NMap Int) (n : Nat) : NMap Byte :=
  (nkeep (fun k => decide (k < n)) row).flatMap fun e => blockOf (8 * e.1) (leBytes 8 (e.2 % 2 ^ 64).toNat)

/-- Signed 64-bit value at entry `i` of an image. -/
def imageValue (blk : NMap Byte) (i : Nat) : Int :=
  let v := blkNat blk (8 * i) 8
  if v < 2 ^ 63 then (v : Int) else (v : Int) - 2 ^ 64

/-- A drain's turn on one tile (R137, R146, R153 to R157). The event of a poisoned tile was raised when its word was met
(R474). A tile that is poisoned and saturated stops the drain with 0x0114 (log entry 98). The stop of `STOP_IF_SAT` raises
LEDGER_SATURATED, although the clamp raised it too (R145): software asked for this stop (R146; DESIGN CHOICE, log entry 111). -/
def State.drainTile (s : State) (j : Job) (i : Nat) : Ended :=
  let l := j.q / 4
  let e := j.cmd
  let t := ledFirst e + i
  let L := (s.lcore l).ledger
  if nget false L.poison t then (s, some (quietStop 0x0114))
  else if ledStopIfSat e ∧ nget false L.sat t then (s, some (s.ledgerStop j.q t 0x0111 noted))
  else
    let r := eachUntil s (fun s (r : Nat × Nat) =>
      let s := s.ledgerRead j.q t r.1 0 (ledLanes e)
      let img := rowImage ((s.lcore l).ledger.row t r.1) (ledLanes e)
      let w := s.write (portWho j.q) (scratchAddr l (ledOffset e + i * ledStride e + r.2)) (8 * ledLanes e) img
      (w.1, if w.2 = 0 then none else some (quietStop w.2))) (imageRows e i)
    match r with
    | (s, some st) => (s, some st)
    | (s, none) => (if ledBit2 e then s.ledgerClear l t else s, none)

/-- Whether a load overwrites every entry of its tiles (R159). A load of fewer than 8 vectors is none, although it writes every
entry of the tiles before its last one: there R138 and R159 differ, and the model follows R159 (log entry 98). -/
def fullLoad (e : Entry) : Bool := !ledBit2 e && ledLanes e == 128 && ledVectors e == 8 && ledLanesum e

/-- One row of one tile's load: the vector `r.1` from the image's offset `r.2` (R154, R159). -/
def State.loadRow (s : State) (j : Job) (i : Nat) (r : Nat × Nat) : Ended :=
  let e := j.cmd
  let a := scratchAddr (j.q / 4) (ledOffset e + i * ledStride e + r.2)
  match s.read (portWho j.q) a (8 * ledLanes e) with
  | (d, s) =>
    if d.code ≠ 0 then (s, some (quietStop d.code)) else
    (if ledBit2 e then s.ledgerAdd j.q (ledFirst e + i) r.1 0 (ledLanes e) (imageValue d.blk)
     else s.ledgerPut j.q (ledFirst e + i) r.1 0 (ledLanes e) (imageValue d.blk), none)

/-- A load's turn on one tile (R154, R158, R159). -/
def State.loadTile (s : State) (j : Job) (i : Nat) : Ended :=
  eachUntil s (fun s r => s.loadRow j i r) (imageRows j.cmd i)

/-- A full overwrite load clears the flags of its tiles before it writes them (R138, R159). -/
def State.clearFlags (s : State) (j : Job) : State :=
  if opcode j.cmd = 0x2A ∧ fullLoad j.cmd then
    s.modLedger (j.q / 4) fun L => (ledTiles j.cmd).foldl (fun L t =>
      { L with sat := nset false L.sat t false, poison := nset false L.poison t false }) L
  else s

/-- Everything that a ledger command moves or clears. -/
def State.ledgerEffect (s : State) (j : Job) : Ended :=
  let tiles := upTo 0 (ledCount j.cmd)
  match opcode j.cmd with
  | 0x28 => ((ledTiles j.cmd).foldl (fun s t => s.ledgerClear (j.q / 4) t) s, none)
  | 0x29 => eachUntil s (fun s i => s.drainTile j i) tiles
  | _ => eachUntil (s.clearFlags j) (fun s i => s.loadTile j i) tiles

/-! ### The port (R160, R161) -/

/-- A command waits while an earlier run of its queue has promotions to its tiles left. -/
def Core.portWaits (c : Core) (j : Job) : Bool :=
  c.runs.any fun r => r.job.q == j.q && decide (r.job.id < j.id) && (ledTiles j.cmd).any r.touches

/-- An ended command of a unit: its event (unless raised already), no signal, its queue stopped. -/
def State.endWith (s : State) (j : Job) (st : Stop) : State :=
  if st.pg = 0 ∧ st.info = 0 ∧ st.sev = 0 then s.dropJob j st.code else s.endJob j st

/-- The command that holds the port does its work once no run stands before it. -/
def State.portAdvance (s : State) (l : Nat) : State :=
  let c := s.lcore l
  match c.ledger.port with
  | [] => s
  | p :: rest =>
    if p.done ∨ c.portWaits p.job then s else
    match s.ledgerEffect p.job with
    | (s, none) => (s.releaseJob p.job).modLedger l fun L => { L with port := { p with done := true } :: rest }
    | (s, some st) => (s.modLedger l fun L => { L with port := rest }).endWith p.job st

/-- Issue of a ledger command: it queues at the port. -/
def State.ledgerIssue (s : State) (q : Nat) (e : Entry) : State :=
  let j := s.newJob q e
  let s := (s.issue q).enterJob j (ledAccess e)
  (s.modLedger (q / 4) fun L => { L with port := L.port ++ [⟨j, false⟩] }).portAdvance (q / 4)

/-- Steps 5 and 6 of a ledger command (R155 before R148). LEDGER_OPERAND_INVALID names the command's first tile, and
LEDGER_WINDOW the first tile outside the window, as R172 says it of a run (log entry 98). -/
def ledgerGate (q : Nat) (s : State) (e : Entry) : Gate :=
  if !(if opcode e = 0x28 then clearOk e else moveOk e) then .stop (s.ledgerStop q (ledFirst e) 0x0112 contained)
  else match s.windowStop q (ledTiles e) with
    | some st => .stop st
    | none => if s.guardOk q (ledAccess e) then .go else .hold 6

def State.ledgerTry (s : State) (q op : Nat) : State :=
  s.countWindow (s.tryIssue q (hasOp op) (ledgerGate q) fun s e => s.ledgerIssue q e) q

def execLedgerClear (q : Nat) (s : State) : Res := .next (s.ledgerTry q 0x28)
def execLedgerDrain (q : Nat) (s : State) : Res := .next (s.ledgerTry q 0x29)
def execLedgerLoad (q : Nat) (s : State) : Res := .next (s.ledgerTry q 0x2A)

/-- The command at the head of a core's port completes: its written slots fill and its signal fires (R151, R156, R158);
the next one takes the port. -/
def execLedgerCommandComplete (core : Nat) (s : State) : Res :=
  let s := if core < 128 then s.portAdvance core else s
  .next (match decide (core < 128), (s.lcore core).ledger.port with
    | true, p :: rest =>
      if p.done then
        ((s.modLedger core fun L => { L with port := rest }).finishJob p.job (writeSlots (ledAccess p.job.cmd))).portAdvance core
      else s
    | _, _ => s)

end Sys2Proof.Machine
end

