-- ==== Sys2Proof/Machine/Contexts.lean ====
section
/-! DEFINITION. Contexts.lean: opening, committing and closing contexts (R420 to R430, R739). -/

namespace Sys2Proof.Machine

/-! ### CTX_OPEN (R420 to R423) -/

def oCtx (e : Entry) : Nat := fld e 16 2
def oHome (e : Entry) : Nat := fld e 18 1
def oConn (e : Entry) : Nat := fld e 20 2
def oBase (e : Entry) : Nat := fld e 24 6
def oPages (e : Entry) : Nat := fld e 32 4
def oCap (e : Entry) : Nat := fld e 36 4
def oLen (e : Entry) : Nat := fld e 40 4
def oPos (e : Entry) : Nat := fld e 44 4
def oKey (e : Entry) : Nat := fld e 48 8

/-- A KV area lies wholly in Tier 1, over its stacks if it is large (R421). -/
def kvAreaOk (base pages : Nat) : Bool := inTier1 base (4096 * pages)

def openOk (e : Entry) : Bool :=
  decide (oCtx e < ctxCount) && decide (oHome e < 32) && fzero e 19 1 && nbits (oConn e) 14 12 == 0 && fzero e 22 2 &&
    mult 4096 (oBase e) && fzero e 30 2 && decide (1 ≤ oPages e) && within 64 0xFFFFFFC0 (oCap e) && mult 64 (oCap e) &&
    decide (oLen e ≤ oCap e) && fzero e 56 8 && kvAreaOk (oBase e) (oPages e)

/-- Bytes of a context's KV area. -/
def Ctx.area (c : Ctx) : Nat := 4096 * c.kvPages.toNat

/-- Whether the area overlaps that of a closing context (R422). -/
def State.areaClosing (s : State) (base len : Nat) : Bool :=
  s.ctxs.any fun x => decide (x.2.st = .closing) && decide (x.2.kvBase.toNat < base + len) &&
    decide (base < x.2.kvBase.toNat + x.2.area)

def openGate (q : Nat) (s : State) (e : Entry) : Gate :=
  let n := oCtx e
  if !openOk e then .stop (ctxStop n q 0x0526)
  else if (s.ctx n).st = .closing ∨ s.areaClosing (oBase e) (4096 * oPages e) then .hold 7
  else if (s.ctx n).st = .opened then .stop (ctxStop n q 0x0520)
  else if n / 20480 ≠ oHome e / 16 then .stop (ctxStop n q 0x0522)
  else if 1280 ≤ s.homed (oHome e) then .stop (ctxStop n q 0x0521)
  else .go

/-- The descriptor that an open leaves. -/
def openCtx (e : Entry) (generation : Word) : Ctx :=
  { st := .opened, home := BitVec.ofNat 5 (oHome e), conn := BitVec.ofNat 16 (oConn e), kvBase := BitVec.ofNat 48 (oBase e)
    kvPages := BitVec.ofNat 32 (oPages e), capacity := BitVec.ofNat 32 (oCap e), written := BitVec.ofNat 32 (oLen e)
    committed := BitVec.ofNat 32 (oLen e), position := BitVec.ofNat 32 (oPos e), philox := BitVec.ofNat 64 (oKey e)
    draws := 0, energy := 0, generation := generation + 1 }

def execCtxOpen (q : Nat) (s : State) : Res :=
  .next (s.tryIssue q (hasOp 0x7A) (openGate q) fun s e =>
    (s.ctxWrite (oCtx e) fun c => openCtx e c.generation).issueFinish q e)

/-! ### CTX_COMMIT (R424 to R427, R739) -/

def cOffset (e : Entry) : Nat := fld e 16 4
def cCount (e : Entry) : Nat := fld e 20 2
def cStride (e : Entry) : Nat := fld e 24 4

def commitOk (e : Entry) : Bool :=
  mult 4 (cOffset e) && within 1 512 (cCount e) && fzero e 22 2 && mult 4 (cStride e) && decide (4 ≤ cStride e) && fzero e 28 36 &&
    decide (cOffset e + (cCount e - 1) * cStride e + 4 ≤ scratchSize)

def commitAccess (e : Entry) : List Access := pieces (cOffset e) (cCount e) (cStride e) 4 false

def commitGate (q : Nat) (s : State) (e : Entry) : Gate :=
  if !commitOk e then .stop (ctxStop 0 q 0x0526) else if !s.guardOk q (commitAccess e) then .hold 6 else .go

/-- A list entry's context, advance and reserved bits. -/
def entryCtx (x : Nat) : Nat := x % 65536
def entryAdvance (x : Nat) : Nat := nbits x 22 16

/-- What stops an entry (R425), on its descriptor as it stands. -/
def commitCheck (c : Ctx) (cl x : Nat) : Option (BitVec 16) :=
  if 64 < entryAdvance x ∨ ctxCount ≤ entryCtx x ∨ nbits x 31 23 ≠ 0 then some 0x0526
  else if c.st ≠ .opened then some 0x0524
  else if c.home.toNat ≠ cl then some 0x0525
  else if c.written.toNat < c.committed.toNat + entryAdvance x then some 0x0523
  else none

/-- R425: committed length and position advance together. -/
def Ctx.commit (n : Nat) (c : Ctx) : Ctx :=
  { c with committed := c.committed + BitVec.ofNat 32 n, position := c.position + BitVec.ofNat 32 n }

/-- Whether the DMA engine of a core of the context's home cluster holds it for an entry of a KV write (R374). -/
def State.kvHolds (s : State) (n : Nat) : Bool :=
  (upTo (4 * (s.ctx n).home.toNat) 4).any fun l =>
    (s.lcore l).dma.any fun d => opcode d.job.cmd == 0x11 && d.spot.any fun x => x.ctx == n

/-- Whether a unit holds the context: a KV write, or the stream engine from its descriptor's read on (R256). A sampler reads its
descriptors and draws within one row of the table. -/
def State.ctxHeld (s : State) (n : Nat) : Bool :=
  s.kvHolds n || (s.cluster (s.ctx n).home.toNat).held.any fun g => g.holds == some n

/-- A commit under way: not stopped, waiting at an entry, stopped with an event of its own, or stopped with one already raised. -/
inductive Commit where
  | on (s : State)
  | waits
  | stopped (s : State) (st : Stop)
  | quiet (s : State) (code : BitVec 16)

/-- List entry `i`. It waits while a KV write of its context is held (R426). -/
def State.commitEntry (s : State) (q : Nat) (e : Entry) (i : Nat) : Commit :=
  let p := s.peek (scratchAddr (q / 4) (cOffset e + i * cStride e)) 4
  if p.code = 0 ∧ s.kvHolds (entryCtx (blkNat p.blk 0 4)) then .waits else
  let r := s.read (unitWho q 6) (scratchAddr (q / 4) (cOffset e + i * cStride e)) 4
  if r.1.code ≠ 0 then .quiet r.2 r.1.code else
  let x := blkNat r.1.blk 0 4
  let n := entryCtx x
  let rd := if n < ctxCount then r.2.ctxRead n else (r.2, true)
  if !rd.2 then .quiet rd.1 0x0528 else
  match commitCheck (rd.1.ctx n) (clusterOf (q / 4)) x with
  | some code => .stopped rd.1 (ctxStop n q code)
  | none => .on (rd.1.ctxWrite n (Ctx.commit (entryAdvance x)))

/-- `n` entries of a commit from its next one on, up to one that waits; the state, the entries done, and the stop that ended it.
A stop without a page has its event already raised. -/
def State.commitGo (s : State) (c : CommitJob) : Nat → State × CommitJob × Option Stop
  | 0 => (s, c, none)
  | n + 1 =>
    match s.commitEntry c.job.q c.job.cmd c.pos with
    | .on s => s.commitGo { c with pos := c.pos + 1 } n
    | .waits => (s, c, none)
    | .stopped s st => (s, c, some st)
    | .quiet s code => (s, c, some (quietStop code))

/-- Whether a commit is that of a job. -/
def CommitJob.isOf (c : CommitJob) (j : Job) : Bool := c.job.q == j.q && c.job.id == j.id

/-- A commit of core `l` goes on as far as it can. -/
def State.commitAdvance (s : State) (c : CommitJob) : State :=
  let l := c.job.q / 4
  match s.commitGo c (cCount c.job.cmd - c.pos) with
  | (s, d, none) =>
    (if cCount d.job.cmd ≤ d.pos then s.releaseReads d.job else s).modLcore l fun x => { x with commits := x.commits.map fun y => if y.isOf c.job then d else y }
  | (s, _, some st) =>
    (s.modLcore l fun x => { x with commits := x.commits.filter fun y => !y.isOf c.job }).endWith c.job st

def execCtxCommit (q : Nat) (s : State) : Res :=
  .next (s.tryIssue q (hasOp 0x70) (commitGate q) fun s e =>
    let j := s.newJob q e
    let s := (s.issue q).enterJob j (commitAccess e)
    (s.modLcore (q / 4) fun c => { c with commits := c.commits ++ [⟨j, 0⟩] }).commitAdvance ⟨j, 0⟩)

/-- The oldest CTX_COMMIT of queue `q`. -/
def State.oldestCommit (s : State) (q : Nat) : Option CommitJob := (s.lcore (q / 4)).commits.find? fun c => c.job.q == q

/-- The oldest CTX_COMMIT of queue `q` goes on with an entry that waited, and completes with its last one (R427). -/
def execCtxCommitComplete (q : Nat) (s : State) : Res :=
  .next (match decide (q < 512), s.oldestCommit q with
    | true, some c =>
      let s := s.commitAdvance c
      match s.oldestCommit q with
      | some d =>
        if d.job = c.job ∧ cCount d.job.cmd ≤ d.pos then
          (s.modLcore (q / 4) fun x => { x with commits := x.commits.filter fun y => !y.isOf d.job }).finishJob d.job []
        else s
      | none => s
    | _, _ => s)

/-! ### CTX_CLOSE (R428 to R430) -/

def clCtx (e : Entry) : Nat := fld e 16 2
def clRecord (e : Entry) : Nat := fld e 24 6
def noRecord : Nat := 0xFFFFFFFFFFFF

/-- Whether 64 B at an address lie in a tier or a scratchpad window. -/
def recordPlace (a : Nat) : Bool :=
  match wholePlace a 64 with
  | some (.ledger _ _) => false
  | some _ => true
  | none => false

def closeOk (e : Entry) : Bool :=
  decide (clCtx e < ctxCount) && fzero e 18 6 && fzero e 30 34 &&
    (clRecord e == noRecord || (mult 64 (clRecord e) && recordPlace (clRecord e)))

/-- Zeroing slots in use in region `r` (R429). -/
def State.zeroSlots (s : State) (r : Nat) : Nat := (s.closes.filter fun c => c.region == r).length

/-- Region of a KV base. -/
def Ctx.stack (c : Ctx) : Nat := c.kvBase.toNat / tier1Size

def closeGate (q : Nat) (s : State) (e : Entry) : Gate :=
  let n := clCtx e
  if !closeOk e then .stop (ctxStop n q 0x0526)
  else if (s.ctx n).st ≠ .opened then .stop (ctxStop n q 0x0524)
  else if 4 ≤ s.zeroSlots (s.ctx n).stack then .hold 7
  else .go

/-- CTX_CLOSE takes a zeroing slot, issues, and runs step 1: the context is CLOSING. -/
def execCtxClose (q : Nat) (s : State) : Res :=
  .next (s.tryIssue q (hasOp 0x7B) (closeGate q) fun s e =>
    let n := clCtx e
    let cl : Close :=
      ⟨n, (s.ctx n).stack, s.newJob q e, if clRecord e = noRecord then none else some (clRecord e), true, false⟩
    let s := (s.issue q).ctxWrite n fun c => { c with st := .closing }
    (s.setCloses (s.closes ++ [cl])))

/-- Steps 2 and 3: once no unit holds the context any more, its descriptor goes to the record address. -/
def State.closeRelease (s : State) (ctx : Nat) : State :=
  if s.ctxHeld ctx then s else
    match s.closes.find? fun c => c.ctx == ctx && !c.zeroing with
    | none => s
    | some c =>
      let rd := s.ctxRead ctx
      if !rd.2 then rd.1 else
      let on := fun (s : State) (signals : Bool) => (s.setCloses (s.closes.map fun x =>
        if x.ctx = ctx then { x with zeroing := true, signals := x.signals && signals } else x))
      match c.record with
      | none => on rd.1 true
      | some a =>
        let stop := fun (s : State) => on (s.modQueue c.job.q fun x => x.release c.job.id) false
        if rd.1.fencedWindow a then
          (stop (rd.1.raise pgDevqueue 0x0410 contained (queueInfo rd.1 c.job.q 0x7B))).stopQueue c.job.q 0x0410 true
        else
          let w := rd.1.writeBytes (deviceWho c.job.q) a (rd.1.ctx ctx).bytes
          if w.2 = 0 then on w.1 true else (stop w.1).stopQueue c.job.q w.2 true

def execCloseHoldersReleased (ctx : Nat) (s : State) : Res := .next (s.closeRelease ctx)

/-- Zero a range of a tier with fresh check bits (R430). -/
def State.zeroTier (s : State) (a len : Nat) : State :=
  (s.setMem (nclear s.mem a len)).setMemCond (nclear s.memCond (a / 32) (len / 32))

/-- Steps 4 and 5: the KV area is zero and the context CLOSED; its slot is free and the close signals. -/
def State.closeZero (s : State) (ctx : Nat) : State :=
  match s.closes.find? fun c => c.ctx == ctx && c.zeroing with
    | none => s
    | some c =>
      let d := s.ctx ctx
      let s := ((s.zeroTier d.kvBase.toNat d.area).countTier d.kvBase.toNat d.area true).countBytes (deviceWho c.job.q)
        d.kvBase.toNat d.area
      let s := s.ctxWrite ctx fun x => { x with st := .closed }
      let s : State := s.setCloses (s.closes.filter fun x => x.ctx != ctx)
      if c.signals then s.finish c.job else s

def execKvAreaZeroed (ctx : Nat) (s : State) : Res := .next (s.closeZero ctx)

end Sys2Proof.Machine
end

