-- ==== Sys2Proof/Machine/Resets.lean ====
section
/-! DEFINITION. Resets.lean: fencing rows (R571 to R576, R715, R716), spares (R577 to R581), the resets and what each wipes (R650
to R655, R688), and lifecycle transitions (R672 to R674). -/

namespace Sys2Proof.Machine

/-! ### Fences -/

/-- Information of a failed compare that the row does not place (R93): the frame, or 0xF for a gang adder, its active plane, gang,
group and vector. -/
def Core.mismatchInfo (c : Core) (o : Nat) : Nat :=
  if o % 16 = 15 then o % 2 ^ 20 else o % 16 + b2n (c.frame (o % 16)).active1 * 16 + o / 32 % 2 ^ 15 * 32

/-- Queue and operation of the command that the vector unit serves, as an event of its page names them (R302); open where it serves
none. -/
def Vec.mismatchInfo (v : Vec) (o : Nat) : Nat :=
  match v.unit with
  | j :: _ => j.job.q % 4 + 4 * (if j.kind = .vector then vOp j.job.cmd else 0xFF)
  | [] => o % 2 ^ 10

/-- A fence cause is found in a core. A check mismatch of the frames or of the vector unit (R93, R302) is recorded on that
unit's page; CLUSTER_FENCED and REGION_FENCED fence what their names say (R570). -/
def execCoreFence (phys : Nat) (cause : BitVec 16) (s : State) : Res :=
  .next (if !decide (phys < 132) || s.dark phys || !s.side.on then s
    else if cause = 0x0B03 then s.fenceCluster (clusterOf (s.logOr phys)) cause
    else if cause = 0x0B04 then s.fenceRegion (regionOf (s.logOr phys)) cause
    else if cause = 0x0101 then
      let o := s.open_
      (o.2.modCore phys fun c => { c with fr := { c.fr with mismatches := satInc c.fr.mismatches } }).raiseFence phys bFrames
        cause ((s.core phys).mismatchInfo o.1) false
    else if cause = 0x0313 then
      let o := s.open_
      (o.2.modCore phys fun c => { c with vec := { c.vec with mismatches := satInc c.vec.mismatches } }).raiseFence phys bVector
        cause ((s.core phys).vec.mismatchInfo o.1) false
    else s.startFence phys cause)

def execFenceComplete (phys : Nat) (s : State) : Res := .next (if phys < 132 then s.endFence phys else s)

def execUnfenceComplete (phys : Nat) (s : State) : Res := .next (if phys < 132 then s.endUnfence phys else s)

/-- A write of `PAGE_CTL.FENCE` (R715). -/
def State.writeFence (s : State) (pg : Nat) (on : Bool) : State :=
  match pageKind pg with
  | some (.core p _) => if on then s.startFence p 0x0B07 else s.startUnfence p pg
  | some (.cluster c 0) => if on then s.fenceEngine c else s.unfenceEngine c
  | _ => s

def execHostFence (ini page : Nat) (s : State) : Res := s.regRow ini page true fun s => s.writeFence page true
def execUnfence (ini page : Nat) (s : State) : Res := s.regRow ini page true fun s => s.writeFence page false

/-- A write of `PAGE_CTL.QUIESCE` (R716). -/
def State.writeQuiesce (s : State) (pg : Nat) (on : Bool) : State :=
  match pageKind pg with
  | some (.core p _) => s.modCore p fun c => { c with quiesce := on }
  | _ => s

def execQuiesceSet (ini phys : Nat) (s : State) : Res :=
  s.regRow ini (pgCore phys bSeq) true fun s => s.writeQuiesce (pgCore phys bSeq) true
def execQuiesceRelease (ini phys : Nat) (s : State) : Res :=
  s.regRow ini (pgCore phys bSeq) true fun s => s.writeQuiesce (pgCore phys bSeq) false

/-! ### Spares -/

/-- The latest forecasts of a logical core's queues stay theirs when another physical core serves it (R536, R579). -/
def Core.withForecasts (c old : Core) : Core :=
  (upTo 0 4).foldl (fun c i => c.modQueue i fun x => { x with forecast := (old.queue i).forecast }) c

/-- A write of `REMAP.SPARE_n` (R578, R580). -/
def State.writeSpare (s : State) (n logical : Nat) (valid : Bool) : State :=
  let x := s.spare n
  let served := x.logical.isSome || x.starting
  if valid then
    if (s.lcore logical).fence = .fenced ∧ s.fuses.sparePresent.getLsbD n ∧ !served ∧
        s.physOf logical = logical ∧ regionOfPhys logical = regionOfPhys (128 + n) then
      s.setRemap (s.remap.put n ⟨some logical, true⟩)
    else s.countBad pgRemap
  else
    match x.logical with
    | none => s
    | some l =>
      if !x.starting ∧ (s.core (128 + n)).fence = .fenced then
        let spare := s.core (128 + n)
        ((s.setRemap (s.remap.free n l)).modCore (128 + n) fun c => { c with fence := .inService, cause := 0 }).modCore l fun c =>
          c.withForecasts spare
      else s.countBad pgRemap

def execRemapMap (ini spare logical : Nat) (s : State) : Res :=
  s.regRow ini pgRemap true fun s => if spare < 4 ∧ logical < 128 then s.writeSpare spare logical true else s
def execRemapUnmap (ini spare : Nat) (s : State) : Res :=
  s.regRow ini pgRemap true fun s => if spare < 4 then s.writeSpare spare 0 false else s

/-- The spare serves the logical core, unfenced and wiped (R579); not while a partition reset holds its region fenced (R654). -/
def execCoreRemapped (spare : Nat) (s : State) : Res :=
  .next (match decide (spare < 4) && (s.spare spare).starting && !s.halted && !s.inReset (128 + spare), (s.spare spare).logical with
    | true, some l =>
      let old := s.lcore l
      ((s.setRemap (s.remap.serve spare l)).modCore (128 + spare) fun c =>
        { c.wipe with fence := .inService, cause := 0 }.withForecasts old).raise pgErragg 0x0B06 noted
        (errInfo l (clusterOf l) (regionOf l) 0)
    | _, _ => s)

/-! ### Resets of the device (R650 to R652, R654) -/

/-- Memory controllers after a reset: the retirement lists of local flash are reapplied (R412). -/
def Flash.ctls (f : Flash) : NMap Ctl :=
  f.retired.filterMap fun e => if e.2 = [] then none else some (e.1, { Ctl.reset with sparesUsed := e.2.length })

/-- The SIDEBAND page after a reset: pins and levels as they are, counters at zero. -/
def Sideband.reinit (x : Sideband) : Sideband :=
  { Sideband.reset with
    pwrEn := x.pwrEn, resetL := x.resetL, coolantOk := x.coolantOk, leakL := x.leakL, rawCoolant := x.rawCoolant
    rawLeak := x.rawLeak, throttleL := x.throttleL, pps := x.pps
    feed := x.feed, slot := x.slot, on := x.on, retryHold := x.retryHold }

/-- Either stopping input shows a loss (R657, R694). -/
def Sideband.loss (x : Sideband) : Bool := !x.coolantOk || !x.leakL || x.chatterCoolant || x.chatterLeak

/-- The boot holds tier zeroing for a loss on `input` (R657): BOOT_COOLANT_HOLD. -/
def State.bootHold (s : State) (input : Nat) : State :=
  (s.setBoot { s.boot with wiping := false, zeroed := false }).raise pgMode 0x0A0C noted input

/-- A reset of the device: everything of R651 at its reset value, with `last` in `MODE.RESET_STS.LAST`. -/
def State.deviceReset (s : State) (last : Nat) (phase : BootPhase) : State :=
  let r := State.reset
  let warm := last = 2
  let t : State :=
    { r with
      pending := s.pending, oracle := s.oracle + 1, outbox := s.outbox, fuses := s.fuses, flash := s.flash
      side := s.side.reinit, split := s.splitNext, ctls := s.flash.ctls
      power := { r.power with throttle := !s.side.throttleL }
      dies := s.dies.filterMap fun e =>
        let d := { Die.reset with tap := e.2.tap, boundary := e.2.boundary }
        let d := if warm then { d with pllLocked := e.2.pllLocked, refPresent := e.2.refPresent, bridgeUp := e.2.bridgeUp } else d
        if d = .reset then none else some (e.1, d)
      net := { r.net with ports := if warm then s.net.ports.filterMap fun e =>
          let p := { Port.reset with linkUp := e.2.linkUp, cr1 := e.2.cr1 }
          if p = .reset then none else some (e.1, p)
        else [] }
      snap := { r.snap with sequence := s.flash.newest }
      boot := { r.boot with
        phase := phase, lastReset := BitVec.ofNat 3 last, slotId := s.side.slot
        nonce := BitVec.ofNat 256 (beNat (Config.freeBytes s.oracle 32)) } }
  if !t.side.coolantOk then t.bootHold 0 else if !t.side.leakL then t.bootHold 1 else t

/-- `PWR_GOOD` has risen, or `RESET_L` has been low for 10 µs (R655, R688). Where `RESET_L` is low as `PWR_GOOD` rises, it holds the
reset. -/
def execColdReset (byResetL : Bool) (s : State) : Res :=
  .next (if !s.side.on then s
    else if byResetL then
      if s.side.resetL then (s.setSide { s.side with resetL := false }).deviceReset 1 .held else s
    else if s.boot.phase ≠ .off then s
    else if s.side.resetL then s.deviceReset 0 .provisioning
    else s.deviceReset 1 .held)

/-- `RESET_L` rises: the timeline of R655 starts. -/
def execResetLRelease (s : State) : Res :=
  .next (if s.side.resetL then s else
    let s : State := s.setSide { s.side with resetL := true }
    if s.boot.phase = .held then s.setBoot { s.boot with phase := .provisioning } else s)

/-! ### Partition reset (R653) -/

/-- Regions of a partition (R552). -/
def State.partRegions (s : State) (part : Nat) : List Nat :=
  (upTo 0 8).filter fun r => s.energy.partMap.toNat / 8 ^ r % 8 == part

/-- Physical cores in the regions of a list. -/
def physIn (rs : List Nat) : List Nat := allPhys.filter fun p => rs.contains (regionOfPhys p)

def State.partitionReset (s : State) (part : Nat) : State :=
  if s.boot.partBusy.isSome ∨ s.snap.phase ≠ .idle then s.countBad pgMode else
  let s : State := s.setBoot { s.boot with partBusy := some part }
  let s := s.raise pgMode 0x0A0B noted part
  s.forEach (physIn (s.partRegions part)) fun s p => if s.dark p then s else s.startFence p 0x0A0B

/-- A write of `MODE.RESET_CTL`: `WARM` in bit 0, `PARTITION` in bit 8, the partition in bits [18:16], the key in [31:24]. -/
def State.writeResetCtl (s : State) (v : Word) : State :=
  if v.toNat / 2 ^ 24 ≠ 0xA5 then s
  else if v.getLsbD 0 then s.deviceReset 2 .provisioning
  else if v.getLsbD 8 then s.partitionReset (v.toNat / 2 ^ 16 % 8)
  else s

def execWarmReset (ini : Nat) (key : Byte) (s : State) : Res :=
  s.regRow ini pgMode false fun s => s.writeResetCtl (BitVec.ofNat 32 (1 + 2 ^ 24 * key.toNat))
def execPartitionReset (ini part : Nat) (key : Byte) (s : State) : Res :=
  s.regRow ini pgMode false fun s => s.writeResetCtl (BitVec.ofNat 32 (2 ^ 8 + 2 ^ 16 * (part % 8) + 2 ^ 24 * key.toNat))

/-- A core after a partition reset: its pages at their reset values, its supply and clock as they are, and its queues' forecasts,
which the power manager holds (R536). -/
def Core.reinit (c : Core) (dark : Bool) : Core :=
  { Core.reset with
    fence := if dark then c.fence else .inService, cause := if dark then c.cause else 0
    stretched := c.stretched, clamped := c.clamped, fallback := c.fallback, fallbackSeen := c.fallbackSeen
    droopAt := c.droopAt : Core }.withForecasts c

/-- A region likewise: it stands at point 0, at the voltage `mv` that goes with it, and its sensors show their reset values until
their next readings. What pages of the device show of it stays: its zone, its limits, filler activity, the point that the power
manager calls for (log entry 105). -/
def Region.reinit (r : Region) (mv : Nat) : Region :=
  { Region.reset with
    zone := r.zone, ceiling := r.ceiling, hot := r.hot, atLimit := r.atLimit, railMv := mv, filler := r.filler
    fillerRan := r.fillerRan, target := r.target, upHold := r.upHold, holdHigh := r.holdHigh, holdLow := r.holdLow }

/-- Fields that the region pages show of the whole device take their reset values with those pages (R17, R396, R443). An open stream
and the boundary in effect are no fields that a page holds: they stay (log entry 105). -/
def State.reinitShared (s : State) : State :=
  (s.setRail { s.rail with
    stallTimeout := Rail.reset.stallTimeout, stallCycles := 0, stallTimeouts := 0, takersDropped := 0, dbgStream := 0 }).setSplitNext
      State.reset.splitNext

def Ctl.reinit (k : Ctl) : Ctl :=
  { Ctl.reset with sparesUsed := k.sparesUsed, failing := k.failing, patrol := k.patrol }

/-- Whether a page belongs to one of some regions. -/
def pageInRegions (rs : List Nat) (pg : Nat) : Bool :=
  match pageKind pg with
  | some (.region r _) => rs.contains r
  | some (.cluster c _) => rs.contains (c / 4)
  | some (.core p _) => rs.contains (regionOfPhys p)
  | _ => false

/-- Close a context and zero its KV area. -/
def State.closeNow (s : State) (n : Nat) : State :=
  let d := s.ctx n
  ((s.zeroTier d.kvBase.toNat d.area).countTier d.kvBase.toNat d.area true).ctxWrite n fun c => { c with st := .closed }

/-- The region-local part of Tier 2 of a region: base and length (R404). -/
def State.localTier2 (s : State) (r : Nat) : Nat × Nat :=
  let b := 24 * 2 ^ 30 * s.split.toNat
  let per := (tier2Size - b) / 8
  (tier2Base + b + r * per, per)

/-- Steps 2 to 4 of a partition reset, once every core of the partition is fenced. They wait while a stop holds the device, whose
queues stay STOPPED (R548, R565). -/
def execPartitionResetComplete (s : State) : Res :=
  .next (match s.boot.partBusy with
    | none => s
    | some part =>
      let rs := s.partRegions part
      let ps := physIn rs
      if s.halted || ps.any fun p => !s.dark p && decide ((s.core p).fence ≠ .fenced) then s else
      -- a CTX_CLOSE under way comes to its end, since no unit holds its context any more
      let s := ((s.closes.filter fun c => rs.contains ((s.ctx c.ctx).home.toNat / 4)).map fun c => c.ctx).foldl
        (fun s n => (s.closeRelease n).closeZero n) s
      let s := ((s.ctxs.filter fun e => decide (e.2.st ≠ .closed) && rs.contains (e.2.home.toNat / 4)).map (·.1)).foldl
        (fun s n => s.closeNow n) s
      let s := s.forEach rs fun s r =>
        let t := s.localTier2 r
        (s.zeroTier (tier1Size * r) tier1Size).zeroTier t.1 t.2
      let s := s.forEach ps fun s p => s.modCore p fun c => c.reinit (s.dark p)
      let s := s.forEach rs fun s r =>
        let s := s.modRegion r fun x => x.reinit (s.pointMv r 0)
        let s := s.forEach (upTo (4 * r) 4) fun s c => s.modCluster c fun _ => .reset
        s.forEach (r :: upTo (8 + 3 * r) 3) fun s k => s.modCtl k Ctl.reinit
      let s := if rs.isEmpty then s else s.reinitShared
      let s : State := (s.setPages (s.pages.filter fun e => !pageInRegions rs e.1)).setBoot { s.boot with partBusy := none }
      s.forEach ps fun s p => if s.dark p then s else
        s.raise pgErragg 0x0B05 noted (errInfo (s.logOr p) (clusterOf (s.logOr p)) (regionOf (s.logOr p)) 0))

/-! ### Lifecycle (R672 to R674) -/

/-- Whether a queue stands IDLE or STOPPED, for all queues (R674, R702). -/
def State.allQuiet (s : State) : Bool := (upTo 0 528).all fun q => s.queueState q == 0 || s.queueState q == 4

/-- Transitions of R673 that a write may make. -/
def transitionOk (from_ to_ : Nat) (unlocked : Bool) : Bool :=
  match from_, to_ with
  | 1, 2 => true
  | 2, 3 => true
  | 2, 4 => true
  | 3, 4 => true
  | 4, 1 => unlocked
  | f, 5 => decide (1 ≤ f) && decide (f < 5)
  | _, _ => false

/-- What local flash keeps once its key is destroyed: the wear counters. -/
def Flash.destroyed (f : Flash) : Flash := { Flash.reset with writtenGib := f.writtenGib, wear := f.wear, lmsEpoch := none }

/-- Steps 1 to 5 of R674. -/
def State.transition (s : State) (target : Nat) : State :=
  let s : State :=
    (s.setFuses { s.fuses with lifecycle := BitVec.ofNat 3 target, flashKeyGen := s.fuses.flashKeyGen + 1 }).setFlash
      s.flash.destroyed
  (s.deviceReset 3 .provisioning).raise pgSecurity 0x0A08 noted 0

/-- A write of `SECURITY.TRANSITION`. -/
def State.writeTransition (s : State) (target : Nat) (key : BitVec 16) : State :=
  if key = 0x5EC5 ∧ transitionOk s.fuses.lifecycle.toNat target (decide (s.boot.unlockTarget = some target)) ∧ s.allQuiet ∧
      s.snap.phase = .idle ∧ !s.snap.flashDraining ∧ !s.snap.partnerDraining then s.transition target
  else s.countBad pgSecurity

def execLifecycleTransition (ini target : Nat) (key : BitVec 16) (s : State) : Res :=
  s.regRow ini pgSecurity false fun s => s.writeTransition (target % 8) key

/-- The tester, over JTAG, moves a BLANK module to TEST, or to SCRAPPED. -/
def execJtagTransition (target : Nat) (s : State) : Res :=
  .next (if s.side.on ∧ s.fuses.lifecycle = 0 ∧ (target = 1 ∨ target = 5) then s.transition target else s)

end Sys2Proof.Machine
end

