-- ==== Sys2Proof/Machine/Boot.lean ====
section
/-! DEFINITION. Boot.lean: the boot of the module (R655 to R667), attestation (R668 to R671) and the unlock token (R675). -/

namespace Sys2Proof.Machine

def State.modBoot (s : State) (f : Boot → Boot) : State := s.setBoot (f s.boot)

/-- Bytes `a` to `a + n - 1` of a list. -/
def slice (bs : List Byte) (a n : Nat) : List Byte := (bs.drop a).take n

/-- A fresh secret scalar of P-384. -/
def State.freshScalar (s : State) : Nat × State :=
  (beNat (Config.freeBytes s.oracle 48) % p384N, s.setOracle (s.oracle + 1))

/-- Private scalar of the identity key (R668). -/
def State.identity (s : State) : Nat := Config.identityScalar s.fuses.secret % p384N

/-- `IDENT.PART` (R12: number, family, stepping). -/
def identPart : Word := 0xB1010800

/-! ### Fuses, flash and the LMS record (R655, R671) -/

/-- The next epoch's bit is burned, or the key is spent (R671). -/
def State.nextEpoch (s : State) : State :=
  let n := s.fuses.lmsEpochs.toNat
  if n < 1024 then
    (s.setFuses { s.fuses with lmsEpochs := BitVec.ofNat 11 (n + 1) }).setFlash
      { s.flash with lmsEpoch := some n, lmsNext := 1024 * n }
  else
    let told := s.boot.exhausted
    let s := s.modBoot fun b => { b with exhausted := true }
    s.raiseEach pgSecurity 0x0A07 0 (!told) 1

/-- The index record at boot: a lost one skips to the next epoch; a spent key is reported. -/
def State.readLmsRecord (s : State) : State :=
  let e := s.fuses.lmsEpochs.toNat
  if s.flash.lmsEpoch = some (e - 1) ∧ 0 < e then
    (if 1024 * e ≤ s.flash.lmsNext then s.nextEpoch else s)
  else
    let t := s.nextEpoch
    if e < 1024 then t.raise pgSecurity 0x0A06 noted 0 else t

/-- Link training of a port starts. -/
def State.train (s : State) (p : Nat) : State :=
  s.modPort p fun x => if x.enable ∧ !x.linkUp then { x with training := true } else x

/-- Fuse words of a die whose copies agree in a given way. -/
def Fuses.words (f : Fuses) (d : Nat) (v : FuseVote) : List Nat := (f.votes.filter fun e => e.1 % 2 == d && e.2 == v).map Prod.fst

/-- A die reads its fuses by majority (R729): words in which one copy disagrees are counted, and a word without a majority stops
the device with FUSE_FAILED (0x0B13), whose information names it (R733). -/
def State.readFuses (s : State) (d : Nat) : State :=
  let lost := s.fuses.words d .lost
  let s := s.modDie d fun x =>
    { x with fuseOk := lost.isEmpty, fuseCorrected := satAdd x.fuseCorrected (s.fuses.words d .outvoted).length }
  match lost with
  | [] => s
  | w :: _ => s.raiseStop (pgFuse d) 0x0B13 (w / 2 % 2 ^ 16)

/-- What the module has done by the time that it reads provisioning: PLLs, fuses, flash, bridge. -/
def State.openSilicon (s : State) : State :=
  if (s.die 0).fuseOk ∨ s.err.deviceStopped then s else
  let up := fun d : Die => { d with pllLocked := true, refPresent := true, bridgeUp := true, channelsGood := 0xFF }
  ([0, 4].foldl State.train ((((s.modDie 0 up).modDie 1 up).readFuses 0).readFuses 1)).readLmsRecord

/-- Whether both dies have read their fuses: without that, the module fetches no image (R729). -/
def State.fusesRead (s : State) : Bool := (s.die 0).fuseOk && (s.die 1).fuseOk

/-! ### Provisioning (R658 to R660) -/

def recordOk (s : State) (rec_ : List Byte) : Bool :=
  decide (rec_.length = 256) && leNat (slice rec_ 0 2) == 1 && (rec_.getD 4 0).toNat % 64 == s.boot.slotId.toNat &&
    leNat (slice rec_ 252 4) == crc32 (rec_.take 252) &&
    (decide (s.fuses.lifecycle = 1) || (slice rec_ 120 48).any fun b => b != 0)

/-- Addresses of a port from the record (R622). -/
def Port.provision (p : Port) (vid : Nat) (addr : BitVec 128) (pre : Byte) : Port :=
  let p := { p with vid := BitVec.ofNat 12 vid }
  if mappedV4 addr then
    { p with ipv4 := addr.setWidth 32, ipv4Prefix := if pre.toNat ≤ 32 then pre.setWidth 6 else p.ipv4Prefix }
  else { p with ipv6 := addr, ipv6Prefix := if pre.toNat ≤ 128 then pre else p.ipv6Prefix }

def addrAt (rec_ : List Byte) (i : Nat) : BitVec 128 := BitVec.ofNat 128 (beNat (slice rec_ i 16))

/-- PROVISION_READ: a valid record is taken; an invalid one is read again later. -/
def execProvisionRead (record : List Byte) (s : State) : Res :=
  .next (if !s.side.on || !s.runsImages || decide (s.boot.phase ≠ .provisioning) then s else
    let s := s.openSilicon
    if !s.fusesRead then s
    else if recordOk s record then
      let s := s.modPort 0 fun p => p.provision (leNat (slice record 8 2)) (addrAt record 12) (record.getD 28 0)
      let s := s.modPort 4 fun p => p.provision (leNat (slice record 10 2)) (addrAt record 32) (record.getD 48 0)
      let s : State := s.setNet { s.net with gwA := addrAt record 52, gwB := addrAt record 68 }
      s.modBoot fun b =>
        { b with
          phase := .helloDue
          provision := some
            { slot := BitVec.ofNat 6 (record.getD 4 0).toNat, overIpv6 := (record.getD 5 0).getLsbD 0
              index := BitVec.ofNat 16 (leNat (slice record 6 2)), serverA := addrAt record 84, serverB := addrAt record 100
              serverPort := leNat (slice record 116 2), serverHash := slice record 120 48 } }
    else
      let told := s.boot.provisionBad
      (s.modBoot fun b => { b with provisionBad := true }).raiseEach pgSecurity 0x0A02 0 (!told) 1)

/-! ### The boot exchange (R661 to R663) -/

/-- A BOOT message of the module. -/
def State.sendBoot (s : State) (subtype : Byte) (fields : List Byte) : State :=
  s.sendOwn 0 0x09 (bootBody subtype fields)

def deviceIdBytes (s : State) : List Byte := leBytes 8 s.fuses.deviceId.toNat

/-- Fields of a HELLO before its signature. -/
def State.helloBody (s : State) (p : Provision) (eph : Nat) : List Byte :=
  deviceIdBytes s ++ leBytes 4 identPart.toNat ++ leBytes 1 s.fuses.lifecycle.toNat ++ leBytes 1 s.boot.slotId.toNat ++
    leBytes 2 p.index.toNat ++ ecPublic eph ++ ecPublic s.identity

/-- HELLO goes to the server whose turn it is, with a fresh ephemeral key, on connection 0 as the boot ROM opens it. -/
def execHello (s : State) : Res :=
  .next (match s.boot.provision, decide (s.boot.phase = .helloDue ∨ s.boot.phase = .helloSent) &&
      ((s.port 0).linkUp || (s.port 4).linkUp) with
    | some p, true =>
      let peer := if s.boot.server = 0 then p.serverA else p.serverB
      let cfg : ConnCfg := { ConnCfg.reset with peerA := peer, peerB := peer, port := BitVec.ofNat 16 p.serverPort }
      let s := s.modConn 0 fun c => { (if c.generation = 1 then c else Conn.boot) with cfg := cfg, staged := cfg }
      let e := s.freshScalar
      let k := e.2.freshScalar
      let body := k.2.helloBody p e.1
      let s := k.2.modBoot fun b => { b with phase := .helloSent, ephemeral := e.1, server := 1 - b.server }
      s.sendBoot 0x01 (body ++ ecdsaSign s.identity k.1 (sha384 body))
    | _, _ => s)

/-- Keys of a connection (R631): from the transcript and the shared secret. -/
def relsenKeys (own peer : List Byte) (conn gen : Nat) (secret : List Byte) : BitVec 256 × BitVec 256 :=
  let out := hkdf384 (sha384 (own ++ peer ++ leBytes 2 conn ++ leBytes 4 gen)) secret ("relsen v1".toUTF8.toList.map fun b => BitVec.ofNat 8 b.toNat)
  (BitVec.ofNat 256 (beNat (out.take 32)), BitVec.ofNat 256 (beNat (out.drop 32)))

/-- A connection with fresh keys: numbers restart, waiting messages are gone (R632). -/
def Conn.rekey (c : Conn) (gen : Word) (keys : BitVec 256 × BitVec 256) : Conn :=
  { Conn.reset with
    st := .keyed, cfg := c.cfg, staged := c.staged, generation := gen, keyOut := keys.1, keyIn := keys.2
    retransmits := c.retransmits }

/-- FETCH requests of an image: 8,192 B each, the last one shorter. -/
def fetchCount (len : Nat) : Nat := (len + 8191) / 8192
def fetchLen (len i : Nat) : Nat := min 8192 (len - 8192 * i)

def State.sendFetch (s : State) (i : Nat) : State :=
  s.sendBoot 0x03 (leBytes 4 (8192 * i) ++ leBytes 4 (fetchLen s.boot.imageLen i))

/-- Whether an OFFER authenticates its server (R660, R662). -/
def State.offerOk (s : State) (p : Provision) (eph static sig : List Byte) : Bool :=
  ((decide (s.fuses.lifecycle = 1) && p.serverHash.all (· == 0)) || sha384 static == p.serverHash) &&
    ecdsaVerify static (sha384 (ecPublic s.boot.ephemeral ++ eph ++ deviceIdBytes s)) sig

/-- OFFER (R662). It is answered as every request is (R639); one that comes out of its phase, or that fails, changes nothing else
(the status of a failed one: DEDUCED, log entry 115). -/
def execOffer (hdr : MsgHdr) (keys : ServerKeys) (signature : List Byte) (imageLen : Nat) (s : State) : Res :=
  .next (
    let fields := keys.ephemeral ++ keys.static ++ signature ++ leBytes 4 imageLen
    if !s.arrives 0 0x09 (reqHeader hdr ++ bootBody 0x02 fields) then s else
    let s := s.modConn 0 Conn.applied
    match s.boot.provision, decide (s.boot.phase = .helloSent) with
    | some p, true =>
      match s.offerOk p keys.ephemeral keys.static signature, ecdh s.boot.ephemeral keys.ephemeral with
      | true, some secret =>
        let s := s.modConn 0 fun c => c.rekey 2 (relsenKeys (ecPublic s.boot.ephemeral) keys.ephemeral 0 2 secret)
        let s := s.modBoot fun b => { b with phase := .fetching, imageLen := imageLen, image := [], got := [] }
        (s.bootAnswer 0 hdr 0).forEach (upTo 0 (min 64 (fetchCount imageLen))) fun s i => s.sendFetch i
      | _, _ => (s.raise pgSecurity 0x0A03 noted 0).bootAnswer 0 hdr 0x0811
    | _, _ => s.bootAnswer 0 hdr 0x0811)

/-- CHUNK: the first for each offset that a FETCH asked for is stored, and the next FETCH goes out (R663). -/
def execChunk (hdr : MsgHdr) (piece : ImagePiece) (s : State) : Res :=
  let offset := piece.offset
  let data := piece.data
  .next (
    if !s.arrives 0 0x09 (reqHeader hdr ++ bootBody 0x04 (leBytes 4 offset ++ leBytes 4 data.length ++ data)) then s else
    let s := s.modConn 0 Conn.applied
    let b := s.boot
    let i := offset / 8192
    if b.phase ≠ .fetching ∨ offset % 8192 ≠ 0 ∨ fetchCount b.imageLen ≤ i ∨ data.length ≠ fetchLen b.imageLen i then
      s.bootAnswer 0 hdr 0x0811
    else if b.got.any (fun g => g.1 == offset) then s.bootAnswer 0 hdr 0
    else
      let s := s.modBoot fun b =>
        { b with
          image := nput b.image offset data.length (blockOf 0 data)
          got := b.got ++ [(offset, data.length)] }
      let next := s.boot.got.length + 63
      (if next < fetchCount s.boot.imageLen then s.sendFetch next else s).bootAnswer 0 hdr 0)

/-! ### Verification (R664 to R667) -/

/-- Reason to reject an image, 0 for none. -/
def State.imageReason (s : State) (len : Nat) (img : NMap Byte) : Nat :=
  let head := blockBytes (nblock img 0 256) 256
  let bodyLen := leNat (slice head 8 4)
  if len < 2304 ∨ 50331648 < len ∨ leNat (slice head 0 4) ≠ 0x53444749 ∨ leNat (slice head 4 2) ≠ 1 ∨ bodyLen + 2304 ≠ len ∨
      64 < (head.getD 16 0).toNat then 1 else
  let body := blockBytes (nblock img 256 bodyLen) bodyLen
  let tail := blockBytes (nblock img (256 + bodyLen) 2048) 2048
  let slots := (head.getD 18 0).toNat
  let e := slots % 4
  let l := slots / 16 % 4
  if sha384 body ≠ slice head 20 48 then 2
  else if sha384 (slice tail 0 96) ≠ nget [] s.fuses.ecdsaHash e ∨ s.fuses.ecdsaRevoked.getLsbD e then 3
  else if !ecdsaVerify (slice tail 0 96) (sha384 (head ++ body)) (slice tail 96 96) then 4
  else if sha384 (slice tail 192 56) ≠ nget [] s.fuses.lmsHash l ∨ s.fuses.lmsRevoked.getLsbD l then 5
  else if !lmsVerify (slice tail 192 56) (head ++ body) (slice tail 248 1772) then 6
  else if (head.getD 16 0).toNat < s.fuses.svMin.toNat then 7
  else if !(head.getD 17 0).getLsbD s.fuses.lifecycle.toNat then 8
  else 0

/-- The revoke bits that an image burns (R666). -/
def revokeBits (old mask : BitVec 4) (used : Nat) : BitVec 4 := mask &&& ~~~old &&& ~~~((1 : BitVec 4) <<< used)

/-- Fuses that the boot ROM burns for an accepted image; none in TEST. -/
def State.burn (s : State) (head : List Byte) : State :=
  if s.fuses.lifecycle = 1 then s else
  let flags := head.getD 6 0
  let slots := (head.getD 18 0).toNat
  let me := BitVec.ofNat 4 (head.getD 19 0).toNat
  let ml := BitVec.ofNat 4 ((head.getD 19 0).toNat / 16)
  let f := s.fuses
  let go := flags.getLsbD 0 && decide (f.ecdsaRevoked ||| me ≠ 0xF) && decide (f.lmsRevoked ||| ml ≠ 0xF)
  let be := if go then revokeBits f.ecdsaRevoked me (slots % 4) else 0
  let bl := if go then revokeBits f.lmsRevoked ml (slots / 16 % 4) else 0
  let s : State := s.setFuses { f with ecdsaRevoked := f.ecdsaRevoked ||| be, lmsRevoked := f.lmsRevoked ||| bl }
  let s := s.forEach (bitsOf be.toNat 4 ++ bitsOf bl.toNat 4) fun s _ => s.raise pgSecurity 0x0A05 noted 0
  let sv := (head.getD 16 0).toNat
  if flags.getLsbD 1 ∧ s.fuses.svMin.toNat < sv ∧ sv ≤ 64 then
    (s.setFuses { s.fuses with svMin := BitVec.ofNat 7 sv }).raise pgSecurity 0x0A0A noted 0
  else s

/-- The fetched image is checked; RESULT goes to the server. -/
def execImageVerify (s : State) : Res :=
  .next (let b := s.boot
    if b.phase ≠ .fetching ∨ b.got.length < fetchCount b.imageLen then s else
    let why := s.imageReason b.imageLen b.image
    let head := blockBytes (nblock b.image 0 256) 256
    let hash := sha384 (blockBytes b.image b.imageLen)
    if why ≠ 0 then
      let s := s.raise pgSecurity 0x0A04 noted why
      let s := s.modBoot fun b => { b with phase := .helloDue, image := [], got := [], imageLen := 0 }
      (s.sendBoot 0x05 (leBytes 2 0x0A04 ++ leBytes 2 why ++ hash)).refuseMalformed 0
    else
      let slots := (head.getD 18 0).toNat
      let s := s.burn head
      let s := s.modBoot fun b =>
        { b with
          phase := .verified, verified := true
          info := ⟨BitVec.ofNat 32 (leNat (slice head 12 4)), hash, head.getD 16 0, BitVec.ofNat 2 slots, BitVec.ofNat 2 (slots / 16)⟩ }
      (s.sendBoot 0x05 (leBytes 2 0 ++ leBytes 2 0 ++ hash)).refuseMalformed 0)

/-- Zeroing of both tiers ends (R652). It does not run while `RESET_L` holds the reset (R688), or while a stop has halted the clocks
of the memories (R545). -/
def execTierZeroingComplete (s : State) : Res :=
  .next (if !s.side.on || !s.boot.wiping || decide (s.boot.phase = .held) || decide (s.power.stop ≠ .none) then s
    else ((s.setMem []).setMemCond []).setBoot { s.boot with wiping := false, zeroed := true })

/-- Start-up of the image ends: the module is ready (BOOT_READY). -/
def State.becomeReady (s : State) : State :=
  (s.modBoot fun b => { b with ready := true, bootTimeMs := BitVec.ofNat 32 (s.time.now.toNat / 1000000) }).raise pgSecurity 0x0A01
    noted 0

/-- The image starts (R657): both checks and the zeroing are complete and no input shows a loss. Its regions stand at point 0 and
run their margin checks, which of whose cores fail is the silicon's, and its ports train. The end of that start-up is a second run
of this row, with the image running and the module not yet ready (R655; log entry 71). -/
def execImageStart (s : State) : Res :=
  .next (if s.boot.phase = .running then (if s.boot.ready || s.halted then s else s.becomeReady)
    else if s.boot.phase ≠ .verified ∨ !s.boot.zeroed ∨ s.side.loss then s else
    let run := fun d : Die => { d with imageRunning := true }
    let s := ((s.modDie 0 run).modDie 1 run).modBoot fun b => { b with phase := .running }
    let o := s.open_
    let s := o.2.forEach (upTo 0 8) fun s r => s.marginCheck r (bitsOf o.1 128)
    [1, 2, 3, 5, 6, 7].foldl State.train s)

/-! ### Attestation (R669 to R671) -/

/-- Bytes 0 to 127 of a report. -/
def State.reportBody (s : State) (nonce : List Byte) (index : Nat) : List Byte :=
  let i := s.boot.info
  leBytes 2 1 ++ leBytes 1 s.fuses.lifecycle.toNat ++ leBytes 1 s.boot.mode.toNat ++ leBytes 4 identPart.toNat ++ deviceIdBytes s ++
    slice (nonce ++ List.replicate 32 0) 0 32 ++ i.hash ++ leBytes 4 i.version.toNat ++ [i.security] ++ leBytes 1 s.fuses.svMin.toNat ++
    leBytes 1 (i.ecdsaSlot.toNat + 16 * i.lmsSlot.toNat) ++ leBytes 1 (s.fuses.ecdsaRevoked.toNat + 16 * s.fuses.lmsRevoked.toNat) ++
    leBytes 8 s.time.now.toNat ++ leBytes 4 index ++ List.replicate 12 0

/-- All 1,024 epoch bits are burned and the last epoch is spent (R671). -/
def State.lmsSpent (s : State) : Bool :=
  s.boot.exhausted || (decide (1024 ≤ s.fuses.lmsEpochs.toNat) && decide (1024 * s.fuses.lmsEpochs.toNat ≤ s.flash.lmsNext))

/-- The next index is taken: its page is programmed first (R671). -/
def State.takeIndex (s : State) : State :=
  let s : State := s.setFlash { s.flash with lmsNext := s.flash.lmsNext + 1 }
  if s.flash.lmsNext = 1024 * s.fuses.lmsEpochs.toNat then s.nextEpoch else s

def execAttestReq (conn : Nat) (hdr : MsgHdr) (nonce : List Byte) (s : State) : Res :=
  .next (if !s.arrives conn 0x09 (reqHeader hdr ++ bootBody 0x06 nonce) then s else
    let s := s.modConn conn Conn.applied
    if !s.regConn conn then s.bootAnswer conn hdr 0x0811 else
    let spent := s.lmsSpent
    let i := if spent then 0xFFFFFFFF else s.flash.lmsNext
    let body := s.reportBody nonce i
    let k := s.freshScalar
    let s := if spent then k.2 else k.2.takeIndex
    let lms := if spent then List.replicate 1772 0 else lmsSigned s.fuses.secret i body
    (s.sendMsg conn 0x09 (msgHeader true 0 hdr.tag.toNat ++ bootBody 0x07 (body ++
      ecdsaSign s.identity k.1 (sha384 body) ++ lms))).refuseMalformed conn)

/-! ### Unlock token (R675) -/

/-- Whether the token in `SECURITY.UNLOCK` passes. The keys are those of the running image's trailer (log entry 21). -/
def State.tokenOk (s : State) (t : List Byte) : Bool :=
  let trailer := blockBytes (nblock s.boot.image (s.boot.imageLen - 2048) 2048) 2048
  let msg := slice t 0 44
  slice t 0 8 == deviceIdBytes s && slice t 8 32 == beBytes 32 s.boot.nonce.toNat && slice t 41 3 == [0, 0, 0] &&
    s.boot.verified && !s.fuses.ecdsaRevoked.getLsbD s.boot.info.ecdsaSlot.toNat && !s.fuses.lmsRevoked.getLsbD s.boot.info.lmsSlot.toNat &&
    ecdsaVerify (slice trailer 0 96) (sha384 msg) (slice t 44 96) && lmsVerify (slice trailer 192 56) msg (slice t 140 1772)

/-- The last word of the token is written, and the check runs; the nonce changes. -/
def State.checkToken (s : State) : State :=
  let t := blockBytes s.boot.unlock 1912
  let ok := s.tokenOk t
  let nonce := BitVec.ofNat 256 (beNat (Config.freeBytes s.oracle 32))
  let s : State := (s.setOracle (s.oracle + 1)).setBoot
    { s.boot with nonce := nonce, unlockTarget := if ok then some (t.getD 40 0).toNat else s.boot.unlockTarget }
  if ok then s else s.raise pgSecurity 0x0A09 noted 0

/-- A word of `SECURITY.UNLOCK`, `off` bytes into the token. -/
def State.writeUnlock (s : State) (off : Nat) (v : Word) : State :=
  let s := s.modBoot fun b => { b with unlock := nput b.unlock off 4 (blockOf 0 (leBytes 4 v.toNat)) }
  if off = 1908 then s.checkToken else s

def execUnlockToken (ini : Nat) (last : Word) (s : State) : Res :=
  s.regRow ini pgSecurity false fun s => s.writeUnlock 1908 last

end Sys2Proof.Machine
end

