-- ==== Sys2Proof/Machine/Planes.lean ====
section
/-! DEFINITION. Planes.lean: planes, their formats and loads, codebooks, and the swap (R44 to R62, R106 to R120, R735). -/

namespace Sys2Proof.Machine

/-! ### Contents of a plane -/

/-- Lanes of a format (R45, R107, R108). -/
def lanesOf (fmt : Nat) : Nat :=
  match fmt with
  | 0 => 512
  | 1 => 256
  | 2 => 128
  | 3 => 64
  | 4 => 128
  | _ => 64

/-- A `b`-bit two's-complement number. -/
def signedBits (b v : Nat) : Int := if v < 2 ^ (b - 1) then (v : Int) else (v : Int) - 2 ^ b

/-- Entry `i` of a codebook; none captured reads zero. -/
def cbEntry (c : List Byte) (i : Nat) : Int := signed8 (c.getD i 0).toNat

/-- Weights, or decoded values, that a byte of a row holds in ascending lane order (R46 to R48, R107, R108). -/
def byteWeights (fmt : Nat) (c1 c2 : List Byte) (b : Byte) : List Int :=
  let v := b.toNat
  match fmt with
  | 0 => (upTo 0 8).map fun i => if v.testBit i then -1 else 1
  | 1 => (upTo 0 4).map fun i => signedBits 2 (v / 4 ^ i % 4)
  | 2 => [signedBits 4 (v % 16), signedBits 4 (v / 16)]
  | 3 => [signed8 v]
  | 4 => [cbEntry c1 (v % 16), cbEntry c1 (v / 16)]
  | _ => [cbEntry c1 (v / 16) + cbEntry c2 (v % 16)]

def rowWeights (fmt : Nat) (c1 c2 : List Byte) (bytes : List Byte) : List Int := bytes.flatMap (byteWeights fmt c1 c2)

/-- Cells of an image by row: `n` rows from row `r`. -/
def rowCells : Nat → Nat → List Host.Cell → List (List Host.Cell)
  | 0, _, _ => []
  | n + 1, r, m =>
    let here := fun (e : Host.Cell) => decide (e.1 < 64 * (r + 1))
    ((m.takeWhile here).map fun e => (e.1 - 64 * r, e.2)) :: rowCells n (r + 1) (m.dropWhile here)

/-- Weights of the 256 rows of a plane, lane by lane. -/
def Plane.rows (p : Plane) : List (List Int) :=
  (rowCells 256 0 p.image).map fun m => rowWeights p.format.toNat p.c1 p.c2 (blockBytes m 64)

def sumInt (xs : List Int) : Int := xs.foldl (· + ·) 0

def addLists (a b : List Int) : List Int := List.zipWith (· + ·) a b

/-- Lane sums of rows that arrive, one total for each lane. -/
def laneTotals (lanes : Nat) (rows : List (List Int)) : List Int := rows.foldl addLists (List.replicate lanes 0)

/-- A list of values as a sparse map from index `i`. -/
def indexed (i : Nat) : List Int → NMap Int
  | [] => []
  | x :: xs => if x = 0 then indexed (i + 1) xs else (i, x) :: indexed (i + 1) xs

/-- Rows `r` to `r + n - 1` arrive: their bits, check lanes and lane sums (R54, R55, R119, R120). -/
def Plane.writeRows (p : Plane) (r n : Nat) (blk : NMap Byte) : Plane :=
  let fmt := p.format.toNat
  let rows := (rowCells n 0 blk).map fun m => rowWeights fmt p.c1 p.c2 (blockBytes m 64)
  let sums := laneTotals (lanesOf fmt) rows
  let old := (upTo 0 (lanesOf fmt)).map fun l => nget 0 p.laneSum l
  let checks := (List.zipIdx rows).map fun e => (r + e.2, BitVec.ofNat 4 (sumInt e.1 % 16).toNat)
  { p with
    image := putMem p.image (64 * r) (64 * n) blk
    check := checks.foldl (fun m e => nset 0 m e.1 e.2) p.check
    laneSum := indexed 0 (addLists old sums)
    rowsIn := r + n }

/-- A plane enters LOADING and captures its frame's pending mode (R58, R110, R111, R735). -/
def Frame.startLoad (f : Frame) : Frame :=
  f.setIdle
    { f.idle with
      st := .loading, format := f.pendFormat, c1 := f.pendC1, c2 := f.pendC2, pad := f.pendPad, check := [], laneSum := []
      rowsIn := 0, bad := false }

/-- A load starts at the idle plane of frame `f`. An earlier take that still counts the plane among its targets has no part in
what it holds from now on. -/
def Core.startLoad (c : Core) (f : Nat) : Core :=
  let idle1 := !(c.frame f).active1
  { c.modFrame f Frame.startLoad with
    takes := c.takes.map fun t => { t with targets := t.targets.filter fun p => !(p.1 == f && p.2 == idle1) } }

/-- Free bits of a symbol that an injection flips in a plane row (log entry 19). -/
def State.flipRow (s : State) (blk : NMap Byte) (two : Bool) : NMap Byte :=
  let fs := Config.freeBytes s.oracle 2
  let blk := nset 0 blk 0 (byteAt blk 0 ^^^ fs.getD 0 0)
  if two then nset 0 blk 1 (byteAt blk 1 ^^^ fs.getD 1 0) else blk

/-- Rows arrive at the idle plane of frame `f` of logical core `l`. An armed injection of kind 1 or 2 changes what is
stored after the check lanes and lane sums have been formed (R584). -/
def State.loadRows (s : State) (l f r n : Nat) (blk : NMap Byte) : State :=
  let inj := s.takeInjection (s.pgL l bFrames)
  let s := inj.1
  let put := fun (p : Plane) =>
    let p := p.writeRows r n blk
    match inj.2 with
    | .sound => p
    | c => { p with image := putMem p.image (64 * r) (64 * n) (s.flipRow blk (c == .uncorrectable)) }
  let s := s.modLcore l fun c => c.modFrame f fun x => x.setIdle (put x.idle)
  if inj.2 = .sound then s else s.setOracle (s.oracle + 1)

/-- An uncorrectable word has reached a load (R53). -/
def State.loadBad (s : State) (l f : Nat) : State :=
  s.modLcore l fun c => c.modFrame f fun x => x.setIdle { x.idle with bad := true }

/-- `n` corrected words have reached a load (R53). -/
def State.loadCorrected (s : State) (l f n : Nat) : State :=
  (upTo 0 n).foldl (fun s _ =>
    (s.modLcore l fun c => { c with fr := { c.fr with loadCorrected := satInc c.fr.loadCorrected } }).raise (s.pgL l bFrames)
      0x0102 noted (f + b2n ((s.lcore l).frame f).active1 * 16)) s

/-- PLANE_LOAD_COMPLETE (R58): a plane whose rows are all in becomes LOADED, or POISONED, which ends a swap that waits for
it (R61). -/
def execPlaneLoadComplete (core frame : Nat) (s : State) : Res :=
  let p := ((s.lcore core).frame frame).idle
  .next (if core < 128 ∧ frame < 16 ∧ p.st = .loading ∧ p.rowsIn = 256 then
      (s.modLcore core fun c =>
        let c := c.modFrame frame fun x => x.setIdle { x.idle with st := if x.idle.bad then .poisoned else .loaded }
        { c with takes := c.takes.map fun t => { t with planesLeft := t.planesLeft.filter (· ≠ frame) } }).sweepSwaps core 4
    else s)

/-! ### FRAME_MODE (R111 to R118) -/

def modeFormat (e : Entry) : Nat := fbits e 18 2 0
def modePad (e : Entry) : Nat := fld e 19 1
def modeC1 (e : Entry) : List Byte := fbytes e 24 16
def modeC2 (e : Entry) : List Byte := fbytes e 40 16

/-- R117, R734. -/
def frameModeOk (e : Entry) : Bool :=
  fld e 16 2 != 0 && fbits e 18 7 3 == 0 && decide (modeFormat e ≤ 5) && fzero e 56 8 &&
    (decide (modeFormat e ≤ 3) || fzero e 20 4) && (modeFormat e != 4 || decide (modePad e < 16))

/-- R116: the pad code's value is zero. -/
def padZero (e : Entry) : Bool :=
  match modeFormat e with
  | 4 => cbEntry (modeC1 e) (modePad e) == 0
  | 5 => cbEntry (modeC1 e) (modePad e / 16) + cbEntry (modeC2 e) (modePad e % 16) == 0
  | _ => true

def Frame.setMode (f : Frame) (e : Entry) : Frame :=
  if modeFormat e ≤ 3 then { f with pendFormat := BitVec.ofNat 3 (modeFormat e), pendPad := 0, pendC1 := [], pendC2 := [] }
  else
    { f with
      pendFormat := BitVec.ofNat 3 (modeFormat e), pendPad := BitVec.ofNat 8 (modePad e), pendC1 := modeC1 e, pendC2 := modeC2 e }

/-- FRAME_MODE. One that breaks both R117 and R116 stops with 0x0127: the spec gives the two no order, and the operand limits are
tested first (DESIGN CHOICE, log entry 95). -/
def execFrameMode (q : Nat) (s : State) : Res :=
  .next (s.tryIssue q (hasOp 0x20)
    (fun s e =>
      if !frameModeOk e then .stop (s.frameStop q 0x0127)
      else if !padZero e then .stop (s.frameStop q 0x0126)
      else .go)
    fun s e =>
      (s.modLcore (q / 4) fun c => (bitsOf (fld e 16 2) 16).foldl (fun c f => c.modFrame f (Frame.setMode · e)) c).issueFinish q e)

/-! ### PLANE_SWAP and PLANE_EXCHANGE (R60, R61, R391, R465) -/

/-- Frames whose idle plane an unconfirmed run-ahead command loads. -/
def Core.aheadFrames (c : Core) : List Nat :=
  ((c.dma.filter fun d => d.ra == .unconfirmed && isPlaneCopy d.job.cmd).map fun d => copyFrame d.job.cmd) ++
    (c.takes.filter fun t => t.ra == .unconfirmed).flatMap fun t => takeFrames t.job.cmd

/-- Steps 5 to 7 of a PLANE_SWAP: it waits for an earlier swap of a named frame, stops at a plane without weights, and waits
for one that is LOADING or that a run-ahead command loads (R60, R61, R391). -/
def swapGate (q : Nat) (s : State) (e : Entry) : Gate :=
  let fs := bitsOf (swapMask e) 16
  let c := s.lcore (q / 4)
  if swapMask e = 0 ∨ !fzero e 18 46 then .stop (s.frameStop q 0x0128)
  else if c.swapPends (swapMask e) then .hold 7
  else match s.swapStop q e with
    | some st => .stop st
    | none => if fs.any (fun f => decide ((c.frame f).idle.st = .loading) || c.aheadFrames.contains f) then .hold 7 else .go

def execPlaneSwap (q : Nat) (s : State) : Res :=
  .next (s.tryIssue q (hasOp 0x23) (swapGate q) fun s e =>
    let j := s.newJob q e
    let fs := bitsOf (swapMask e) 16
    (s.issue q).modLcore (q / 4) fun c =>
      let c := fs.foldl (fun c f => c.modFrame f fun x => { x with swapPending := true }) c
      { c with swaps := c.swaps ++ [⟨j, fs⟩] })

/-- A frame exchanges its planes once every earlier run has left its rows and the idle plane is LOADED; the swap
completes with its last frame (R60, R465). -/
def execPlaneExchange (core frame : Nat) (s : State) : Res :=
  let c := s.lcore core
  let f := c.frame frame
  .next (if core < 128 ∧ frame < 16 ∧ c.fence = .inService ∧ f.swapPending ∧ f.idle.st = .loaded ∧
      !c.runs.any (fun r => r.usesFrame frame) then
    let done := c.swaps.find? fun w => w.waiting.contains frame
    let s := s.modLcore core fun c =>
      { c.modFrame frame (fun x => { x with active1 := !x.active1, swapPending := false }) with
        swaps := (c.swaps.map fun w => { w with waiting := w.waiting.filter (· ≠ frame) }).filter fun w => !w.waiting.isEmpty }
    match done with
    | some w => if w.waiting.all (· == frame) then s.finish w.job else s
    | none => s
    else s)

end Sys2Proof.Machine
end

