-- ==== Sys2Proof/Machine/DmaMoves.lean ====
section
/-! DEFINITION. DmaMoves.lean: the operands of `DMA_COPY` and `DMA_GATHER_CTX`, their limits, and how the engine moves
their rows (R361 to R374). -/

namespace Sys2Proof.Machine

/-! ### Operands of DMA_COPY (R361) -/

def copySrc (e : Entry) : Nat := fld e 20 6
def copyDst (e : Entry) : Nat := fld e 26 6
def copyLen (e : Entry) : Nat := fld e 32 4
def copyRows (e : Entry) : Nat := fld e 36 4
def copySrcPitch (e : Entry) : Nat := fld e 40 4
def copyDstPitch (e : Entry) : Nat := fld e 44 4
def copyReg (e : Entry) : Nat := fld e 18 2 % 0x2000
def railStreamOf (e : Entry) : Nat := fbits e 17 2 0
def railInterleave (e : Entry) : Nat := fbits e 18 4 0
def railTag (e : Entry) : Nat := fld e 26 2
def railTakers (e : Entry) : List Nat := bitsOf (fld e 48 16) 128

/-- Limits of R361, R364 and R734 by kind: 0 memory, 1 plane, 2 scale registers, 3 rail stream. -/
def copyOk (e : Entry) : Bool :=
  fbits e 16 7 2 == 0 && mult 32 (copySrc e) &&
    match copyKind e with
    | 0 => fzero e 17 3 && mult 32 (copyDst e) && within 32 16777216 (copyLen e) && mult 32 (copyLen e) &&
        within 1 65536 (copyRows e) && mult 32 (copySrcPitch e) && mult 32 (copyDstPitch e) && fzero e 48 16
    | 1 => fbits e 17 7 4 == 0 && fzero e 18 2 && fzero e 26 6 && copyLen e == 16384 && copyRows e == 1 && fzero e 40 24
    | 2 => fzero e 17 1 && decide (fld e 18 2 < 0x2000) && fzero e 26 6 && within 32 32768 (copyLen e) && mult 4 (copyLen e) &&
        copyRows e == 1 && fzero e 40 24 && decide (copyReg e + copyLen e / 4 ≤ 8192)
    | _ => fbits e 17 7 3 == 0 && within 1 16 (fld e 18 2) && fzero e 28 4 && within 1 1048576 (copyLen e) &&
        within 0 64 (copyRows e) && fzero e 40 8

def copyRowSrc (e : Entry) (i : Nat) : Nat := copySrc e + i * copySrcPitch e
def copyRowDst (e : Entry) (i : Nat) : Nat := copyDst e + i * copyDstPitch e

/-- Whether a range may be the destination of a memory copy (R362). -/
def copyTarget (a len : Nat) : Bool :=
  match wholePlace a len with
  | some (.ledger _ _) => false
  | some _ => true
  | none => false

/-- First row whose addresses break R362. -/
def copyBadRow (e : Entry) : Option Nat :=
  if copyKind e = 0 then
    (upTo 0 (copyRows e)).find? fun i =>
      (wholePlace (copyRowSrc e i) (copyLen e)).isNone || !copyTarget (copyRowDst e i) (copyLen e)
  else if (wholePlace (copySrc e) (copyLen e)).isNone then some 0 else none

/-! ### Operands of DMA_GATHER_CTX (R369) -/

def isKvWrite (e : Entry) : Bool := fbit e 16 0
def gatherSkipNone (e : Entry) : Bool := fbit e 16 1
def gatherCount (e : Entry) : Nat := fld e 20 2
def listOffset (e : Entry) : Nat := fld e 24 4
def listStride (e : Entry) : Nat := fld e 28 4
def gatherBase (e : Entry) : Nat := fld e 32 6
def gatherRows (e : Entry) : Nat := fld e 40 4
def gatherLen (e : Entry) : Nat := fld e 44 4
def gatherDst (e : Entry) : Nat := fld e 48 6
def gatherPitch (e : Entry) : Nat := fld e 56 4
def gatherDstPitch (e : Entry) : Nat := fld e 60 4
def kvDim (e : Entry) : Nat := 64 * 2 ^ fbits e 17 1 0
def kvEntry (e : Entry) : Nat := fbits e 17 3 2
def kvImageV (e : Entry) : Bool := fbit e 17 4
def kvLayer (e : Entry) : Nat := fld e 18 1
def kvHeads (e : Entry) : Nat := fld e 19 1
def kvQ (e : Entry) : Nat := fld e 22 1
def kvFormat (e : Entry) : Nat := fbits e 23 3 0

/-- Bytes of a row image of `k` elements in an operand format; 0 for a format that has none (R228). -/
def rowImageBytes (fmt k : Nat) : Nat :=
  match fmt with
  | 0 => k
  | 1 => k
  | 2 => k / 2 + k / 32
  | 3 => k
  | 5 => 2 * k
  | _ => 0

/-- KV formats (R244): INT8 and code are none. -/
def isKvFormat (fmt : Nat) : Bool := fmt == 0 || fmt == 1 || fmt == 2 || fmt == 5

/-- Limits of a list of 4 B entries in scratchpad. -/
def listOk (off count stride : Nat) : Bool :=
  within 1 512 count && mult 4 off && mult 4 stride && decide (4 ≤ stride) && decide (off + (count - 1) * stride + 4 ≤ scratchSize)

def gatherOk (e : Entry) : Bool :=
  fbits e 16 7 2 == 0 && listOk (listOffset e) (gatherCount e) (listStride e) && mult 32 (gatherBase e) && fzero e 38 2 &&
    fzero e 54 2 && mult 32 (gatherPitch e) &&
    if isKvWrite e then
      fbits e 17 7 5 == 0 && decide (fbits e 17 1 0 ≤ 2) && within 1 16 (kvHeads e) && within 1 64 (kvQ e) &&
        fbits e 23 7 4 == 0 && isKvFormat (kvFormat e) && mult 32 (gatherLen e) &&
        decide (rowImageBytes (kvFormat e) (kvDim e) ≤ gatherLen e)
    else
      within 1 0xFFFFFFFE (gatherRows e) && within 32 65536 (gatherLen e) && mult 32 (gatherLen e) && mult 32 (gatherDst e) &&
        mult 32 (gatherDstPitch e)

/-! ### Stops (R395) -/

/-- A DMA stop: row or list entry in place of the word, queue, and the DMA engine as the access source (R347). -/
def State.dmaStop (s : State) (q : Nat) (code : BitVec 16) (i : Nat) : Stop :=
  ⟨code, s.pgL (q / 4) bScratch, contained, i % 65536 + 2 ^ 16 * (q % 4) + 2 ^ 18 * 6, 0⟩

/-- REMOTE_TO_FENCED of a DMA command, no event of R395: the word that it would reach at `a`. -/
def State.dmaFenced (s : State) (q a : Nat) : Stop := s.dmaStop q 0x0410 (a / 32)

/-! ### One move -/

/-- What the engine does at its next turn for a command; a wait names the slot, as (logical core, slot), and leaves what the turn
has moved before it. -/
inductive Turn where
  | wait (s : State) (d : DmaJob) (k : Nat × Nat)
  | moved (s : State) (d : DmaJob)
  | ended (s : State) (st : Stop)

/-- Slots that a range of the map touches, as (logical core, slot). -/
def slotsOf (a len : Nat) : List (Nat × Nat) :=
  match wholePlace a len with
  | some (.scratch l off) => (rng off len).slots.map fun k => (l, k)
  | _ => []

/-- Whether a slot is permitted at its first access (R320, R321); `both` says that the command also reads it. A command that is
not confirmed writes only into slots that are empty (R325, R391). -/
def State.slotOk (s : State) (d : DmaJob) (write : Bool) (both : Nat × Nat → Bool) (k : Nat × Nat) : Bool :=
  let c := (s.lcore k.1).scr
  c.discipline || (if write && d.ra == .unconfirmed then !c.full k.2
    else d.seen.contains k || c.full k.2 == (!write || both k))

/-- The first of some slots that is not permitted. -/
def State.shut (s : State) (d : DmaJob) (write : Bool) (both : Nat × Nat → Bool) (ks : List (Nat × Nat)) : Option (Nat × Nat) :=
  ks.find? fun k => !s.slotOk d write both k

/-- The same for slots that the command only reads. -/
def State.shutRead (s : State) (d : DmaJob) (ks : List (Nat × Nat)) : Option (Nat × Nat) := s.shut d false (fun _ => false) ks

/-- How many of `n` bytes from `a` on lie before a slot; all of them where there is none. -/
def bytesBefore (a n : Nat) (k : Option (Nat × Nat)) : Nat :=
  match k with
  | none => n
  | some k => min n (scratchAddr k.1 (4096 * k.2) - a)

/-- Slots that a command has reached. -/
def DmaJob.reach (d : DmaJob) (reads writes : List (Nat × Nat)) : DmaJob :=
  { d with
    seen := d.seen ++ (reads ++ writes).eraseDups.filter fun k => !d.seen.contains k
    wrote := d.wrote ++ writes.eraseDups.filter fun k => !d.wrote.contains k }

/-- Bytes that a core's DMA commands have written. -/
def State.countDma (s : State) (l n : Nat) : State :=
  s.modLcore l fun c => { c with scr := { c.scr with dmaBytes := c.scr.dmaBytes + BitVec.ofNat 64 n } }

/-- First `n` bytes of a block. -/
def clip (blk : NMap Byte) (n : Nat) : NMap Byte := nkeep (fun k => decide (k < n)) blk

/-! ### Overlap (R368) -/

/-- Bytes that a source address held before the command or between its earlier writes. -/
def DmaJob.held (d : DmaJob) (a : Nat) : List Byte :=
  d.olds.filterMap fun o => if o.1 ≤ a ∧ a < o.1 + o.2.1 then some (nget 0 o.2.2 (a - o.1)) else none

/-- Whether a row's source overlaps what its command has written or, at other addresses, what the row writes. -/
def DmaJob.overlaps (d : DmaJob) (src dst len : Nat) : Bool :=
  (src != dst && decide (src < dst + len) && decide (dst < src + len)) ||
    d.olds.any fun o => decide (src < o.1 + o.2.1) && decide (o.1 < src + len)

/-- Bytes that a row writes where its source overlaps: for each one of the bytes that R368 allows, namely what its source
address holds at the row's read, held before, or received from the row's own bytes before it. -/
def DmaJob.mixed (d : DmaJob) (n src dst len : Nat) (blk : NMap Byte) : NMap Byte :=
  (if src < dst then upTo 0 len else (upTo 0 len).reverse).foldl (fun m k =>
    let own := if src ≠ dst ∧ dst ≤ src + k ∧ src + k < dst + len then [nget 0 m (src + k - dst)] else []
    let xs := nget 0 blk k :: d.held (src + k) ++ own
    nset 0 m k (xs.getD (Config.overlapPick n k % xs.length) 0)) []

/-- Whether an address lies in another core's scratchpad, which the writes of one command reach in no defined order (R345). -/
def DmaJob.remote (d : DmaJob) (a : Nat) : Bool :=
  match placeOf a with
  | some (.scratch l _) => l != d.job.q / 4
  | _ => false

/-- Whether a row writes bytes of another core that its command has written before. -/
def DmaJob.rewrites (d : DmaJob) (dst len : Nat) : Bool :=
  d.remote dst && d.olds.any fun o => decide (dst < o.1 + o.2.1) && decide (o.1 < dst + len)

/-- Each byte that two rows write at another core is one of the two (R345): the earlier one, `was`, or the later one. -/
def DmaJob.unordered (d : DmaJob) (n dst len : Nat) (was blk : NMap Byte) : NMap Byte :=
  (upTo 0 len).foldl (fun m k =>
    if d.olds.any (fun o => decide (o.1 ≤ dst + k) && decide (dst + k < o.1 + o.2.1)) ∧ Config.overlapPick n k % 2 = 1 then
      nset 0 m k (nget 0 was k)
    else m) blk

/-- What a row of `n` bytes writes, and the state that has drawn the choices. -/
def State.rowBytes (s : State) (d : DmaJob) (src dst n : Nat) (blk : NMap Byte) : NMap Byte × State :=
  let x : NMap Byte × State :=
    if d.overlaps src dst n then (d.mixed s.oracle src dst n blk, s.setOracle (s.oracle + 1)) else (clip blk n, s)
  if d.rewrites dst n then
    (d.unordered x.2.oracle dst n (x.2.peek dst n).blk x.1, x.2.setOracle (x.2.oracle + 1))
  else x

/-- Move bytes from `src` to `dst`, of the `i`-th row or entry of the command. Words before one that cannot be read are moved. -/
def State.moveBytes (s : State) (d : DmaJob) (src dst len : Nat) : Turn :=
  let q := d.job.q
  let l := q / 4
  let r := s.read (dmaWho l q src) src len
  let n := r.1.good
  let x := r.2.rowBytes d src dst n r.1.blk
  let w := x.2.write (dmaWho l q dst) dst n x.1
  let s := w.1.countDma l n
  if w.2 ≠ 0 then .ended s (quietStop w.2)
  else if r.1.code ≠ 0 then .ended s (quietStop r.1.code)
  else .moved s { d.reach (slotsOf src len) (slotsOf dst len) with olds := d.olds ++ [(dst, n, (r.2.peek dst n).blk)] }

/-- Move what is left of a row of `len` bytes, the `i`-th row or entry of the command. The engine checks each slot at its first
access (R321): where one is not permitted it has moved the bytes before it, and waits there. -/
def State.moveRow (s : State) (d : DmaJob) (i src dst len : Nat) (both : Nat × Nat → Bool) : Turn :=
  let q := d.job.q
  let a := src + d.off
  let b := dst + d.off
  let n := len - d.off
  if s.fencedWindow src then .ended s (s.dmaFenced q src)
  else if s.fencedWindow dst then .ended s (s.dmaFenced q dst)
  else if (wholePlace src len).isNone || (wholePlace dst len).isNone then .ended s (s.dmaStop q 0x0441 i)
  else
    let kr := s.shut d false both (slotsOf a n)
    let kw := s.shut d true both (slotsOf b n)
    let m := min (bytesBefore a n kr) (bytesBefore b n kw)
    match (if bytesBefore a n kr ≤ bytesBefore b n kw then kr.or kw else kw.or kr) with
    | none =>
      match s.moveBytes d a b n with
      | .moved s d => .moved s { d with off := 0 }
      | t => t
    | some k =>
      if m = 0 then .wait s d k else
      match s.moveBytes d a b m with
      | .moved s d => .wait s { d with off := d.off + m } k
      | t => t

/-! ### DMA_COPY by kind -/

/-- Whether a memory copy reads a slot. -/
def copyReads (e : Entry) (k : Nat × Nat) : Bool :=
  (upTo 0 (copyRows e)).any fun i => (slotsOf (copyRowSrc e i) (copyLen e)).contains k

def State.copyTurn (s : State) (d : DmaJob) : Turn :=
  let e := d.job.cmd
  s.moveRow d d.pos (copyRowSrc e d.pos) (copyRowDst e d.pos) (copyLen e) (copyReads e)

/-- One beat of a plane copy: four rows (R50, R363). An uncorrectable word poisons the plane and the copy goes on. -/
def State.planeTurn (s : State) (d : DmaJob) : Turn :=
  let e := d.job.cmd
  let q := d.job.q
  let l := q / 4
  let a := copySrc e + 256 * d.pos
  if s.fencedWindow a then .ended (s.modLcore l fun c => c.emptyTargets [copyFrame e]) (s.dmaFenced q a)
  else match s.shutRead d (slotsOf a 256) with
  | some k => .wait s d k
  | none =>
    let r := s.peek a 256
    let s := (s.noteRead (dmaWho l q a) a 256).loadRows l (copyFrame e) (4 * d.pos) 4 r.blk
    let s := if r.code = 0 then s else s.loadBad l (copyFrame e)
    .moved (s.countDma l 256) (d.reach (slotsOf a 256) [])

/-- Write scale registers from `first` on. -/
def Quant.setScales (u : Quant) (first : Nat) (vs : List Nat) : Quant :=
  { u with scale := vs.zipIdx.foldl (fun m x => nset 0x3F800000 m (first + x.2) (BitVec.ofNat 32 x.1)) u.scale }

def Quant.scaleAt (u : Quant) (r : Nat) : Word := nget 0x3F800000 u.scale r

/-- 32-bit values of a block. -/
def wordsOf (blk : NMap Byte) (n : Nat) : List Nat := (upTo 0 n).map fun i => blkNat blk (4 * i) 4

/-- `len` bytes of a scale copy (R356, R364), `off` bytes into it. -/
def State.scaleBytes (s : State) (d : DmaJob) (off len : Nat) : Turn :=
  let e := d.job.cmd
  let q := d.job.q
  let l := q / 4
  let a := copySrc e + off
  let r := s.read (dmaWho l q a) a len
  let n := r.1.good / 4
  let s := (r.2.modLcore l fun c => { c with quant := c.quant.setScales (copyReg e + off / 4) (wordsOf r.1.blk n) }).countDma l (4 * n)
  if r.1.code ≠ 0 then .ended s (quietStop r.1.code) else .moved s (d.reach (slotsOf a len) [])

/-- What is left of a scale copy: up to its end, or to a slot at which it waits (R321). -/
def State.scaleTurn (s : State) (d : DmaJob) : Turn :=
  let e := d.job.cmd
  let q := d.job.q
  let a := copySrc e + d.off
  let n := copyLen e - d.off
  if s.fencedWindow a then .ended s (s.dmaFenced q a)
  else match s.shutRead d (slotsOf a n) with
  | none => s.scaleBytes d d.off n
  | some k =>
    let m := bytesBefore a n (some k)
    if m = 0 then .wait s d k else
    match s.scaleBytes d d.off m with
    | .moved s d => .wait s { d with off := d.off + m } k
    | t => t

/-! ### Table gather (R370) -/

/-- Address of entry `i` of the list. -/
def listAddr (l : Nat) (e : Entry) (i : Nat) : Nat := scratchAddr l (listOffset e + i * listStride e)

/-- Read entry `i` of the list: its value, or the code that ended the read. -/
def State.listEntry (s : State) (w : Who) (a : Nat) : State × Nat × BitVec 16 :=
  let r := s.read w a 4
  (r.2, blkNat r.1.blk 0 4, r.1.code)

/-- Source row that entry `i` of a table gather names. -/
def State.gatherSrc (s : State) (l : Nat) (e : Entry) (i : Nat) : Nat :=
  gatherBase e + blkNat (s.peek (listAddr l e i) 4).blk 0 4 * gatherPitch e

/-- Whether a table gather reads a slot: one of its list, or one of its source rows. -/
def State.gatherReads (s : State) (l : Nat) (e : Entry) (k : Nat × Nat) : Bool :=
  (upTo 0 (gatherCount e)).any fun i =>
    (slotsOf (listAddr l e i) 4).contains k || (slotsOf (s.gatherSrc l e i) (gatherLen e)).contains k

/-- The engine reads entry `i` of the list: the spot names the row that it moves, or none where the entry is skipped. -/
def State.gatherStart (s : State) (d : DmaJob) (i : Nat) : Turn :=
  let e := d.job.cmd
  let q := d.job.q
  let l := q / 4
  let la := listAddr l e i
  match s.shutRead d (slotsOf la 4) with
  | some k => .wait s d k
  | none =>
    let le := s.listEntry (dmaWho l q la) la
    let x := le.2.1
    let d := d.reach (slotsOf la 4) []
    if le.2.2 ≠ 0 then .ended le.1 (quietStop le.2.2)
    else if x = 0xFFFFFFFF ∧ gatherSkipNone e then
      .moved (le.1.modLcore l fun c => { c with scr := { c.scr with gatherSkipped := satInc c.scr.gatherSkipped } })
        { d with spot := some ⟨0, 0, [], 0, []⟩ }
    else if x ≥ gatherRows e then .ended le.1 (le.1.dmaStop q 0x0444 i)
    else .moved le.1 { d with spot := some ⟨0, 0, [(gatherBase e + x * gatherPitch e, gatherDst e + i * gatherDstPitch e)], 0, []⟩ }

/-- The row of entry `i`. -/
def State.gatherRow (s : State) (d : DmaJob) (i : Nat) (x : DmaSpot) : Turn :=
  let e := d.job.cmd
  match x.rows with
  | [] => .moved s { d with spot := none }
  | r :: _ =>
    match s.moveRow d i r.1 r.2 (gatherLen e) (s.gatherReads (d.job.q / 4) e) with
    | .moved s d => .moved s { d with spot := none }
    | t => t

/-- A table gather takes a turn to read each entry and one for its row. -/
def State.gatherTurn (s : State) (d : DmaJob) : Turn :=
  match d.spot with
  | none => s.gatherStart d (d.pos / 2)
  | some x => s.gatherRow d (d.pos / 2) x

/-! ### KV write (R371 to R374) -/

/-- Image of 64 positions (R244). -/
def kvImage (e : Entry) : Nat := 64 * rowImageBytes (kvFormat e) (kvDim e)

/-- Address of the row of position `p` of head `h` (R245, R371). -/
def kvRowAddr (e : Entry) (g : KvGeo) (base h p : Nat) : Nat :=
  base + kvLayer e * g.layerStride.toNat + h * g.headStride.toNat + p / 64 * (2 * kvImage e) +
    (if kvImageV e then kvImage e else 0) + p % 64 * rowImageBytes (kvFormat e) (kvDim e)

/-- Rows of an entry, as (source, destination). -/
def kvRows (e : Entry) (g : KvGeo) (i base len : Nat) : List (Nat × Nat) :=
  (upTo 0 (kvHeads e)).flatMap fun h => (upTo 0 (kvQ e)).map fun j =>
    (gatherBase e + i * gatherPitch e + (h * kvQ e + j) * gatherLen e, kvRowAddr e g base h (len + j))

def State.kvGeo (s : State) (cl n : Nat) : KvGeo := nget .reset (s.cluster cl).geo n

/-- Rows of an entry. -/
def kvCount (e : Entry) : Nat := kvHeads e * kvQ e

/-- The engine starts entry `i`: it reads the descriptor once and checks every row of the entry (R371, R374). -/
def State.kvStart (s : State) (d : DmaJob) (i : Nat) : Turn :=
  let e := d.job.cmd
  let q := d.job.q
  let l := q / 4
  let la := listAddr l e i
  match s.shutRead d (slotsOf la 4) with
  | some k => .wait s d k
  | none =>
    let le := s.listEntry (dmaWho l q la) la
    if le.2.2 ≠ 0 then .ended le.1 (quietStop le.2.2) else
    let n := le.2.1 % 65536
    let rd := le.1.ctxRead n
    let s := rd.1
    let c := s.ctx n
    let len := rowImageBytes (kvFormat e) (kvDim e)
    let rows := kvRows e (s.kvGeo (clusterOf l) (kvEntry e)) i c.kvBase.toNat c.committed.toNat
    if !rd.2 then .ended s (quietStop 0x0528)
    else if c.st ≠ .opened then .ended s (s.dmaStop q 0x0442 i)
    else if c.home.toNat ≠ clusterOf l then .ended s (s.dmaStop q 0x0443 i)
    else if c.committed.toNat + kvQ e > c.capacity.toNat then .ended s (s.dmaStop q 0x0445 i)
    else if rows.any (fun r => match wholePlace r.2 len with
        | some (.tier1 _ _) => false
        | _ => true) then .ended s (s.dmaStop q 0x0441 i)
    else .moved s { d.reach (slotsOf la 4) [] with spot := some ⟨n, c.committed.toNat, rows, 0, []⟩ }

/-- The next row of the entry; with the last one the written length rises (R372) and the engine releases the context. -/
def State.kvRow (s : State) (d : DmaJob) (i : Nat) (x : DmaSpot) : Turn :=
  let e := d.job.cmd
  match x.rows with
  | [] => .moved s d
  | r :: rs =>
    match s.moveRow d i r.1 r.2 (rowImageBytes (kvFormat e) (kvDim e)) fun _ => false with
    | .moved s d =>
      let s := s.modLcore (d.job.q / 4) fun c => { c with scr := { c.scr with dmaKvRows := satInc c.scr.dmaKvRows } }
      if rs.isEmpty then
        .moved (s.ctxWrite x.ctx fun c => { c with written := BitVec.ofNat 32 (max c.written.toNat (x.len + kvQ e)) })
          { d with spot := none }
      else .moved s { d with spot := some { x with rows := rs } }
    | t => t

/-- A KV write takes a turn to start each entry and one for each of its rows. -/
def State.kvTurn (s : State) (d : DmaJob) : Turn :=
  let i := d.pos / (1 + kvCount d.job.cmd)
  match d.spot with
  | none => s.kvStart d i
  | some x => s.kvRow d i x

end Sys2Proof.Machine
end

