-- ==== Sys2Proof/Machine/Stash.lean ====
section
/-! DEFINITION. Stash.lean: stash descriptors, `STASH_SAVE` and `STASH_LOAD` as the DMA engine runs them (R432 to R441). -/

namespace Sys2Proof.Machine

/-! ### Operands (R434, R438) -/

def isSave (e : Entry) : Bool := opcode e == 0x60
def stashDesc (e : Entry) : Nat := fld e 16 6
def stashOffset (e : Entry) : Nat := fld e 24 4
def stashLen (e : Entry) : Nat := fld e 28 4
def stashRows (e : Entry) : Nat := fld e 32 4
def stashPitch (e : Entry) : Nat := fld e 36 4
/-- Index address of either command. -/
def stashIndex (e : Entry) : Nat := if isSave e then fld e 40 6 else fld e 16 6
def stashSkipTally (e : Entry) : Nat := fld e 46 2
/-- Record tag of a save, expected tag of a load. -/
def stashTag (e : Entry) : Nat := if isSave e then fld e 48 4 else fld e 40 4
/-- Scratchpad offset of the verdict record, kept or wanted. -/
def stashVerdict (e : Entry) : Nat := if isSave e then fld e 52 4 else fld e 44 4
def stashHasVerdict (e : Entry) : Bool := stashVerdict e != 0xFFFFFFFF
def stashPayload (e : Entry) : Nat := stashLen e * stashRows e

def stashOk (e : Entry) : Bool :=
  fzero e 22 2 && mult 32 (stashOffset e) && within 32 2097152 (stashLen e) && mult 32 (stashLen e) &&
    within 1 65536 (stashRows e) && decide (stashPayload e ≤ 2097152) && mult 32 (stashPitch e) &&
    decide (stashOffset e + (stashRows e - 1) * stashPitch e + stashLen e ≤ scratchSize) &&
    mult 8 (stashIndex e) && (!stashHasVerdict e || decide (stashVerdict e + 32 ≤ scratchSize)) &&
    if isSave e then
      mult 64 (stashDesc e) && (stashSkipTally e == 0xFFFF || !tallyReserved (stashSkipTally e)) &&
        fzero e 56 8
    else fzero e 48 16

/-- Whether the addresses that a stash command names may be used (R365, R432): its index entry is mapped, and outside the ledger
windows where it is written; the descriptor lies in a tier. -/
def stashMapped (e : Entry) : Bool :=
  if isSave e then copyTarget (stashIndex e) 8 && inTier (stashDesc e) 64 else (wholePlace (stashIndex e) 8).isSome

/-- Scratchpad ranges of the named rows, and of the verdict record. -/
def stashRanges (e : Entry) : List Rng :=
  (upTo 0 (stashRows e)).map fun i => rng (stashOffset e + i * stashPitch e) (stashLen e)
def verdictRanges (e : Entry) : List Rng := if stashHasVerdict e then [rng (stashVerdict e) 32] else []

/-! ### Descriptors (R432, R433) -/

structure StashDesc where
  base : Nat
  size : Nat
  fill : Nat
  policy : Nat
  valid : Bool
  saved : Nat
  skipped : Nat

def stashDescOf (b : NMap Byte) : StashDesc :=
  { base := blkNat b 0 6, size := blkNat b 8 8, fill := blkNat b 16 8, policy := blkNat b 24 1
    valid := (blkNat b 25 1).testBit 0, saved := blkNat b 32 8, skipped := blkNat b 40 8 }

def StashDesc.ok (d : StashDesc) : Bool :=
  d.valid && mult 4096 d.base && mult 4096 d.size && within 4096 137438953472 d.size && decide (d.policy ≤ 1) &&
    inTier d.base d.size

/-- Size of a record (R435). -/
def recordSize (payload : Nat) : Nat := 64 + (payload + 63) / 64 * 64

/-- Header of a record (R435). -/
def recordHeader (e : Entry) (l : Nat) (verdict : List Byte) : List Byte :=
  leBytes 4 (stashTag e) ++ leBytes 4 (stashPayload e) ++ leBytes 1 l ++ leBytes 1 (b2n (stashHasVerdict e)) ++ leBytes 6 0 ++
    (verdict ++ leBytes (32 - verdict.length) 0) ++ leBytes 16 0

/-! ### Accesses -/

/-- Slots that a stash command reads and also might write: those of the rows and of the verdict record of a save, those of the
index entry and of the record of a load (R320). -/
def stashReads (l : Nat) (e : Entry) (x : Option DmaSpot) (k : Nat × Nat) : Bool :=
  if isSave e then k.1 == l && (stashRanges e ++ verdictRanges e).any fun r => r.slots.contains k.2
  else (slotsOf (stashIndex e) 8).contains k || match x with
    | some y => (slotsOf y.at_ 64).contains k ||
        (upTo 0 (stashRows e)).any fun i => (slotsOf (y.at_ + 64 + i * stashLen e) (stashLen e)).contains k
    | none => false

/-- Write bytes at an address, at whose slots the command waits. -/
def State.stashPut (s : State) (d : DmaJob) (a : Nat) (bs : List Byte) : Turn :=
  let q := d.job.q
  if s.fencedWindow a then .ended s (s.dmaFenced q a)
  else match s.shut d true (stashReads (q / 4) d.job.cmd d.spot) (slotsOf a bs.length) with
  | some k => .wait s d k
  | none =>
    let w := s.writeBytes (dmaWho (q / 4) q a) a bs
    let s := w.1.countDma (q / 4) bs.length
    if w.2 = 0 then .moved s (d.reach [] (slotsOf a bs.length)) else .ended s (quietStop w.2)

/-- Read bytes likewise and go on with them. -/
def State.stashGet (s : State) (d : DmaJob) (a len : Nat) (f : State → DmaJob → NMap Byte → Turn) : Turn :=
  let q := d.job.q
  if (wholePlace a len).isNone then .ended s (s.dmaStop q 0x0441 0)
  else if s.fencedWindow a then .ended s (s.dmaFenced q a)
  else match s.shutRead d (slotsOf a len) with
  | some k => .wait s d k
  | none =>
    let r := s.read (dmaWho (q / 4) q a) a len
    if r.1.code ≠ 0 then .ended r.2 (quietStop r.1.code) else f r.2 (d.reach (slotsOf a len) []) r.1.blk

/-- One access after another within a turn, the later ones at places without slots. -/
def Turn.andThen (t : Turn) (f : State → DmaJob → Turn) : Turn :=
  match t with
  | .moved s d => f s d
  | t => t

/-! ### STASH_SAVE (R436, R437) -/

/-- The allocation of a record: the spot holds its address; none where the save is skipped. -/
def State.saveStart (s : State) (d : DmaJob) : Turn :=
  let e := d.job.cmd
  s.stashGet d (stashDesc e) 64 fun s d blk =>
    let x := stashDescOf blk
    let q := d.job.q
    if !x.ok then .ended s (s.dmaStop q 0x0514 0)
    else if x.fill + recordSize (stashPayload e) ≤ x.size then
      (s.stashPut d (stashDesc e + 16) (leBytes 8 (x.fill + recordSize (stashPayload e)))).andThen fun s d =>
        .moved s { d with spot := some ⟨0, 0, [], x.base + x.fill, []⟩ }
    else if x.policy = 0 then .ended s (s.dmaStop q 0x0510 0)
    else .moved s d

/-- The header, with the verdict record that the save keeps. -/
def State.saveHeader (s : State) (d : DmaJob) (a : Nat) : Turn :=
  let e := d.job.cmd
  let l := d.job.q / 4
  if stashHasVerdict e then
    s.stashGet d (scratchAddr l (stashVerdict e)) 32 fun s d blk => s.stashPut d a (recordHeader e l (blockBytes blk 32))
  else s.stashPut d a (recordHeader e l [])

/-- Add 1 to a count of the descriptor. -/
def State.stashCount (s : State) (d : DmaJob) (off : Nat) : Turn :=
  let a := stashDesc d.job.cmd + off
  s.stashGet d a 8 fun s d blk => s.stashPut d a (leBytes 8 (blkNat blk 0 8 + 1))

/-- The index entry and the count that end a save; a skipped one signals its tally and raises STASH_SKIPPED. -/
def State.saveEnd (s : State) (d : DmaJob) : Turn :=
  let e := d.job.cmd
  let q := d.job.q
  match d.spot with
  | some x => (s.stashPut d (stashIndex e) (leBytes 8 x.at_)).andThen fun s d => s.stashCount d 32
  | none =>
    (s.stashPut d (stashIndex e) (List.replicate 8 0xFF)).andThen fun s d => (s.stashCount d 40).andThen fun s d =>
      let s := if stashSkipTally e = 0xFFFF then s else s.performSignal q (stashSkipTally e) 1 (opcode e)
      .moved (s.raise (s.pgL (q / 4) bScratch) 0x0511 noted (2 ^ 16 * (q % 4) + 2 ^ 18 * 6)) d

/-- A save takes a turn for the allocation, one for the header, one for each row and one for the index entry. -/
def State.saveTurn (s : State) (d : DmaJob) : Turn :=
  let e := d.job.cmd
  let l := d.job.q / 4
  if d.pos = 0 then s.saveStart d
  else if d.pos = 2 + stashRows e then s.saveEnd d
  else match d.spot with
  | none => .moved s d
  | some x =>
    if d.pos = 1 then s.saveHeader d x.at_
    else
      let i := d.pos - 2
      s.moveRow d i (scratchAddr l (stashOffset e + i * stashPitch e)) (x.at_ + 64 + i * stashLen e) (stashLen e)
        (stashReads l e d.spot)

/-! ### STASH_LOAD (R439) -/

/-- The header of the record at `a`: the spot holds the record's address and the verdict record that it keeps. -/
def State.loadHeader (s : State) (d : DmaJob) (a : Nat) : Turn :=
  let e := d.job.cmd
  s.stashGet d a 64 fun s d h =>
    if blkNat h 0 4 ≠ stashTag e ∨ blkNat h 4 4 ≠ stashPayload e ∨
        (stashHasVerdict e ∧ !(blkNat h 9 1).testBit 0) then .ended s (s.dmaStop d.job.q 0x0513 0)
    else .moved s { d with spot := some ⟨0, 0, [], a, blockBytes (nblock h 16 32) 32⟩ }

/-- What a load does with its index entry `a`: it names no record, or the record at `a`. -/
def State.loadEntry (s : State) (d : DmaJob) (a : Nat) : Turn :=
  if a = 0xFFFFFFFFFFFFFFFF then .ended s (s.dmaStop d.job.q 0x0512 0)
  else .moved s { d with spot := some ⟨0, 0, [], a, []⟩ }

/-- A load begins with its index entry. -/
def State.loadStart (s : State) (d : DmaJob) : Turn :=
  s.stashGet d (stashIndex d.job.cmd) 8 fun s d ix => s.loadEntry d (blkNat ix 0 8)

/-- A load takes a turn for the index entry, one for the header, one for each row and one for the verdict record. -/
def State.loadTurn (s : State) (d : DmaJob) : Turn :=
  let e := d.job.cmd
  let l := d.job.q / 4
  match d.spot with
  | none => s.loadStart d
  | some x =>
    if d.pos = 1 then s.loadHeader d x.at_
    else if d.pos = 2 + stashRows e then
      if stashHasVerdict e then s.stashPut d (scratchAddr l (stashVerdict e)) x.kept else .moved s d
    else
      let i := d.pos - 2
      s.moveRow d i (x.at_ + 64 + i * stashLen e) (scratchAddr l (stashOffset e + i * stashPitch e)) (stashLen e)
        (stashReads l e d.spot)

def State.stashTurn (s : State) (d : DmaJob) : Turn := if isSave d.job.cmd then s.saveTurn d else s.loadTurn d

end Sys2Proof.Machine
end

