-- ==== Sys2Proof/Machine/Dma.lean ====
section
/-! DEFINITION. Dma.lean: the DMA engine of a core: issue, service and completion of `DMA_COPY`, `DMA_GATHER_CTX`,
`STASH_SAVE` and `STASH_LOAD` (R322, R339, R362 to R372, R440). -/

namespace Sys2Proof.Machine

/-! ### Turns -/

/-- Turns that a command takes: rows, beats, or list entries. -/
def dmaTurns (e : Entry) : Nat :=
  match opcode e with
  | 0x10 => match copyKind e with
    | 0 => copyRows e
    | 1 => 64
    | _ => 1
  | 0x11 => if isKvWrite e then gatherCount e * (1 + kvCount e) else gatherCount e * 2
  | _ => stashRows e + 3

def State.dmaTurn (s : State) (d : DmaJob) : Turn :=
  match opcode d.job.cmd with
  | 0x10 => match copyKind d.job.cmd with
    | 0 => s.copyTurn d
    | 1 => s.planeTurn d
    | _ => s.scaleTurn d
  | 0x11 => if isKvWrite d.job.cmd then s.kvTurn d else s.gatherTurn d
  | _ => s.stashTurn d

/-- Take turns until none is left, one waits, or one ends the command. -/
def State.dmaGo (s : State) (d : DmaJob) : Nat → State × DmaJob × Option Stop
  | 0 => (s, { d with done := true }, none)
  | n + 1 =>
    if s.err.deviceStopped then (s, d, none) else
    match s.dmaTurn d with
    | .wait s d _ => (s, d, none)
    | .ended s st => (s, d, some st)
    | .moved s d => s.dmaGo { d with pos := d.pos + 1 } n

/-! ### Operands and the scoreboard -/

/-- Ranges of the own scratchpad among addresses. -/
def ownRanges (l : Nat) (xs : List (Nat × Nat)) : List Rng :=
  xs.filterMap fun x => match wholePlace x.1 x.2 with
    | some (.scratch l' off) => if l' = l then some (rng off x.2) else none
    | _ => none

/-- Operands that a DMA command reads and those that it writes, each as its (address, length) pieces. -/
def State.dmaOperands (s : State) (q : Nat) (e : Entry) : List (List (Nat × Nat)) × List (List (Nat × Nat)) :=
  let l := q / 4
  match opcode e with
  | 0x10 => match copyKind e with
    | 0 => ([(upTo 0 (copyRows e)).map fun i => (copyRowSrc e i, copyLen e)],
        [(upTo 0 (copyRows e)).map fun i => (copyRowDst e i, copyLen e)])
    | 3 => ([], [])
    | _ => ([[(copySrc e, copyLen e)]], [])
  | 0x11 =>
    let list := (upTo 0 (gatherCount e)).map fun i => (listAddr l e i, 4)
    if isKvWrite e then
      ([list, (upTo 0 (gatherCount e)).flatMap fun i => (upTo 0 (kvCount e)).map fun j =>
        (gatherBase e + i * gatherPitch e + j * gatherLen e, rowImageBytes (kvFormat e) (kvDim e))], [])
    else
      ([list, (upTo 0 (gatherCount e)).map fun i => (s.gatherSrc l e i, gatherLen e)],
        [(upTo 0 (gatherCount e)).map fun i => (gatherDst e + i * gatherDstPitch e, gatherLen e)])
  | _ =>
    let own := fun (rs : List Rng) => rs.map fun r => (scratchAddr l r.lo, r.hi + 1 - r.lo)
    let rows := [own (stashRanges e), own (verdictRanges e)]
    let index := [[(stashIndex e, 8)]]
    if isSave e then (rows, index) else (index, rows)

/-- Scratchpad operands of a DMA command in its own core, for the scoreboard, one entry for each (R327); none in slot-tag mode,
where the engine checks each slot itself. -/
def State.dmaAccess (s : State) (q : Nat) (e : Entry) : List Access :=
  if !(s.lcore (q / 4)).scr.discipline then [] else
  let r := s.dmaOperands q e
  (r.1.flatMap fun x => accessOf false (ownRanges (q / 4) x)) ++ r.2.flatMap fun x => accessOf true (ownRanges (q / 4) x)

/-- Operands of a command that it will not access again, with what it does there (R329): a list once its last entry is read, the
parts of a stash command as its turns pass. A copy and the rows of a gather come to their end with their command. -/
def DmaJob.past (d : DmaJob) : List (List Rng × Bool) :=
  let e := d.job.cmd
  let l := d.job.q / 4
  let list := (ownRanges l ((upTo 0 (gatherCount e)).map fun i => (listAddr l e i, 4)), false)
  match opcode e with
  | 0x10 => []
  | 0x11 => if (gatherCount e - 1) * (if isKvWrite e then 1 + kvCount e else 2) < d.pos then [list] else []
  | _ =>
    let index := (ownRanges l [(stashIndex e, 8)], isSave e)
    let rows := (stashRanges e, !isSave e)
    let verdict := (verdictRanges e, !isSave e)
    if isSave e then
      let skipped := decide (1 ≤ d.pos) && d.spot.isNone
      let apart := (accessOf false verdict.1).map (·.hull) != (accessOf false rows.1).map (·.hull)
      (if 2 ≤ d.pos && apart || skipped then [verdict] else []) ++ if 2 + stashRows e ≤ d.pos || skipped then [rows] else []
    else (if 1 ≤ d.pos then [index] else []) ++ if 2 + stashRows e ≤ d.pos then [rows] else []

/-- The scoreboard entries of a job for operands that it has done with are released (R329). -/
def State.releasePast (s : State) (j : Job) (past : List (List Rng × Bool)) : State :=
  let gone := past.flatMap fun o => (accessOf o.2 o.1).map fun a => (a.hull, a.write)
  s.modLcore (j.q / 4) fun c =>
    { c with scr := { c.scr with sb := c.scr.sb.filter fun b =>
        !(b.id == j.id && b.q == j.q && gone.contains (⟨b.lo, b.hi⟩, b.write)) } }

/-- The engine serves queue `q` as far as it can. A command that has not been confirmed and ends is cancelled by the stop of its
queue (R393). -/
def State.dmaAdvance (s : State) (q : Nat) : State :=
  let l := q / 4
  match (s.lcore l).dma.find? fun d => d.job.q == q with
  | none => s
  | some d =>
    if d.done then s else
    match s.dmaGo d (dmaTurns d.job.cmd - d.pos) with
    | (s, d, none) =>
      -- the ranges whose last access has been made go (R329)
      let s := if d.done then s.releaseJob d.job else s.releasePast d.job d.past
      s.modLcore l fun c => { c with dma := c.dma.map fun x => if x.job.q == q then d else x }
    | (s, _, some st) =>
      (if d.ra = .unconfirmed then s else s.modLcore l fun c => { c with dma := c.dma.filter fun x => x.job.q != q }).endWith d.job st

/-! ### Checks -/

/-- Step 5 for the commands of the DMA engine. -/
def State.dmaCheck (s : State) (q : Nat) (e : Entry) : Option Stop :=
  match opcode e with
  | 0x10 =>
    if !copyOk e then some (s.dmaStop q 0x0440 0)
    else (copyBadRow e).map fun i => s.dmaStop q 0x0441 i
  | 0x11 => if gatherOk e then none else some (s.dmaStop q 0x0440 0)
  | _ =>
    if !stashOk e then some (s.dmaStop q 0x0440 0)
    else if stashMapped e then none else some (s.dmaStop q 0x0441 0)

/-- Whether the engine and the target plane can take a command (R51, R52, R366). -/
def Core.dmaFree (c : Core) (q : Nat) (e : Entry) : Bool :=
  !c.dma.any (fun d => d.job.q == q) &&
    (!isPlaneCopy e || (!(c.frame (copyFrame e)).swapPending && decide ((c.frame (copyFrame e)).idle.st ≠ .loading)))

/-- Steps 5 to 7. In slot-tag mode the engine checks each slot at its first access (R321). -/
def dmaGate (q : Nat) (s : State) (e : Entry) : Gate :=
  match s.dmaCheck q e with
  | some st => .stop st
  | none =>
    if !s.guardOk q (s.dmaAccess q e) then .hold 6
    else if (s.lcore (q / 4)).dmaFree q e then .go else .hold 7

/-- A command enters the engine: a plane copy puts its plane into LOADING (R363). -/
def State.dmaStart (s : State) (j : Job) (ra : RunAhead) : State :=
  let l := j.q / 4
  (s.modLcore l fun c =>
    let c := if isPlaneCopy j.cmd then c.startLoad (copyFrame j.cmd) else c
    { c with dma := c.dma ++ [⟨j, ra, false, 0, 0, [], [], [], none⟩] }).dmaAdvance j.q

def State.dmaTry (s : State) (q : Nat) (isRow : Entry → Bool) : State :=
  s.tryIssue q isRow (dmaGate q) fun s e =>
    let j := s.newJob q e
    ((s.issue q).enterJob j (s.dmaAccess q e)).dmaStart j .none

def isCopy (kind : Nat) (e : Entry) : Bool := opcode e == 0x10 && copyKind e == kind

def execDmaCopy (q : Nat) (s : State) : Res := .next (s.dmaTry q (isCopy 0))
def execPlaneCopy (q : Nat) (s : State) : Res := .next (s.dmaTry q (isCopy 1))
def execScaleCopy (q : Nat) (s : State) : Res := .next (s.dmaTry q (isCopy 2))
def execTableGather (q : Nat) (s : State) : Res := .next (s.dmaTry q fun e => opcode e == 0x11 && !isKvWrite e)
def execKvWrite (q : Nat) (s : State) : Res := .next (s.dmaTry q fun e => opcode e == 0x11 && isKvWrite e)
def execStashSave (q : Nat) (s : State) : Res := .next (s.dmaTry q (hasOp 0x60))
def execStashLoad (q : Nat) (s : State) : Res := .next (s.dmaTry q (hasOp 0x61))

/-! ### Completion (R322, R339) -/

/-- Fill slots of several cores. -/
def State.fillPairs (s : State) (ks : List (Nat × Nat)) : State := ks.foldl (fun s k => s.fillSlots k.1 [k.2]) s

/-- Whether a plane copy's last rows have not yet left its plane LOADED or POISONED (R58). -/
def Core.planeDue (c : Core) (e : Entry) : Bool :=
  isPlaneCopy e && decide ((c.frame (copyFrame e)).idle.st = .loading) && (c.frame (copyFrame e)).idle.rowsIn == 256

/-- DMA_COMPLETE: a command that waited at a slot goes on; one whose writes are all readable completes. A run-ahead
command completes only once confirmed (R394). -/
def execDmaComplete (q : Nat) (s : State) : Res :=
  let s := if q < 512 then s.dmaAdvance q else s
  let l := q / 4
  .next (match decide (q < 512), (s.lcore l).dma.find? fun d => d.job.q == q with
    | true, some d =>
      if d.done ∧ d.ra ≠ .unconfirmed ∧ !(s.lcore l).planeDue d.job.cmd then
        ((s.modLcore l fun c => { c with dma := c.dma.filter fun x => x.job.q != q }).fillPairs d.wrote).finishJob d.job []
      else s
    | _, _ => s)

end Sys2Proof.Machine
end

