-- ==== Sys2Proof/Machine/Frames.lean ====
section
/-! DEFINITION. Frames.lean: frame runs, forward and transposed, their join, and the promotions that carry their sums
into the ledger (R63 to R103, R121 to R130, R463, R464, R740). -/

namespace Sys2Proof.Machine

/-! ### Operands (R463) -/

def frameStream (e : Entry) (f : Nat) : Nat := nbits (fld e 22 6) (3 * f + 2) (3 * f)
def laneOffset (e : Entry) (f : Nat) : Nat := nbits (fld e 28 4) (2 * f + 1) (2 * f)
/-- Address, stride, extent and publish bit of stream A (`b` 0) or B (`b` 1). -/
def pubAddr (e : Entry) (b : Nat) : Nat := fld e (32 + 8 * b) 4
def pubStride (e : Entry) (b : Nat) : Nat := fld e (36 + 8 * b) 4
def pubExtent (e : Entry) (b : Nat) : Nat := fld e (54 + 2 * b) 2
def publishes (e : Entry) (b : Nat) : Bool := fbit e 50 (3 + b)
/-- Width code: 0 A2, 1 A4, 2 A8, 3 A16. -/
def runWidth (e : Entry) : Nat := fbits e 50 1 0
def noLanesum (e : Entry) : Bool := fbit e 50 2
def joinTag (e : Entry) : Nat := fld e 52 1

/-- Streams A and B that the command publishes, as 0 and 1. -/
def published (e : Entry) : List Nat := [0, 1].filter (publishes e)
/-- Bus stream numbers that core `k` of a cluster publishes. -/
def publishedStreams (k : Nat) (e : Entry) : List Nat := (published e).map fun b => 2 * k + b

/-- Streams that frame `f` takes; a W1 frame takes two in the transposed pass (R67, R98). -/
def takenBy (e : Entry) (fmt f : Nat) : List Nat :=
  let s := frameStream e f
  if runTransposed e ∧ fmt = 0 then [s, s + 1] else [s]

def takenStreams (e : Entry) (fmt : Nat) : List Nat := (runFrames e).flatMap (takenBy e fmt)

/-- Slices per vector at the width that the run executes (R84, R212). -/
def State.runSlices (s : State) (q : Nat) (e : Entry) : Nat :=
  2 ^ (if verdictId e = 0 then runWidth e else (s.slot (q / 4) (verdictSlot e)).settledWidth)

/-- Format of a run's planes. -/
def Core.runFormat (c : Core) (e : Entry) : Nat :=
  match runFrames e with
  | [] => 0
  | f :: _ => (c.frame f).active.format.toNat

/-! ### Checks (R464, R740) -/

/-- Limits that depend neither on a format nor on the executed width. -/
def runLimits (k : Nat) (e : Entry) : Bool :=
  fld e 16 2 != 0 && within 1 512 (runVectors e) &&
    [0, 1].all (fun b => if publishes e b then within 1 256 (pubExtent e b) && mult 32 (pubAddr e b) && mult 32 (pubStride e b)
      else pubExtent e b == 0) &&
    [0, 1].all (fun b => decide (pubAddr e b < scratchSize)) &&
    fbits e 50 7 5 == 0 && fbits e 51 7 4 == 0 && fzero e 53 1 && fzero e 62 2 &&
    (upTo 0 4).all (fun g => !fbit e (58 + g) 7) && (runTransposed e || fzero e 28 4) &&
    (runFrames e).all (fun f => frameStream e f / 2 != k || publishes e (frameStream e f % 2)) && names (runMask e) k

/-- Limits of R464 that depend on the format. -/
def laneLimits (k fmt : Nat) (e : Entry) : Bool :=
  !runTransposed e || (runFrames e).all fun f =>
    if fmt = 0 then laneOffset e f == 0 && frameStream e f != 7 &&
      ((frameStream e f + 1) / 2 != k || publishes e ((frameStream e f + 1) % 2))
    else decide ((laneOffset e f + 1) * lanesOf fmt ≤ 256)

/-- The last slice of each published stream lies within the scratchpad. -/
def sliceLimits (ns : Nat) (e : Entry) : Bool :=
  (published e).all fun b => decide (pubAddr e b + (runVectors e - 1) * pubStride e b + 64 * ns ≤ scratchSize)

/-- Tiles that a run touches (R148). -/
def runTiles (e : Entry) (fmt : Nat) : List Nat := (runGangs e).flatMap fun g => gangTiles e fmt g

/-- Bytes of a slice that the feed reads: a word whose channels all lie past the extent is left out (R359). -/
def sliceBytes (extent : Nat) : Nat := if extent ≤ 128 then 32 else 64

/-- Slots and ranges that a run's feed reads (R321, R327, R359). -/
def runAccess (ns : Nat) (e : Entry) : List Access :=
  (published e).flatMap fun b =>
    pieces (pubAddr e b) (runVectors e) (pubStride e b) (64 * (ns - 1) + sliceBytes (pubExtent e b)) false

/-- Step 5 for a frame run, in the order of R740. Of several planes that are not LOADED, the lowest frame's gives the code: R75 and
R740 order no frames (DESIGN CHOICE, log entry 111). -/
def State.runCheck (s : State) (q : Nat) (e : Entry) : Option Stop :=
  let l := q / 4
  let k := l % 4
  let c := s.lcore l
  let fs := runFrames e
  let fmt := c.runFormat e
  let ns := s.runSlices q e
  if !runLimits k e then some (s.frameStop q 0x0128)
  else if verdictId e ≠ 0 ∧ (s.slot l (verdictSlot e)).base ≠ runWidth e then some (s.quantStop q (verdictSlot e) 0x0217)
  else match fs.find? fun f => decide ((c.frame f).active.st ≠ .loaded) with
    | some f => some (s.planeStop q f (c.frame f).active1 (if (c.frame f).active.st = .poisoned then 0x0122 else 0x0120))
    | none =>
      if fs.any (fun f => decide ((c.frame f).active.format.toNat ≠ fmt)) ∨ (runTransposed e ∧ fmt > 3) then
        some (s.frameStop q 0x0121)
      else if !laneLimits k fmt e || !sliceLimits ns e then some (s.frameStop q 0x0128)
      else s.windowStop q (runTiles e fmt)

/-- Frames and gang adders that runs of other queues still use, and swaps that have not happened (R60, R69). -/
def Core.runHeld (c : Core) (q : Nat) (e : Entry) : Bool :=
  (runFrames e).any (fun f => (c.frame f).swapPending) ||
    c.runs.any fun r => r.job.q != q && ((runFrames e).any r.usesFrame || (runGangs e).any r.gangLeft)

/-- Steps 5 to 7 up to the join. -/
def runGate (q : Nat) (s : State) (e : Entry) : Gate :=
  match s.runCheck q e with
  | some st => .stop st
  | none =>
    if !s.guardOk q (runAccess (s.runSlices q e) e) then .hold 6
    else if s.maskFenced (q / 4) (runMask e) then .stop (s.frameStop q 0x0129)
    else if (s.lcore (q / 4)).runHeld q e then .hold 7
    else .go

/-- A run that names its own core alone starts without a join (R71). -/
def runAlone (q : Nat) (e : Entry) : Bool := runMask e == 2 ^ (q / 4 % 4)

/-! ### Start -/

/-- Streams that the run of queue `q` publishes, with the zero point that its feed substitutes (R65, R358). -/
def State.runStreams (s : State) (q : Nat) (e : Entry) : List StreamSrc :=
  let l := q / 4
  let sl := s.slot l (verdictSlot e)
  (published e).map fun b =>
    { stream := 2 * (l % 4) + b, q := q, addr := pubAddr e b, stride := pubStride e b, extent := pubExtent e b
      zp := if verdictId e = 0 then 0 else sl.zp.toNat
      zpv := if verdictId e ≠ 0 ∧ sl.dynamic then some (s.lcore l).quant.zeros else none, fed := 0, buf := [] }

/-- A run issues and starts; `pubs` are the streams that the members publish. A stream that no frame takes is not read (DESIGN
CHOICE, log entry 111). -/
def State.startRun (s : State) (pubs : List StreamSrc) (lead : Nat × Nat) (q : Nat) (e : Entry) : State :=
  let l := q / 4
  let c := s.lcore l
  let fmt := c.runFormat e
  let ns := s.runSlices q e
  let j := s.newJob q e
  let r : Run :=
    { job := j, leadQ := lead.1, leadId := lead.2, ns := ns, fmt := fmt
      streams := pubs.filter fun p => (takenStreams e fmt).contains p.stream, next := [] }
  ((s.issue q).enterJob j (runAccess ns e)).modLcore l fun c => { c with runs := c.runs ++ [r] }

/-- What the members of a joined run agree on. -/
def State.joinKey (s : State) (x : Nat × Entry) : List Nat :=
  let e := x.2
  [runMask e, runVectors e, opcode e, s.runSlices x.1 e, b2n (runTransposed e && noLanesum e),
    b2n (decide ((s.lcore (x.1 / 4)).runFormat e ≥ 4))]

/-- R72, R127: the members agree, and each stream that one of them takes is published by a member. -/
def State.joinAgrees (s : State) (ms : List (Nat × Entry)) : Bool :=
  let pubs := ms.flatMap fun x => publishedStreams (x.1 / 4 % 4) x.2
  let takes := ms.flatMap fun x => takenStreams x.2 ((s.lcore (x.1 / 4)).runFormat x.2)
  (match ms with
    | [] => true
    | m :: _ => ms.all fun x => s.joinKey x == s.joinKey m) && takes.all pubs.contains

/-- Steps 5 to 7 of a run that has no partner: it starts without a join, unless it takes a stream that it does not publish
itself, which breaks R72. -/
def runRowGate (q : Nat) (s : State) (e : Entry) : Gate :=
  match runGate q s e with
  | .go => if !runAlone q e then .hold 7 else if s.joinAgrees [(q, e)] then .go else .stop (s.frameStop q 0x0124)
  | g => g

def State.runTry (s : State) (q op : Nat) : State :=
  s.countWindow (s.tryIssue q (hasOp op) (runRowGate q) fun s e => s.startRun (s.runStreams q e) (q, (s.queue q).nextId) q e) q

def execFrameRun (q : Nat) (s : State) : Res := .next (s.runTry q 0x21)
def execFrameRunT (q : Nat) (s : State) : Res := .next (s.runTry q 0x22)

/-! ### The join (R70 to R73, R127) -/

/-- The run at the front of queue `q`, when nothing but a join with this tag holds it. -/
def State.joining (s : State) (q tag : Nat) : Option Entry :=
  if !s.mayIssue q then none else
  match s.front q with
  | .cmd e =>
    if (opcode e = 0x21 ∨ opcode e = 0x22) ∧ s.headerCheck q e = none ∧ s.headerSteps q e = .go ∧ joinTag e = tag ∧
        !runAlone q e ∧ runGate q s e = .go then some e else none
  | _ => none

/-- The waiting run of core `l` with this tag: of several, that of the lowest queue. -/
def State.joinOf (s : State) (tag l : Nat) : Option (Nat × Entry) :=
  (upTo (4 * l) 4).findSome? fun q => (s.joining q tag).map fun e => (q, e)

/-- A joined run starts in every member at once, or breaks R72 or R127 and stops every member's queue with
SLICE_JOIN_MISMATCH (0x0124). -/
def execJoinedRunStart (cluster mask tag : Nat) (s : State) : Res :=
  let found := (members cluster mask).map (s.joinOf tag)
  let ms := found.filterMap id
  .next (if cluster < 32 ∧ ms.length = found.length ∧ ms.any (fun x => runMask x.2 == mask) then
      if s.joinAgrees ms then
        let pubs := ms.flatMap fun x => s.runStreams x.1 x.2
        let lead := match ms with
          | [] => (0, 0)
          | x :: _ => (x.1, (s.queue x.1).nextId)
        ms.foldl (fun s x => (s.fetchMarks x.1).startRun pubs lead x.1 x.2) s
      else ms.foldl (fun s x => s.stopWith x.1 (s.frameStop x.1 0x0124)) s
    else s)

/-- A run has waited at its join for `SLICEBUS.JOIN_TIMEOUT` cycles: SLICE_JOIN_TIMEOUT (0x0125). -/
def execSliceJoinTimeout (q : Nat) (s : State) : Res :=
  let cl := clusterOf (q / 4)
  .next (match decide (q < 512) && s.timed q && decide ((s.cluster cl).joinTimeout ≠ 0) &&
      decide ((s.queue q).heldStep = 7), s.front q with
    | true, .cmd e =>
      if (opcode e = 0x21 ∨ opcode e = 0x22) ∧ !runAlone q e ∧ runGate q s e = .go then
        (s.modCluster cl fun x => { x with joinTimeouts := satInc x.joinTimeouts }).stopWith q (s.frameStop q 0x0125)
      else s
    | _, _ => s)

/-! ### The slice feed (R63 to R66, R358) -/

/-- The slice feed, as an initiator. -/
def feedWho (q : Nat) : Who := unitWho q 1

/-- 2-bit values of the channels of one slice (R63). -/
def sliceValues (bytes : List Byte) : List Nat := bytes.flatMap fun b => (upTo 0 4).map fun i => b.toNat / 4 ^ i % 4

/-- Address of slice `k` of vector `v`. -/
def StreamSrc.slice (x : StreamSrc) (v k : Nat) : Nat := scratchAddr (x.q / 4) (x.addr + v * x.stride + 64 * k)

/-- Zero point that stands in for a channel past the extent. -/
def StreamSrc.zero (x : StreamSrc) (v : Nat) : Nat :=
  match x.zpv with
  | none => x.zp
  | some zs => zs.getD v 0

/-- Runs of a joined run, as (core, run). -/
def State.joinedRuns (s : State) (cl : Nat) (r : Run) : List (Nat × Run) :=
  (upTo (4 * cl) 4).flatMap fun l =>
    ((s.lcore l).runs.filter fun r' => r'.leadQ == r.leadQ && r'.leadId == r.leadId).map fun r' => (l, r')

/-- `f` on the source of a stream in a run. -/
def Run.modSource (r : Run) (stream : Nat) (f : StreamSrc → StreamSrc) : Run :=
  { r with streams := r.streams.map fun x => if x.stream = stream then f x else x }

/-- `f` on a run of core `l`. -/
def State.modRun (s : State) (l : Nat) (j : Job) (f : Run → Run) : State :=
  s.modLcore l fun c => { c with runs := c.runs.map fun x => if x.job.q = j.q ∧ x.job.id = j.id then f x else x }

/-- Slices that gang `g` of a run has taken of each of its streams, counted over all vectors. -/
def Run.taken (r : Run) (g : Nat) : Nat :=
  let groups := promoGroups r.fmt r.ns
  let i := nget 0 r.next g
  i / groups.length * r.ns + (groups.getD (i % groups.length) (0, 0)).1

/-- Gangs of a run that take a stream and have promotions left. -/
def Run.takers (r : Run) (stream : Nat) : List Nat :=
  (runGangs r.job.cmd).filter fun g => r.gangLeft g &&
    (runFrames r.job.cmd).any fun f => frameGang r.job.cmd f == g && (takenBy r.job.cmd r.fmt f).contains stream

/-- The feed may put slice `t` of a stream on the bus: every member's buffer of 8 slices has space (R74). -/
def State.feedSpace (s : State) (cl : Nat) (r : Run) (stream t : Nat) : Bool :=
  (s.joinedRuns cl r).all fun m => (m.2.takers stream).all fun g => decide (t < m.2.taken g + 8)

/-- The feed reads slice `t` of a stream and moves it into every member's buffer; the code tells of a word that is lost. -/
def State.feedSlice (s : State) (cl : Nat) (r : Run) (x : StreamSrc) (t : Nat) : State × BitVec 16 :=
  let d := s.read (feedWho x.q) (x.slice (t / r.ns) (t % r.ns)) (sliceBytes x.extent)
  if d.1.code ≠ 0 then (d.2, d.1.code) else
  let put := fun (y : StreamSrc) => { y with fed := t + 1, buf := y.buf ++ [(t, blockBytes d.1.blk (sliceBytes x.extent))] }
  ((s.joinedRuns cl r).foldl (fun s m => s.modRun m.1 m.2.job fun y => y.modSource x.stream put) d.2, 0)

/-- Members of a joined run whose feed has read its last slice give up their ranges (R329). -/
def State.feedEnds (s : State) (cl : Nat) (r : Run) : State :=
  (s.joinedRuns cl r).foldl (fun s m =>
    if (s.joinedRuns cl r).all fun n => n.2.streams.all fun x => decide (x.q ≠ m.2.job.q) || x.fed == runVectors n.2.job.cmd * n.2.ns
    then s.releaseReads m.2.job else s) s

/-- The feed brings a stream as far as slice `t`, not included. -/
def State.feedTo (s : State) (cl : Nat) (r : Run) (x : StreamSrc) (t : Nat) : State × BitVec 16 :=
  let a := (upTo x.fed (t - x.fed)).foldl (fun a k => if a.2 ≠ 0 then a else a.1.feedSlice cl r x k) (s, 0)
  if a.2 = 0 ∧ t = runVectors r.job.cmd * r.ns then (a.1.feedEnds cl r, 0) else a

/-- Bits of a promotion group of the 256 codes of vector `v`, from the member's buffer: Σ s_k × 4^(k − k0). -/
def StreamSrc.codes (x : StreamSrc) (ns v k0 n : Nat) : List Nat :=
  let slices := (upTo k0 n).map fun k => match x.buf.find? fun b => b.1 == v * ns + k with
    | some b => sliceValues b.2
    | none => []
  let z := nbits (x.zero v) (2 * (k0 + n) - 1) (2 * k0)
  (upTo 0 256).map fun c =>
    if c < x.extent then ((slices.zipIdx).map fun y => y.1.getD c 0 * 4 ^ y.2).foldl (· + ·) 0 else z

/-- A gang has gone on: slices that every gang of the member has taken leave its buffers. -/
def Run.drop (r : Run) : Run :=
  { r with streams := r.streams.map fun x =>
      { x with buf := x.buf.filter fun b => (r.takers x.stream).any fun g => decide (r.taken g ≤ b.1) } }

/-- Every member of a joined run ends; its promotions not yet written are discarded (R316). -/
def State.endJoined (s : State) (cl : Nat) (r : Run) (code : BitVec 16) : State :=
  let ms := s.joinedRuns cl r
  let s := ms.foldl (fun s m => s.modLcore m.1 fun c =>
    { c with runs := c.runs.filter fun x => !(x.job.q == m.2.job.q && x.job.id == m.2.job.id) }) s
  ms.foldl (fun s m => s.dropJob m.2.job code) s

/-! ### Promotion (R78 to R80, R87 to R93, R96 to R102) -/

/-- Inner product of weights and code bits. -/
def dot : List Int → List Nat → Int
  | w :: ws, q :: qs => w * (q : Int) + dot ws qs
  | _, _ => 0

/-- A list of numbers multiplied by one factor. -/
def scaleList (k : Int) (xs : List Int) : List Int := xs.map (k * ·)

/-- Σ_r w_r,l × q_r for every lane l. -/
def laneOutputs (lanes : Nat) (rows : List (List Int)) (q : List Nat) : List Int :=
  (List.zip rows q).foldl (fun acc x => if x.2 = 0 then acc else addLists acc (scaleList x.2 x.1)) (List.replicate lanes 0)

/-- Σ_l w_r,l × g_l for every row r. -/
def rowOutputs (rows : List (List Int)) (g : List Nat) : List Int := rows.map fun w => dot w g

/-- Outputs of a frame in one promotion group, and its check value before the reduction modulo 16 (R92, R102). -/
def Plane.outputs (p : Plane) (transposed : Bool) (q : List Nat) : List Int × Int :=
  let rows := p.rows
  if transposed then
    (rowOutputs rows q, dot ((upTo 0 (lanesOf p.format.toNat)).map fun l => nget 0 p.laneSum l) q)
  else
    (laneOutputs (lanesOf p.format.toNat) rows q,
      dot ((upTo 0 256).map fun r => ((nget 0 p.check r).toNat : Int)) q)

/-- Sums that go to the lane-sum rows: lane sums, or row weight sums in the transposed pass (R91, R99). -/
def Plane.sums (p : Plane) (transposed : Bool) : List Int :=
  if transposed then p.rows.map sumInt else (upTo 0 (lanesOf p.format.toNat)).map fun l => nget 0 p.laneSum l

/-- Where the outputs of a gang land: tile, first lane, and first output, for vectors of group `v / 8` (R90, R100, R109). -/
def outputPlaces (e : Entry) (fmt g v : Nat) : List (Nat × Nat × Nat) :=
  let n := groupTiles (runTransposed e) fmt
  let base := gangBase e g + v / 8 * n
  let first := if !runTransposed e && lanesOf fmt == 64 && gangHalf e g then 64 else 0
  (upTo 0 n).map fun i => (base + i, first, 128 * i)

/-- Outputs of one gang that land in one tile. -/
def gangOutputs (e : Entry) (fmt : Nat) : Nat := if runTransposed e then 256 else lanesOf fmt

/-- Codes that frame `f` takes from the codes of its streams. -/
def frameCodes (e : Entry) (fmt f : Nat) (codes : List (Nat × List Nat)) : List Nat :=
  let of_ := fun s => match codes.find? fun x => x.1 == s with
    | some x => x.2
    | none => []
  let s := frameStream e f
  if !runTransposed e then of_ s
  else if fmt = 0 then of_ s ++ of_ (s + 1)
  else ((of_ s).drop (laneOffset e f * lanesOf fmt)).take (lanesOf fmt)

/-- Values that reach consecutive lanes of one row of one tile. -/
structure Landing where
  tile : Nat
  row : Nat
  lane : Nat
  values : List Int
  q : Nat                      -- queue of the run that brings them
deriving DecidableEq, Repr

/-- Where the outputs `xs` of a gang of a run land in row `row`. -/
def landings (r : Run) (g v row : Nat) (xs : List Int) : List Landing :=
  (outputPlaces r.job.cmd r.fmt g v).map fun p =>
    ⟨p.1, row, p.2.1, (xs.drop p.2.2).take (min 128 (gangOutputs r.job.cmd r.fmt)), r.job.q⟩

/-- What reaches lane `k` from landings on one row: their exact sum (R142). -/
def landed (ls : List Landing) (k : Nat) : Int :=
  sumInt (ls.map fun x => if x.lane ≤ k then x.values.getD (k - x.lane) 0 else 0)

/-- Landings of one cycle in core `l`: those on the same row are summed exactly before the one clamp (R142, R143). An event names
the queue of the first of them. -/
def State.land (s : State) (l : Nat) (ls : List Landing) : State :=
  ((ls.map fun x => (x.tile, x.row)).eraseDups).foldl (fun s k =>
    let here := ls.filter fun x => x.tile == k.1 && x.row == k.2
    s.ledgerAdd ((here.map Landing.q).headD (4 * l)) k.1 k.2 (minOr 128 (here.map Landing.lane)) (maxOr 0 (here.map fun x => x.lane + x.values.length)) (landed here)) s

/-- Information of a failed compare (R93). -/
def checkInfo (f : Nat) (plane1 : Bool) (g k0 v : Nat) : Nat := f + b2n plane1 * 16 + g * 32 + k0 * 128 + v * 2048

/-- The oldest run with promotions of gang `g` left, and whether an earlier run still holds one of the gang's frames or
a ledger command of its queue still holds one of the rows (R162). -/
def Core.gangRun (c : Core) (g : Nat) : Option Run := c.runs.find? fun r => r.gangLeft g

def Core.gangBlocked (c : Core) (r : Run) (g : Nat) : Bool :=
  let e := r.job.cmd
  let earlier := c.runs.takeWhile fun r' => !(r'.job.q == r.job.q && r'.job.id == r.job.id)
  let v := nget 0 r.next g / (promoGroups r.fmt r.ns).length
  earlier.any (fun r' => (runFrames e).any fun f => frameGang e f == g && r'.usesFrame f) ||
    c.ledger.port.any fun p => !p.done && p.job.q == r.job.q && decide (p.job.id < r.job.id) &&
      (outputPlaces e r.fmt g v).any fun x => (ledTiles p.job.cmd).contains x.1

/-- Frames of a run in one gang. -/
def Run.gangFrames (r : Run) (g : Nat) : List Nat := (runFrames r.job.cmd).filter fun f => frameGang r.job.cmd f == g

/-- Streams that a gang takes. -/
def Run.gangSources (r : Run) (g : Nat) : List StreamSrc :=
  r.streams.filter fun x => (r.gangFrames g).any fun f => (takenBy r.job.cmd r.fmt f).contains x.stream

/-- The next promotion group of a gang: vector, number within the vector, first slice and slices. -/
def Run.group (r : Run) (g : Nat) : Nat × Nat × Nat × Nat :=
  let i := nget 0 r.next g
  let groups := promoGroups r.fmt r.ns
  let kn := groups.getD (i % groups.length) (0, 0)
  (i / groups.length, i % groups.length, kn.1, kn.2)

/-- Tiles where the next promotion group of a gang lands. -/
def Run.groupTiles (r : Run) (g : Nat) : List Nat := (outputPlaces r.job.cmd r.fmt g (r.group g).1).map Prod.fst

/-- Whether the feed has, or can read, every slice of a gang's next group (R74). -/
def State.feedReady (s : State) (cl : Nat) (r : Run) (g : Nat) : Bool :=
  let n := (r.group g).2.2.2
  (r.gangSources g).all fun x => (upTo x.fed (r.taken g + n - x.fed)).all fun t => s.feedSpace cl r x.stream t

/-- Whether a gang of a run can write its next promotion group: no order holds it back (R161, R162), and its slices come. -/
def State.gangReady (s : State) (l : Nat) (r : Run) (g : Nat) : Bool :=
  ((s.lcore l).gangRun g).any (fun x => x.job == r.job) && !(s.lcore l).gangBlocked r g && s.feedReady (clusterOf l) r g

/-- Whether gang `h` writes its next promotion group in the cycle in which gang `g` does, with tiles in common. The groups of one
run that carry the same number share a cycle (R82). Whether those of two runs do depends on when the runs started, and `o` is open
there (log entry 97). -/
def State.joins (s : State) (o l g h : Nat) : Bool :=
  match (s.lcore l).gangRun g, (s.lcore l).gangRun h with
  | some r, some x =>
    (if r.job = x.job then nget 0 x.next h == nget 0 r.next g else o.testBit h) && s.gangReady l x h &&
      (r.groupTiles g).any (x.groupTiles h).contains
  | _, _ => false

/-- The gangs that write together with those of `gs` (R142). -/
def State.joined (s : State) (o l : Nat) : Nat → List Nat → List Nat
  | 0, gs => gs
  | n + 1, gs => s.joined o l n (gs ++ (upTo 0 4).filter fun h => !gs.contains h && gs.any fun g => s.joins o l g h)

/-- The gangs that write together with gang `g`, and the state that has drawn the choice where the core has several runs. -/
def State.together (s : State) (l g : Nat) : List Nat × State :=
  if (s.lcore l).runs.length ≤ 1 then (s.joined 0 l 3 [g], s)
  else (s.joined s.open_.1 l 3 [g], s.open_.2)

/-- One frame's part in a promotion group: its frame, outputs, and check value. -/
structure FrameOut where
  frame : Nat
  outputs : List Int
  check : Int
deriving DecidableEq, Repr

/-- The compare of R92 holds. -/
def FrameOut.agrees (o : FrameOut) : Bool := decide (sumInt o.outputs % 16 = o.check % 16)

/-- Outputs of the frames of gang `g` from the slices in its member's buffers. -/
def State.gangOuts (s : State) (l : Nat) (r : Run) (g : Nat) : List FrameOut :=
  let e := r.job.cmd
  let x := r.group g
  let codes := (r.gangSources g).map fun y => (y.stream, y.codes r.ns x.1 x.2.2.1 x.2.2.2)
  (r.gangFrames g).map fun f =>
    let o := ((s.lcore l).frame f).active.outputs (runTransposed e) (frameCodes e r.fmt f codes)
    ⟨f, o.1, o.2⟩

/-- A gang adder's sums. -/
def gangTotal (n : Nat) (os : List FrameOut) : List Int := os.foldl (fun acc o => addLists acc o.outputs) (List.replicate n 0)

/-- Frames that fail a compare of R92 in a promotion group, each discarding its promotion. The gang adder compares the promotions
that reach it, so that its own failure, frame 0xF, is one without a failed frame. -/
def failedCompares (n : Nat) (os : List FrameOut) : List Nat :=
  match (os.filter fun o => !o.agrees).map FrameOut.frame with
  | [] => if sumInt (gangTotal n os) % 16 = sumInt (os.map FrameOut.check) % 16 then [] else [15]
  | fs => fs

/-- The bead registers take a frame's values; those that the pass does not use keep theirs (R87). They hold the values until the
next group's first slice, whose arrival starts them from zero (R78): R81 calls them emptied once the values have moved to the
promotion latches, and names no value (DESIGN CHOICE, log entry 111). -/
def Frame.setBeads (f : Frame) (xs : List Int) : Frame := { f with beads := nput f.beads 0 xs.length (indexed 0 xs) }

/-- Lane sums, or row weight sums, of the frames of a gang. -/
def State.gangSums (s : State) (l : Nat) (r : Run) (g : Nat) : List Int :=
  (r.gangFrames g).foldl (fun acc f => addLists acc (((s.lcore l).frame f).active.sums (runTransposed r.job.cmd)))
    (List.replicate (gangOutputs r.job.cmd r.fmt) 0)

/-- What gang `g` adds into the ledger: its promotion, and before a vector of a new tile its lane sums (R79, R89 to R91, R99). -/
def State.gangLandings (s : State) (l : Nat) (r : Run) (g : Nat) (os : List FrameOut) : List Landing :=
  let e := r.job.cmd
  let x := r.group g
  landings r g x.1 (x.1 % 8) (scaleList (4 ^ x.2.2.1) (gangTotal (gangOutputs e r.fmt) os)) ++
    if x.1 % 8 = 0 ∧ x.2.1 = 0 ∧ !noLanesum e then landings r g x.1 8 (s.gangSums l r g) else []

/-- Slices that enter the rows of a gang with its next promotion group, the row-sum slice of R99 included. -/
def Run.entering (r : Run) (g : Nat) : Nat :=
  (r.gangFrames g).length *
    ((r.group g).2.2.2 + b2n (nget 0 r.next g == 0 && runTransposed r.job.cmd && !noLanesum r.job.cmd))

/-- A failed compare: counted and raised with R93's record. For a gang adder, frame 0xF, bit 4 is frame 15's active plane, since
R93 says of no plane there (DESIGN CHOICE, log entry 111). -/
def State.failCompare (s : State) (l : Nat) (r : Run) (g f : Nat) (inj : Bool) : State :=
  let x := r.group g
  (s.modLcore l fun c => { c with fr := { c.fr with mismatches := satInc c.fr.mismatches } }).raiseFence (s.physOf l) bFrames 0x0101
    (checkInfo f ((s.lcore l).frame f).active1 g x.2.2.1 x.1) inj

/-- The run has written the next promotion groups of some gangs; it completes with its last one. -/
def State.runGoesOn (s : State) (l : Nat) (j : Job) (gs : List Nat) : State :=
  let s := s.modRun l j fun r => Run.drop { r with next := gs.foldl (fun m g => nset 0 m g (nget 0 r.next g + 1)) r.next }
  if (s.lcore l).runs.any fun x => x.job.q == j.q && x.job.id == j.id && x.left then s
  else (s.modLcore l fun c => { c with runs := c.runs.filter fun x => !(x.job.q == j.q && x.job.id == j.id) }).finishJob j []

/-- The feed brings every slice of gang `g`'s next group; the code tells of a word that is lost. -/
def State.feedGang (s : State) (l g : Nat) : State × BitVec 16 :=
  match (s.lcore l).gangRun g with
  | none => (s, 0)
  | some r => (r.gangSources g).foldl (fun (a : State × BitVec 16) x =>
      if a.2 ≠ 0 then a else
      match ((a.1.lcore l).runs.find? fun y => y.job == r.job).bind fun y => y.streams.find? fun y => y.stream == x.stream with
      | some y => a.1.feedTo (clusterOf l) r y (r.taken g + (r.group g).2.2.2)
      | none => a) (s, 0)

/-- The same for several gangs, until a lost word ends a run. -/
def State.feedGangs (s : State) (l : Nat) (gs : List Nat) : State × Bool :=
  gs.foldl (fun (a : State × Bool) g =>
    if !a.2 then a else
    let f := a.1.feedGang l g
    if f.2 = 0 then (f.1, true)
    else (match (a.1.lcore l).gangRun g with
      | some r => f.1.endJoined (clusterOf l) r f.2
      | none => f.1, false)) (s, true)

/-- A gang whose next group is written: its run, number and frames' parts. -/
structure GangOut where
  run : Run
  gang : Nat
  parts : List FrameOut
deriving DecidableEq, Repr

/-- The gangs `gs` with what their frames put out. -/
def State.gangsOut (s : State) (l : Nat) (gs : List Nat) : List GangOut :=
  gs.filterMap fun g => ((s.lcore l).gangRun g).map fun r => ⟨r, g, s.gangOuts l r g⟩

/-- Slices that enter the rows, counted for each run's queue and on the FRAMES page. -/
def State.countSlices (s : State) (l : Nat) (os : List GangOut) : State :=
  os.foldl (fun s o => s.countWork o.run.job.q 0 (o.run.entering o.gang)) (s.modLcore l fun c =>
    { c with fr := { c.fr with slices := c.fr.slices + BitVec.ofNat 64 (os.map fun o => o.run.entering o.gang).sum } })

/-- Write the next promotion groups of gangs `gs` of logical core `l` in one cycle. After a failed compare nothing is written: the
fence ends the runs before these promotions reach the ledger (R93, R571). An injected failure takes the first gang's lowest frame,
since the spec says only that the block's next compare fails (DESIGN CHOICE, log entry 97). -/
def State.promote (s : State) (l : Nat) (gs : List Nat) : State :=
  let fed := s.feedGangs l gs
  if !fed.2 then fed.1 else
  let os := fed.1.gangsOut l gs
  let s := fed.1.modLcore l fun c =>
    os.foldl (fun c o => o.parts.foldl (fun c p => c.modFrame p.frame fun x => x.setBeads p.outputs) c) c
  let s := s.countSlices l os
  let checked := (s.lcore l).fr.checkEn
  let fault := if checked then s.takeCheckFault (s.pgL l bFrames) else (s, false)
  let s := fault.1
  let bad := if !checked then [] else os.flatMap fun o =>
    (failedCompares (gangOutputs o.run.job.cmd o.run.fmt) o.parts).map fun f => (o.run, o.gang, f, false)
  let bad := match bad, fault.2, os with
    | [], true, o :: _ => [(o.run, o.gang, minOr 0 (o.run.gangFrames o.gang), true)]
    | _, _, _ => bad
  if bad.isEmpty then
    ((os.map fun o => o.run.job).eraseDups).foldl
      (fun s j => s.runGoesOn l j ((os.filter fun o => o.run.job == j).map GangOut.gang))
      (s.land l (os.flatMap fun o => s.gangLandings l o.run o.gang o.parts))
  else bad.foldl (fun s x => s.failCompare l x.1 x.2.1 x.2.2.1 x.2.2.2) s

/-- PROMOTION: the next promotion group of gang `gang`, with its compare; a failed compare raises
FRAME_CHECK_MISMATCH (0x0101) and fences the core. The run completes with its last one. -/
def execPromotion (core gang : Nat) (s : State) : Res :=
  let c := s.lcore core
  .next (if core < 128 ∧ gang < 4 ∧ c.fence = .inService then
      match c.gangRun gang with
      | none => s
      | some r => if s.gangReady core r gang then (s.together core gang).2.promote core (s.together core gang).1 else s
    else s)

end Sys2Proof.Machine
end

