-- ==== Sys2Proof/Machine/Ports.lean ====
section
/-! DEFINITION. Ports.lean: Ethernet ports and planes (R616 to R623), neighbours (R624), received frames (R618, R621, R625) and
PTP (R626, R627). -/

namespace Sys2Proof.Machine

/-- A port that sends and receives: the module is on, the port enabled, its link up. -/
def State.portUp (s : State) (p : Nat) : Bool := s.side.on && decide (p < 8) && (s.port p).enable && (s.port p).linkUp

/-- Whether a port has an address of the family of `ip`; without one it accepts and sends no packet of that family (R622). -/
def State.hasFamily (s : State) (p : Nat) (ip : BitVec 128) : Bool :=
  if mappedV4 ip then (s.port p).ipv4 != 0 else (s.port p).ipv6 != 0

/-- The header of a frame that a port sends (R619): its fused address, its VLAN ID, and a PCP. -/
def State.ethHead (s : State) (p : Nat) (pcp : BitVec 3) : EthHead := ⟨nget 0 s.fuses.mac p, (s.port p).vid, pcp⟩

/-- The same for ARP, neighbour discovery and PTP. -/
def State.ethOwn (s : State) (p : Nat) : EthHead := s.ethHead p 7

def Port.rx (p : Port) : Port := { p with rxFrames := p.rxFrames + 1 }
/-- A frame of `bytes` bytes joins the port's transmit queue, which one 100 Gbit/s lane empties (R616). -/
def Port.tx (p : Port) (now bytes : Nat) : Port :=
  { p with txFrames := p.txFrames + 1, txUntil := max now p.txUntil + (8 * bytes + 99) / 100 }
def Port.drop (p : Port) : Port := { p with rxDropped := satInc p.rxDropped }

/-! ### Links and planes (R620, R646, R714) -/

def planePorts (plane : Nat) : List Nat := upTo (4 * plane) 4

def Transport.plane (t : Transport) (plane : Nat) : Bool := if plane = 0 then t.planeA else t.planeB

def State.setPlane (s : State) (plane : Nat) (up : Bool) : State :=
  if s.net.plane plane = up then s else
  let s : State := s.setNet
    (if plane = 0 then { s.net with planeA := up, lossesA := 0 } else { s.net with planeB := up, lossesB := 0 })
  s.raise pgTransport (if up then 0x0805 else 0x0804) noted plane

/-- A port loses its link; a plane without any link is down. -/
def State.loseLink (s : State) (p : Nat) : State :=
  if !(s.port p).linkUp then s else
  let s := s.modPort p fun x => { x with linkUp := false, linkDowns := satInc x.linkDowns }
  let s := s.raise (pgEth p) 0x0802 noted 0
  if (planePorts (p / 4)).any fun k => (s.port k).linkUp then s else s.setPlane (p / 4) false

def execLinkUp (port : Nat) (cr1 : Bool) (s : State) : Res :=
  .next (if !s.side.on || !decide (port < 8) || !(s.port port).enable || (s.port port).linkUp then s
    else (s.modPort port fun x => { x with linkUp := true, cr1 := cr1, training := false }).raise (pgEth port) 0x0803 noted 0)

def execLinkDown (port : Nat) (s : State) : Res := .next (if s.side.on ∧ port < 8 then s.loseLink port else s)

/-- Codewords of the last second (R620): FEC_DEGRADED at most once per second. -/
def execFecDegraded (port corrected uncorrectable : Nat) (s : State) : Res :=
  .next (if !s.portUp port then s else
    let limit := (s.port port).fecLimit.toNat
    let s := s.modPort port fun x =>
      { x with
        fecCorrected := satAdd x.fecCorrected corrected, fecUncorrected := satAdd x.fecUncorrected uncorrectable }
    if limit < corrected ∨ 0 < uncorrectable then
      let say := s.secondPast (s.port port).fecAt
      (s.modPort port fun x => { x with fecAt := if say then some s.time.now.toNat else x.fecAt }).raiseFull (pgEth port) 0x0809 noted
        0 0 say false
    else s)

/-- A write of `PAGE_CTL.ENABLE` of an ETHPORT page (R714). -/
def State.writeEnable (s : State) (p : Nat) (on : Bool) : State :=
  if on then (if (s.port p).enable then s else s.modPort p fun x => { x with enable := true, training := true })
  else (s.loseLink p).modPort p fun x => { x with enable := false, training := false }

def execPortEnable (ini port : Nat) (on : Bool) (s : State) : Res :=
  s.regRow ini (pgEth port) true fun s => if port < 8 then s.writeEnable port on else s

/-! ### What a port accepts (R621) -/

def ipv4Mapped (a : Word) : BitVec 128 := BitVec.ofNat 128 (0xFFFF * 2 ^ 32 + a.toNat)
def ptpGroup4 : BitVec 128 := ipv4Mapped 0xE0000181
def ptpGroup6 : BitVec 128 := BitVec.ofNat 128 (0xFF0E * 2 ^ 112 + 0x181)
def allNodes : BitVec 128 := BitVec.ofNat 128 (0xFF02 * 2 ^ 112 + 1)
def solicited (a : BitVec 128) : BitVec 128 := BitVec.ofNat 128 (0xFF02 * 2 ^ 112 + 0x1FF * 2 ^ 24 + a.toNat % 2 ^ 24)

def State.macOf (s : State) (p : Nat) : BitVec 48 := nget 0 s.fuses.mac p

/-- Port that PTP uses: `TIME.CTL.PORT`, or the first port of the other plane while that port's link is down (R626). Where neither
link is up it stays at the selected port, as `TIME.STATE` reads after reset (DEDUCED, log entry 104). -/
def State.ptpPort (s : State) : Nat :=
  let p := s.time.port.toNat
  let o := if p < 4 then 4 else 0
  if (s.port p).linkUp ∨ !(s.port o).linkUp then p else o

def State.macOk (s : State) (p : Nat) (m : BitVec 48) : Bool :=
  m == s.macOf p || m == 0xFFFFFFFFFFFF || m == 0x333300000001 ||
    ((s.port p).ipv6 != 0 && m == BitVec.ofNat 48 (0x3333FF * 2 ^ 24 + (s.port p).ipv6.toNat % 2 ^ 24)) ||
    (p == s.ptpPort && (m == 0x01005E000181 || m == 0x333300000181))

/-- One of the port's own addresses. -/
def State.ownIp (s : State) (p : Nat) (a : BitVec 128) : Bool :=
  ((s.port p).ipv4 != 0 && a == ipv4Mapped (s.port p).ipv4) || ((s.port p).ipv6 != 0 && a == (s.port p).ipv6)

/-- A PTP group of the port in use, for a PTP message. The other groups of R621 are for neighbour solicitations and advertisements,
which have rows of their own. -/
def State.ptpGroup (s : State) (p : Nat) (a : BitVec 128) (udpPort : Option Nat) : Bool :=
  udpPort.any (fun u => u == 319 || u == 320) && p == s.ptpPort &&
    (((s.port p).ipv4 != 0 && a == ptpGroup4) || ((s.port p).ipv6 != 0 && a == ptpGroup6))

/-- A frame without a message: discarded and counted (R618, R623, R625), not accepted (R621), ignored (a PAUSE or PFC frame, a
frame shorter than 64 B), or accepted. -/
def execFrameReceive (port : Nat) (f : EthFrame) (s : State) : Res :=
  .next (if !s.portUp port then s else
    let x := s.port port
    let vlanBad : Bool := match f.vid with
      | some v => v != x.vid.toNat
      | none => !x.acceptUntagged
    if 9216 < f.bytes ∨ f.badFcs then s.modPort port Port.drop
    else if f.pause then s
    else if vlanBad then s.modPort port Port.drop
    else if f.bytes < 64 ∨ !s.macOk port f.dstMac ∨ (f.dstIp ≠ 0 ∧ !s.ownIp port f.dstIp ∧ !s.ptpGroup port f.dstIp f.udpPort) then s
    else if f.fragment ∨ f.badChecksum ∨ f.udpPort.any (fun u => u != 47712 && u != 319 && u != 320) then s.modPort port Port.drop
    else s.modPort port Port.rx)

/-! ### Neighbours (R624) -/

/-- A neighbour is cached; of 256 the oldest makes room. -/
def Port.learn (p : Port) (ip : BitVec 128) (mac : BitVec 48) (now : Nat) : Port :=
  let rest := p.neighbours.filter fun n => n.ip != ip
  { p with neighbours := (if rest.length < 256 then rest else rest.drop 1) ++ [⟨ip, mac, now⟩] }

def execArpRequest (port : Nat) (senderMac : BitVec 48) (senderIp targetIp : Word) (s : State) : Res :=
  .next (if !s.portUp port then s else
    let s := s.modPort port Port.rx
    if targetIp ≠ 0 ∧ targetIp = (s.port port).ipv4 then
      (s.modPort port fun p => p.tx s.time.now.toNat 64).setOutbox (s.outbox ++ [.arpReply (s.ethOwn port) port senderMac senderIp])
    else s)

def execArpReply (port : Nat) (senderMac : BitVec 48) (senderIp : Word) (s : State) : Res :=
  .next (if !s.portUp port then s
    else s.modPort port fun p => p.rx.learn (ipv4Mapped senderIp) senderMac s.time.now.toNat)

def execNeighbourSolicitation (port : Nat) (senderMac : BitVec 48) (senderIp targetIp : BitVec 128) (s : State) : Res :=
  .next (if !s.portUp port || (s.port port).ipv6 == 0 then s else
    let s := s.modPort port Port.rx
    if targetIp = (s.port port).ipv6 then
      (s.modPort port fun p => p.tx s.time.now.toNat 94).setOutbox (s.outbox ++ [.neighbourAdvert (s.ethOwn port) port senderMac senderIp])
    else s)

def execNeighbourAdvertisement (port : Nat) (targetMac : BitVec 48) (targetIp : BitVec 128) (s : State) : Res :=
  .next (if !s.portUp port || (s.port port).ipv6 == 0 then s
    else s.modPort port fun p => p.rx.learn targetIp targetMac s.time.now.toNat)

def execNeighbourExpiry (port : Nat) (ip : BitVec 128) (s : State) : Res :=
  .next (if port < 8 then s.modPort port fun p => { p with neighbours := p.neighbours.filter fun n => n.ip != ip } else s)

/-! ### PTP (R626, R627) -/

def State.modTime (s : State) (f : TimeSt → TimeSt) : State := s.setTime (f s.time)

/-- The address that PTP uses on a port, of the family that `TIME.CTL.IPV6` selects; 0 for none (R622, R626). -/
def State.ptpAddr (s : State) (p : Nat) : BitVec 128 :=
  if s.time.ipv6 then (s.port p).ipv6 else if (s.port p).ipv4 = 0 then 0 else ipv4Mapped (s.port p).ipv4

/-- A port that runs PTP: a port without an address of the family accepts and sends no packet of it (R622). The image starts PTP
(R655). -/
def State.ptpUp (s : State) (p : Nat) : Bool :=
  s.portUp p && s.time.ptpEn && s.ptpAddr p != 0 && decide (s.boot.phase = .running)

/-- A PTP message of the selected domain on the port in use. -/
def State.ptpHears (s : State) (port domain : Nat) : Bool :=
  s.ptpUp port && port == s.ptpPort && domain == s.time.domain.toNat

def execPtpSync (port domain seq : Nat) (s : State) : Res :=
  .next (if !s.ptpHears port domain then s else
    (s.modPort port Port.rx).modTime fun t =>
      { t with
        syncSeq := some seq, interval := (t.now.toNat - t.t2).toNat, t2 := t.now.toNat
        state := if t.state = 0 then 1 else t.state })

/-- Correction that the servo makes at a Follow_Up: a step beyond 1 ms, else at most 100 ppm of the sync interval (R627). -/
def slew (offset : Int) (interval : Nat) : Int :=
  let lim : Int := interval / 10000
  if 1000000 < offset.natAbs then offset else max (-lim) (min lim offset)

/-- What a Follow_Up leaves, for the measured offset `off` of the servo's clock. Until PTP has locked device time keeps the rate of
the reference, and only the servo's own clock takes the corrections; from then on device time takes what the servo has found, at
once beyond 1 ms and else at up to 100 ppm (R627, R698; DEDUCED, log entry 106). The second component: device time has stepped. -/
def TimeSt.follow (t : TimeSt) (off : Int) : TimeSt × Bool :=
  let found := t.servo - slew off t.interval
  let good := if off.natAbs < t.lockNs.toNat then t.good + 1 else 0
  let state := if t.state = 2 ∧ good = 0 then 3 else if 16 ≤ good then 2 else t.state
  let take := if state < 2 then 0 else slew found t.interval
  let step := decide (2 ≤ state) && decide (1000000 < found.natAbs)
  ({ t with
      syncSeq := none, offset := off, now := BitVec.ofInt 64 (t.now.toNat + take), t2 := t.t2 + take, servo := found - take
      good := good, state := state, steps := if step then satInc t.steps else t.steps }, step)

def execPtpFollowUp (port domain seq origin : Nat) (s : State) : Res :=
  .next (if !s.ptpHears port domain || s.time.syncSeq != some seq then s else
    let ms : Int := s.time.t2 + s.time.servo - origin
    let r := s.time.follow (ms - s.time.pathDelay)
    let lost := decide (s.time.state = 2) && decide (r.1.state = 3)
    let s := (s.modPort port Port.rx).setTime { r.1 with lastMs := ms }
    let s := if r.2 then s.raise pgTime 0x0808 noted 0 else s
    if lost then s.raise pgTime 0x0807 noted 0 else s)

/-- Sum of the 16-bit big-endian words of some bytes. -/
def wordSum : List Byte → Nat
  | [] => 0
  | [x] => 256 * x.toNat
  | x :: y :: xs => 256 * x.toNat + y.toNat + wordSum xs

/-- The UDP checksum over the pseudo-header, the UDP header and the payload, over IPv4 and IPv6 alike (R625). -/
def udpSum (ip : IpHead) (payload : List Byte) : BitVec 16 :=
  let n := if mappedV4 ip.src then 4 else 16
  let len := 8 + payload.length
  let all := wordSum (beBytes n (ip.src.toNat % 256 ^ n) ++ beBytes n (ip.dst.toNat % 256 ^ n) ++ payload) + 17 + 2 * len +
    ip.srcPort + ip.dstPort
  BitVec.ofNat 16 (65535 - all % 65535)

/-- Length of the Ethernet frame of a UDP payload: the tagged Ethernet header, IP, UDP, and the FCS. -/
def frameBytes (ip : IpHead) (payload : Nat) : Nat := 18 + (if mappedV4 ip.src then 20 else 40) + 8 + payload + 4

/-- IP and UDP fields of a Delay_Req: an event message to the primary group. The spec gives it no DSCP and no ECN (log entry
106). -/
def State.delayIp (s : State) : IpHead :=
  { src := s.ptpAddr s.ptpPort, dst := if s.time.ipv6 then ptpGroup6 else ptpGroup4, limit := 64, dscp := 0, ecn := 0
    srcPort := 319, dstPort := 319 }

/-- A Delay_Req of IEEE 1588-2019, 44 B: message type 1, version 2.1, the domain of `TIME.CTL.DOMAIN` (R626), the identity of the
clock from the port's fused address, port number 1, the sequence number; every other field is zero but for the control and interval
fields of a Delay_Req (PRESUMED: the layout is the standard's, log entry 106). -/
def State.delayBody (s : State) (seq : Nat) : List Byte :=
  let mac := beBytes 6 (nget 0 s.fuses.mac s.ptpPort).toNat
  [0x01, 0x12] ++ beBytes 2 44 ++ [s.time.domain, 0] ++ List.replicate 14 0 ++ mac.take 3 ++ [0xFF, 0xFE] ++ mac.drop 3 ++ beBytes 2 1 ++
    beBytes 2 seq ++ [0x01, 0x7F] ++ List.replicate 10 0

def execPtpDelayReq (s : State) : Res :=
  .next (if !s.ptpUp s.ptpPort then s else
    let n := s.time.nextDelay
    let body := s.delayBody n
    let o : Out := .delayReq (s.ethOwn s.ptpPort) s.delayIp (udpSum s.delayIp body) s.ptpPort body
    let s : State := (s.modPort s.ptpPort fun p => p.tx s.time.now.toNat (frameBytes s.delayIp 44)).setOutbox (s.outbox ++ [o])
    s.modTime fun t => { t with delaySeq := some n, t3 := t.now.toNat, nextDelay := (n + 1) % 65536 })

def execPtpDelayResp (port domain seq receive : Nat) (s : State) : Res :=
  .next (if !s.ptpHears port domain || s.time.delaySeq != some seq then s else
    (s.modPort port Port.rx).modTime fun t =>
      { t with delaySeq := none, pathDelay := (t.lastMs + (receive - (t.t3 + t.servo))) / 2 })

end Sys2Proof.Machine
end

