-- ==== Sys2Proof/Machine/Relsen.lean ====
section
/-! DEFINITION. Relsen.lean: the Relsen transport (R628 to R649): packets in and out, acknowledgement, loss, congestion, planes,
connections, and the EVENT messages of R724 and R725. -/

namespace Sys2Proof.Machine

/-! ### The packet header (R633) -/

def hType (h : Entry) : Nat := fld h 1 1
def hFlags (h : Entry) : Nat := fld h 2 1
def hConn (h : Entry) : Nat := fld h 4 2
def hPacket (h : Entry) : Nat := fld h 8 8
def hAcked (h : Entry) : Nat := fld h 16 8
def hMsg (h : Entry) : Word := BitVec.ofNat 32 (fld h 56 4)

/-- Version, zero fields, SACK count and message type (R633, R640). -/
def headerOk (h : Entry) : Bool :=
  fld h 0 1 == 1 && decide (hFlags h < 16) && fzero h 60 4 && decide (fld h 3 1 ≤ 3) && decide (hType h ≤ 9)

/-- SACK ranges: first packet number and count. -/
def hRanges (h : Entry) : List (Nat × Nat) :=
  (upTo 0 (fld h 3 1)).map fun i => (hAcked h + fld h (32 + 8 * i) 4, fld h (36 + 8 * i) 4)

/-- Whether a header acknowledges a packet number. -/
def acks (h : Entry) (p : Nat) : Bool :=
  decide (p < hAcked h) || (hRanges h).any fun r => decide (r.1 ≤ p) && decide (p < r.1 + r.2)

/-- Nonce and key of a packet (R634). -/
def nonceOf (conn packet : Nat) : List Byte := leBytes 4 conn ++ leBytes 8 packet
def keyBytes (k : BitVec 256) : List Byte := beBytes 32 k.toNat

/-! ### The received-packet record (R635, R643) -/

def insertNat (p : Nat) : List Nat → List Nat
  | [] => [p]
  | x :: xs => if p < x then p :: x :: xs else x :: insertNat p xs

/-- Numbers that follow `b` without a gap join what lies below it. -/
def absorb (b : Nat) : List Nat → Nat × List Nat
  | [] => (b, [])
  | x :: xs => if x = b then absorb (b + 1) xs else (b, x :: xs)

def Conn.hasReceived (c : Conn) (p : Nat) : Bool := decide (p < c.rxBelow) || c.rxAbove.contains p

def Conn.receive (c : Conn) (p : Nat) : Conn :=
  let r := absorb c.rxBelow (insertNat p c.rxAbove)
  { c with rxBelow := r.1, rxAbove := r.2 }

/-- Ranges of ascending numbers, newest first. -/
def rangesOf : List Nat → List (Nat × Nat)
  | [] => []
  | x :: xs =>
    match rangesOf xs with
    | [] => [(x, 1)]
    | rs =>
      let last := rs.getLast?.getD (0, 0)
      if last.1 = x + 1 then rs.dropLast ++ [(x, last.2 + 1)] else rs ++ [(x, 1)]

/-- Bytes of early messages that the receive pool of a die holds (R636, R637). -/
def State.poolBytes (s : State) (die : Nat) : Nat :=
  (s.net.conns.map fun e => ((e.2.early.filter fun m => m.die == die).map fun m => m.bytes.length).sum).sum

def Conn.peer (c : Conn) (plane : Nat) : BitVec 128 := if plane = 0 then c.cfg.peerA else c.cfg.peerB

/-- Messages beyond the oldest one not yet applied that the module accepts on a connection: 1,024, fewer while early messages exceed
the receive pool of 16 MiB of a die that faces its peer, on whose plane the peer has an address (R616, R637; how many is open, log
entry 13). -/
def State.rxWindow (s : State) (n : Nat) : Nat :=
  if (upTo 0 2).all fun d => (s.conn n).peer d == 0 || decide (s.poolBytes d ≤ 16777216) then 1024 else Config.freeNat s.oracle % 1025

/-! ### Planes and ports for sending (R622, R624, R646) -/

/-- Ports of a plane that may send to an address: link up, and an address of its family. -/
def State.portsFor (s : State) (plane : Nat) (peer : BitVec 128) : List Nat :=
  if peer = 0 then [] else
  (planePorts plane).filter fun p =>
    s.portUp p && s.hasFamily p peer

/-- Whether `a` and `b` agree in the first `n` of `w` bits. -/
def samePrefix (w n a b : Nat) : Bool := a / 2 ^ (w - n) == b / 2 ^ (w - n)

/-- The peer where it lies in the port's subnet, else the plane's gateway. -/
def State.nextHop (s : State) (port : Nat) (peer : BitVec 128) : BitVec 128 :=
  let p := s.port port
  let near := if mappedV4 peer then samePrefix 32 p.ipv4Prefix.toNat (peer.toNat % 2 ^ 32) p.ipv4.toNat
    else samePrefix 128 p.ipv6Prefix.toNat peer.toNat p.ipv6.toNat
  if near then peer else if port < 4 then s.net.gwA else s.net.gwB

/-- Plane of the next packet where both can be used: the packets sent on the two in the present round trip are to be as the inverse
of their smoothed round-trip times, so that the faster one takes more (R646); even before both have a sample (log entry 31). -/
def Conn.nextPlane (c : Conn) : Nat :=
  let even := c.srttA = 0 ∨ c.srttB = 0
  if c.sentA * (if even then 1 else c.srttA) ≤ c.sentB * (if even then 1 else c.srttB) then 0 else 1

/-- A port of a list with the shortest transmit queue: of several the lowest (R646; log entry 31). -/
def State.shortest (s : State) : List Nat → Option Nat
  | [] => none
  | p :: ps =>
    match s.shortest ps with
    | none => some p
    | some q => some (if (s.port p).txUntil ≤ max s.time.now.toNat (s.port q).txUntil then p else q)

/-- The port that the next packet of a connection leaves by, if any (R646). `forced`: a probe's plane. -/
def State.choosePort (s : State) (c : Conn) (forced : Option Nat) : Option Nat :=
  let ok := fun plane => !(s.portsFor plane (c.peer plane)).isEmpty
  let planes := match forced with
    | some p => [p]
    | none => ([c.nextPlane, 1 - c.nextPlane]).filter s.net.plane
  match planes.find? ok with
  | none => none
  | some plane => s.shortest (s.portsFor plane (c.peer plane))

/-- What a port's cache holds of a next hop: an entry stands for 60 s (R624). -/
def State.neighbour (s : State) (port : Nat) (ip : BitVec 128) : Option Neighbour :=
  (s.port port).neighbours.find? fun n => n.ip == ip && decide (s.time.now.toNat < n.at_ + 60 * oneSecond)

/-- A next hop that the port does not know is asked for. -/
def State.resolve (s : State) (port : Nat) (ip : BitVec 128) : Bool × State :=
  if (s.neighbour port ip).isSome then (true, s)
  else
    let o : Out :=
      if mappedV4 ip then .arpRequest (s.ethOwn port) port (ip.setWidth 32) else .neighbourSolicit (s.ethOwn port) port ip
    (false, (s.modPort port fun p => p.tx s.time.now.toNat (if mappedV4 ip then 64 else 94)).setOutbox (s.outbox ++ [o]))

/-! ### Sending a packet (R633, R634, R643, R645) -/

/-- The header of the connection's next packet. -/
def State.packetHeader (s : State) (n : Nat) (planeB : Bool) (m : Option Msg) : Entry :=
  let c := s.conn n
  let rs := ((rangesOf c.rxAbove).take 3).reverse
  let flags := 1 + 2 * b2n c.echo + 4 * b2n c.sendCwr + 8 * b2n planeB
  let sack := rs.flatMap fun r => leBytes 4 (r.1 - c.rxBelow) ++ leBytes 4 r.2
  let bytes := [1, match m with
      | some m => m.type
      | none => 0, BitVec.ofNat 8 flags, BitVec.ofNat 8 rs.length] ++ leBytes 2 n ++
    leBytes 2 (match m with
      | some m => m.bytes.length
      | none => 0) ++
    leBytes 8 c.nextPacket ++ leBytes 8 c.rxBelow ++ leBytes 4 ((s.time.now.toNat - c.rxAt) / 1000) ++ leBytes 4 (s.rxWindow n) ++
    (sack ++ List.replicate 24 0).take 24 ++ leBytes 4 (match m with
      | some m => m.number.toNat
      | none => 0)
  BitVec.ofNat 512 (leNat bytes)

/-- MAC address of a next hop that the port has resolved. -/
def State.hopMac (s : State) (port : Nat) (ip : BitVec 128) : BitVec 48 := ((s.neighbour port ip).map Neighbour.mac).getD 0

/-- IP and UDP fields of a connection's packets: TTL or hop limit 64, the connection's DSCP, ECT(0), from UDP port 47,712 (R623,
R625, R645). -/
def State.packetIp (s : State) (port : Nat) (c : Conn) (peer : BitVec 128) : IpHead :=
  { src := if mappedV4 peer then ipv4Mapped (s.port port).ipv4 else (s.port port).ipv6, dst := peer, limit := 64
    dscp := c.cfg.dscp, ecn := 2, srcPort := 47712, dstPort := c.cfg.port.toNat }

/-- Send a packet with a message, or without one. Whether it left. -/
def State.sendPacket (s : State) (n : Nat) (m : Option Msg) (forced : Option Nat) : Bool × State :=
  let c := s.conn n
  match s.choosePort c forced with
  | none => (false, s)
  | some port =>
    let plane := port / 4
    let hop := s.nextHop port (c.peer plane)
    match s.resolve port hop with
    | (false, s) => (false, s)
    | (true, s) =>
      let h := s.packetHeader n (plane == 1) m
      let body := match m with
        | some m => m.bytes
        | none => []
      let sealed := gcmSeal (keyBytes c.keyOut) (nonceOf n c.nextPacket) (leBytes 64 h.toNat) body
      let ip := s.packetIp port c (c.peer plane)
      let payload := leBytes 64 h.toNat ++ sealed.1 ++ sealed.2
      let o : Out := .packet (s.ethHead port c.cfg.pcp) (s.hopMac port hop) ip (udpSum ip payload) n port h sealed.1 sealed.2
      let s : State := (s.modPort port fun p => p.tx s.time.now.toNat (frameBytes ip payload.length)).setOutbox (s.outbox ++ [o])
      (true, s.modConn n fun c =>
        { c with
          nextPacket := c.nextPacket + 1, ackDue := 0, sendCwr := false
          sentA := c.sentA + (if plane = 0 then 1 else 0), sentB := c.sentB + (if plane = 0 then 0 else 1)
          unacked := c.unacked ++ [⟨c.nextPacket, m, s.time.now.toNat, plane == 1, forced.isSome⟩] })

/-! ### Loss and congestion (R644, R645) -/

def minWindow : Nat := 18432
def maxWindow : Nat := 16777216
def packetBytes : Nat := 9216

/-- Bytes of a sent packet. -/
def Sent.size (p : Sent) : Nat := 80 + match p.msg with
  | some m => m.bytes.length
  | none => 0

/-- Put a message back among those that wait, in message order. -/
def requeue (m : Msg) : List Msg → List Msg
  | [] => [m]
  | x :: xs => if m.number.toNat < x.number.toNat then m :: x :: xs else x :: requeue m xs

/-- Packets of a connection count as lost: their messages wait to be sent again, and the window halves once per round trip. -/
def Conn.lose (c : Conn) (lost : List Sent) : Conn :=
  if lost.isEmpty then c else
  let msgs := lost.filterMap fun p => p.msg
  let cut := lost.any fun p => decide (c.cutAt ≤ p.packet)
  { c with
    unacked := c.unacked.filter fun p => !lost.any fun x => x.packet == p.packet
    unsent := msgs.foldr requeue c.unsent, retransmits := satAdd c.retransmits msgs.length
    cwnd := if cut then max minWindow (c.cwnd / 2) else c.cwnd, cutAt := if cut then c.nextPacket else c.cutAt }

/-- Eight consecutive losses take a plane down (R646). -/
def State.countLosses (s : State) (lost : List Sent) : State :=
  lost.foldl (fun s p =>
    let s : State := s.setNet
      (if p.planeB then { s.net with lossesB := s.net.lossesB + 1 } else { s.net with lossesA := s.net.lossesA + 1 })
    if 8 ≤ (if p.planeB then s.net.lossesB else s.net.lossesA) then s.setPlane (b2n p.planeB) false else s) s

def State.loseSent (s : State) (n : Nat) (lost : List Sent) : State :=
  (s.modConn n fun c => c.lose lost).countLosses lost

/-- A smoothed round-trip time after a sample. -/
def smooth (m r : Nat) : Nat := if m = 0 then r else (7 * m + r) / 8

/-- Round-trip time of a sample, ns (smoothing as RFC 6298; log entry 30), of the connection and of the plane that it went by. -/
def Conn.sample (c : Conn) (planeB : Bool) (r : Nat) : Conn :=
  let v := if c.srtt = 0 then r / 2 else (3 * c.rttvar + (if c.srtt < r then r - c.srtt else c.srtt - r)) / 4
  let m := smooth c.srtt r
  let c := { c with srtt := m, rttvar := v, rto := max 50000 (m + 4 * v) }
  if planeB then { c with srttB := smooth c.srttB r } else { c with srttA := smooth c.srttA r }

/-- A round trip ends: the fraction of echoed bytes moves α, which is kept in units of 1/2^16, and cuts or grows the window. -/
def Conn.roundTrip (c : Conn) : Conn :=
  let f := if c.ackedBytes = 0 then 0 else 65536 * c.echoedBytes / c.ackedBytes
  let a := (15 * c.alpha + f) / 16
  let w := if f = 0 then c.cwnd + packetBytes else c.cwnd - c.cwnd * a / 131072
  { c with
    alpha := a, cwnd := max minWindow (min maxWindow w), sendCwr := c.sendCwr || f != 0, ackedBytes := 0, echoedBytes := 0
    roundEnd := c.nextPacket, sentA := 0, sentB := 0 }

/-- What an acknowledgement leaves in its connection, its losses apart. -/
def Conn.acked (c : Conn) (h : Entry) (now : Nat) (mine : List Sent) : Conn :=
  match mine.getLast? with
  | none => c
  | some newest =>
    let bytes := (mine.map Sent.size).sum
    let c := c.sample newest.planeB (now - newest.at_ - 1000 * fld h 24 4)
    let top := maxOr 0 (newest.packet :: c.maxAcked.toList)
    let c := { c with
      unacked := c.unacked.filter fun p => !acks h p.packet, peerAcked := max c.peerAcked (hAcked h), heardAt := now
      maxAcked := some top, ackedBytes := c.ackedBytes + bytes
      echoedBytes := c.echoedBytes + (if (hFlags h).testBit 1 then bytes else 0) }
    if c.roundEnd ≤ top then c.roundTrip else c

/-- Acknowledgement fields of a header: R644, R645, and R646 for planes. -/
def State.takeAck (s : State) (n : Nat) (h : Entry) : State :=
  if !(hFlags h).testBit 0 then s else
  let c := s.conn n
  let mine := c.unacked.filter fun p => acks h p.packet
  let s := s.modConn n fun c => c.acked h s.time.now.toNat mine
  let s : State := (s.setNet { s.net with
    lossesA := if mine.any fun p => !p.planeB then 0 else s.net.lossesA
    lossesB := if mine.any fun p => p.planeB then 0 else s.net.lossesB })
  let s := mine.foldl (fun s p => if p.probe then s.setPlane (b2n p.planeB) true else s) s
  let c := s.conn n
  s.loseSent n (c.unacked.filter fun p => c.maxAcked.any fun a => decide (p.packet + 3 ≤ a))

/-- A connection has lost its waiting and unacknowledged messages: a drain that goes over it sends its image again from the
beginning, since the partner has not acknowledged what was lost (R603, R604). -/
def State.restartDrain (s : State) (n : Nat) : State :=
  if s.snap.partnerDraining ∧ n = s.snap.partnerConn.toNat then s.setSnap { s.snap with drainPos := 1, headerMsg := none } else s

/-- The partner has acknowledged the message that carries the image's header: its drain is complete (R603, R604). -/
def State.headerAcked (s : State) (n : Nat) : State :=
  match s.snap.headerMsg with
  | none => s
  | some m =>
    let c := s.conn n
    if n ≠ s.snap.partnerConn.toNat ∨ !s.snap.partnerDraining ∨ c.unsent.any (fun x => x.number == m) ∨
        c.unacked.any (fun p => p.msg.any fun x => x.number == m) then s
    else
      let s : State := s.setSnap { s.snap with partnerDraining := false, headerMsg := none, partnerSequence := s.snap.sequence }
      if s.snap.flashDraining ∨ s.snap.drainFailed then s else s.raise pgSnapshot 0x090D noted (s.snap.sequence.toNat % 65536)

/-! ### Receiving a packet (R635 to R637, R643) -/

/-- A packet that the receive path drops as a stranger. -/
def State.stranger (s : State) (port : Nat) (src : BitVec 128) : State :=
  let tell := s.secondPast (s.port port).strangerAt
  let s := s.modPort port fun p =>
    { p with strangers := satInc p.strangers, strangerAt := if tell then some s.time.now.toNat else p.strangerAt }
  s.raiseFull (pgEth port) 0x0801 noted (src.toNat % 2 ^ 28) 0 tell false

/-- Whether a message is one that R597 leaves unacknowledged while a snapshot holds the device. -/
def State.heldMessage (s : State) (type : Nat) (b : List Byte) : Bool :=
  decide (s.snap.phase ≠ .idle) &&
    (type == 1 || type == 2 || type == 7 || (type == 6 && (upTo 0 (fieldAt b 8 1)).any fun i => fieldAt b (16 + 12 * i) 1 == 1))

/-- A packet that the receive path accepts. -/
def State.acceptPacket (s : State) (port n : Nat) (p : RxPacket) (msg : List Byte) : State :=
  let h := p.header
  let now := s.time.now.toNat
  let s := s.modConn n fun c =>
    let c := c.receive (hPacket h)
    { c with
      st := .opened, echo := p.ce || (c.echo && !(hFlags h).testBit 2), ackDue := c.ackDue + 1, rxAt := now
      window := fld h 28 4
      early := if hType h ≠ 0 ∧ (hMsg h - c.rxMsg).toNat < 2 ^ 31 ∧ !c.early.any (fun m => m.number == hMsg h) then
          c.early ++ [⟨hMsg h, BitVec.ofNat 8 (hType h), msg, port / 4⟩]
        else c.early }
  let s := ((s.takeAck n h).headerAcked n).refuseMalformed n
  if 2 ≤ (s.conn n).ackDue then (s.sendPacket n none none).2 else s

def execRelsenPacket (port : Nat) (p : RxPacket) (s : State) : Res :=
  .next (if !s.portUp port || !s.hasFamily port p.srcIp || !s.macOk port p.dstMac || !s.ownIp port p.dstIp then s else
    let s := s.modPort port Port.rx
    let h := p.header
    let n := hConn h
    let c := s.conn n
    if 4096 ≤ n ∨ c.st = .closed ∨ (p.srcIp ≠ c.cfg.peerA ∧ p.srcIp ≠ c.cfg.peerB) ∨ p.srcPort ≠ c.cfg.port.toNat ∨ !headerOk h then
      s.stranger port p.srcIp
    else
      match gcmOpen (keyBytes c.keyIn) (nonceOf n (hPacket h)) (leBytes 64 h.toNat) p.body (beBytes 16 p.tag.toNat) with
      | none => s.stranger port p.srcIp
      | some msg =>
        let ahead := (hMsg h - c.rxMsg).toNat
        if c.hasReceived (hPacket h) then s.setNet { s.net with duplicates := satInc s.net.duplicates }
        else if c.st = .lost then s
        else if hType h ≠ 0 ∧ ((s.rxWindow n < ahead ∧ ahead < 2 ^ 31) ∨ s.heldMessage (hType h) msg) then s
        else s.acceptPacket port n p msg)

/-! ### Timers (R643, R644, R646, R647) -/

def execAckTimer (conn : Nat) (s : State) : Res :=
  .next (if s.side.on ∧ conn < 4096 ∧ (s.conn conn).live ∧ (s.conn conn).ackDue ≠ 0 then (s.sendPacket conn none none).2 else s)

def execLossDetectionTimer (conn packet : Nat) (s : State) : Res :=
  .next (let c := s.conn conn
    if s.side.on ∧ conn < 4096 ∧ c.live ∧ c.maxAcked.any (fun a => decide (packet < a)) then
      s.loseSent conn (c.unacked.filter fun p => p.packet == packet)
    else s)

def execRetransmissionTimer (conn : Nat) (s : State) : Res :=
  .next (let c := s.conn conn
    if s.side.on ∧ conn < 4096 ∧ c.live ∧ c.unacked ≠ [] then
      (s.loseSent conn c.unacked).modConn conn fun c => { c with rto := min 100000000 (2 * c.rto) }
    else s)

def execConnectionLost (conn : Nat) (s : State) : Res :=
  .next (if s.side.on ∧ conn ≠ 0 ∧ conn < 4096 ∧ (s.conn conn).live then
      let s := (s.modConn conn fun c => { c with st := .lost, unsent := [], unacked := [] }).restartDrain conn
      let s := s.raise pgTransport 0x0806 noted conn
      if conn = s.snap.partnerConn.toNat then s.setSnap { s.snap with holdFilling := false } else s
    else s)

/-- The connection that a probe of a plane uses: the first that is in use and has a peer address there (log entry 31). -/
def State.probeConn (s : State) (plane : Nat) : Option Nat :=
  (s.net.conns.find? fun e => e.2.live && e.2.peer plane != 0).map (·.1)

def execPlaneProbe (plane : Nat) (s : State) : Res :=
  .next (match decide (plane < 2) && s.side.on && !s.net.plane plane, s.probeConn plane with
    | true, some n => (s.sendPacket n none (some plane)).2
    | _, _ => s)

/-! ### Pacing (R645) -/

/-- Bytes of an image that the drain to the partner sends next: chunks of 8,192 B, the one with the header last. -/
def State.drainChunk (s : State) : List Byte :=
  let len := s.snap.imageBytes.toNat
  let i := s.snap.drainPos
  let last := decide (len ≤ 8192 * i)
  let off := if last then 0 else 8192 * i
  let n := min 8192 (len - off)
  chunkBody off last (blockBytes (s.peek (s.snap.stagingBase.toNat + off) n).blk n)

/-- The drain to the partner gives its next message once the earlier ones have left. -/
def State.feedDrain (s : State) (n : Nat) : State :=
  if s.snap.partnerDraining ∧ s.snap.partnerState = 2 ∧ n = s.snap.partnerConn.toNat ∧ (s.conn n).unsent = [] ∧ (s.conn n).live ∧ s.snap.headerMsg = none then
    let m := (s.conn n).nextMsg
    let last := decide (s.snap.imageBytes.toNat ≤ 8192 * s.snap.drainPos)
    let off := if last then 0 else 8192 * s.snap.drainPos
    let s := (s.noteTier (s.snap.stagingBase.toNat + off) (min 8192 (s.snap.imageBytes.toNat - off))).sendOwn n 0x08 s.drainChunk
    s.setSnap { s.snap with drainPos := s.snap.drainPos + 1, headerMsg := if last then some m else none }
  else s

/-- The pacing interval of a connection has passed: its next message leaves, if the windows have room for it. -/
def execPacketPacing (conn : Nat) (s : State) : Res :=
  .next (if !s.side.on || 4096 ≤ conn || !(s.conn conn).live then s else
    let s := s.feedDrain conn
    let c := s.conn conn
    match c.unsent with
    | [] => s
    | m :: rest =>
      if c.cwnd < (c.unacked.map Sent.size).sum + 80 + m.bytes.length ∨ c.window < (c.unacked.filter fun p => p.msg.isSome).length then s
      else
        match s.sendPacket conn (some m) none with
        | (false, s) => s
        | (true, s) => s.modConn conn fun c => { c with unsent := rest })

/-! ### Events (R642, R724, R725) -/

def EventRec.bytes (die : Nat) (e : EventRec) : List Byte :=
  leBytes 2 e.code.toNat ++ [BitVec.ofNat 8 (e.severity + 4 * b2n e.injected + 8 * b2n e.first + 16 * b2n e.freeRunning), 0] ++
    leBytes 4 e.source.toNat ++ leBytes 8 e.time.toNat ++ leBytes 4 e.info.toNat ++ leBytes 4 e.extra.toNat ++ leBytes 4 e.seq.toNat ++
    leBytes 1 die ++ leBytes 3 0

/-- A die sends its oldest unsent events, at most 255, once connection 0 has the keys of its boot exchange. -/
def execEventSend (die : Nat) (s : State) : Res :=
  .next (let es := (s.die die).events.take 255
    if !s.side.on ∨ 2 ≤ die ∨ es = [] ∨ !(s.conn 0).live ∨ (s.conn 0).generation.toNat < 2 then s else
    let s := s.modDie die fun d => { d with events := d.events.drop 255 }
    s.sendOwn 0 0x05 (leBytes 2 es.length ++ leBytes 6 0 ++ es.flatMap (EventRec.bytes die)))

/-! ### Opening and closing a connection (R630 to R632, R649) -/

/-- Open or rekey the selected connection. Connection 0 is keyed by the boot exchange alone. -/
def State.openConn (s : State) : State :=
  let n := s.net.sel.toNat
  if n = 0 then s else
  let e := s.freshScalar
  match ecdh e.1 s.net.keyxPeer with
  | none => s.countBad pgTransport
  | some secret =>
    let k := e.2.freshScalar
    let own := ecPublic e.1
    let gen := (s.conn n).generation + 1
    let t := own ++ s.net.keyxPeer ++ leBytes 2 n ++ leBytes 4 gen.toNat
    let s := k.2.modConn n fun c => { c with cfg := c.staged }.rekey gen (relsenKeys own s.net.keyxPeer n gen.toNat secret)
    (s.setNet { s.net with keyxModule := own, keyxSig := ecdsaSign s.identity k.1 (sha384 t) }).restartDrain n

def State.closeConn (s : State) : State :=
  (s.modConn s.net.sel.toNat fun c => { c.rekey c.generation (0, 0) with st := .closed }).restartDrain s.net.sel.toNat

/-- A write of `TRANSPORT.CONN_CTL`: `OPEN` in bit 0, `CLOSE` in bit 1. -/
def State.writeConnCtl (s : State) (v : Word) : State :=
  let s := if v.getLsbD 1 then s.closeConn else s
  if v.getLsbD 0 then s.openConn else s

def execConnOpen (ini : Nat) (s : State) : Res := s.regRow ini pgTransport false fun s => s.writeConnCtl 1
def execConnClose (ini : Nat) (s : State) : Res := s.regRow ini pgTransport false fun s => s.writeConnCtl 2

end Sys2Proof.Machine
end

