-- ==== Sys2Proof/Machine/Messages.lean ====
section
/-! DEFINITION. Messages.lean: the requests COMMAND, DATA_WRITE, DATA_READ and TALLY_REMOTE (R447, R639 to R641, R737), and how a
request is taken and answered. -/

namespace Sys2Proof.Machine

/-! ### Taking and answering a request (R636, R638, R639) -/

/-- The initiator of what a message of connection `n` reads and writes: the die of its port (R616). -/
def State.rxWho (s : State) (n : Nat) : Who := { netWho with die := (s.conn n).rxDie }

/-- A request of connection `n` is applied by `f` when it comes next and nothing holds it. Until the image runs, the connection
accepts only BOOT messages (R661); a request that resets the device gets no response. -/
def State.request (s : State) (n : Nat) (type : Byte) (hdr : MsgHdr) (body : List Byte) (held always : Bool)
    (f : State → State × Answer) : Res :=
  .next (if !s.side.on || held || !s.arrives n type (reqHeader hdr ++ body) then s else
    let s := s.modConn n Conn.applied
    if s.boot.phase ≠ .running then (s.respond n type hdr always ⟨0x0811, []⟩).refuseMalformed n
    else
      let r := f s
      if r.1.boot.phase ≠ .running then r.1 else (r.1.respond n type hdr always r.2).refuseMalformed n)

/-- Statuses of failed requests (R639). -/
def failStatuses : List Nat := [0x0609, 0x0410, 0x0402, 0x0502, 0x0114, 0x0810, 0x0811, 0x0812]

/-- While the device stands stopped under R543 or R544, events, register access and reads of Tier 1 and Tier 2 remain possible
(R546). Another request fails and changes nothing, so that the ones after it are applied; which of the statuses of R639 it
carries is open (log entry 64). -/
def State.whileStopped (s : State) (body : List Byte) (f : State → State × Answer) : State × Answer :=
  if s.power.stop = .none then f s
  else
    let o := s.open_
    (o.2, ⟨failStatuses.getD (o.1 % failStatuses.length) 0x0811, body⟩)

/-! ### COMMAND (R447) -/

/-- Whether queue `q` takes a message of `n` entries. -/
def State.ringTakes (s : State) (q n : Nat) : Bool :=
  let x := s.queue q
  x.ringSize != 0 && ringPlace q x.ringBase.toNat (64 * 2 ^ x.ringSize) && !(decide (q < 512) && s.lfenced (q / 4)) &&
    decide ((x.tail - x.head).toNat + n ≤ 2 ^ x.ringSize)

/-- The entries are written at `TAIL` in order, and `TAIL` advances by their count. -/
def State.appendEntries (s : State) (n q : Nat) (entries : List Entry) : State :=
  let x := s.queue q
  let s := (upTo 0 entries.length).foldl
    (fun s i => (s.writeBytes (s.rxWho n) (x.ringAddr (x.tail.toNat + i)) (leBytes 64 (entries.getD i 0).toNat)).1) s
  (s.modQueue q fun x => { x with tail := x.tail + BitVec.ofNat 32 entries.length }).strikeSeq q

def State.applyCommand (s : State) (n q : Nat) (entries : List Entry) : State × Answer :=
  if 528 ≤ q ∨ entries = [] ∨ 141 < entries.length then (s, ⟨0x0811, []⟩)
  else if s.ringTakes q entries.length then (s.appendEntries n q entries, ⟨0, []⟩)
  else
    let before := (s.queue q).refused
    let s := s.modQueue q fun x => { x with refused := satInc x.refused }
    (s.raiseRare (s.pgQueue q) 0x0609 (queueInfo s q 0) before, ⟨0x0609, []⟩)

def execCommand (conn : Nat) (hdr : MsgHdr) (q : Nat) (entries : List Entry) (s : State) : Res :=
  s.request conn 0x01 hdr (commandBody q entries) s.holdsWrites false
    fun s => s.whileStopped [] fun s => s.applyCommand conn q entries

/-! ### DATA_WRITE and DATA_READ (R171, R313, R326, R401, R406, R573) -/

/-- Status of a request for `len` bytes at `addr`, before any access: 0 where it may go on. -/
def State.dataStatus (s : State) (addr len : Nat) (write : Bool) : Nat :=
  if len = 0 ∨ 8192 < len then 0x0811
  else
    match wholePlace addr len with
    | none => 0x0810
    | some (.ledger l _) => if s.lfenced l then 0x0410 else if write then 0x0810 else 0
    | some _ => if s.fencedWindow addr then 0x0410 else 0

/-- A write to an unfenced ledger window is dropped and counted there, and fails. -/
def State.applyWrite (s : State) (n addr : Nat) (data : List Byte) : State × Answer :=
  match s.dataStatus addr data.length true with
  | 0 =>
    let w := s.writeBytes (s.rxWho n) addr data
    (w.1, ⟨w.2.toNat, []⟩)
  | st => if st = 0x0810 then ((s.writeBytes (s.rxWho n) addr data).1, ⟨st, []⟩) else (s, ⟨st, []⟩)

def execDataWrite (conn : Nat) (hdr : MsgHdr) (addr : Nat) (data : List Byte) (s : State) : Res :=
  s.request conn 0x02 hdr (dataBody addr data.length data) s.holdsWrites false
    fun s => s.whileStopped [] fun s => s.applyWrite conn (addr % 2 ^ 48) data

/-- The response carries the request's address and length, and the data where the read succeeded. -/
def State.applyRead (s : State) (n addr len : Nat) : State × Answer :=
  match s.dataStatus addr len false with
  | 0 =>
    let r := s.read (s.rxWho n) addr len
    if r.1.code = 0 then (r.2, ⟨0, dataBody addr len (blockBytes r.1.blk len)⟩) else (r.2, ⟨r.1.code.toNat, dataBody addr len []⟩)
  | st => (s, ⟨st, dataBody addr len []⟩)

/-- While the device stands stopped under R543 or R544, of the memories only Tier 1 and Tier 2 can be read (R546). -/
def State.readWhileStopped (s : State) (n addr len : Nat) : State × Answer :=
  match (placeOf addr).map Place.isTier with
  | some false => s.whileStopped (dataBody addr len []) fun s => s.applyRead n addr len
  | _ => s.applyRead n addr len

def execDataRead (conn : Nat) (hdr : MsgHdr) (addr len : Nat) (s : State) : Res :=
  s.request conn 0x03 hdr (dataBody addr (len % 2 ^ 32) []) false true fun s => s.readWhileStopped conn (addr % 2 ^ 48) (len % 2 ^ 32)

/-! ### TALLY_REMOTE (R341, R737) -/

/-- One pair: a signal from outside the core; dropped for a fenced core (R340). -/
def State.applyPair (s : State) (p : BitVec 16 × BitVec 16) : State :=
  let l := tallyCore p.1.toNat
  if s.lfenced l then s else s.reachTally netSource p.1 p.2 0x07

def State.applyTallies (s : State) (pairs : List (BitVec 16 × BitVec 16)) : State × Answer :=
  if pairs = [] ∨ 64 < pairs.length ∨ pairs.any (fun p => tallyReserved p.1.toNat) then (s, ⟨0x0811, []⟩)
  else (pairs.foldl State.applyPair s, ⟨if pairs.any fun p => s.lfenced (tallyCore p.1.toNat) then 0x0410 else 0, []⟩)

def execTallyRemote (conn : Nat) (hdr : MsgHdr) (pairs : List (BitVec 16 × BitVec 16)) (s : State) : Res :=
  s.request conn 0x07 hdr (tallyBody pairs) s.holdsWrites false
    fun s => s.whileStopped [] fun s => s.applyTallies pairs

end Sys2Proof.Machine
end

