-- ==== Sys2Proof/Machine/Quant.lean ====
section
/-! DEFINITION. Quant.lean: the quantise unit: rotation, codes, statistics, passes, verdicts and re-runs, and the loads and
reads of its records and registers (R173 to R225, R736). -/

namespace Sys2Proof.Machine

def State.modQuant (s : State) (l : Nat) (f : Quant → Quant) : State :=
  s.modLcore l fun c => { c with quant := f c.quant }

/-- Change slot `n`. -/
def Quant.modSlot (u : Quant) (n : Nat) (f : Slot → Slot) : Quant := { u with slots := nmod .reset u.slots n f }
def Quant.slot (u : Quant) (n : Nat) : Slot := nget .reset u.slots n

/-! ### Operands (R218) -/

def qFirst (e : Entry) : Bool := fbit e 16 0
def qLast (e : Entry) : Bool := fbit e 16 1
def qSign (e : Entry) : Bool := fbit e 16 2
def qRotate (e : Entry) : Bool := fbit e 16 3
def qSmooth (e : Entry) : Bool := fbit e 16 4
def qDynamic (e : Entry) : Bool := fbit e 16 5
def qStochastic (e : Entry) : Bool := fbit e 16 6
def qChannels (e : Entry) : Bool := fbit e 16 7
def qBase (e : Entry) : Nat := fbits e 17 1 0
def qWidest (e : Entry) : Nat := fbits e 17 3 2
def qBf16 (e : Entry) : Bool := fbit e 17 4
def qBlocks (e : Entry) : Nat := fld e 19 1
def qVectors (e : Entry) : Nat := fld e 20 2
def qFirstBlock (e : Entry) : Nat := fld e 22 2
def qSrc (e : Entry) : Nat := fld e 24 4
def qSrcVec (e : Entry) : Nat := fld e 28 4
def qSrcBlk (e : Entry) : Nat := fld e 32 4
def qDst (e : Entry) : Nat := fld e 36 4
def qDstVec (e : Entry) : Nat := fld e 40 4
def qDstBlk (e : Entry) : Nat := fld e 44 4
def qSmoothBase (e : Entry) : Nat := fld e 48 2
def qExtent (e : Entry) : Nat := fld e 50 2
def qStats (e : Entry) : Nat := fld e 52 4
def qRecord (e : Entry) : Nat := fld e 56 4
def qAlpha (e : Entry) : Nat := fbits e 60 3 0
def noOffset : Nat := 0xFFFFFFFF

/-- Bits of a width code: 0 A2, 1 A4, 2 A8, 3 A16. -/
def widthBits (w : Nat) : Nat := 2 * 2 ^ w
/-- Bytes of a block at a width code (R63). -/
def blockSize (w : Nat) : Nat := 32 * widthBits w
/-- Width code that the destination is sized for (R210). -/
def qFootWidth (e : Entry) : Nat := if qWidest e = 0 then qBase e else qWidest e
/-- Valid channels of local block `i`. -/
def qValid (e : Entry) (i : Nat) : Nat := if i + 1 = qBlocks e then qExtent e else 256
def qElem (e : Entry) : Nat := if qBf16 e then 2 else 4

def srcAt (e : Entry) (i v : Nat) : Nat := qSrc e + i * qSrcBlk e + v * qSrcVec e
def dstAt (e : Entry) (i v : Nat) : Nat := qDst e + i * qDstBlk e + v * qDstVec e

/-- Block-vectors of a command, in the order of R216. -/
def blockVectors (e : Entry) : List (Nat × Nat) :=
  (upTo 0 (qBlocks e)).flatMap fun i => (upTo 0 (qVectors e)).map fun v => (i, v)

/-- Bytes that the command writes at its statistics offset (R199). -/
def statsBytes (e : Entry) : Nat := if qChannels e then 1024 + 3104 * qBlocks e else 16 * qBlocks e
def hasStats (e : Entry) : Bool := qStats e != noOffset
def hasRecord (e : Entry) : Bool := qLast e && qRecord e != noOffset
def recordBytes (e : Entry) : Nat := 32 + if qDynamic e then 8 * qVectors e else 0

/-- One past the last byte of an image of block-vectors. -/
def imageEnd (off blk vec nb nv size last : Nat) : Nat :=
  max (off + (nb - 1) * blk + (nv - 1) * vec + last) (if 2 ≤ nb then off + (nb - 2) * blk + (nv - 1) * vec + size else 0)

/-- R219, R734. -/
def quantiseOk (k : Nat) (e : Entry) : Bool :=
  fbits e 17 7 5 == 0 && fbits e 18 7 4 == 0 && fbits e 60 7 4 == 0 && fzero e 61 3 && decide (qSmoothBase e < 0x1000) &&
    decide (qBase e ≠ 3) && within 1 64 (qBlocks e) && within 1 512 (qVectors e) && within 0 511 (qFirstBlock e) &&
    within 1 256 (qExtent e) && within 0 8 (qAlpha e) && (qWidest e == 0 || decide (qBase e ≤ qWidest e)) &&
    [qSrc e, qSrcVec e, qSrcBlk e, qDst e, qDstVec e, qDstBlk e].all (mult 32) &&
    (!hasStats e || mult 32 (qStats e)) && (qRecord e == noOffset || mult 32 (qRecord e)) &&
    (!qSmooth e || decide (qSmoothBase e + 256 * qBlocks e ≤ 4096)) &&
    (qWidest e == 0 || decide (blockSize (qWidest e) ≤ min (qDstVec e) (qDstBlk e))) &&
    decide (imageEnd (qSrc e) (qSrcBlk e) (qSrcVec e) (qBlocks e) (qVectors e) (256 * qElem e) (qExtent e * qElem e) ≤ scratchSize) &&
    decide (imageEnd (qDst e) (qDstBlk e) (qDstVec e) (qBlocks e) (qVectors e) (blockSize (qFootWidth e))
      (blockSize (qFootWidth e)) ≤ scratchSize) &&
    (!hasStats e || decide (qStats e + statsBytes e ≤ scratchSize)) &&
    (!hasRecord e || decide (qRecord e + recordBytes e ≤ scratchSize)) &&
    names (quantMask e) k && verdictId e != 0 && !(qDynamic e && qLast e && qRecord e == noOffset)

/-! ### Scratchpad operands (R321, R327) -/

def srcRanges (e : Entry) : List Rng :=
  (blockVectors e).map fun x => rng (srcAt e x.1 x.2) (qValid e x.1 * qElem e)
def dstRanges (e : Entry) : List Rng :=
  (blockVectors e).map fun x => rng (dstAt e x.1 x.2) (blockSize (qFootWidth e))
def statRanges (e : Entry) : List Rng :=
  if !hasStats e then []
  else rng (qStats e) (16 * qBlocks e) :: if qChannels e then [rng (qStats e + 1024) (3104 * qBlocks e)] else []
def recRanges (e : Entry) : List Rng := if hasRecord e then [rng (qRecord e) (recordBytes e)] else []

def quantiseAccess (e : Entry) : List Access :=
  accessOf false (srcRanges e) ++ accessOf true (dstRanges e) ++ accessOf true (statRanges e) ++ accessOf true (recRanges e)

def slotsIn (rs : List Rng) : List Nat := (rs.flatMap Rng.slots).eraseDups

/-! ### Steps 1 to 3 (R174 to R178) -/

/-- One butterfly stage with half-width `h` over a list; `n` bounds the chunks. -/
def butterfly (h : Nat) : Nat → List Word → List Word
  | 0, xs => xs
  | n + 1, xs =>
    match xs with
    | [] => []
    | _ =>
      let a := xs.take h
      let b := (xs.drop h).take h
      List.zipWith fAdd a b ++ List.zipWith fSub a b ++ butterfly h n (xs.drop (2 * h))

/-- The 256-point transform of R176. -/
def hadamard (xs : List Word) : List Word :=
  ((upTo 0 8).foldl (fun xs m => butterfly (2 ^ m) 256 xs) xs).map fun x => fMul x 0x3D800000

/-- Source values of a block-vector: FP32, or BF16 widened. -/
def sourceValues (e : Entry) (blk : NMap Byte) (n : Nat) : List Word :=
  (upTo 0 n).map fun c => if qBf16 e then bf16Word (blkNat blk (2 * c) 2) else BitVec.ofNat 32 (blkNat blk (4 * c) 4)

/-- x″ of the 256 channels of local block `i`; none for a channel past the extent that takes no part (R177). -/
def Quant.transform (u : Quant) (rec_ : ScaleRec) (e : Entry) (i : Nat) (xs : List Word) : List (Option Word) :=
  let signed := if qSign e then xs.zipIdx.map fun x => if rec_.sign.getLsbD x.2 then fNeg x.1 else x.1 else xs
  let ys : List (Option Word) :=
    if qRotate e then (hadamard (signed ++ List.replicate (256 - signed.length) 0)).map some
    else signed.map some ++ List.replicate (256 - signed.length) none
  if qSmooth e then
    ys.zipIdx.map fun y => y.1.map fun x => fDiv x (nget 0x3F800000 u.scale (qSmoothBase e + 256 * i + y.2))
  else ys

/-! ### Scale, zero point and codes (R180 to R184) -/

/-- A scale with what goes with it; `flat` holds c when the range is flat. -/
structure QScale where
  s : Word
  z : Nat
  inv : Word
  flat : Option Word
  bits : Nat

def scaleOf (lo hi : Word) (bits : Nat) : QScale :=
  let top : Nat := 2 ^ bits - 1
  let flat := fKey lo == fKey hi
  let lo' := if fLt lo 0 then lo else 0
  let hi' := if fLt 0 hi then hi else 0
  if fKey lo' = fKey hi' then ⟨minNormal, 0, fDiv fOne minNormal, if flat then some lo else none, bits⟩
  else
    let s0 := fDiv (fSub hi' lo') (fOfInt (top : Int))
    let s := fMin (fMax s0 minNormal) maxF32
    let r : Int := flRound (fl32 (fDiv (fSub 0 lo') s))
    let z : Nat := if flat && fLt lo 0 then top else min r.toNat top
    ⟨s, z, fDiv fOne s, if flat then some lo else none, bits⟩

/-- What becomes of an element: its code, whether it clipped, whether it counts as finite. -/
structure Coded where
  code : Nat
  clipped : Bool
  finite : Bool

/-- R181, R182, R184; `draw` is the 24-bit draw of a stochastic command. -/
def QScale.code (k : QScale) (draw : Option Nat) (x : Word) : Coded :=
  let top : Nat := 2 ^ k.bits - 1
  if isNan x then ⟨k.z, false, false⟩
  else if !isFinite x then ⟨if x.getLsbD 31 then 0 else top, false, false⟩
  else if k.flat.any (fun c => fKey c == fKey x) then ⟨if fLt 0 x then top else 0, false, true⟩
  else
    let t := fl32 (fMul x k.inv)
    match t with
    | .inf neg => ⟨if neg then 0 else top, true, true⟩
    | _ =>
      let q : Int := match draw with
        | none => flRound t
        | some r => if fracAbove t r then flFloor t + 1 else flFloor t
      let c : Int := q + (k.z : Int)
      if c < 0 then ⟨0, true, true⟩ else if c > (top : Int) then ⟨top, true, true⟩ else ⟨c.toNat, false, true⟩

/-- The draw of R183 for global channel `g` of vector `v`. -/
def drawOf (seed : DWord) (tag v g rung : Nat) : Nat :=
  ((philox seed.toNat (g / 4) v tag rung).getD (g % 4) 0) / 256

/-- Global channel of channel 0 of local block `i`. -/
def globalBase (e : Entry) (i : Nat) : Nat := 256 * (qFirstBlock e + i * maskCount (quantMask e))

/-- Codes of one block-vector at a scale. -/
def codesOf (k : QScale) (e : Entry) (seed : DWord) (i v rung : Nat) (xs : List (Option Word)) : List Coded :=
  xs.zipIdx.map fun x =>
    match x.1 with
    | none => ⟨k.z, false, false⟩
    | some y => k.code (if qStochastic e then some (drawOf seed (verdictTag e) v (globalBase e i + x.2) rung) else none) y

/-- Slice-planar image of 256 codes of `n` slices (R63). -/
def packSlices (n : Nat) (codes : List Nat) : NMap Byte :=
  blockOf 0 ((upTo 0 n).flatMap fun k => (upTo 0 64).map fun b =>
    BitVec.ofNat 8 (((codes.drop (4 * b)).take 4).zipIdx.map (fun c => c.1 / 4 ^ k % 4 * 4 ^ c.2)).sum)

/-! ### Statistics (R197, R198, R736) -/

/-- One element enters the statistics. Of +0 and −0 the one seen first stays the minimum or maximum (DESIGN CHOICE, log entry
99). -/
def Stats.take (t : Stats) (k : QScale) (x : Word) (c : Coded) : Stats :=
  if !c.finite then { t with nonfinite := satInc t.nonfinite }
  else
    let d := w32 ((fl32 x).add ((fl32 k.s).mul (.fin (decide (c.code < k.z)) ((c.code : Int) - k.z).natAbs 0)).neg)
    { elements := satInc t.elements, pmin := fMin t.pmin x, pmax := fMax t.pmax x
      clipped := if c.clipped then satInc t.clipped else t.clipped, nonfinite := t.nonfinite
      minCode := BitVec.ofNat 16 (min t.minCode.toNat c.code), maxCode := BitVec.ofNat 16 (max t.maxCode.toNat c.code)
      sse := dAdd t.sse (dSquare d), signal := dAdd t.signal (dSquare x) }

/-- The channels of one block-vector enter the statistics, in ascending channel order: R198 orders the block-vectors alone (DESIGN
CHOICE, log entry 99). -/
def Stats.takeAll (t : Stats) (k : QScale) (xs : List (Option Word)) (cs : List Coded) : Stats :=
  (List.zip xs cs).foldl (fun t y => match y.1 with
    | none => t
    | some x => t.take k x y.2) t

/-- Statistics of two members together (R198). -/
def Stats.join (a b : Stats) : Stats :=
  { elements := satAdd a.elements b.elements.toNat, pmin := fMin a.pmin b.pmin, pmax := fMax a.pmax b.pmax
    clipped := satAdd a.clipped b.clipped.toNat, nonfinite := satAdd a.nonfinite b.nonfinite.toNat
    minCode := BitVec.ofNat 16 (min a.minCode.toNat b.minCode.toNat)
    maxCode := BitVec.ofNat 16 (max a.maxCode.toNat b.maxCode.toNat)
    sse := dAdd a.sse b.sse, signal := dAdd a.signal b.signal }

def joinAll : List Stats → Stats
  | [] => .empty
  | t :: ts => ts.foldl Stats.join t

/-- Minimum and maximum of a channel over a command (R200); of two zeros the one seen first stays (log entry 99). -/
structure Chan where
  lo : Word
  hi : Word

def Chan.none : Chan := ⟨0x7F800000, 0xFF800000⟩

def Chan.take (c : Chan) (x : Option Word) : Chan :=
  match x with
  | some w => if isFinite w then ⟨fMin c.lo w, fMax c.hi w⟩ else c
  | .none => c

/-- Nearest integer to n / 8 · log2 a for a > 0, ties to even, decided on integers. -/
def proposalExp (n : Nat) (a : Fl) : Int :=
  match a with
  | .fin _ m e =>
    let l := log2Rat (m ^ n) 1 + e * n
    if 2 ^ Nat.log2 m = m ∨ n = 0 then
      let q := l.fdiv 8
      let r := l - 8 * q
      if r > 4 ∨ (r = 4 ∧ q % 2 ≠ 0) then q + 1 else q
    else (2 * l + 1 + 8).fdiv 16
  | _ => 0

def Chan.flat (c : Chan) : Bool := fKey c.lo == fKey c.hi

/-- Proposed smoothing factor (R200). -/
def Chan.proposal (c : Chan) (alpha : Nat) : Word :=
  if c.flat || !isFinite c.lo then fOne
  else
    let a := fMax (c.lo &&& 0x7FFFFFFF) (c.hi &&& 0x7FFFFFFF)
    fPow2 (max (-126) (min 127 (proposalExp alpha (fl32 a))))

/-- The 3,104 B channel record of a block (R199). -/
def channelRecord (alpha : Nat) (cs : List Chan) : List Byte :=
  let words := fun (ws : List Word) => ws.flatMap fun w => leBytes 4 w.toNat
  words (cs.map Chan.lo) ++ words (cs.map Chan.hi) ++ words (cs.map (Chan.proposal · alpha)) ++
    leBytes 32 ((cs.zipIdx.map fun c => b2n c.1.flat * 2 ^ c.2).sum)

/-! ### Serving a command -/

def quantWho (q : Nat) : Who := unitWho q 4

/-- Read a block-vector and take it through steps 1 to 3. -/
def State.quantSource (s : State) (j : Job) (i v : Nat) : State × List (Option Word) × BitVec 16 :=
  let e := j.cmd
  let l := j.q / 4
  let n := qValid e i
  let r := s.read (quantWho j.q) (scratchAddr l (srcAt e i v)) (n * qElem e)
  let u := (s.lcore l).quant
  (r.2, u.transform (u.slot (verdictSlot e)).record e i (sourceValues e r.1.blk n), r.1.code)

/-- Write the codes of a block-vector. -/
def State.quantWrite (s : State) (j : Job) (i v : Nat) (k : QScale) (cs : List Coded) : State × BitVec 16 :=
  s.write (quantWho j.q) (scratchAddr (j.q / 4) (dstAt j.cmd i v)) (32 * k.bits) (packSlices (k.bits / 2) (cs.map Coded.code))

/-- What a command gathers while it quantises. -/
structure QAcc where
  s : State
  stats : Stats
  groups : List Stats          -- one for each local block, the latest last
  chans : List (List Chan)
  clips : Nat
  code : BitVec 16             -- not 0: a word that could not be read ended the command

def setLast {α : Type} (d : α) (f : α → α) : List α → List α
  | [] => [f d]
  | [x] => [f x]
  | x :: xs => x :: setLast d f xs

/-- Quantise one block-vector at a scale that may depend on the vector. -/
def QAcc.step (j : Job) (scale : Nat → QScale) (rung : Nat) (a : QAcc) (x : Nat × Nat) : QAcc :=
  if a.code ≠ 0 then a else
  let e := j.cmd
  let src := a.s.quantSource j x.1 x.2
  if src.2.2 ≠ 0 then { a with s := src.1, code := src.2.2 } else
  let k := scale x.2
  let seed := ((src.1.lcore (j.q / 4)).quant.slot (verdictSlot e)).record.seed
  let cs := codesOf k e seed x.1 x.2 rung src.2.1
  let w := src.1.quantWrite j x.1 x.2 k cs
  let first := x.2 == 0
  { s := w.1, stats := a.stats.takeAll k src.2.1 cs
    groups := setLast .empty (fun t => t.takeAll k src.2.1 cs) (if first then a.groups ++ [.empty] else a.groups)
    chans := if qChannels e then
        setLast [] (fun c => List.zipWith Chan.take c src.2.1)
          (if first then a.chans ++ [List.replicate 256 Chan.none] else a.chans)
      else []
    clips := a.clips + (cs.filter Coded.clipped).length, code := w.2 }

def State.quantAll (s : State) (j : Job) (scale : Nat → QScale) (rung : Nat) (stats : Stats) : QAcc :=
  (blockVectors j.cmd).foldl (QAcc.step j scale rung) ⟨s, stats, [], [], 0, 0⟩

/-- Write the group and channel statistics of a command (R199). -/
def QAcc.writeStats (a : QAcc) (j : Job) : QAcc :=
  let e := j.cmd
  let l := j.q / 4
  if a.code ≠ 0 || !hasStats e then a else
  let g := a.s.writeBytes (quantWho j.q) (scratchAddr l (qStats e))
    (a.groups.flatMap fun t => leBytes 8 t.sse.toNat ++ leBytes 8 t.signal.toNat)
  if g.2 ≠ 0 then { a with s := g.1, code := g.2 }
  else if qChannels e then
    let c := g.1.writeBytes (quantWho j.q) (scratchAddr l (qStats e + 1024)) (a.chans.flatMap (channelRecord (qAlpha e)))
    { a with s := c.1, code := c.2 }
  else { a with s := g.1 }

/-- A dynamic command's first read: the range of each vector (R214). -/
def State.dynamicRead (s : State) (j : Job) : State × BitVec 16 :=
  (blockVectors j.cmd).foldl (fun (a : State × BitVec 16) x =>
    if a.2 ≠ 0 then a else
    let src := a.1.quantSource j x.1 x.2
    if src.2.2 ≠ 0 then (src.1, src.2.2) else
    let c := src.2.1.foldl Chan.take Chan.none
    (src.1.modQuant (j.q / 4) fun u =>
      { u with
        vmin := nmod 0x7F800000 u.vmin x.2 fun w => fMin w c.lo
        vmax := nmod 0xFF800000 u.vmax x.2 fun w => fMax w c.hi }, 0)) (s, 0)

/-- The delayed scale at a width (R180). -/
def Slot.delayed (t : Slot) (w : Nat) : QScale := scaleOf t.record.lo t.record.hi (widthBits w)

/-- A command ends at a word that cannot be read: no further result, no signal (R316). -/
def State.quantEnd (s : State) (j : Job) (code : BitVec 16) : State :=
  (s.modQuant (j.q / 4) fun u => { u with unit := u.unit.filter fun x => !(x.job.q == j.q && x.job.id == j.id) }).dropJob j code

/-- A `LAST` leaves the exchange: its slot returns to IDLE and its queue stops (R194, R195, R572). -/
def State.quantLeave (s : State) (j : Job) (code : BitVec 16) : State :=
  let n := verdictSlot j.cmd
  let jobs := (s.slot (j.q / 4) n).cmds
  let s := s.modQuant (j.q / 4) fun u =>
    { u.idleSlot n with unit := u.unit.filter fun x => !(x.job.q == j.q && x.job.id == j.id) }
  (jobs.foldl (fun s x => s.releaseJob x) s).endJob j (s.quantStop j.q n code)

/-- Release the scoreboard entries of a command of a pass that the pass no longer needs (R329): its statistics, which a dynamic
pass writes at its exchange, and the source unless a re-run may read it. The verdict record of a `LAST` is written as the pass
settles. -/
def State.releasePart (s : State) (j : Job) : State :=
  let e := j.cmd
  let keep := accessOf true (dstRanges e) ++ accessOf true (recRanges e) ++
    (if qDynamic e then accessOf true (statRanges e) else []) ++
    (if qWidest e = 0 ∧ !qDynamic e then [] else accessOf false (srcRanges e))
  let stays := fun (b : SbEntry) => b.id != j.id || b.q != j.q ||
    keep.any (fun a => a.hull.lo == b.lo && a.hull.hi == b.hi && a.write == b.write)
  s.modLcore (j.q / 4) fun c => { c with scr := { c.scr with sb := c.scr.sb.filter stays } }

/-- The unit serves a QUANTISE that has issued. -/
def State.quantServe (s : State) (j : Job) : State :=
  let e := j.cmd
  let l := j.q / 4
  let n := verdictSlot e
  let t := s.slot l n
  let r : State × BitVec 16 :=
    if qDynamic e then s.dynamicRead j
    else
      let k := t.delayed (qBase e)
      let a := (s.quantAll j (fun _ => k) 0 t.stats).writeStats j
      (a.s.modQuant l fun u =>
        let u := u.modSlot n fun t => { t with stats := a.stats }
        { u with nonfinite := satAdd u.nonfinite (a.stats.nonfinite.toNat - t.stats.nonfinite.toNat) }, a.code)
  if r.2 ≠ 0 then r.1.quantEnd j r.2
  else if qLast e ∧ r.1.maskFenced l (quantMask e) then r.1.quantLeave j 0x0219
  else if qLast e then r.1.releasePart j
  else r.1

/-! ### Issue (R189, R191, R192, R215) -/

/-- A `LAST` that holds the unit until its pass settles (R192). -/
def Quant.held (u : Quant) : Bool := u.unit.any fun x => decide (x.kind = .quantise) && qLast x.job.cmd

/-- Checks of R191, R215 and R189 on the named slot. -/
def State.passStop (s : State) (q : Nat) (e : Entry) : Option Stop :=
  let u := (s.lcore (q / 4)).quant
  let n := verdictSlot e
  let t := u.slot n
  let bad := some (s.quantStop q n 0x0210)
  if qFirst e then
    if t.st = .pending then bad
    else if qDynamic e ∧ u.slots.any (fun x => decide (x.2.st = .pending) && x.2.dynamic) then bad
    else if !qDynamic e ∧ !t.record.valid then some (s.quantStop q n 0x0215)
    else none
  else if t.st ≠ .pending ∨ t.tag.toNat ≠ verdictTag e ∨ t.q ≠ q ∨ 16 ≤ t.cmds.length ∨ t.dynamic ≠ qDynamic e ∨
      t.stochastic ≠ qStochastic e ∨ t.base ≠ qBase e ∨ t.widest ≠ qWidest e then bad
  else none

/-- Steps 5 to 7 of a QUANTISE, in the order of R459. Within step 5 the operands (0x0216) are tested before the pass (0x0210) and
the pass before the record (0x0215): R191, R215 and R219 give no order (DESIGN CHOICE, log entry 111). -/
def quantiseGate (q : Nat) (s : State) (e : Entry) : Gate :=
  if !quantiseOk (q / 4 % 4) e then .stop (s.quantStop q (verdictSlot e) 0x0216)
  else match s.passStop q e with
    | some st => .stop st
    | none =>
      if !s.guardOk q (quantiseAccess e) then .hold 6
      else if (s.lcore (q / 4)).quant.held then .hold 7 else .go

/-- The slot as a command of its pass leaves it at issue. -/
def Slot.enter (t : Slot) (j : Job) : Slot :=
  let e := j.cmd
  if qFirst e then
    { t with
      st := .pending, tag := BitVec.ofNat 24 (verdictTag e), q := j.q, dynamic := qDynamic e, stochastic := qStochastic e
      base := qBase e, widest := qWidest e, cmds := [j], stats := .empty, joint := .empty, settledWidth := qBase e, scale := 0, zp := 0
      verdict := 0, vscale := [], vzp := [] }
  else { t with cmds := t.cmds ++ [j] }

def execQuantise (q : Nat) (s : State) : Res :=
  .next (s.tryIssue q (hasOp 0x30) (quantiseGate q) fun s e =>
    let j := s.newJob q e
    let s := (s.issue q).enterJob j (quantiseAccess e)
    let s := s.modQuant (q / 4) fun u =>
      let u := u.modSlot (verdictSlot e) (Slot.enter · j)
      let u := if qFirst e && qDynamic e then { u with vmin := [], vmax := [] } else u
      { u with unit := u.unit ++ [⟨j, .quantise, 1⟩] }
    s.quantServe j)

/-- A command without `LAST` completes (R216): its statistics are final and its signal fires. -/
def execQuantiseCommandComplete (core : Nat) (s : State) : Res :=
  .next (match decide (core < 128), (s.lcore core).quant.unit with
    | true, x :: rest =>
      if x.kind = .quantise ∧ !qLast x.job.cmd then
        let s := s.modQuant core fun u => { u with unit := rest }
        let s := if qDynamic x.job.cmd then s else s.fillSlots core (slotsIn (statRanges x.job.cmd))
        (s.releasePart x.job).finish x.job
      else s
    | _, _ => s)

/-! ### The exchange (R193 to R195) -/

/-- The `LAST` that waits at the exchange in core `l`. -/
def State.waitingLast (s : State) (l : Nat) : Option Job :=
  ((s.lcore l).quant.unit.find? QuantJob.waiting).map fun x => x.job

/-- What the members agree on (R194). -/
def lastKey (e : Entry) : List Nat :=
  [quantMask e, qBase e, qWidest e, b2n (qDynamic e), b2n (qStochastic e), qVectors e]

/-- Raise one of the unit's events where the lowest member's enable allows it (R206). -/
def State.quantEvent (s : State) (lead : Job) (bit : Nat) (code : BitVec 16) : State :=
  let l := lead.q / 4
  if (s.lcore l).quant.eventEn.getLsbD bit then
    s.raise (s.pgL l bQuant) code noted (verdictSlot lead.cmd % 256 + lead.q % 4 * 256)
  else s

/-- A scale has been formed from a flat range (R181). -/
def State.countFlat (s : State) (lead : Job) (flat : Option Word) : State :=
  match flat with
  | none => s
  | some c =>
    (s.modQuant (lead.q / 4) fun u =>
      if fLt 0 c then { u with flatPos := satInc u.flatPos }
      else if fLt c 0 then { u with flatNeg := satInc u.flatNeg } else { u with flatZero := satInc u.flatZero }).quantEvent lead 4
      0x0205

/-- Verdict of R201: `CLIP_OVER` and `UNDERUSED`. -/
def Stats.verdict (t : Stats) (bits : Nat) (threshold : Nat) : Bool × Bool :=
  if t.elements = 0 then (false, false)
  else (decide (threshold * t.elements.toNat < t.clipped.toNat * 65536),
    decide (16 * (t.maxCode.toNat - t.minCode.toNat) < 2 ^ bits - 1) && decide (fKey t.pmin ≠ fKey t.pmax))

/-- How a verdict is answered (R203, R205): nothing, a widening, or a rescale. -/
inductive Rerun where
  | none | widen | rescale
deriving DecidableEq, Repr

def rerunOf (service : Bool) (base widest : Nat) (v : Bool × Bool) : Rerun :=
  if !(v.1 || v.2) || !service || widest == 0 then .none else if base < widest then .widen else .rescale

/-- Re-quantise every block-vector of a pass at a scale; the code tells of a word that could not be read. -/
def State.requantise (s : State) (j : Job) (scale : Nat → QScale) (rung : Nat) (stats : Stats) (first : Bool) :
    State × Stats × Nat × BitVec 16 :=
  ((s.slot (j.q / 4) (verdictSlot j.cmd)).cmds).foldl (fun (a : State × Stats × Nat × BitVec 16) c =>
    if a.2.2.2 ≠ 0 then a else
    let r := a.1.quantAll c scale rung a.2.1
    let r := if first then r.writeStats c else r
    (r.s, r.stats, a.2.2.1 + r.clips, r.code)) (s, stats, 0, 0)

/-- Enter what a member settles with; `t` are the combined statistics. -/
def State.setVerdict (s : State) (j : Job) (t : Stats) (width : Nat) (k : QScale) (bits : Nat) : State :=
  s.modQuant (j.q / 4) fun u => u.modSlot (verdictSlot j.cmd) fun x =>
    { x with
      joint := t, settledWidth := width, scale := k.s, zp := BitVec.ofNat 16 k.z
      verdict := BitVec.ofNat 8 (bits + 32 * b2n k.flat.isSome) }

/-- A member's exchange is done, or its re-run met a lost word. -/
def State.exchanged (s : State) (j : Job) (code : BitVec 16) : State :=
  if code ≠ 0 then s.quantEnd j code
  else s.modQuant (j.q / 4) fun u =>
    { u with unit := u.unit.map fun x => if x.job.q = j.q ∧ x.job.id = j.id then { x with phase := 2 } else x }

/-- Verdict, and re-run if any, of one member of a pass that is not dynamic. -/
def State.judge (s : State) (lead : Bool) (t : Stats) (j : Job) : State :=
  let e := j.cmd
  let l := j.q / 4
  let x := s.slot l (verdictSlot e)
  let v := t.verdict (widthBits (qBase e)) x.record.clip.toNat
  let r := rerunOf (decide (s.boot.mode = 0)) (qBase e) (qWidest e) v
  let bits := b2n v.1 + 2 * b2n v.2 + 4 * b2n (r == .widen) + 8 * b2n (r == .rescale) + 16 * b2n (decide (t.nonfinite ≠ 0))
  let s := if !lead then s else
    let s := s.modQuant l fun u =>
      { u with
        clipOver := if v.1 then satInc u.clipOver else u.clipOver
        underuse := if v.2 then satInc u.underuse else u.underuse
        widened := if r = .widen then satInc u.widened else u.widened
        rescaled := if r = .rescale then satInc u.rescaled else u.rescaled }
    let s := if t.nonfinite ≠ 0 then s.quantEvent j 5 0x0213 else s
    match r with
    | .widen => s.quantEvent j 2 0x0203
    | .rescale => s.quantEvent j 3 0x0204
    | .none =>
      let s := if v.1 then s.quantEvent j 0 0x0201 else s
      if v.2 then s.quantEvent j 1 0x0202 else s
  if r = .none then (s.setVerdict j t (qBase e) (x.delayed (qBase e)) bits).exchanged j 0
  else
    let w := if r = .widen then qBase e + 1 else qBase e
    let k := scaleOf t.pmin t.pmax (widthBits w)
    let s := if lead then s.countFlat j k.flat else s
    let q := s.requantise j (fun _ => k) 1 .empty false
    let s := q.1.modQuant l fun u => { u with rerunClips := satAdd u.rerunClips q.2.2.1 }
    (s.setVerdict j t w k bits).exchanged j q.2.2.2

/-- Range of a vector over the members; none has a finite element: [0, 0] (R214). -/
def State.vectorRange (s : State) (ls : List Nat) (v : Nat) : Word × Word :=
  let lo := ls.foldl (fun w l => fMin w (nget 0x7F800000 (s.lcore l).quant.vmin v)) 0x7F800000
  let hi := ls.foldl (fun w l => fMax w (nget 0xFF800000 (s.lcore l).quant.vmax v)) 0xFF800000
  if lo = 0x7F800000 then (0, 0) else (lo, hi)

/-- The exchange of a dynamic pass: each member quantises with the scale of each vector (R214). -/
def State.exchangeDynamic (s : State) (js : List Job) (lead : Job) : State :=
  let ls := js.map fun j => j.q / 4
  let n := qVectors lead.cmd
  let ks := (upTo 0 n).map fun v => let r := s.vectorRange ls v; scaleOf r.1 r.2 (widthBits (qBase lead.cmd))
  let scale := fun v => ks.getD v (scaleOf 0 0 (widthBits (qBase lead.cmd)))
  let s := ks.foldl (fun s k => s.countFlat lead k.flat) s
  let done := js.foldl (fun (a : State × List (Job × Stats × BitVec 16)) j =>
    let q := a.1.requantise j scale 0 .empty true
    let s := q.1.modQuant (j.q / 4) fun u => { u with nonfinite := satAdd u.nonfinite q.2.1.nonfinite.toNat }
    (s, a.2 ++ [(j, q.2.1, q.2.2.2)])) (s, [])
  let t := joinAll (done.2.map fun x => x.2.1)
  let s := if t.nonfinite ≠ 0 then done.1.quantEvent lead 5 0x0213 else done.1
  done.2.foldl (fun s x =>
    (s.modQuant (x.1.q / 4) fun u => u.modSlot (verdictSlot x.1.cmd) fun y =>
      { y with
        stats := x.2.1, joint := t, settledWidth := y.base, scale := 0, zp := 0
        verdict := BitVec.ofNat 8 (64 + 16 * b2n (decide (t.nonfinite ≠ 0)))
        vscale := ks.map QScale.s, vzp := ks.map QScale.z }).exchanged x.1 x.2.2) s

/-- QUANT_EXCHANGE: the waiting `LAST` commands of the cores of a join mask that name one slot and tag exchange their
statistics; every member forms the same verdict and re-runs where it must. Members that disagree, in their join masks too, stop
(R194). -/
def execQuantExchange (cluster mask : Nat) (s : State) : Res :=
  let found := (members cluster mask).map s.waitingLast
  let js := found.filterMap id
  .next (match js with
    | [] => s
    | lead :: _ =>
      if cluster < 32 ∧ js.length = found.length ∧ js.any (fun j => quantMask j.cmd == mask) ∧
          js.all (fun j => verdictId j.cmd == verdictId lead.cmd) then
        if !js.all (fun j => lastKey j.cmd == lastKey lead.cmd) then js.foldl (fun s j => s.quantLeave j 0x0218) s
        else if qDynamic lead.cmd then s.exchangeDynamic js lead
        else
          let t := joinAll (js.map fun j => (s.slot (j.q / 4) (verdictSlot j.cmd)).stats)
          js.foldl (fun s j => s.judge (j.q == lead.q) t j) s
      else s)

def execQuantExchangeTimeout (core : Nat) (s : State) : Res :=
  .next (match decide (core < 128), s.waitingLast core with
    | true, some j =>
      if s.timed j.q ∧ (s.lcore core).quant.exchangeTimeout ≠ 0 then
        (s.modQuant core fun u => { u with exchangeTimeouts := satInc u.exchangeTimeouts }).quantLeave j 0x0212
      else s
    | _, _ => s)

/-! ### Settling (R190, R207, R223, R224) -/

/-- Update of R190, each operation in FP32. -/
def ScaleRec.update_ (r : ScaleRec) (t : Stats) : ScaleRec :=
  let k := fPow2 (-(r.decay.toNat : Int))
  { r with
    hi := if fLe r.hi t.pmax then t.pmax else fSub r.hi (fMul (fSub r.hi t.pmax) k)
    lo := if fLe t.pmin r.lo then t.pmin else fAdd r.lo (fMul (fSub t.pmin r.lo) k)
    valid := true }

def SlotState.code : SlotState → Nat
  | .idle => 0
  | .pending => 1
  | .settled => 2

/-- The 64 B statistics block of a slot (R223). -/
def Slot.block (t : Slot) : List Byte :=
  leBytes 3 t.tag.toNat ++ leBytes 1 t.st.code ++ leBytes 1 t.base ++ leBytes 1 t.settledWidth ++ leBytes 1 t.verdict.toNat ++
    leBytes 1 0 ++ leBytes 4 t.scale.toNat ++ leBytes 2 t.zp.toNat ++ leBytes 2 0 ++ leBytes 4 t.stats.pmin.toNat ++
    leBytes 4 t.stats.pmax.toNat ++ leBytes 4 t.stats.elements.toNat ++ leBytes 4 t.stats.clipped.toNat ++
    leBytes 4 t.stats.nonfinite.toNat ++ leBytes 2 t.stats.minCode.toNat ++ leBytes 2 t.stats.maxCode.toNat ++
    leBytes 8 t.stats.sse.toNat ++ leBytes 8 t.stats.signal.toNat ++ leBytes 8 0

/-- A slot as STATS_READ shows it. Before a pass settles no rule states its settled width, verdict, scale and zero point: they
are open (log entry 42), but for scale and zero point of a dynamic pass, which are zero (R223). A slot that a stopped pass has
returned to IDLE shows the base width and zeros (DESIGN CHOICE, log entry 111). -/
def Slot.shown (t : Slot) (o : Nat) : Slot :=
  if t.st = .pending then
    { t with
      settledWidth := nbits o 1 0, verdict := BitVec.ofNat 8 (nbits o 8 2)
      scale := if t.dynamic then 0 else BitVec.ofNat 32 (nbits o 40 9)
      zp := if t.dynamic then 0 else BitVec.ofNat 16 (nbits o 56 41) }
  else t

/-- The verdict record (R224), with the per-vector array of a dynamic pass after it (R214). -/
def Slot.verdictRecord (t : Slot) : List Byte :=
  t.block.take 24 ++ leBytes 8 0 ++
    if t.dynamic then (List.zip t.vscale t.vzp).flatMap fun x => leBytes 4 x.1.toNat ++ leBytes 2 x.2 ++ leBytes 2 0 else []

/-- Whether an issued run that substitutes per-vector zero points of core `l` has slices left to send (R358). -/
def State.zerosInUse (s : State) (l : Nat) : Bool :=
  (upTo (4 * clusterOf l) 4).any fun k => (s.lcore k).runs.any fun r =>
    r.streams.any fun x => decide (x.q / 4 = l) && x.zpv.isSome && decide (x.fed < runVectors r.job.cmd * r.ns)

/-- QUANT_SETTLE: a pass whose codes are final settles in one member. -/
def State.settle (s : State) (l : Nat) (j : Job) : State :=
  let e := j.cmd
  let n := verdictSlot e
  let t := s.slot l n
  let lead := maskCount (quantMask e % 2 ^ (l % 4)) = 0
  let r := t.record
  let r' := if r.update ∧ t.joint.elements ≠ 0 then r.update_ t.joint else r
  let t' := { t with st := .settled, record := r', stats := t.joint }
  let s := s.modQuant l fun u =>
    let rest := u.unit.filter fun x => !(x.job.q == j.q && x.job.id == j.id)
    let u := { u.modSlot n (fun _ => { t' with cmds := [] }) with passes := satInc u.passes, unit := rest }
    if t.dynamic then { u with zeros := t.vzp, zerosId := BitVec.ofNat 32 (verdictId e) } else u
  let s := if r.update ∧ t.joint.elements ≠ 0 then s.strike l bQuant else s
  let s := if r.update ∧ t.joint.elements ≠ 0 ∧ lead ∧ fKey r'.lo = fKey r'.hi then s.countFlat j (some r'.lo) else s
  let w := if hasRecord e then s.writeBytes (quantWho j.q) (scratchAddr l (qRecord e)) t'.verdictRecord else (s, 0)
  let s := w.1
  let fills := t.cmds.flatMap fun c => slotsIn (dstRanges c.cmd ++ if c.id = j.id ∨ qDynamic c.cmd then statRanges c.cmd else [])
  let s := (s.fillSlots l (fills ++ slotsIn (recRanges e)))
  let s := t.cmds.foldl (fun s c => s.releaseJob c) s
  if w.2 ≠ 0 then s.dropJob j w.2 else s.finish j

def execQuantSettle (core : Nat) (s : State) : Res :=
  .next (match decide (core < 128), (s.lcore core).quant.unit.find? fun x => decide (x.kind = .quantise) && x.phase == 2 with
    | true, some x => if (s.slot core (verdictSlot x.job.cmd)).dynamic && s.zerosInUse core then s else s.settle core x.job
    | _, _ => s)

/-! ### SCALE_LOAD and STATS_READ (R220 to R222) -/

def tTarget (e : Entry) : Nat := fld e 16 1
def tFirst (e : Entry) : Nat := fld e 18 2
def tCount (e : Entry) : Nat := fld e 20 2
def tOffset (e : Entry) : Nat := fld e 24 4
/-- Bytes of one item, and how many there are, by target. -/
def tItem (load : Bool) (target : Nat) : Nat × Nat :=
  match load, target with
  | true, 0 => (4, 8192)
  | true, _ => (64, 256)
  | false, 2 => (4, 8192)
  | false, _ => (64, 256)
def tBytes (load : Bool) (e : Entry) : Nat := tCount e * (tItem load (tTarget e)).1

def tableOk (load : Bool) (e : Entry) : Bool :=
  decide (tTarget e ≤ (if load then 1 else 2)) && fzero e 17 1 && fzero e 22 2 && fzero e 28 36 && decide (1 ≤ tCount e) &&
    decide (tFirst e + tCount e ≤ (tItem load (tTarget e)).2) && mult 32 (tOffset e) &&
    decide (tOffset e + tBytes load e ≤ scratchSize)

def tableAccess (load : Bool) (e : Entry) : List Access := accessOf (!load) [rng (tOffset e) (tBytes load e)]

/-- Record of 64 B of memory (R188); a loaded one is valid. -/
def recordOf (b : NMap Byte) (a : Nat) : ScaleRec :=
  { sign := BitVec.ofNat 256 (blkNat b a 32), lo := BitVec.ofNat 32 (blkNat b (a + 32) 4), hi := BitVec.ofNat 32 (blkNat b (a + 36) 4)
    seed := BitVec.ofNat 64 (blkNat b (a + 40) 8), clip := BitVec.ofNat 16 (blkNat b (a + 48) 2)
    decay := BitVec.ofNat 5 (blkNat b (a + 50) 1), update := (blkNat b (a + 51) 1).testBit 0, valid := true }

def ScaleRec.bytes (r : ScaleRec) : List Byte :=
  leBytes 32 r.sign.toNat ++ leBytes 4 r.lo.toNat ++ leBytes 4 r.hi.toNat ++ leBytes 8 r.seed.toNat ++ leBytes 2 r.clip.toNat ++
    leBytes 1 r.decay.toNat ++ leBytes 1 (b2n r.update + 2 * b2n r.valid) ++ leBytes 12 0

/-- Value check of R221 for register `r`: a positive normal finite factor, or a finite weight scale. -/
def scaleValueOk (r : Nat) (w : Word) : Bool := isFinite w && (decide (4096 ≤ r) || fLe minNormal w)
def scaleRecordOk (r : ScaleRec) : Bool := isFinite r.lo && isFinite r.hi && fLe r.lo r.hi

/-- First index that R221 refuses, and the loaded values. -/
def loadBadIndex (e : Entry) (b : NMap Byte) : Option Nat :=
  (upTo 0 (tCount e)).find? fun i =>
    if tTarget e = 0 then !scaleValueOk (tFirst e + i) (BitVec.ofNat 32 (blkNat b (4 * i) 4))
    else !scaleRecordOk (recordOf b (64 * i))

/-- Steps 5 to 7 of a SCALE_LOAD: a record of a PENDING slot stops it before any wait (R221, R459). -/
def loadGate (q : Nat) (s : State) (e : Entry) : Gate :=
  let u := (s.lcore (q / 4)).quant
  if !tableOk true e then .stop (s.quantStop q (verdictSlot e) 0x0216)
  else match (if tTarget e = 1 then (upTo (tFirst e) (tCount e)).find? fun k => decide ((u.slot k).st = .pending) else none) with
    | some k => .stop (s.quantStop q k 0x0214)
    | none =>
      if !s.guardOk q (tableAccess true e) then .hold 6
      else if u.held then .hold 7 else .go

def Quant.load (u : Quant) (e : Entry) (b : NMap Byte) : Quant :=
  if tTarget e = 0 then
    { u with scale := (upTo 0 (tCount e)).foldl (fun m i =>
      nset 0x3F800000 m (tFirst e + i) (BitVec.ofNat 32 (blkNat b (4 * i) 4))) u.scale }
  else (upTo 0 (tCount e)).foldl (fun u i => u.modSlot (tFirst e + i) fun t => { t with record := recordOf b (64 * i) }) u

def execScaleLoad (q : Nat) (s : State) : Res :=
  .next (s.tryIssue q (hasOp 0x31) (loadGate q) fun s e =>
    let j := s.newJob q e
    let s := (s.issue q).enterJob j (tableAccess true e)
    let r := s.read (quantWho q) (scratchAddr (q / 4) (tOffset e)) (tBytes true e)
    if r.1.code ≠ 0 then r.2.dropJob j r.1.code
    else match loadBadIndex e r.1.blk with
      | some i => r.2.endJob j (s.quantStop q (if tTarget e = 1 then tFirst e + i else verdictSlot e) 0x0216)
      | none =>
        ((r.2.releaseReads j).modQuant (q / 4) fun u =>
          { u.load e r.1.blk with unit := u.unit ++ [⟨j, .scaleLoad, 1⟩] }).strike (q / 4) bQuant)

/-- Steps 5 and 6 of a STATS_READ, which never waits for a pass (R222). -/
def readGate (q : Nat) (s : State) (e : Entry) : Gate :=
  if !tableOk false e then .stop (s.quantStop q (verdictSlot e) 0x0216)
  else if s.guardOk q (tableAccess false e) then .go else .hold 6

/-- What STATS_READ copies (R222); `o` is open. -/
def Quant.readOut (u : Quant) (e : Entry) (o : Nat) : List Byte :=
  (upTo (tFirst e) (tCount e)).flatMap fun k =>
    match tTarget e with
    | 0 => ((u.slot k).shown (o >>> (64 * k))).block
    | 1 => (u.slot k).record.bytes
    | _ => leBytes 4 (nget (0x3F800000 : Word) u.scale k).toNat

def execStatsRead (q : Nat) (s : State) : Res :=
  .next (s.tryIssue q (hasOp 0x32) (readGate q) fun s e =>
    let j := s.newJob q e
    let s := (s.issue q).enterJob j (tableAccess false e)
    let o := s.open_
    let w := o.2.writeBytes (quantWho q) (scratchAddr (q / 4) (tOffset e)) ((s.lcore (q / 4)).quant.readOut e o.1)
    if w.2 ≠ 0 then w.1.dropJob j w.2
    else (w.1.releaseJob j).modQuant (q / 4) fun u => { u with unit := u.unit ++ [⟨j, .statsRead, 1⟩] })

/-- The oldest command of the unit, but for the `LAST` commands that wait for their passes, which a STATS_READ goes past
(R192, R222). -/
def Quant.served (u : Quant) : Option QuantJob := u.unit.find? fun x => !(decide (x.kind = .quantise) && qLast x.job.cmd)

/-- The oldest SCALE_LOAD or STATS_READ of the unit completes. -/
def State.tableComplete (s : State) (core : Nat) (kind : QuantKind) (load : Bool) : State :=
  match decide (core < 128), (s.lcore core).quant.served with
  | true, some x =>
    if x.kind = kind then
      (s.modQuant core fun u => { u with unit := u.unit.erase x }).finishJob x.job (writeSlots (tableAccess load x.job.cmd))
    else s
  | _, _ => s

def execScaleLoadComplete (core : Nat) (s : State) : Res := .next (s.tableComplete core .scaleLoad true)
def execStatsReadComplete (core : Nat) (s : State) : Res := .next (s.tableComplete core .statsRead false)

end Sys2Proof.Machine
end

