-- ==== Sys2Proof/Machine/Rail.lean ====
section
/-! DEFINITION. Rail.lean: the weight rail: launches, takes, blocks, and how a stream ends (R375 to R388). -/

namespace Sys2Proof.Machine

/-! ### Blocks (R376) -/

/-- Blocks of a stream. -/
def RailStream.length (x : RailStream) : Nat := x.scaleBlocks + 64 * x.images

/-- Block that carries beat `t` of image `m`. -/
def RailStream.block (x : RailStream) (m t : Nat) : Nat :=
  let g := m / x.interleave
  let size := min x.interleave (x.images - g * x.interleave)
  x.scaleBlocks + 64 * x.interleave * g + t * size + m % x.interleave

/-! ### Takes (R384, R385) -/

/-- Frames of a take with the image that each takes. -/
def takeImages (e : Entry) : List (Nat × Nat) :=
  (takeEntries e).flatMap fun i =>
    if takeKind e i = 1 then (bitsOf (takeMask e i) 16).zipIdx.map fun x => (x.1, takeFirst e i + x.2 * takeArg e i) else []

/-- Scale blocks of a take with the first register that each writes. -/
def takeScales (e : Entry) : List (Nat × Nat) :=
  (takeEntries e).flatMap fun i =>
    if takeKind e i = 2 then (upTo 0 (takeArg e i)).map fun k => (takeFirst e i + k, takeMask e i % 0x2000 + 64 * k) else []

def takeTag (e : Entry) : Nat := fld e 18 2

/-- Limits of R384, R387 and R734 that depend on the command alone. -/
def takeOk (e : Entry) : Bool :=
  fbits e 16 7 4 == 0 && within 1 5 (fld e 17 1) && fzero e 20 4 &&
    (takeEntries e).all (fun i => fbits e (30 + 8 * i) 7 2 == 0 &&
      match takeKind e i with
      | 1 => takeMask e i != 0 && within 1 255 (takeArg e i)
      | 2 => within 1 64 (takeArg e i) && decide (takeMask e i < 0x2000) && decide (takeMask e i + 64 * takeArg e i ≤ 8192)
      | _ => false) &&
    (takeFrames e).eraseDups.length == (takeFrames e).length

/-- Blocks that a take matches, lowest and highest (R379). -/
def takeLow (x : RailStream) (e : Entry) : Nat :=
  let bs := (takeScales e).map Prod.fst ++ (takeImages e).map fun i => x.block i.2 0
  minOr 0 bs
def takeHigh (x : RailStream) (e : Entry) : Nat :=
  let bs := (takeScales e).map Prod.fst ++ (takeImages e).map fun i => x.block i.2 63
  maxOr 0 bs

/-- What a rail event names (R395). -/
def railInfo (stream l : Nat) : Nat := stream + l * 8

def railStop (q stream : Nat) (code : BitVec 16) : Stop :=
  ⟨code, pgRail (regionOf (q / 4)), contained, railInfo stream (q / 4), 0⟩

/-! ### Launch (R377) -/

/-- Steps 5 and 7 of a launch. Its source lies in one range of the address map, one Tier 1 stack or Tier 2, since a launch that runs
from one range into another fails (R377, R401). Its queue's DMA service must be free (R366); the roots read the stream's blocks (R380), so that the
launch leaves the service free again (log entry 58). -/
def launchGate (q : Nat) (s : State) (e : Entry) : Gate :=
  let len := 256 * (copyRows e + 64 * copyLen e)
  if !copyOk e then .stop (s.dmaStop q 0x0440 0)
  else if (placeOf (copySrc e)).isNone then .stop (s.dmaStop q 0x0441 0)
  else if fld e 48 16 = 0 ∨ !inTier (copySrc e) 1 then .stop (railStop q (railStreamOf e) 0x0450)
  else if !(wholePlace (copySrc e) len).any Place.isTier then .stop (s.dmaStop q 0x0441 0)
  else if (s.stream (railStreamOf e)).isOpen || !(s.lcore (q / 4)).dmaFree q e then .hold 7
  else .go

/-- A launch opens its stream at position 0 with the cores of its mask as the taker set. A fenced core has left it. -/
def execRailLaunch (q : Nat) (s : State) : Res :=
  .next (s.tryIssue q (isCopy 3) (launchGate q) fun s e =>
    let j := s.newJob q e
    let s : State := (s.issue q).setRail { s.rail with launches := s.rail.launches + 1 }
    s.modStream (railStreamOf e) fun _ =>
      { isOpen := true, tag := BitVec.ofNat 16 (railTag e), interleave := railInterleave e, scaleBlocks := copyRows e
        images := copyLen e, position := 0, source := copySrc e, q := q, id := j.id, signals := true, cmd := e
        takers := (railTakers e).filter fun l => !s.lfenced l, gen := s.rail.launches })

/-! ### Takes: their start (R384 to R387) -/

/-- Whether the stream of a take is open with its tag. -/
def State.takeOpen (s : State) (e : Entry) : Bool :=
  (s.stream (takeStream e)).isOpen && (s.stream (takeStream e)).tag.toNat == takeTag e

/-- Whether a take can start now: its stream is open with its tag, and its target planes are free. -/
def State.takeReady (s : State) (q : Nat) (e : Entry) : Bool :=
  let c := s.lcore (q / 4)
  s.takeOpen e && (takeFrames e).all fun f => !(c.frame f).swapPending && decide ((c.frame f).idle.st ≠ .loading)

/-- The takes of core `l` that belong to a stream as it is open now. -/
def State.takesOn (s : State) (l n : Nat) : List Take := (s.lcore l).takes.filter fun t => t.isOn n (s.stream n).gen

/-- Those that no skip has ended (R393). -/
def State.liveTakes (s : State) (l n : Nat) : List Take := (s.lcore l).takes.filter fun t => t.live n (s.stream n).gen

/-- Checks made when a take would start (R387). -/
def State.takeCheck (s : State) (q : Nat) (e : Entry) : Option Stop :=
  let x := s.stream (takeStream e)
  let l := q / 4
  if !takeOk e || (takeImages e).any (fun i => decide (x.images ≤ i.2)) || (takeScales e).any (fun b => decide (x.scaleBlocks ≤ b.1)) then
    some (railStop q (takeStream e) 0x0450)
  else if !x.takers.contains l || decide (takeLow x e < x.position) ||
      (s.liveTakes l (takeStream e)).any (fun t => decide (takeLow x e ≤ takeHigh x t.job.cmd)) then
    some (railStop q (takeStream e) 0x0451)
  else none

/-- The take that a job starts. -/
def State.newTake (s : State) (j : Job) (ra : RunAhead) : Take :=
  let c := s.lcore (j.q / 4)
  { job := j, ra := ra, gen := (s.stream (takeStream j.cmd)).gen
    targets := (takeFrames j.cmd).map fun f => (f, !(c.frame f).active1)
    planesLeft := takeFrames j.cmd, scalesLeft := (takeScales j.cmd).map Prod.fst, scalePoison := false }

/-- A take starts: its target planes enter LOADING and capture their modes (R58, R111). -/
def State.startTake (s : State) (j : Job) (ra : RunAhead) : State :=
  let t := s.newTake j ra
  s.modLcore (j.q / 4) fun c =>
    let c := (takeFrames j.cmd).foldl Core.startLoad c
    { c with takes := c.takes ++ [t] }

/-- `f` on the take of a job. -/
def Core.modTake (c : Core) (j : Job) (f : Take → Take) : Core :=
  { c with takes := c.takes.map fun t => if t.job.q = j.q ∧ t.job.id = j.id then f t else t }

/-- The unfinished takes of queue `q`, oldest first. -/
def State.takesOf (s : State) (q : Nat) : List Take := (s.lcore (q / 4)).takes.filter fun t => t.job.q == q

/-- The `i`-th unfinished take of queue `q`, oldest first. -/
def State.takeAt (s : State) (q i : Nat) : Option Take := if 512 ≤ q then none else (s.takesOf q)[i]?

/-- Steps 5 and 7 of a take. It starts when it issues (R386), so that a take whose stream is not open with its tag, or whose
target planes are not free, is held at step 7. The limits that depend on the stream are tested once it is open (log entry
96). -/
def takeGate (q : Nat) (s : State) (e : Entry) : Gate :=
  if !takeOk e then .stop (railStop q (takeStream e) 0x0450)
  else if !s.takeOpen e then .hold 7
  else match s.takeCheck q e with
    | some st => .stop st
    | none => if s.takeReady q e then .go else .hold 7

/-- A take issues and starts. -/
def State.takeTry (s : State) (q : Nat) : State :=
  s.tryIssue q (hasOp 0x12) (takeGate q) fun s e => (s.issue q).startTake (s.newJob q e) .none

def execRailTake (q : Nat) (s : State) : Res := .next (s.takeTry q)

/-- TAKE_START: the take at the front of queue `q`, which has waited at issue, starts (R386) as the `i`-th of the queue's
unfinished takes. -/
def execTakeStart (q i : Nat) (s : State) : Res :=
  .next (if (s.queue q).heldStep = 7 ∧ (s.takesOf q).length = i then s.takeTry q else s)

/-! ### Sending blocks (R379, R380, R383) -/

/-- Whether core `l` lets block `j` pass: a live take reaches it or begins above it (R379), or it lies in the extent of one that
a skip has ended (R393). -/
def State.takerReady (s : State) (stream l j : Nat) : Bool :=
  let x := s.stream stream
  (s.takesOn l stream).any fun t =>
    decide (j ≤ takeHigh x t.job.cmd) && (decide (t.ra ≠ .cancelled) || decide (takeLow x t.job.cmd ≤ j))

/-- Lowest core that holds a stream. -/
def State.railHolder (s : State) (stream : Nat) : Option Nat :=
  let x := s.stream stream
  if x.isOpen ∧ x.position < x.length then x.takers.find? fun l => !s.takerReady stream l x.position else none

/-- A block reaches core `l`: rows of a plane, or 64 scale registers (R50, R53, R356, R383). -/
def State.takeBlock (s : State) (stream l j : Nat) (blk : NMap Byte) (bad : Bool) (soft : Nat) : State :=
  let x := s.stream stream
  let mine := s.liveTakes l stream
  let s := (mine.flatMap fun t => takeImages t.job.cmd).foldl (fun s i =>
    match (upTo 0 64).find? fun t => x.block i.2 t == j with
    | none => s
    | some t =>
      let s := (s.loadRows l i.1 (4 * t) 4 blk).loadCorrected l i.1 soft
      if bad then s.loadBad l i.1 else s) s
  mine.foldl (fun s t => (takeScales t.job.cmd).foldl (fun s b =>
    if b.1 ≠ j then s else
    s.modLcore l fun c =>
      let c := if bad then c else { c with quant := c.quant.setScales b.2 (wordsOf blk 64) }
      c.modTake t.job fun t => { t with scalesLeft := t.scalesLeft.filter (· ≠ j), scalePoison := t.scalePoison || bad }) s) s

/-- The rail sends the next block of a stream to every taker at once. -/
def execRailBlockSend (stream : Nat) (s : State) : Res :=
  let x := s.stream stream
  let j := x.position
  let a := x.source + 256 * j
  let r := ctlRegion (s.ctlOf a)
  let rd := s.peek a 256
  let lost := ((condsIn s.memCond a 256).filter fun e => lostWord e.2).length
  .next (if stream < 8 ∧ x.isOpen ∧ j < x.length ∧ (s.railHolder stream).isNone then
      let s := s.noteRead ⟨0, 0, false, none, some x.q⟩ a 256
      let s := if x.takers.any fun l => dieOf l != r / 4 then
          s.modDie (r / 4) fun y => { y with bridgeTx := y.bridgeTx + 256 } else s
      let inj := s.takeInjection (pgRail r)
      let s := inj.1.modRegion r fun y =>
        { y with rootBytes := y.rootBytes + 256, poisonedWords := satAdd y.poisonedWords lost }
      let bad := rd.code ≠ 0 ∨ inj.2 = .uncorrectable
      let s := x.takers.foldl (fun s l => s.takeBlock stream l j rd.blk bad (b2n (inj.2 == .correctable))) s
      s.modStream stream fun y => { y with position := j + 1 }
    else s)

/-! ### Completion and the ends of a stream (R378, R381, R382, R388) -/

/-- A take whose planes and scale blocks are all in completes and signals; one that met a poisoned scale block stops its
queue with RAIL_SCALE_POISONED (0x0455). `LAST` takes the core out of the stream. -/
def execRailTakeComplete (q i : Nat) (s : State) : Res :=
  let l := q / 4
  .next (match s.takeAt q i with
    | none => s
    | some t =>
      if t.planesLeft = [] ∧ t.scalesLeft = [] ∧ t.ra ≠ .unconfirmed ∧ t.ra ≠ .cancelled then
        let n := takeStream t.job.cmd
        let s := s.modLcore l fun c => c.dropTake t.job
        let s := if t.scalePoison then s.endJob t.job (railStop q n 0x0455) else s.finishJob t.job []
        if takeLast t.job.cmd ∧ (s.stream n).isOpen ∧ (s.stream n).gen = t.gen then (s.leaveStream l n false).sweepSwaps l 4 else s
      else s)

/-- Takes that a skip has cancelled end with their stream. -/
def State.dropCancelled (s : State) (n : Nat) (ls : List Nat) : State :=
  ls.foldl (fun s l => s.modLcore l fun c =>
    { c with takes := c.takes.filter fun t => !(decide (t.ra = .cancelled) && t.isOn n (s.stream n).gen) }) s

/-- A stream closes: nothing waits for it any more. -/
def State.closeStream (s : State) (stream : Nat) : State :=
  (s.dropCancelled stream (upTo 0 128)).modStream stream fun _ => .reset

def execRailStreamClose (stream : Nat) (s : State) : Res :=
  let x := s.stream stream
  .next (if stream < 8 ∧ x.isOpen ∧ x.position = x.length then
      if x.signals then (s.closeStream stream).finish ⟨x.id, x.q, x.cmd⟩ else s.closeStream stream
    else s)

/-- Queues with an unfinished take on a stream. -/
def State.takingQueues (s : State) (stream : Nat) : List Nat :=
  ((s.stream stream).takers.flatMap fun l => (s.liveTakes l stream).map fun t => t.job.q).eraseDups

/-- One queue stops with RAIL_STREAM_ABORTED (0x0453). -/
def State.abortQueue (s : State) (stream q : Nat) : State :=
  if (s.queue q).stopped then s else
  (s.raise (pgRail (regionOf (q / 4))) 0x0453 contained (railInfo stream (q / 4))).stopQueue q 0x0453 true

/-- An open stream that has sent nothing for `RAIL.STALL_TIMEOUT` cycles is aborted (R382): the targets of every unfinished take
become EMPTY, the taking queues and the launching queue stop, and so does a swap that waited for such a target (R61). -/
def execRailStallTimeout (stream : Nat) (s : State) : Res :=
  let x := s.stream stream
  .next (if stream < 8 ∧ s.rail.stallTimeout ≠ 0 ∧ s.snap.phase = .idle ∧ (s.railHolder stream).isSome then
      let s : State := s.setRail { s.rail with stallTimeouts := satInc s.rail.stallTimeouts }
      let s := s.raise (pgRail (regionOf (x.q / 4))) 0x0452 contained (railInfo stream (x.q / 4))
      let qs := s.takingQueues stream
      let s := x.takers.foldl (fun s l => s.endTakes l stream) s
      let s := s.closeStream stream
      let s := qs.foldl (fun s q => s.abortQueue stream q) s
      let s := if x.signals then (s.modQueue x.q fun y => y.release x.id).abortQueue stream x.q else s
      x.takers.foldl (fun s l => s.sweepSwaps l 4) s
    else s)

end Sys2Proof.Machine
end

