-- ==== Sys2Proof/Machine/Sideband.lean ====
section
/-! DEFINITION. Sideband.lean: the sideband inputs and the stops that they cause (R544 to R548, R657, R692 to R697), module power
(R684 to R687), clocks, bridge and management processors (R728, R730, R732), and the test access ports (R700 to R702). -/

namespace Sys2Proof.Machine

/-! ### Stopping inputs: 0 COOLANT_OK, 1 LEAK_L -/

def State.modSide (s : State) (f : Sideband → Sideband) : State := s.setSide (f s.side)

/-- Latest sample of an input (`SIDEBAND.RAW`), its accepted level (`SIDEBAND.LEVEL`), and whether it is lost through chatter. -/
def Sideband.raw (x : Sideband) (input : Nat) : Bool := if input = 0 then x.rawCoolant else x.rawLeak
def Sideband.level (x : Sideband) (input : Nat) : Bool := if input = 0 then x.coolantOk else x.leakL
def Sideband.chatters (x : Sideband) (input : Nat) : Bool := if input = 0 then x.chatterCoolant else x.chatterLeak
def Sideband.setLevel (x : Sideband) (input : Nat) (v : Bool) : Sideband :=
  if input = 0 then { x with coolantOk := v } else { x with leakL := v }
def Sideband.setChatter (x : Sideband) (input : Nat) (v : Bool) : Sideband :=
  if input = 0 then { x with chatterCoolant := v } else { x with chatterLeak := v }

/-- Device times of the transitions of an input that are held, oldest first. -/
def Sideband.moves (x : Sideband) (input : Nat) : List Nat := if input = 0 then x.coolantMoves else x.leakMoves

/-- A raw transition of a stopping input (R694): its sample changes, and it counts. Those of the last 10 ms are held. -/
def Sideband.transition (x : Sideband) (input now : Nat) : Sideband :=
  let ms := (x.moves input).filter (fun t => decide (now < t + 10000000)) ++ [now]
  if input = 0 then
    { x with rawCoolant := !x.rawCoolant, coolantTransitions := satInc x.coolantTransitions, coolantMoves := ms, quietAt := now }
  else { x with rawLeak := !x.rawLeak, leakTransitions := satInc x.leakTransitions, leakMoves := ms, quietAt := now }

/-- Whether an input has shown its latest sample for 10 µs, 2,000 samples (R692). -/
def Sideband.steady (x : Sideband) (input now : Nat) : Bool := (x.moves input).all fun t => decide (t + 10000 ≤ now)

/-- An input newly counts as lost; `before`: either input counted as lost already. Once the image runs, the device stops
(R544, R545); until then the boot holds its tier zeroing (R657). -/
def State.inputLost (s : State) (input : Nat) (before : Bool) : State :=
  if s.boot.phase = .running then
    let code : BitVec 16 := if input = 0 then 0x0710 else 0x0711
    ((s.setPower { s.power with restartReady := false }).raise pgPower code deviceStopSev 0).powerStop
      (if input = 0 then .coolant else .leak) code
  else if before then s
  else s.bootHold input

/-- A raw transition is sampled. With the ninth within 10 ms the input counts as lost, unless it does already (R694). -/
def State.sampleChange (s : State) (input : Nat) : State :=
  let before := s.side.loss
  let s := s.modSide fun x => x.transition input s.time.now.toNat
  if s.side.chatters input || decide ((s.side.moves input).length < 9) then s else
  ((s.modSide fun x => { x with chatterEvents := satInc x.chatterEvents }.setChatter input true).raise pgSideband 0x0712 noted
    input).inputLost input before

/-- SIDEBAND_CHATTER: a raw transition of a stopping input that no accepted level shows, or not yet; the ninth within 10 ms makes it
lost (R694; log entry 81). -/
def execSidebandChatter (input : Nat) (s : State) : Res :=
  .next (if !s.side.on || !decide (input < 2) then s else s.sampleChange input)

/-- The level `v` of an input is accepted once its samples have shown it for 10 µs (R692). A sample that does not show it yet changes
with the row. -/
def State.acceptLevel (s : State) (input : Nat) (v : Bool) : State :=
  if s.side.level input = v then s
  else if s.side.raw input = v then
    (if s.side.steady input s.time.now.toNat then s.modSide fun x => x.setLevel input v else s)
  else (s.sampleChange input).modSide fun x => x.setLevel input v

/-- The accepted level of a stopping input becomes its loss level: it is lost, unless the same transition has made it so. -/
def State.inputFalls (s : State) (input : Nat) : State :=
  if !s.side.on then s else
  let t := s.acceptLevel input false
  if t.side.level input = s.side.level input ∨ t.side.chatters input ≠ s.side.chatters input then t
  else t.inputLost input s.side.loss

def execCoolantStop (s : State) : Res := .next (s.inputFalls 0)
def execLeakStop (s : State) : Res := .next (s.inputFalls 1)

/-- No transition for 1 s at the good level: no longer lost through chatter (R695). -/
def execChatterClear (input : Nat) (s : State) : Res :=
  .next (if s.side.on && decide (input < 2) && s.side.level input then s.modSide fun x => x.setChatter input false else s)

/-- An input is accepted at its good level again. -/
def execStoppingInputReturn (input : Nat) (s : State) : Res :=
  .next (if !s.side.on || !decide (input < 2) then s else s.acceptLevel input true)

/-- Every zone is at or below 85 °C, which a restart after a trip needs (R543). -/
def State.zonesCool (s : State) : Bool := (upTo 0 8).all fun r => decide ((s.region r).zone.toInt ≤ 1360)

/-- The inputs have shown no loss for 1 s, and after a trip every zone is at or below 85 °C (R543, R547): a restart becomes
possible, or the boot zeroes the tiers from the beginning (R657). -/
def execRestartReady (s : State) : Res :=
  .next (if !s.side.on || s.side.loss then s
    else if s.boot.phase = .running then
      if s.power.stop ≠ .none ∧
          (!s.power.tripped ∨ s.zonesCool) then
        s.setPower { s.power with restartReady := true }
      else s
    else if s.boot.phase = .held ∨ s.boot.zeroed ∨ s.boot.wiping then s
    else s.setBoot { s.boot with wiping := true })

/-- A write of 1 to `POWER.RESTART` (R547, R548): the queues stay STOPPED, the regions start from point 0. An asserted `THROTTLE_L`
holds the floor (R521), and a stretch still holds back steps up (R528). -/
def State.restart (s : State) : State :=
  if s.power.stop = .none ∨ !s.power.restartReady ∨ (s.power.tripped ∧ !s.zonesCool) then s.countBad pgPower else
  let s := s.forEach (upTo 0 8) fun s r => s.modRegion r fun x =>
    { x with point := 0, target := 0, step := none, upHold := x.upHold && s.regionStretched r, holdHigh := 0, holdLow := 0, railMv := s.pointMv r 0 }
  s.setPower { s.power with
    stop := .none, tripped := false, restartReady := false
    issue := if s.power.throttle then 1 else 16, memory := if s.power.throttle then 4 else 16 }

def execPowerRestart (ini : Nat) (s : State) : Res := s.regRow ini pgPower false State.restart

/-! ### Other inputs -/

/-- A new feed identity ends the pairing, and a new exchange follows (R607). -/
def execFeedIdChange (v : BitVec 4) (s : State) : Res :=
  .next (if !s.side.on || v == s.side.feed then s else
    let s := s.modSide fun x => { x with feed := v }
    (s.setSnap { s.snap with partnerState := if s.snap.partnerEn then 1 else 0, correlated := false, holdFilling := false }))

def execSlotIdChanged (v : BitVec 6) (s : State) : Res :=
  .next (if !s.side.on || v == s.side.slot then s
    else (s.modSide fun x => { x with slot := v }).raise pgSideband 0x0714 noted v.toNat)

/-- A rising edge of `PPS` (R697). -/
def execPpsEdge (s : State) : Res :=
  .next (if !s.side.on then s else
    let now := s.time.now
    let early := match s.time.ppsAt with
      | some t => decide (now.toNat < t + 500000000)
      | none => false
    let s := s.modSide fun x => { x with pps := true }
    if early then s.modSide fun x => { x with ppsIgnored := satInc x.ppsIgnored }
    else (s.setTime { s.time with pps := now, ppsAt := some now.toNat }).setSide
      { s.side with ppsEdges := satInc s.side.ppsEdges })

/-! ### Module power (R684 to R687) -/

/-- Every rail turns off: fuses and local flash keep what they hold. -/
def State.powerDown (s : State) (railFault : Bool) : State :=
  let r := State.reset
  { r with
    pending := s.pending, oracle := s.oracle, outbox := s.outbox, fuses := s.fuses, flash := s.flash
    side := { s.side.reinit with on := false, retryHold := railFault }
    net := { r.net with conns := [] }
    boot := { r.boot with phase := .off, wiping := false } }

/-- `VIN` in units of 10 mV has left its operating range; `stays`: for more than 1 ms (R684). -/
def execVinOutOfRange (mv10 : BitVec 16) (stays : Bool) (s : State) : Res :=
  .next (if !s.side.on then s else
    let s := s.modSide fun x => { x with vin := mv10 }
    if !stays then s
    else if mv10.toNat < 4400 ∨ 6000 < mv10.toNat then s.powerDown false
    else if mv10.toNat < 4600 then
      let say := s.secondPast s.side.vinAt
      (s.modSide fun x => { x with vinAt := if say then some s.time.now.toNat else x.vinAt }).raiseFull pgSideband 0x0715 noted
        mv10.toNat 0 say false
    else s)

/-- `PWR_EN` high for 10 µs with `VIN` in range: the rails come up and `PWR_GOOD` rises (R686). -/
def execPwrEnRise (s : State) : Res :=
  .next (if s.side.on ∨ (s.side.retryHold ∧ s.side.pwrEn) then s else
    let o := s.open_
    o.2.modSide fun x => { x with pwrEn := true, retryHold := false, on := true, vin := BitVec.ofNat 16 (4600 + o.1 % 1001) })

/-- A rail has not reached regulation within 100 ms: all turn off, and `PWR_EN` has to go low first. -/
def execPowerUpTimeout (s : State) : Res :=
  .next (if s.side.on ∨ (s.side.retryHold ∧ s.side.pwrEn) then s
    else s.modSide fun x => { x with pwrEn := true, retryHold := true })

/-- `PWR_EN` low for 10 µs, or a rail outside its regulation window (R687). -/
def execPowerOff (railFault : Bool) (s : State) : Res :=
  .next (if railFault then (if s.side.on then s.powerDown true else s)
    else if s.side.on then (s.powerDown false).modSide fun x => { x with pwrEn := false }
    else s.modSide fun x => { x with pwrEn := false })

/-! ### Clocks, bridge, management processors -/

/-- Loss of root PLL lock, or (0x7F) of the reference (R728, R733). -/
def execClockFailed (die : Nat) (domain : BitVec 7) (s : State) : Res :=
  .next (if !s.side.on || !decide (die < 2) then s else
    (s.modDie die fun d =>
      if domain = 0x7F then { d with refPresent := false } else { d with pllLocked := false, unlocks := satInc d.unlocks }).raiseStop
        (pgClock die) 0x0B10 domain.toNat)

/-- A flit is sent again, or (`failed`) has failed 16 times or the bridge has lost training (R730). -/
def execBridgeReplay (die : Nat) (failed : Bool) (s : State) : Res :=
  .next (if !s.side.on || !decide (die < 2) then s
    else if failed then
      ((s.modDie 0 fun d => { d with bridgeUp := false }).modDie 1 fun d => { d with bridgeUp := false }).raiseStop
        (pgBridge die) 0x0B11 0
    else
      let before := (s.die die).replays
      (s.modDie die fun d => { d with replays := satInc d.replays }).raiseRare (pgBridge die) 0x0B15 0 before)

def execMgmtFailed (die : Nat) (s : State) : Res :=
  .next (if !s.side.on || !decide (die < 2) then s
    else (s.modDie die fun d => { d with imageRunning := false }).raiseStop (pgDiemgt die) 0x0B14 0)

/-! ### Boundary scan (R700, R702) -/

/-- IDCODE of both TAPs (R701). -/
def idcode : Word := 0x10800B5D

/-- Whether `VDD_AUX` is in regulation, so that the TAPs work (R702). Its rail comes up first and goes down last (R686, R687); as the
power-up is one row and the power-off another, it is in regulation exactly while `PWR_GOOD` is high (log entry 114). -/
def State.auxUp (s : State) : Bool := s.side.on

/-- EXTEST, CLAMP and HIGHZ need quiet queues or no image; at other times the TAP behaves as with BYPASS (R702). -/
def State.tapOk (s : State) (i : TapIns) : Bool :=
  match i with
  | .extest => s.allQuiet || s.boot.phase != .running
  | .clamp => s.allQuiet || s.boot.phase != .running
  | .highz => s.allQuiet || s.boot.phase != .running
  | _ => true

/-- The instruction that has effect in a die's TAP. -/
def State.tapNow (s : State) (die : Nat) : TapIns := if s.tapOk (s.die die).tap then (s.die die).tap else .bypass

/-- Number of an instruction, for its code (`Config.tapCode`); BYPASS is all ones in IEEE 1149.1. -/
def TapIns.code : TapIns → Byte
  | .bypass => 0xFF
  | .idcode => Config.tapCode 0
  | .samplePreload => Config.tapCode 1
  | .extest => Config.tapCode 2
  | .clamp => Config.tapCode 3
  | .highz => Config.tapCode 4

/-- What drives the pins that a die's boundary register covers: the system, its cells, or nothing (IEEE 1149.1). -/
inductive PinDrive where
  | system | cells | nothing
deriving DecidableEq, Repr

def State.pinDrive (s : State) (die : Nat) : PinDrive :=
  match s.tapNow die with
  | .extest => .cells
  | .clamp => .cells
  | .highz => .nothing
  | _ => .system

/-- The data register that an instruction selects in a die's TAP, as a scan shifts it out, first bit first: the IDCODE, the boundary
register, or one bypass bit (IEEE 1149.1 gives it to CLAMP and HIGHZ too; R700, R701). -/
def Die.scanned (d : Die) : TapIns → List Bool
  | .idcode => (List.range 32).map idcode.getLsbD
  | .samplePreload => d.boundary
  | .extest => d.boundary
  | .bypass => [false]
  | .clamp => [false]
  | .highz => [false]

/-- The bits that a data scan shifts out at `TDO`, first one first: the chain runs from `TDI` through the west die's TAP and then the
east die's, so that the west die's bits follow the east die's (R700, R701). -/
def State.dataScan (s : State) : List Bool := (s.die 1).scanned (s.tapNow 1) ++ (s.die 0).scanned (s.tapNow 0)

/-- The instruction register of a die's TAP takes a code. With SAMPLE/PRELOAD, and with EXTEST, the boundary register takes the
levels of its pins, of which the spec lists none: their number and levels are open (log entry 114). `TRST_L` is high, or the TAP
would be held in reset. -/
def execJtagInstruction (die : Nat) (ins : TapIns) (s : State) : Res :=
  .next (if !s.auxUp || !decide (die < 2) then s else
    let s := s.modDie die fun d => { d with tap := ins }
    if ins = .samplePreload ∨ s.tapNow die = .extest then
      let o := s.open_
      let n := o.2.open_
      n.2.modDie die fun d => { d with boundary := (List.range o.1).map n.1.testBit }
    else s)

end Sys2Proof.Machine
end

