-- ==== Sys2Proof/Machine/Snapshot.lean ====
section
/-! DEFINITION. Snapshot.lean: snapshots, drains, pairing and restore (R587 to R615). -/

namespace Sys2Proof.Machine

def State.modSnap (s : State) (f : Snap → Snap) : State := s.setSnap (f s.snap)

/-- Information of the events of the SNAPSHOT page (R614). -/
def seqInfo (q : Word) : Nat := q.toNat % 65536

def snapStop (code : BitVec 16) (seq : Word) : Stop := ⟨code, pgSnapshot, contained, seqInfo seq, 0⟩

/-- Bytes of a region size in GiB. -/
def gib (n : Nat) : Nat := 2 ^ 30 * n

/-! ### Layout of an image (R587 to R591) -/

def imgExtents : Nat := 4096
def imgQueues : Nat := 8192
def imgContexts : Nat := 45056
def imgCores : Nat := 2666496
def coreRecord : Nat := 495616

/-- An extent: address and length. -/
structure Extent where
  addr : Nat
  len : Nat
deriving DecidableEq, Repr

/-- The extents of a table that a block of memory holds (R589). -/
def extentsOf (b : NMap Byte) (n : Nat) : List Extent := (upTo 0 n).map fun i => ⟨blkNat b (16 * i) 6, blkNat b (16 * i + 8) 8⟩

def overlaps (a n b m : Nat) : Bool := n != 0 && m != 0 && decide (a < b + m) && decide (b < a + n)

/-- R589, with the staging and hold regions of the module. -/
def State.extentOk (s : State) (x : Extent) : Bool :=
  mult 4096 x.addr && mult 4096 x.len &&
    (x.len == 0 ||
      ((inTier x.addr x.len ||
        (match wholePlace x.addr x.len with
        | some (.scratch _ _) => true
        | _ => false)) &&
      !overlaps x.addr x.len s.snap.stagingBase.toNat (gib s.snap.stagingSize.toNat) &&
      !overlaps x.addr x.len s.snap.holdBase.toNat (gib s.snap.holdSize.toNat)))

/-- Image offset of the extent data, and the offset of each extent. -/
def extentBase (cores : Bool) : Nat := imgCores + (if cores then 128 * coreRecord else 0)
def imageLength (cores : Bool) (xs : List Extent) : Nat := extentBase cores + (xs.map Extent.len).sum

/-- Extents with their offsets in the image. -/
def extentOffsets (base : Nat) : List Extent → List (Extent × Nat)
  | [] => []
  | x :: xs => (x, base) :: extentOffsets (base + x.len) xs

/-- A block moved up by `n`. -/
def shift {α : Type} (n : Nat) (b : NMap α) : NMap α := b.map fun e => (e.1 + n, e.2)

/-! ### SNAPSHOT (R592 to R597) -/

def snCores (e : Entry) : Bool := fbit e 16 0
def snAbandon (e : Entry) : Bool := fbit e 16 1
def snNoFlash (e : Entry) : Bool := fbit e 16 2
def snNoPartner (e : Entry) : Bool := fbit e 16 3
def snCount (e : Entry) : Nat := fld e 18 2
def snList (e : Entry) : Nat := fld e 20 6
def snTag (e : Entry) : Nat := fld e 32 4

def State.snapExtents (s : State) (e : Entry) : List Extent := extentsOf (s.peek (snList e) (16 * snCount e)).blk (snCount e)

/-- A list operand: it lies in one tier and every word of it can be read. -/
def State.listOk (s : State) (a len : Nat) : Bool := len == 0 || (inTier a len && (s.peek a len).code == 0)

def State.snapshotOk (s : State) (e : Entry) : Bool :=
  fbits e 16 7 4 == 0 && fzero e 17 1 && decide (snCount e ≤ 256) && mult 16 (snList e) && s.listOk (snList e) (16 * snCount e) &&
    fzero e 26 2 && within 0 2000 (fld e 28 4) && fzero e 36 28 && (s.snapExtents e).all s.extentOk &&
    decide (imageLength (snCores e) (s.snapExtents e) ≤ gib s.snap.stagingSize.toNat)

/-- A snapshot waits while a drain of the previous image is in progress (R594). -/
def snapshotGate (s : State) (e : Entry) : Gate :=
  if !s.snapshotOk e then .stop (snapStop 0x0905 s.snap.sequence)
  else if (s.snap.flashDraining || s.snap.partnerDraining) && !snAbandon e then .hold 7
  else .go

/-- A header chunk that waits or has left and is not acknowledged, made one without a header: its header flag and its image's
`COMPLETE` bit clear (R588, R640). -/
def Msg.voidHeader (m : Msg) (number : Word) : Msg :=
  if m.number = number then { m with bytes := (m.bytes.set 20 0).set 26 (m.bytes.getD 26 0 &&& 0xFB) } else m

/-- The drain to the partner ends without the header of its image (R594): the chunk that holds it becomes one that makes no image
complete. Where it has left already, one more such chunk follows it, so that the partner's hold region holds no complete image. -/
def State.abandonPartner (s : State) : State :=
  let n := s.snap.partnerConn.toNat
  match s.snap.partnerDraining, s.snap.headerMsg with
  | true, some m =>
    let c := s.conn n
    let left := !c.unsent.any fun x => x.number == m
    let s := s.modConn n fun c =>
      { c with
        unsent := c.unsent.map fun x => x.voidHeader m
        unacked := c.unacked.map fun p => { p with msg := p.msg.map fun x => x.voidHeader m } }
    if left then s.sendOwn n 0x08 (chunkBody 0 false (List.replicate 256 0)) else s
  | _, _ => s

def execSnapshot (q : Nat) (s : State) : Res :=
  .next (s.tryIssue q (hasOp 0x78) snapshotGate fun s e =>
    let s := s.abandonPartner
    let j := s.newJob q e
    ((s.noteRead (deviceWho q) (snList e) (16 * snCount e)).issue q).modSnap fun x =>
      { x with
        phase := .quiescing, job := j, start := s.time.now.toNat, flashDraining := false, partnerDraining := false, headerMsg := none })

/-- Whether no issued command but the snapshot itself is in progress (R595). -/
def State.quiesced (s : State) : Bool :=
  let j := s.snap.job
  s.closes.isEmpty && (upTo 0 528).all fun q => ((s.queue q).flight.filter fun f => !(q == j.q && f.id == j.id)).isEmpty

/-- The quiesce ends, and the copy into staging starts. -/
def execQuiesceEnd (s : State) : Res :=
  .next (if s.snap.phase = .quiescing ∧ s.quiesced then
      s.modSnap fun x => { x with phase := .copying, endTime := s.time.now, stagingValid := false }
    else s)

/-- The quiesce limit has passed (R596). -/
def execSnapQuiesceTimeout (s : State) : Res :=
  .next (if s.snap.phase = .quiescing then
      (s.modSnap fun x => { x with phase := .idle }).endJob s.snap.job (snapStop 0x0904 s.nextSequence)
    else s)

/-! ### What the copy writes (R588 to R591, R598, R600) -/

/-- Queue record of R590. -/
def State.queueRecord (s : State) (q : Nat) : List Byte :=
  let x := s.queue q
  leBytes 6 x.ringBase.toNat ++ leBytes 1 x.ringSize ++ leBytes 1 (s.queueState q) ++ leBytes 4 x.head.toNat ++
    leBytes 4 x.tail.toNat ++ leBytes 4 x.index

/-- Bits of a map of flags, as a number. -/
def flagBits (m : NMap Bool) : Nat := (m.map fun e => if e.2 then 2 ^ e.1 else 0).sum

/-- Entries of a tile as its address window lays them out. -/
def Ledger.tileEntries (L : Ledger) (t : Nat) : NMap Byte := nblock (L.tileBytes false t) 0 6912

/-- Core record of R591, for a core in service. -/
def Core.record (c : Core) : NMap Byte :=
  (upTo 0 64).flatMap (fun i => blockOf (4 * i) (leBytes 4 (nget 0 c.tally.value i).toNat)) ++
    blockOf 256 (leBytes 64 (flagBits c.scr.tags)) ++ blockOf 320 (leBytes 8 (flagBits c.ledger.sat)) ++
    blockOf 328 (leBytes 8 (flagBits c.ledger.poison)) ++
    c.quant.slots.flatMap (fun e => blockOf (4096 + 64 * e.1) e.2.record.bytes) ++
    (upTo 0 8192).flatMap (fun i => blockOf (20480 + 4 * i) (leBytes 4 (nget 0x3F800000 c.quant.scale i).toNat)) ++
    (upTo 0 64).flatMap fun t => shift (53248 + 6912 * t) (c.ledger.tileEntries t)

/-- Code words of the ledger whose contents are lost, as 32 B words of the record. -/
def Core.recordLost (c : Core) : List Nat :=
  c.ledger.cond.filterMap fun e =>
    let t := e.1 / 24 / 9
    if lostWord e.2 then some ((53248 + 6912 * t) / 32 + (e.1 - t * 216)) else none

/-- Record of logical core `l`: a fenced core's holds one bit. -/
def State.recordFor (s : State) (l : Nat) : NMap Byte := if s.lfenced l then [(336, 1)] else (s.lcore l).record

/-- Data of an extent and its lost words (R600): a fenced core's scratchpad reads as zero. -/
def State.extentData (s : State) (x : Extent) : NMap Byte × NMap WordCond :=
  if x.len = 0 ∨ s.fencedWindow x.addr then ([], []) else
  match wholePlace x.addr x.len with
  | some (.scratch l off) =>
    let c := (s.lcore l).scr
    (nblock c.mem off x.len, nblock c.cond (off / 32) (x.len / 32))
  | _ => (nblock s.mem x.addr x.len, nblock s.memCond (x.addr / 32) (x.len / 32))

/-- The extent table of an image. -/
def State.extentTable (s : State) (xs : List Extent) : NMap Byte :=
  (upTo 0 xs.length).flatMap fun i =>
    let x := xs.getD i ⟨0, 0⟩
    blockOf (16 * i) (leBytes 6 x.addr ++ leBytes 2 (b2n (x.len != 0 && s.fencedWindow x.addr)) ++ leBytes 8 x.len)

/-- The header, with `COMPLETE` set. -/
def State.imageHeader (s : State) (e : Entry) (xs : List Extent) : List Byte :=
  let x := s.snap
  leBytes 2 1 ++ leBytes 2 (b2n x.correlated + 2 * b2n (snCores e) + 4) ++ leBytes 4 s.nextSequence.toNat ++
    leBytes 8 x.endTime.toNat ++ leBytes 8 (imageLength (snCores e) xs) ++ leBytes 2 xs.length ++ leBytes 1 s.side.feed.toNat ++
    leBytes 1 (if x.partnerState = 2 then x.partnerFeed.toNat else 0xFF) ++ leBytes 4 identPart.toNat ++ leBytes 4 (snTag e)

/-- The whole image. -/
def State.image (s : State) (e : Entry) (xs : List Extent) : NMap Byte :=
  blockOf 0 (s.imageHeader e xs) ++ shift imgExtents (s.extentTable xs) ++
    (upTo 0 528).flatMap (fun q => blockOf (imgQueues + 64 * q) (s.queueRecord q)) ++
    s.ctxs.flatMap (fun c => blockOf (imgContexts + 64 * c.1) c.2.bytes) ++
    (if snCores e then (upTo 0 128).flatMap fun l => shift (imgCores + coreRecord * l) (s.recordFor l) else []) ++
    (extentOffsets (extentBase (snCores e)) xs).flatMap fun x => shift x.2 (s.extentData x.1).1

/-- 32 B words of the image that take the poison pattern. -/
def State.imageLost (s : State) (e : Entry) (xs : List Extent) : List Nat :=
  (if snCores e then (upTo 0 128).flatMap fun l =>
      if s.lfenced l then [] else (s.lcore l).recordLost.map fun k => k + (imgCores + coreRecord * l) / 32 else []) ++
    (extentOffsets (extentBase (snCores e)) xs).flatMap fun x =>
      (s.extentData x.1).2.filterMap fun c => if lostWord c.2 then some (c.1 + x.2 / 32) else none

/-- The copy of core records meets ledger words that are not sound (R136). -/
def State.noteRecords (s : State) : State :=
  s.forEach (upTo 0 128) fun s l =>
    if s.lfenced l then s else
    (s.lcore l).ledger.cond.foldl (fun s c => if c.2 = .sound then s else s.noteLedgerWord l netWho (c.1 / 216, 0, 0) c.2) s

/-- The copy meets words that are not sound: they are corrected or reported as every read does. -/
def State.noteCopied (s : State) (cores : Bool) (xs : List Extent) : State :=
  xs.foldl (fun s x =>
    if x.len = 0 ∨ s.fencedWindow x.addr then s else
    match wholePlace x.addr x.len with
    | some (.scratch l off) =>
      (condsIn (s.lcore l).scr.cond off x.len).foldl (fun s c => s.noteScratchWord l netWho c.1 c.2) s
    | _ => s.noteTier x.addr x.len) (if cores then s.noteRecords else s)

/-- Bytes of the extents that a copy of an image reads or writes, as work of the device queue of its command (R549). -/
def State.countExtents (s : State) (q : Nat) (xs : List Extent) : State :=
  xs.foldl (fun s x => if s.fencedWindow x.addr then s else s.countBytes (deviceWho q) x.addr x.len) s

/-- The copy reads the context table. A word that cannot be read stops the device (R727), and with it the snapshot (R601). -/
def State.copyCtxs (s : State) : State × Bool :=
  s.ctxCond.foldl (fun (a : State × Bool) c => if a.2 then a.1.ctxRead (c.1 / 2) else a) (s, true)

/-- Slot of the flash drain: the one that does not hold the newest complete image (R602). -/
def Flash.drainSlot1 (f : Flash) : Bool :=
  f.slot0.complete && (!f.slot1.complete || decide (f.slot1.sequence.toNat ≤ f.slot0.sequence.toNat))

def Flash.setSlot (f : Flash) (one : Bool) (x : FlashSlot) : Flash := if one then { f with slot1 := x } else { f with slot0 := x }

/-- Drains of a new image start (R602, R603); a hold region smaller than the image fails its drain (R604). -/
def State.startDrains (s : State) (e : Entry) : State :=
  let s := s.modSnap fun x => { x with drainFailed := false }
  let s := if snNoFlash e then s else
    (s.setFlash (s.flash.setSlot s.flash.drainSlot1 .reset)).setSnap { s.snap with flashDraining := true }
  if snNoPartner e ∨ s.snap.partnerState ≠ 2 then s
  else if gib s.snap.partnerHold < s.snap.imageBytes.toNat then
    (s.modSnap fun x => { x with drainFailed := true }).raise pgSnapshot 0x0908 noted (seqInfo s.snap.sequence)
  else s.modSnap fun x => { x with partnerDraining := true, drainPos := 1, headerMsg := none }

/-- The copy is complete: every queue resumes, the snapshot completes and signals, the drains start (R598, R602, R603). -/
def execSnapshotCopyComplete (s : State) : Res :=
  .next (if s.snap.phase ≠ .copying then s else
    let c := s.copyCtxs
    let s := c.1
    if !c.2 then s else
    let j := s.snap.job
    let e := j.cmd
    let xs := s.snapExtents e
    let len := imageLength (snCores e) xs
    let base := s.snap.stagingBase.toNat
    let img := s.image e xs
    let lost := s.imageLost e xs
    let seq := s.nextSequence
    let s := s.noteCopied (snCores e) xs
    let s : State := (s.setMem (putMem s.mem base len img)).setMemCond
      (lost.foldl (fun m k => nset .sound m (base / 32 + k) .poison) (nclear s.memCond (base / 32) (len / 32)))
    let s := ((s.countTier base len true).countBytes (deviceWho j.q) base len).countExtents j.q xs
    let s := s.modSnap fun x =>
      { x with
        phase := .idle, stagingValid := true, sequence := seq, imageBytes := BitVec.ofNat 64 len
        lastStop := BitVec.ofNat 64 (s.time.now.toNat - x.start), snapshots := satInc x.snapshots }
    let s := s.raiseEach pgSnapshot 0x090C (seqInfo seq) true lost.length
    (s.startDrains e).finish j)

/-! ### Drains (R602 to R604, R613) -/

/-- Every drain that was started has completed. -/
def State.drained (s : State) : State :=
  if s.snap.flashDraining ∨ s.snap.partnerDraining ∨ s.snap.drainFailed then s
  else s.raise pgSnapshot 0x090D noted (seqInfo s.snap.sequence)

/-- The slot's header is written. Wear counts in tenths of a percent of 24,000 TiB; a warning at 80.0 % once per reset. -/
def execFlashDrainComplete (s : State) : Res :=
  .next (if !s.snap.flashDraining || s.halted then s else
    let len := s.snap.imageBytes.toNat
    let base := s.snap.stagingBase.toNat
    let s := s.noteTier base len
    let slot : FlashSlot :=
      ⟨true, s.snap.sequence, len, nblock s.mem base len,
        (nblock s.memCond (base / 32) (len / 32)).filterMap fun e => if lostWord e.2 then some (e.1, .poison) else none⟩
    let f := s.flash.setSlot s.flash.drainSlot1 slot
    let written := satAdd f.writtenGib ((len + 2 ^ 30 - 1) / 2 ^ 30)
    let wear := min 1000 (written.toNat * 1000 / 24576000)
    let s : State := (s.setFlash { f with writtenGib := written, wear := BitVec.ofNat 10 wear }).setSnap
      { s.snap with flashDraining := false }
    let s := if 800 ≤ wear ∧ !s.snap.wearWarned then
        (s.modSnap fun x => { x with wearWarned := true }).raise pgSnapshot 0x090B noted (seqInfo s.snap.sequence)
      else s
    s.drained)

/-- A drain fails and ends (R604). -/
def execSnapDrainFailed (partner : Bool) (s : State) : Res :=
  .next (if !(if partner then s.snap.partnerDraining else s.snap.flashDraining) then s else
    let s := s.modSnap fun x =>
      if partner then { x with partnerDraining := false, headerMsg := none, drainFailed := true }
      else { x with flashDraining := false, drainFailed := true }
    s.raise pgSnapshot 0x0908 noted (seqInfo s.snap.sequence))

/-- A chunk of the partner's image goes into the hold region; the one with the header makes it complete (R603). -/
def State.applyChunk (s : State) (n offset : Nat) (header : Bool) (data : List Byte) : State × Answer :=
  let x := s.snap
  if x.partnerState ≠ 2 ∨ n ≠ x.partnerConn.toNat ∨ data = [] ∨ 8192 < data.length ∨ gib x.holdSize.toNat < offset + data.length then
    (s, ⟨0x0811, []⟩)
  else
    let w := s.writeBytes (s.rxWho n) (x.holdBase.toNat + offset) data
    let done := header && (data.getD 2 0).getLsbD 2
    (w.1.modSnap fun x =>
      { x with
        holdValid := done, holdFilling := !done
        holdSequence := if done then BitVec.ofNat 32 (fieldAt data 4 4) else x.holdSequence }, ⟨w.2.toNat, []⟩)

def execSnapshotChunk (conn : Nat) (hdr : MsgHdr) (offset : Nat) (header : Bool) (data : List Byte) (s : State) : Res :=
  s.request conn 0x08 hdr (chunkBody offset header data) false false
    fun s => s.whileStopped [] fun s => s.applyChunk conn offset header data

/-! ### Pairing (R605 to R607) -/

/-- The modules exchange feed identity, system index and hold size; `refuses`: the partner refuses. A change of the partner's feed
identity ends the pairing there is, and its exchange starts a new one (R607). -/
def execPairingExchange (feed : BitVec 4) (index : BitVec 16) (hold : Nat) (refuses : Bool) (s : State) : Res :=
  .next (if !s.side.on || !s.snap.partnerEn || (s.snap.partnerState != 1 && feed == s.snap.partnerFeed) then s else
    let same := feed == s.side.feed
    let s := s.modSnap fun x => { x with partnerFeed := feed, partnerIndex := index, partnerHold := hold }
    if refuses || (same && !s.snap.acceptCorrelated) then
      (s.modSnap fun x => { x with partnerState := 3, correlated := false }).raise pgSnapshot 0x0902 noted (seqInfo s.snap.sequence)
    else
      let s := s.modSnap fun x => { x with partnerState := 2, correlated := same }
      if same then s.raise pgSnapshot 0x0901 noted (seqInfo s.snap.sequence) else s)

/-! ### RESTORE (R608 to R612) -/

def rsFlash (e : Entry) : Bool := fbits e 16 1 0 == 1
def rsCores (e : Entry) : Bool := fbit e 16 2
def rsCount (e : Entry) : Nat := fld e 18 2
def rsList (e : Entry) : Nat := fld e 20 6

def State.restoreOk (s : State) (e : Entry) : Bool :=
  decide (fbits e 16 1 0 ≤ 1) && fbits e 16 7 3 == 0 && fzero e 17 1 && decide (rsCount e ≤ 4096) && mult 8 (rsList e) &&
    s.listOk (rsList e) (8 * rsCount e) && fzero e 26 38

/-- R609. -/
def State.restoreBusy (s : State) (q : Nat) : Bool :=
  (upTo 0 528).any (fun k => k != q && !(s.queueState k == 0 || s.queueState k == 4)) ||
    s.rail.streams.any (fun e => e.2.isOpen) || s.ctxs.any fun e => decide (e.2.st ≠ .closed)

def restoreGate (q : Nat) (s : State) (e : Entry) : Gate :=
  if !s.restoreOk e then .stop (snapStop 0x0905 s.snap.sequence)
  else if s.restoreBusy q then .stop (snapStop 0x090A s.snap.sequence)
  else .go

/-- The newest complete flash slot. -/
def Flash.newestSlot (f : Flash) : Option FlashSlot :=
  match f.slot0.complete, f.slot1.complete with
  | false, false => none
  | true, false => some f.slot0
  | false, true => some f.slot1
  | true, true => some (if f.slot0.sequence.toNat < f.slot1.sequence.toNat then f.slot1 else f.slot0)

/-- The newest slot is read into staging, as far as it fits there. -/
def State.loadSlot (s : State) (q : Nat) : State × Bool :=
  match s.flash.newestSlot with
  | none => (s, false)
  | some x =>
    if gib s.snap.stagingSize.toNat < x.length then (s, false) else
    let base := s.snap.stagingBase.toNat
    (((((s.setMem (putMem s.mem base x.length x.image)).setMemCond (nput s.memCond (base / 32) (x.length / 32) x.lost)).setSnap
      { s.snap with stagingValid := true }).countTier base x.length true).countBytes (deviceWho q) base x.length, true)

/-- Bytes of the image in staging. -/
def State.staged (s : State) (off len : Nat) : NMap Byte := nblock s.mem (s.snap.stagingBase.toNat + off) len

/-- Whether the image in staging holds core records. -/
def imageCores (h : NMap Byte) : Bool := (blkNat h 2 2).testBit 1

def State.stagedExtents (s : State) : List Extent :=
  extentsOf (s.staged imgExtents 4096) (min 256 (blkNat (s.staged 0 256) 24 2))

/-- R610: the image in staging can be restored. -/
def State.stagedOk (s : State) (e : Entry) : Bool :=
  let h := s.staged 0 256
  let f := blkNat h 2 2
  decide (0 < s.snap.stagingSize.toNat) && f.testBit 2 && blkNat h 0 2 == 1 && blkNat h 28 4 == identPart.toNat &&
    decide (blkNat h 16 8 ≤ gib s.snap.stagingSize.toNat) && decide (blkNat h 24 2 ≤ 256) && s.stagedExtents.all s.extentOk &&
    (!rsCores e || imageCores h)

/-- A descriptor from its 64 B (R416). -/
def ctxOf (b : NMap Byte) : Ctx :=
  { st := match blkNat b 0 1 with
      | 1 => .opened
      | 2 => .closing
      | _ => .closed
    home := BitVec.ofNat 5 (blkNat b 1 1), conn := BitVec.ofNat 16 (blkNat b 2 2), kvBase := BitVec.ofNat 48 (blkNat b 4 6)
    kvPages := BitVec.ofNat 32 (blkNat b 12 4), capacity := BitVec.ofNat 32 (blkNat b 16 4)
    written := BitVec.ofNat 32 (blkNat b 20 4), committed := BitVec.ofNat 32 (blkNat b 24 4)
    position := BitVec.ofNat 32 (blkNat b 28 4), philox := BitVec.ofNat 64 (blkNat b 32 8)
    draws := BitVec.ofNat 64 (blkNat b 40 8), energy := BitVec.ofNat 64 (blkNat b 48 8)
    generation := BitVec.ofNat 32 (blkNat b 56 4) }

/-- Numbers of the `size`-byte items that a block touches, ascending. -/
def touched (size : Nat) : NMap Byte → List Nat
  | [] => []
  | (a, _) :: m =>
    match touched size m with
    | [] => [a / size]
    | k :: ks => if k = a / size then k :: ks else (a / size) :: k :: ks

/-- The context table of the image in staging. -/
def State.stagedCtxs (s : State) : NMap Ctx :=
  let t := s.staged imgContexts (64 * ctxCount)
  (touched 64 t).filterMap fun n =>
    let c := ctxOf (nblock t (64 * n) 64)
    if c = .reset then none else some (n, c)

/-- Rewind entries of a RESTORE: context and position, and whether the zero field is right. -/
def State.rewinds (s : State) (e : Entry) : List (Nat × Nat × Bool) :=
  let b := (s.peek (rsList e) (8 * rsCount e)).blk
  (upTo 0 (rsCount e)).map fun i => (blkNat b (8 * i) 2, blkNat b (8 * i + 4) 4, blkNat b (8 * i + 2) 2 == 0)

def rewindOk (ctxs : NMap Ctx) (r : Nat × Nat × Bool) : Bool :=
  let c := nget .reset ctxs r.1
  decide (r.1 < ctxCount) && r.2.2 && decide (r.2.1 ≤ c.position.toNat) && decide (c.position.toNat - r.2.1 ≤ c.committed.toNat)

/-- RESTORE reads the slot into staging where that is its source, checks the image and the rewinds, and issues. A check that
fails stops the queue before the command. -/
def execRestore (q : Nat) (s : State) : Res :=
  .next (s.tryIssue q (hasOp 0x79) (restoreGate q) fun s e =>
    let l := if rsFlash e then s.loadSlot q else (s, true)
    let s := l.1.noteRead (deviceWho q) (rsList e) (8 * rsCount e)
    if !l.2 || !s.stagedOk e then s.stopWith q (snapStop 0x0909 s.snap.sequence)
    else if (s.rewinds e).any fun r => !rewindOk s.stagedCtxs r then s.stopWith q (snapStop 0x0905 s.snap.sequence)
    else
      let j := s.newJob q e
      (s.issue q).modSnap fun x => { x with phase := .restoring, job := j, start := s.time.now.toNat })

/-- An extent is copied back; a core that is fenced now keeps its scratchpad. -/
def State.restoreExtent (s : State) (x : Extent) (data : NMap Byte) (lost : NMap WordCond) : State :=
  if x.len = 0 ∨ s.fencedWindow x.addr then s else
  match wholePlace x.addr x.len with
  | some (.scratch l off) =>
    s.modLcore l fun c =>
      { c with scr := { c.scr with
          mem := putMem c.scr.mem off x.len data, cond := nput c.scr.cond (off / 32) (x.len / 32) lost
          writeback := c.scr.writeback.filter fun k => !(decide (off / 32 ≤ k) && decide (k < (off + x.len) / 32)) } }
  | _ =>
    ((s.setMem (putMem s.mem x.addr x.len data)).setMemCond (nput s.memCond (x.addr / 32) (x.len / 32) lost)).countTier x.addr x.len
      true

/-- Numbers of the bits set among `n` bits, as a map of flags. -/
def flagMap (v n : Nat) : NMap Bool := (bitsOf v n).map fun k => (k, true)

/-- Ledger entries of a record, by entry key. No entry ever holds −2^47 (R134): that pattern is taken as −(2^47 − 1). -/
def recordEntries (b : NMap Byte) : NMap Int :=
  (touched 6 (nblock b 53248 (64 * 6912))).filterMap fun k =>
    let v := blkNat b (53248 + 6 * k) 6
    let x : Int := if v < 2 ^ 47 then (v : Int) else (v : Int) - 2 ^ 48
    if x = 0 then none else some (k, ledClamp x)

/-- A core record is restored (R611). -/
def Core.restore (c : Core) (b : NMap Byte) (lost : List Nat) : Core :=
  { c with
    tally := { c.tally with
      value := (upTo 0 64).filterMap fun i => (let v : Word := BitVec.ofNat 32 (blkNat b (4 * i) 4); if v = 0 then none else some (i, v)) }
    scr := { c.scr with tags := flagMap (blkNat b 256 64) 512 }
    ledger := { c.ledger with
      entries := recordEntries b, sat := flagMap (blkNat b 320 8) 64, poison := flagMap (blkNat b 328 8) 64
      cond := lost.map fun k => (k, WordCond.uncorrectable) }
    quant := { c.quant with
      scale := (upTo 0 8192).filterMap fun i =>
        (let v : Word := BitVec.ofNat 32 (blkNat b (20480 + 4 * i) 4); if v = 0x3F800000 then none else some (i, v))
      slots := (touched 64 (nblock b 4096 16384)).filterMap fun n =>
        (let r := recordOf b (4096 + 64 * n)
         let r : ScaleRec := { r with valid := (blkNat b (4096 + 64 * n + 51) 1).testBit 1 }
         if r = .reset then none else some (n, { Slot.reset with record := r })) } }

/-- Every plane EMPTY, every slot IDLE with tag 0. -/
def Core.afterRestore (c : Core) : Core :=
  let empty := fun (p : Plane) => { p with st := .empty }
  { c with
    frames := c.frames.filterMap fun e =>
      (let f : Frame := { e.2 with p0 := empty e.2.p0, p1 := empty e.2.p1 }; if f = .reset then none else some (e.1, f))
    quant := { c.quant with slots := c.quant.slots.filterMap fun e =>
      (let t : Slot := { e.2 with st := .idle, tag := 0 }; if t = .reset then none else some (e.1, t)) } }

/-- A queue takes its record: ring registers, `HEAD`, `TAIL` and, inside a segment, the segment at `HEAD`. -/
def State.restoreQueue (s : State) (own q : Nat) (b : NMap Byte) : State :=
  let index := blkNat b 16 4
  let s := s.modQueue q fun x =>
    { x with
      ringBase := BitVec.ofNat 48 (blkNat b 0 6), ringSize := blkNat b 6 1 % 32, head := BitVec.ofNat 32 (blkNat b 8 4)
      tail := BitVec.ofNat 32 (blkNat b 12 4), seg := none }
  let x := s.queue q
  let e := entryOf (s.peek (x.ringAddr x.head.toNat) 64).blk
  let s := if index = 0 then s else s.modQueue q fun x => { x with seg := some ⟨fld e 8 6, fld e 16 4, index⟩ }
  if q = own then s else s.modQueue q fun x => { x.stopAt 0x0906 false with flight := [] }

/-- Lower a context to a position (R612). A rewind never raises a position: a second entry for a context whose first one has lowered
it further leaves it there (DEDUCED, log entry 113). -/
def Ctx.rewind (c : Ctx) (pos : Nat) : Ctx :=
  let d := c.position.toNat - pos
  { c with
    position := BitVec.ofNat 32 (min pos c.position.toNat), committed := BitVec.ofNat 32 (c.committed.toNat - d)
    written := BitVec.ofNat 32 (c.committed.toNat - d) }

/-- The copy back is complete (R611, R612). -/
def execRestoreComplete (s : State) : Res :=
  .next (if s.snap.phase ≠ .restoring then s else
    let j := s.snap.job
    let e := j.cmd
    let h := s.staged 0 256
    let cores := imageCores h
    let base := s.snap.stagingBase.toNat
    let rs := s.rewinds e
    let old := s.stagedCtxs
    let from_ := s
    let lostIn := fun (off len : Nat) =>
      (nblock from_.memCond ((base + off) / 32) (len / 32)).filterMap fun c => if lostWord c.2 then some (c.1, WordCond.poison) else none
    let s := ((s.noteTier base (blkNat h 16 8)).countBytes (deviceWho j.q) base (blkNat h 16 8)).countExtents j.q from_.stagedExtents
    let s := (extentOffsets (extentBase cores) from_.stagedExtents).foldl
      (fun s x => s.restoreExtent x.1 (from_.staged x.2 x.1.len) (lostIn x.2 x.1.len)) s
    let s : State := (s.setCtxs old).setCtxCond ((lostIn imgContexts (64 * ctxCount)).map fun c => (c.1, .uncorrectable))
    let s := if !rsCores e then s else s.forEach (upTo 0 128) fun s l =>
      (let b := from_.staged (imgCores + coreRecord * l) coreRecord
       let lost := (lostIn (imgCores + coreRecord * l + 53248) (64 * 6912)).map (·.1)
       if s.lfenced l ∨ blkNat b 336 1 % 2 = 1 then s else s.modLcore l fun c => c.restore b lost)
    let s := s.forEach (upTo 0 528) fun s q => s.restoreQueue j.q q (from_.staged (imgQueues + 64 * q) 64)
    let s := s.forEach allPhys fun s p => s.modCore p Core.afterRestore
    let s := s.raise pgSnapshot 0x0906 noted (seqInfo s.snap.sequence)
    let skewed := ((rs.filter fun r => decide (r.2.1 < (nget .reset old r.1).position.toNat)).map (·.1)).eraseDups
    let s := rs.foldl (fun s r => s.modCtx r.1 fun c => c.rewind r.2.1) s
    let s := s.raiseEach pgSnapshot 0x0903 (skewed.headD 0) true skewed.length
    let s := s.modSnap fun x => { x with phase := .idle, restores := satInc x.restores, skews := satAdd x.skews skewed.length }
    s.finish j)

/-! ### Staging and hold registers (R615) -/

/-- Whether a region of `n` GiB at `base` lies in Tier 2; an empty one lies anywhere. -/
def regionOk (base n : Nat) : Bool := n == 0 || (decide (n ≤ 768) && inTier2 base (gib n))

/-- A snapshot phase or a drain in either direction holds the staging and hold fields (R615). -/
def State.regionsBusy (s : State) : Bool :=
  decide (s.snap.phase ≠ .idle) || s.snap.flashDraining || s.snap.partnerDraining || s.snap.holdFilling

/-- Write of the staging base (0), staging size (1), hold base (2) or hold size (3). -/
def State.writeRegion (s : State) (which v : Nat) : State :=
  let x := s.snap
  let y : Snap := match which with
    | 0 => { x with stagingBase := BitVec.ofNat 48 (4096 * (v / 4096)), stagingValid := false }
    | 1 => { x with stagingSize := BitVec.ofNat 10 v, stagingValid := false }
    | 2 => { x with holdBase := BitVec.ofNat 48 (4096 * (v / 4096)), holdValid := false }
    | _ => { x with holdSize := BitVec.ofNat 10 v, holdValid := false }
  if s.regionsBusy ∨ !regionOk y.stagingBase.toNat y.stagingSize.toNat ∨
      !regionOk y.holdBase.toNat y.holdSize.toNat ∨
      overlaps y.stagingBase.toNat (gib y.stagingSize.toNat) y.holdBase.toNat (gib y.holdSize.toNat) then s.countBad pgSnapshot
  else s.setSnap y

end Sys2Proof.Machine
end

