-- ==== Sys2Proof/Machine/Stream.lean ====
section
/-! DEFINITION. Stream.lean: the stream engine of a cluster: operand formats, the long accumulator, attention over KV tiles,
weight gradients and generic products (R226 to R276). -/

namespace Sys2Proof.Machine

/-! ### Elements (R226 to R229) -/

/-- Element `i` of a row image of `k` elements. -/
def elemAt (fmt k : Nat) (blk : NMap Byte) (i : Nat) : Fl :=
  let byte := fun a => (byteAt blk a).toNat
  match fmt with
  | 0 => e4m3 (byte i)
  | 1 => e5m2 (byte i)
  | 2 => (e2m1 (nbits (byte (i / 2)) (i % 2 * 4 + 3) (i % 2 * 4))).mul (e8m0 (byte (k / 2 + i / 32)))
  | 3 => let v := signed8 (byte i); .fin (decide (v < 0)) v.natAbs 0
  | _ => bf16 (blkNat blk (2 * i) 2)

def rowFl (fmt k : Nat) (blk : NMap Byte) : List Fl := (upTo 0 k).map (elemAt fmt k blk)

/-- Code `c` of a block-vector of 256 codes of `bits` bits in slice-planar layout (R63). -/
def codeAt (bits : Nat) (blk : NMap Byte) (c : Nat) : Nat :=
  ((upTo 0 (bits / 2)).map fun k => nbits (byteAt blk (64 * k + c / 4)).toNat (2 * (c % 4) + 1) (2 * (c % 4)) * 4 ^ k).sum

/-- Formats whose products are real numbers, of one accumulation class: MX FP4 and FP8, the integers, BF16. -/
def fmtClass (f : Nat) : Nat :=
  match f with
  | 0 => 0
  | 1 => 0
  | 2 => 0
  | 3 => 1
  | 4 => 1
  | 5 => 2
  | _ => 3

/-- Pairings of R229. -/
def pairOk (a b : Nat) : Bool := fmtClass a == fmtClass b && decide (fmtClass a < 3)

/-! ### The long accumulator (R231 to R237) -/

/-- An open output: its accumulator, its special state (0 none, 1 +∞, 2 −∞, 3 NaN), its marks, and what it has counted. -/
structure Acc96 where
  a : Int
  special : Nat
  saturated : Bool
  truncated : Bool
  truncs : Nat
  clamps : Nat

def Acc96.zero : Acc96 := ⟨0, 0, false, false, 0, 0⟩

def accLimit : Int := 2 ^ 95 - 1

/-- Special state after an infinity. -/
def specialOf (sp : Nat) (neg : Bool) : Nat :=
  let mine := if neg then 2 else 1
  if sp = 0 ∨ sp = mine then mine else 3

/-- Add a grid value. -/
def Acc96.addGrid (x : Acc96) (v : Int) : Acc96 :=
  let t := x.a + v
  if t > accLimit then { x with a := accLimit, saturated := true, clamps := x.clamps + 1 }
  else if t < -accLimit then { x with a := -accLimit, saturated := true, clamps := x.clamps + 1 }
  else { x with a := t }

/-- One product. -/
def Acc96.product (delta : Int) (x : Acc96) (p : Fl × Fl) : Acc96 :=
  match p.1.mul p.2 with
  | .nan => { x with special := 3 }
  | .inf neg => { x with special := specialOf x.special neg }
  | .fin neg m e =>
    let sh := e + 32 + delta
    if 0 ≤ sh then x.addGrid (signed neg (m * 2 ^ sh.toNat))
    else
      let d : Int := 2 ^ (-sh).toNat
      let v := signed neg m
      let x := x.addGrid (v.fdiv d)
      if v % d = 0 then x else { x with truncated := true, truncs := x.truncs + 1 }

/-- FP32 value of an accumulator on the grid of `delta`, times the output scale (R235, R237). -/
def Acc96.result (x : Acc96) (delta : Int) (scale : Word) : Word :=
  match x.special with
  | 0 => if x.a = 0 then 0 else fMul (w32 (.fin (decide (x.a < 0)) x.a.natAbs (-(32 + delta)))) scale
  | 1 => 0x7F800000
  | 2 => 0xFF800000
  | _ => 0x7FC00000

/-- A RAW entry (R241). -/
def Acc96.raw (x : Acc96) (delta : Int) : List Byte :=
  leBytes 12 (x.a % 2 ^ 96).toNat ++ leBytes 1 (x.special + 4 * b2n x.saturated + 8 * b2n x.truncated) ++
    leBytes 1 (delta % 256).toNat ++ leBytes 2 0

/-- What a RAW entry holds, and its Δ. -/
def rawOf (blk : NMap Byte) (i : Nat) : Acc96 × Int :=
  let v := blkNat blk (16 * i) 12
  let f := blkNat blk (16 * i + 12) 1
  (⟨if v < 2 ^ 95 then (v : Int) else (v : Int) - 2 ^ 96, f % 4, f.testBit 2, f.testBit 3, 0, 0⟩, signed8 (blkNat blk (16 * i + 13) 1))

/-! ### BF16 accumulation (R239) -/

/-- Sum of a group of at most eight products. -/
def groupSum (ps : List Word) : Word :=
  let p := fun i => ps.getD i 0
  fAdd (fAdd (fAdd (p 0) (p 1)) (fAdd (p 2) (p 3))) (fAdd (fAdd (p 4) (p 5)) (fAdd (p 6) (p 7)))

/-- Groups of eight, at most `n` of them, added in ascending order. -/
def groupSums (acc : Word) : Nat → List Word → Word
  | 0, _ => acc
  | n + 1, ps => if ps.isEmpty then acc else groupSums (fAdd acc (groupSum (ps.take 8))) n (ps.drop 8)

def bf16Dot (scale : Word) (ps : List (Fl × Fl)) : Word :=
  nanFix 0x1050 (scale :: ps.flatMap fun p => [w32 p.1, w32 p.2])
    (fMul (groupSums 0 ps.length (ps.map fun p => w32 (p.1.mul p.2))) scale)

/-! ### A command under way -/

/-- How a command computes and writes its outputs: format 0 FP32, 1 BF16, 2 RAW. -/
structure SPar where
  delta : Int
  scale : Word
  out : Nat
  acc : Bool
  bf : Bool

def SPar.entry (p : SPar) : Nat :=
  match p.out with
  | 0 => 4
  | 1 => 2
  | _ => 16

/-- A command under way. `wait`: a slot that is not permitted yet, as (logical core, slot). `puts`: what it has written at other
cores. `code`: it has stopped, the event already raised when `quiet`. `past`: effects of an earlier run, still to be gone through; `log`: the effects so far, newest
first. `reads`: slots that the command reads at all. `fault`: a residue check has failed. `free`: slots hold nothing up, in a run that
only finds the accesses that are `later`, as address, length and whether a write. -/
structure SEng where
  s : State
  j : Job
  seen : List (Nat × Nat)
  wrote : List (Nat × Nat)
  puts : List (Nat × Nat)
  wait : Option (Nat × Nat)
  code : BitVec 16
  quiet : Bool
  idx : Nat
  said : List (BitVec 16)
  past : List StreamStep
  log : List StreamStep
  reads : List (Nat × Nat)
  holds : Option Nat
  fault : Option Bool
  free : Bool
  later : List (Nat × Nat × Bool)

def SEng.ended (x : SEng) : Bool := x.wait.isSome || x.code != 0 || x.fault.isSome

def SEng.stop (x : SEng) (code : BitVec 16) : SEng := if x.ended then x else { x with code := code }

def SEng.cluster (x : SEng) : Nat := clusterOf (x.j.q / 4)

def SEng.who (x : SEng) (a : Nat) : Who :=
  let near : Bool := match placeOf a with
    | some (.scratch l _) => clusterOf l == x.cluster
    | some (.ledger l _) => clusterOf l == x.cluster
    | _ => true
  ⟨x.j.q % 4, if near then 2 else 7, !near, some (dieOf (x.j.q / 4)), some x.j.q⟩

/-- One effect: taken from the log where the command has been through it already, otherwise performed and entered there. -/
def SEng.step (x : SEng) (f : SEng → SEng × StreamStep) : SEng × StreamStep :=
  if x.ended then (x, .done) else
  match x.past with
  | g :: past => ({ x with past := past, log := g :: x.log }, g)
  | [] =>
    let r := f x
    if r.1.ended then r else ({ r.1 with log := r.2 :: r.1.log }, r.2)

/-- An effect that gives the command nothing. -/
def SEng.does (x : SEng) (f : SEng → SEng) : SEng := (x.step fun x => (f x, .done)).1

/-- The first slot that is not permitted at its first access: one that the command only writes must be empty, any other full
(R320, R321). -/
def SEng.blocked (x : SEng) (write : Bool) (ks : List (Nat × Nat)) : Option (Nat × Nat) :=
  if x.free then none else ks.find? fun k =>
    let c := (x.s.lcore k.1).scr
    !(c.discipline || x.seen.contains k || c.full k.2 == (!write || x.reads.contains k))

def SEng.see (x : SEng) (ks : List (Nat × Nat)) : SEng :=
  { x with seen := x.seen ++ ks.filter fun k => !x.seen.contains k }

/-- The parts of a range, as (address, length): those of a scratchpad's slots, each checked at its first access (R321); any other
range whole. -/
def slotParts (a len : Nat) : List (Nat × Nat) :=
  match placeOf a with
  | some (.scratch _ _) =>
    (upTo (a / 4096) ((a + len - 1) / 4096 + 1 - a / 4096)).map fun k => (max a (4096 * k), min (a + len) (4096 * (k + 1)) - max a (4096 * k))
  | _ => [(a, len)]

/-- An access that the map or a fence does not allow stops the command. -/
def SEng.reach (x : SEng) (a len : Nat) : SEng :=
  if (wholePlace a len).isNone then x.stop 0x0304 else if x.s.fencedWindow a then x.stop 0x0410 else x

/-- Read one part, now. -/
def SEng.fetch (x : SEng) (a len : Nat) : SEng × NMap Byte :=
  if (x.blocked false (slotsOf a len)).isSome then ({ x with wait := x.blocked false (slotsOf a len) }, [])
  else
    let r := x.s.read (x.who a) a len
    let x := { x with s := r.2, later := (a, len, false) :: x.later }.see (slotsOf a len)
    if r.1.code ≠ 0 then ({ x with code := r.1.code, quiet := true }, []) else (x, r.1.blk)

/-- Read one part, unless the command has read it already. -/
def SEng.getPart (x : SEng) (a len : Nat) : SEng × NMap Byte :=
  match x.step fun x => if (x.reach a len).ended then (x.reach a len, .done) else (let r := x.fetch a len; (r.1, .data r.2)) with
  | (x, .data b) => (x, b)
  | (x, _) => (x, [])

/-- Read `len` bytes at a data address. -/
def SEng.get (x : SEng) (a len : Nat) : SEng × NMap Byte :=
  if len = 0 then (x, []) else
  (slotParts a len).foldl (fun r p =>
    let b := r.1.getPart p.1 p.2
    (b.1, r.2 ++ b.2.map fun y => (y.1 + (p.1 - a), y.2))) (if x.past.isEmpty then x.reach a len else x, [])

/-- What the command writes where it has written at another core before: each byte is the earlier or the later one, since its
writes reach that core in no defined order (R345; log entry 25). -/
def SEng.unordered (x : SEng) (a : Nat) (bs : List Byte) : SEng × List Byte :=
  if x.puts.any fun o => decide (a < o.1 + o.2) && decide (o.1 < a + bs.length) then
    let was := (x.s.peek a bs.length).blk
    ({ x with s := x.s.setOracle (x.s.oracle + 1) }, bs.zipIdx.map fun b =>
      if x.puts.any (fun o => decide (o.1 ≤ a + b.2) && decide (a + b.2 < o.1 + o.2)) ∧ Config.overlapPick x.s.oracle b.2 % 2 = 1 then
        nget 0 was b.2
      else b.1)
  else (x, bs)

/-- Whether an address lies in the scratchpad of another core than the command's own. -/
def SEng.remote (x : SEng) (a : Nat) : Bool :=
  match placeOf a with
  | some (.scratch l _) => l != x.j.q / 4
  | _ => false

/-- Write one part, now. -/
def SEng.store (x : SEng) (a : Nat) (bs : List Byte) : SEng :=
  let len := bs.length
  if (x.reach a len).ended then x.reach a len
  else if (x.blocked true (slotsOf a len)).isSome then { x with wait := x.blocked true (slotsOf a len) }
  else
    let u := x.unordered a bs
    let w := u.1.s.writeBytes (u.1.who a) a u.2
    let x := { u.1 with
      s := w.1, later := (a, len, true) :: x.later, wrote := x.wrote ++ (slotsOf a len).filter fun k => !x.wrote.contains k
      puts := if x.remote a then x.puts ++ [(a, len)] else x.puts }.see (slotsOf a len)
    if w.2 ≠ 0 then { x with code := w.2, quiet := true } else x

/-- Write bytes at a data address, part by part. -/
def SEng.put (x : SEng) (a : Nat) (bs : List Byte) : SEng :=
  if bs.isEmpty then x else
  (slotParts a bs.length).foldl (fun x p => x.does fun x => x.store p.1 ((bs.drop (p.1 - a)).take p.2))
    (if x.past.isEmpty then x.reach a bs.length else x)

/-- Count occurrences; a noted event is raised at most once per command (R273), and each occurrence is an error that counts
(R563). -/
def SEng.note (x : SEng) (n : Nat) (code : BitVec 16) (count : Cluster → Cluster) : SEng :=
  if n = 0 then x else x.does fun x =>
  let s := x.s.modCluster x.cluster count
  let emit := !x.said.contains code
  { x with
    s := s.raiseEach (pgStream x.cluster) code (streamInfo x.j.q x.idx) emit n
    said := if emit then code :: x.said else x.said }

/-- The residue check of a row's grid contributions and accumulator updates (R272): an armed injection fails it, and the output is
not written. -/
def SEng.checkRow (x : SEng) : SEng := x.does fun x =>
  if !(x.s.cluster x.cluster).checkEn then x else
  let f := x.s.takeCheckFault (pgStream x.cluster)
  { x with s := f.1, fault := if f.2 then some true else none }

/-- One output: products, and what it starts from. -/
def SPar.one (p : SPar) (start : Acc96) (ps : List (Fl × Fl)) : Acc96 := ps.foldl (Acc96.product p.delta) start

/-- Bytes of a finished FP32 output in the output format (R236). -/
def wordBytes (out : Nat) (w : Word) : List Byte := if out = 1 then leBytes 2 (toBf16 (fl32 w)) else leBytes 4 w.toNat

/-- A BF16 output of the BF16 mode keeps the upper half of a NaN. -/
def bfBytes (out : Nat) (w : Word) : List Byte :=
  if out = 1 ∧ isNan w then (let h := w.toNat / 65536; leBytes 2 (if h % 128 = 0 then h + 64 else h)) else wordBytes out w

def outNonfinite (out : Nat) (w : Word) : Bool :=
  !isFinite w || (out == 1 && decide (toBf16 (fl32 w) / 128 % 256 = 255))

/-- A row of outputs at an address; `none` stands for an entry that is not visible (R252). -/
def SEng.row (p : SPar) (x : SEng) (a : Nat) (outs : List (Option (List (Fl × Fl)))) : SEng :=
  if x.ended ∨ outs.isEmpty then x else
  if p.bf then
    let ws := outs.map fun o => o.map (bf16Dot p.scale)
    let x := x.put a (ws.flatMap fun w => match w with
      | some w => bfBytes p.out w
      | none => wordBytes p.out 0xFF800000)
    if x.ended then x else
    let n := (ws.filter fun w => w.any (outNonfinite p.out)).length
    x.note n 0x0308 fun c => { c with nonfinite := satAdd c.nonfinite n }
  else
    let old := if p.acc then x.get a (16 * outs.length) else (x, [])
    let x := if outs.any (fun o => o.any fun ps => !ps.isEmpty) then old.1.checkRow else old.1
    if x.ended then x
    else if p.acc && (upTo 0 outs.length).any (fun i => decide ((rawOf old.2 i).2 ≠ p.delta)) then x.stop 0x0305
    else
      let rs := outs.zipIdx.map fun o => o.1.map (p.one (if p.acc then (rawOf old.2 o.2).1 else .zero))
      let x := x.put a (rs.flatMap fun r => match r with
        | some r => if p.out = 2 then r.raw p.delta else wordBytes p.out (r.result p.delta p.scale)
        | none => wordBytes p.out 0xFF800000)
      if x.ended then x else
      let done := rs.filterMap id
      let sat := (done.map Acc96.clamps).sum
      let tr := (done.map Acc96.truncs).sum
      let nf := if p.out = 2 then 0 else (done.filter fun r => outNonfinite p.out (r.result p.delta p.scale)).length
      let x := x.note sat 0x0306 fun c => { c with saturated := satAdd c.saturated sat }
      let x := x.note tr 0x0307 fun c => { c with truncated := satAdd c.truncated tr }
      x.note nf 0x0308 fun c => { c with nonfinite := satAdd c.nonfinite nf }

def SEng.countMac (x : SEng) (n : Nat) : SEng :=
  x.does fun x => { x with s := (x.s.modCluster x.cluster fun c => { c with mac := c.mac + BitVec.ofNat 64 n }).countWork x.j.q 1 n }

/-- MACs that the command spends on context `n` (R255, R553). -/
def SEng.spendMac (x : SEng) (n m : Nat) : SEng :=
  (x.countMac m).does fun x => { x with s := x.s.charge x.j n m }

/-! ### Operands of scores and values (R258) -/

/-- Data address of a cluster address. -/
def clusterAddr (cl a : Nat) : Nat := scratchAddr (cl * 4 + a / 0x200000 % 4) (a % 0x200000)
def clusterAddrOk (a : Nat) : Bool := decide (a < 2 ^ 23)

def aIsValue (e : Entry) : Bool := opcode e == 0x51
def aList (e : Entry) : Nat := fld e 16 4
def aCount (e : Entry) : Nat := fld e 20 2
def aLayer (e : Entry) : Nat := fld e 22 1
def aG (e : Entry) : Nat := fld e 23 1
def aH (e : Entry) : Nat := fld e 24 1
def aD (e : Entry) : Nat := 64 * 2 ^ fbits e 25 1 0
def aGeo (e : Entry) : Nat := fbits e 25 3 2
def aFmt (e : Entry) : Nat := fbits e 26 3 0
def aKv (e : Entry) : Nat := fbits e 26 7 4
def aQ (e : Entry) : Nat := fld e 27 1
def aExtra (e : Entry) : Bool := fbit e 28 0
def aOut (e : Entry) : Nat := fbits e 28 2 1
def aAcc (e : Entry) : Bool := fbit e 28 3
def aDelta (e : Entry) : Int := signed8 (fld e 29 1)
def aFirst (e : Entry) : Nat := fld e 30 2
def aTiles (e : Entry) : Nat := fld e 32 2
def aPitch (e : Entry) : Nat := 32 * fld e 34 2
def aOp (e : Entry) : Nat := fld e 36 4
def aOpStride (e : Entry) : Nat := fld e 40 4
def aDst (e : Entry) : Nat := fld e 44 4
def aDstStride (e : Entry) : Nat := fld e 48 4
def aExt (e : Entry) : Nat := fld e 52 4
def aExtStride (e : Entry) : Nat := fld e 56 4
def aScale (e : Entry) : Word := BitVec.ofNat 32 (fld e 60 4)
def aRows (e : Entry) : Nat := aH e * aG e * aQ e
/-- Bytes of an image of 64 positions (R244). -/
def aImage (e : Entry) : Nat := 64 * rowImageBytes (aKv e) (aD e)

def deltaOk (d : Int) : Bool := decide (-64 ≤ d) && decide (d ≤ 64)

/-- Output format, RAW and `ACCUMULATE` (R240, R242). -/
def outOk (out : Nat) (acc bf : Bool) : Bool := decide (out ≤ 2) && !(acc && out != 2) && !(bf && out == 2)

def attendOk (e : Entry) : Bool :=
  within 1 512 (aCount e) && within 1 16 (aG e) && within 1 16 (aH e) && decide (fbits e 25 1 0 ≤ 2) && fbits e 25 7 4 == 0 &&
    isKvFormat (aKv e) && pairOk (aFmt e) (aKv e) && within 1 64 (aQ e) && fbits e 28 7 4 == 0 &&
    outOk (aOut e) (aAcc e) (aKv e == 5) && (aIsValue e || (decide (aOut e ≠ 2) && !aAcc e)) && deltaOk (aDelta e) &&
    !(aExtra e && aTiles e != 0) && decide (32 ≤ aPitch e) && [aOpStride e, aDstStride e, aExtStride e].all (mult 32)

/-- Bytes of one operand row and of one output row as far as the command alone tells (R252 sets the rest). -/
def aOpRow (e : Entry) : Nat := if aIsValue e then 0 else rowImageBytes (aFmt e) (aD e)
def aOutRow (e : Entry) : Nat :=
  if !aIsValue e then 0 else match aOut e with
    | 0 => 4 * aD e
    | 1 => 2 * aD e
    | _ => 16 * aD e

/-- A cluster image from `a` to `len` bytes on lies within one scratchpad (R266). -/
def clusterImageOk (a len : Nat) : Bool := clusterAddrOk a && decide (a % 0x200000 + len ≤ 0x200000)

def aSpan (e : Entry) (stride row : Nat) : Nat := (aCount e - 1) * stride + (aRows e - 1) * aPitch e + row

/-- Least bytes of a row: the rows whose length follows from a context's committed length are tested again when the engine comes
to them (log entry 100). -/
def aOpLeast (e : Entry) : Nat := max 1 (aOpRow e)
def aOutLeast (e : Entry) : Nat := max 1 (aOutRow e)

def attendAddrOk (e : Entry) : Bool :=
  clusterAddrOk (aExt e) && clusterImageOk (aList e) (4 * aCount e) && clusterImageOk (aOp e) (aSpan e (aOpStride e) (aOpLeast e)) &&
    clusterImageOk (aDst e) (aSpan e (aDstStride e) (aOutLeast e)) &&
    (!aExtra e || clusterImageOk (aExt e) ((aCount e - 1) * aExtStride e + aH e * aQ e * rowImageBytes (aKv e) (aD e)))

/-! ### Attention (R244 to R257) -/

/-- Tiles of Tier 1 that a command reads of a context of committed length `len` (R254). -/
def aTileRange (e : Entry) (len : Nat) : List Nat :=
  let top := (len + 63) / 64
  let stop := if aTiles e = 0 then top else min top (aFirst e + aTiles e)
  upTo (aFirst e) (stop - aFirst e)

/-- A key or value: its position, the extra index it has if any, and its elements. -/
structure KvRow where
  pos : Nat
  extra : Option Nat
  row : List Fl

/-- Rows of one tile that are visible. -/
def tileRows (e : Entry) (len t : Nat) (blk : NMap Byte) : List KvRow :=
  let b := rowImageBytes (aKv e) (aD e)
  ((upTo 0 64).filter fun i => decide (64 * t + i < len)).map fun i =>
    ⟨64 * t + i, none, rowFl (aKv e) (aD e) (nblock blk (i * b) b)⟩

/-- Read of a KV tile: the engine takes any Tier 1 address (R39), across two stacks in two accesses, and stops at one outside
(R246). -/
def SEng.getTile (x : SEng) (a len : Nat) : SEng × NMap Byte :=
  if !inTier1 a len then (x.stop 0x0304, [])
  else
    let n := min len (tier1Size - a % tier1Size)
    let b := x.get a n
    if n = len then b else
    let c := b.1.get (a + n) (len - n)
    (c.1, b.2 ++ c.2.map fun y => (y.1 + n, y.2))

/-- MACs of one key tile (R255). -/
def aTileMac (e : Entry) : Nat := aG e * aQ e * 64 * aD e

/-- Keys or values of head `h` of context `i` of the list, which is context `n`. -/
def SEng.headRows (e : Entry) (g : StreamJob) (n i h len base : Nat) (x : SEng) : SEng × List KvRow :=
  let cl := x.cluster
  let tiles := (aTileRange e len).foldl (fun (r : SEng × List KvRow) t =>
    let a := base + aLayer e * g.layerStride.toNat + h * g.headStride.toNat + t * (2 * aImage e) +
      (if aIsValue e then aImage e else 0)
    let b := r.1.getTile a (aImage e)
    let x := b.1.does fun x => { x with s := x.s.modCluster cl fun c => { c with kvBytes := c.kvBytes + BitVec.ofNat 64 (aImage e) } }
    (x.spendMac n (aTileMac e), r.2 ++ tileRows e len t b.2)) (x, [])
  if !aExtra e then tiles else
  let w := rowImageBytes (aKv e) (aD e)
  let b := tiles.1.get (clusterAddr cl (aExt e) + i * aExtStride e + h * aQ e * w) (aQ e * w)
  (b.1.spendMac n (aTileMac e), tiles.2 ++ ((upTo 0 (aQ e)).map fun j =>
    (⟨len + j, some j, rowFl (aKv e) (aD e) (nblock b.2 (j * w) w)⟩ : KvRow)).filter fun r => decide (64 * aFirst e ≤ r.pos))

/-- Whether query `q` sees a row (R249). -/
def KvRow.visible (r : KvRow) (q : Nat) : Bool := r.extra.all fun j => decide (j ≤ q)

/-- Probabilities of the entries that a query sees, from a row of `k` entries (R228, R253). -/
def SEng.probs (e : Entry) (x : SEng) (a k n : Nat) : SEng × List Fl :=
  if aFmt e = 2 then
    let k := (k + 31) / 32 * 32
    let b := x.get a ((n + 1) / 2)
    let c := b.1.get (a + k / 2) ((n + 31) / 32)
    (c.1, (upTo 0 n).map fun i =>
      (e2m1 (nbits (byteAt b.2 (i / 2)).toNat (i % 2 * 4 + 3) (i % 2 * 4))).mul (e8m0 (byteAt c.2 (i / 32)).toNat))
  else
    let b := x.get a (rowImageBytes (aFmt e) n)
    (b.1, rowFl (aFmt e) n b.2)

/-- Bytes of an operand row and of an output row of a context with `n` entries (R228, R252, R253). -/
def aOpBytes (e : Entry) (n : Nat) : Nat :=
  if !aIsValue e then aOpRow e
  else if aFmt e = 2 then (let k := (n + 31) / 32 * 32; if n = 0 then 0 else k / 2 + k / 32) else rowImageBytes (aFmt e) n
def aOutBytes (e : Entry) (n : Nat) : Nat := if aIsValue e then aOutRow e else n * if aOut e = 1 then 2 else 4

/-- Query or probability row `r` of context `i` against the keys or values of its head. -/
def SEng.attendRow (e : Entry) (p : SPar) (i r : Nat) (rows : List KvRow) (x : SEng) : SEng :=
  let cl := x.cluster
  let q := r % aQ e
  let src := clusterAddr cl (aOp e) + i * aOpStride e + r * aPitch e
  let dst := clusterAddr cl (aDst e) + i * aDstStride e + r * aPitch e
  let ends := fun (base off n : Nat) => decide (0x200000 < base % 0x200000 + off + n)
  if ends (aOp e) (i * aOpStride e + r * aPitch e) (aOpBytes e rows.length) ||
      ends (aDst e) (i * aDstStride e + r * aPitch e) (aOutBytes e rows.length) then x.stop 0x0304
  else if aIsValue e then
    let seen := rows.filter fun k => k.visible q
    let ps := x.probs e src rows.length seen.length
    ps.1.row p dst ((upTo 0 (aD e)).map fun c => some (List.zipWith (fun w k => (w, k.row.getD c (.fin false 0 0))) ps.2 seen))
  else if rows.isEmpty then x
  else
    let b := x.get src (aOpRow e)
    let qs := rowFl (aFmt e) (aD e) b.2
    b.1.row p dst (rows.map fun k => if k.visible q then some (List.zip qs k.row) else none)

def aPar (e : Entry) : SPar := ⟨aDelta e, aScale e, aOut e, aAcc e, aKv e == 5⟩

/-- Contexts of one die's half of the table (R417). -/
def ctxDie (n : Nat) : Nat := n / 20480

/-- The engine reads the descriptor of context `n` once, and checks and holds the context (R256, R257). -/
def SEng.openCtx (x : SEng) (n : Nat) : SEng × StreamStep :=
  x.step fun x =>
    if ctxDie n ≠ x.cluster / 16 then (x.stop 0x0303, .done) else
    let rd := x.s.ctxRead n
    let c := rd.1.ctx n
    let y : SEng := { x with s := rd.1 }
    if !rd.2 then ({ y with code := 0x0528, quiet := true }, .done)
    else if c.st ≠ .opened then (y.stop 0x0302, .done)
    else if c.home.toNat ≠ x.cluster then (y.stop 0x0303, .done)
    else ({ y with holds := some n }, .descriptor c)

/-- The engine's last KV read of a context is made. -/
def SEng.release (x : SEng) : SEng := x.does fun x => { x with holds := none }

/-- Context `i` of the list. -/
def SEng.attendCtx (e : Entry) (g : StreamJob) (x : SEng) (i : Nat) : SEng :=
  if x.ended then x else
  let x := { x with idx := i }
  let b := x.get (clusterAddr x.cluster (aList e) + 4 * i) 4
  match b.1.openCtx (blkNat b.2 0 2) with
  | (x, .descriptor c) =>
    let len := c.committed.toNat
    (upTo 0 (aH e)).foldl (fun x h =>
      let kv := x.headRows e g (blkNat b.2 0 2) i h len c.kvBase.toNat
      let x := if h + 1 = aH e then kv.1.release else kv.1
      (upTo (h * aG e * aQ e) (aG e * aQ e)).foldl (fun x r => x.attendRow e (aPar e) i r kv.2) x) x
  | (x, _) => x

/-! ### Weight gradients (R259 to R262) -/

def wX (e : Entry) : Nat := fld e 16 4
def wXVec (e : Entry) : Nat := fld e 20 4
def wXBlk (e : Entry) : Nat := fld e 24 4
def wG (e : Entry) : Nat := fld e 28 4
def wGVec (e : Entry) : Nat := fld e 32 4
def wGBlk (e : Entry) : Nat := fld e 36 4
def wV (e : Entry) : Nat := fld e 40 2
def wR (e : Entry) : Nat := fld e 42 2
def wL (e : Entry) : Nat := fld e 44 2
def wXFmt (e : Entry) : Nat := fbits e 46 3 0
def wGFmt (e : Entry) : Nat := fbits e 46 7 4
def wOut (e : Entry) : Nat := fbits e 47 1 0
def wAcc (e : Entry) : Bool := fbit e 47 2
def wMask (e : Entry) : Bool := fbit e 47 3
def wDst (e : Entry) : Nat := fld e 48 6
def wDelta (e : Entry) : Int := signed8 (fld e 54 1)
def wAux (e : Entry) : Nat := fld e 56 4
def wScale (e : Entry) : Word := BitVec.ofNat 32 (fld e 60 4)
def wRowBlocks (e : Entry) : Nat := (wR e + 255) / 256
def wLaneBlocks (e : Entry) : Nat := (wL e + 127) / 128
def wEntry (e : Entry) : Nat := SPar.entry ⟨0, 0, wOut e, false, false⟩
def wImage (e : Entry) : Nat := 256 * 128 * wEntry e
/-- Whether the command needs its auxiliary block. -/
def wNeedsAux (e : Entry) : Bool := wMask e || wXFmt e == 4 || wGFmt e == 4

def wgradOk (e : Entry) : Bool :=
  [wXVec e, wXBlk e, wGVec e, wGBlk e].all (mult 32) && within 1 4096 (wV e) && within 1 32768 (wR e) && within 1 32768 (wL e) &&
    pairOk (wXFmt e) (wGFmt e) && fbits e 47 7 4 == 0 && outOk (wOut e) (wAcc e) (wXFmt e == 5) && fzero e 55 1 && deltaOk (wDelta e)

/-- Bytes of a block-vector of 256 channels in an operand format; the least for a code. -/
def wBlockBytes (fmt : Nat) : Nat := if fmt = 4 then 64 else rowImageBytes fmt 256

/-- One past the last byte of a striped operand of `n` channels. -/
def stripedEnd (base blk vec n nv size : Nat) : Nat := base % 0x200000 + ((n + 255) / 256 - 1) / 4 * blk + (nv - 1) * vec + size

def wgradAddrOk (e : Entry) : Bool :=
  clusterAddrOk (wX e) && clusterAddrOk (wG e) && clusterAddrOk (wAux e) &&
    decide (stripedEnd (wX e) (wXBlk e) (wXVec e) (wR e) (wV e) (wBlockBytes (wXFmt e)) ≤ 0x200000) &&
    decide (stripedEnd (wG e) (wGBlk e) (wGVec e) (wL e) (wV e) (wBlockBytes (wGFmt e)) ≤ 0x200000) &&
    (!wNeedsAux e || clusterImageOk (wAux e) 128) &&
    (wholePlace (wDst e) (wRowBlocks e * wLaneBlocks e * wImage e)).isSome

/-- How the elements of a striped operand read: code bits, zero point and scale where it is a code. -/
structure WOp where
  fmt : Nat
  bits : Nat
  zp : Nat
  scale : Option Word

/-- The operand's record at byte `i` of the auxiliary block. -/
def wOpOf (fmt : Nat) (aux : NMap Byte) (i : Nat) : WOp :=
  if fmt = 4 then ⟨4, 2 * 2 ^ (blkNat aux (i + 5) 1 % 4), blkNat aux (i + 12) 2, some (BitVec.ofNat 32 (blkNat aux (i + 8) 4))⟩
  else ⟨fmt, 0, 0, none⟩

/-- A record that a code operand cannot use. -/
def wBadRecord (fmt : Nat) (aux : NMap Byte) (i : Nat) : Bool :=
  fmt == 4 && (blkNat aux (i + 3) 1 != 2 || (blkNat aux (i + 6) 1).testBit 6)

def WOp.bytes (o : WOp) : Nat := if o.fmt = 4 then 32 * o.bits else rowImageBytes o.fmt 256

def WOp.decode (o : WOp) (blk : NMap Byte) : List Fl :=
  if o.fmt = 4 then (upTo 0 256).map fun c =>
    let v : Int := (codeAt o.bits blk c : Int) - o.zp
    .fin (decide (v < 0)) v.natAbs 0
  else rowFl o.fmt 256 blk

/-- Block `b` of every vector of a striped operand. -/
def SEng.striped (o : WOp) (base blk vec nv b : Nat) (x : SEng) : SEng × List (List Fl) :=
  (upTo 0 nv).foldl (fun (r : SEng × List (List Fl)) v =>
    let off := base % 0x200000 + b / 4 * blk + v * vec
    if 0x200000 < off + o.bytes then (r.1.stop 0x0304, r.2) else
    let g := r.1.get (scratchAddr (x.cluster * 4 + b % 4) off) o.bytes
    (g.1, r.2 ++ [o.decode g.2])) (x, [])

/-- One output block. -/
def SEng.wBlock (e : Entry) (p : SPar) (og : WOp) (xs : List (List Fl)) (rb lb : Nat) (x : SEng) : SEng :=
  let g := x.striped og (wG e) (wGBlk e) (wGVec e) (wV e) (lb / 2)
  let zero : Fl := .fin false 0 0
  let base := wDst e + (rb * wLaneBlocks e + lb) * wImage e
  (upTo 0 (min 256 (wR e - 256 * rb))).foldl (fun x r =>
    x.row p (base + r * 128 * wEntry e) ((upTo 0 (min 128 (wL e - 128 * lb))).map fun l =>
      some (List.zipWith (fun a b => (a.getD r zero, b.getD (lb % 2 * 128 + l) zero)) xs g.2))) (g.1.countMac (wV e * 256 * 128))

def SEng.wgrad (e : Entry) (x : SEng) : SEng :=
  let a := if wNeedsAux e then x.get (clusterAddr x.cluster (wAux e)) 128 else (x, [])
  if a.1.ended then a.1
  else if wBadRecord (wXFmt e) a.2 48 || wBadRecord (wGFmt e) a.2 80 then a.1.stop 0x0301
  else
    let ox := wOpOf (wXFmt e) a.2 48
    let og := wOpOf (wGFmt e) a.2 80
    let times := fun (w : Word) (o : WOp) => match o.scale with
      | some s => fMul w s
      | none => w
    let p : SPar := ⟨wDelta e, times (times (wScale e) ox) og, wOut e, wAcc e, wXFmt e == 5⟩
    let on := fun (byte n i : Nat) => !wMask e || (blkNat a.2 byte n).testBit i
    (upTo 0 (wRowBlocks e)).foldl (fun x rb =>
      if x.ended || !on 0 16 rb then x else
      let x := { x with idx := rb }
      let xs := x.striped ox (wX e) (wXBlk e) (wXVec e) (wV e) rb
      (upTo 0 (wLaneBlocks e)).foldl (fun x lb => if on 16 32 lb then x.wBlock e p og xs.2 rb lb else x) xs.1) a.1

/-! ### Generic products (R263) -/

def gA (e : Entry) : Nat := fld e 16 6
def gM (e : Entry) : Nat := fld e 22 2
def gB (e : Entry) : Nat := fld e 24 6
def gN (e : Entry) : Nat := fld e 30 2
def gC (e : Entry) : Nat := fld e 32 6
def gK (e : Entry) : Nat := fld e 38 2
def gAPitch (e : Entry) : Nat := fld e 40 4
def gBPitch (e : Entry) : Nat := fld e 44 4
def gCPitch (e : Entry) : Nat := fld e 48 4
def gScale (e : Entry) : Word := BitVec.ofNat 32 (fld e 52 4)
def gAFmt (e : Entry) : Nat := fbits e 56 3 0
def gBFmt (e : Entry) : Nat := fbits e 56 7 4
def gOut (e : Entry) : Nat := fbits e 57 1 0
def gAcc (e : Entry) : Bool := fbit e 57 2
def gFinish (e : Entry) : Bool := fbit e 57 3
def gDelta (e : Entry) : Int := signed8 (fld e 58 1)
def gPar (e : Entry) : SPar := ⟨gDelta e, gScale e, gOut e, gAcc e, !gFinish e && gAFmt e == 5⟩

def gemmOk (e : Entry) : Bool :=
  within 1 4096 (gM e) && within 1 4096 (gN e) && [gAPitch e, gCPitch e].all (mult 32) && fbits e 57 7 4 == 0 &&
    fzero e 59 5 && deltaOk (gDelta e) && outOk (gOut e) (gAcc e) (!gFinish e && gAFmt e == 5) &&
    (gFinish e || (mult 32 (gBPitch e) && decide (1 ≤ gK e) && pairOk (gAFmt e) (gBFmt e) && gAFmt e != 4 && gBFmt e != 4 &&
      !((gAFmt e == 2 || gBFmt e == 2) && !mult 32 (gK e))))

def gRow (e : Entry) (fmt : Nat) : Nat := if gFinish e then 16 * gN e else rowImageBytes fmt (gK e)
def gCRow (e : Entry) : Nat := gN e * (gPar e).entry

/-- An image of `n` rows lies within one range of the map. -/
def rowsPlaced (a pitch n row : Nat) : Bool := (wholePlace a ((n - 1) * pitch + row)).isSome

def gemmAddrOk (e : Entry) : Bool :=
  rowsPlaced (gA e) (gAPitch e) (gM e) (gRow e (gAFmt e)) && rowsPlaced (gC e) (gCPitch e) (gM e) (gCRow e) &&
    (gFinish e || rowsPlaced (gB e) (gBPitch e) (gN e) (gRow e (gBFmt e)))

/-- `FINISH`: RAW entries into the output format. -/
def SEng.finishRow (e : Entry) (x : SEng) (m : Nat) : SEng :=
  let a := x.get (gA e + m * gAPitch e) (16 * gN e)
  if a.1.ended then a.1 else
  let rs := (upTo 0 (gN e)).map (rawOf a.2)
  let x := a.1.put (gC e + m * gCPitch e) (rs.flatMap fun r =>
    if gOut e = 2 then r.1.raw r.2 else wordBytes (gOut e) (r.1.result r.2 (gScale e)))
  if x.ended then x else
  let nf := if gOut e = 2 then 0 else (rs.filter fun r => outNonfinite (gOut e) (r.1.result r.2 (gScale e))).length
  x.note nf 0x0308 fun c => { c with nonfinite := satAdd c.nonfinite nf }

def SEng.gemmRow (e : Entry) (x : SEng) (m : Nat) : SEng :=
  let a := x.get (gA e + m * gAPitch e) (gRow e (gAFmt e))
  let ra := rowFl (gAFmt e) (gK e) a.2
  let bs := (upTo 0 (gN e)).foldl (fun (r : SEng × List (List Fl)) n =>
    let b := r.1.get (gB e + n * gBPitch e) (gRow e (gBFmt e))
    (b.1, r.2 ++ [rowFl (gBFmt e) (gK e) b.2])) (a.1, [])
  (bs.1.countMac (gN e * gK e)).row (gPar e) (gC e + m * gCPitch e) (bs.2.map fun rb => some (List.zip ra rb))

/-! ### Acceptance (R264 to R266, R272) -/

def streamOk (e : Entry) : Bool :=
  match opcode e with
  | 0x52 => wgradOk e
  | 0x53 => gemmOk e
  | _ => attendOk e

def streamAddrOk (e : Entry) : Bool :=
  match opcode e with
  | 0x52 => wgradAddrOk e
  | 0x53 => gemmAddrOk e
  | _ => attendAddrOk e

/-- Committed length of context `i` of the list, as list and descriptor stand. -/
def State.aLength (s : State) (cl : Nat) (e : Entry) (i : Nat) : Nat :=
  (s.ctx (blkNat (s.peek (clusterAddr cl (aList e) + 4 * i) 4).blk 0 2)).committed.toNat

/-- Entries of a score row of a context of length `len` (R252, R254). -/
def aEntries (e : Entry) (len : Nat) : Nat :=
  ((aTileRange e len).map fun t => min 64 (len - 64 * t)).sum +
    if aExtra e then ((upTo 0 (aQ e)).filter fun j => decide (64 * aFirst e ≤ len + j)).length else 0

/-- Enabled row blocks and lane blocks (R261), as the auxiliary block stands. -/
def State.wBlocks (s : State) (cl : Nat) (e : Entry) : List Nat × List Nat :=
  let aux := (s.peek (clusterAddr cl (wAux e)) 128).blk
  let on := fun (byte n i : Nat) => !wMask e || (blkNat aux byte n).testBit i
  ((upTo 0 (wRowBlocks e)).filter (on 0 16), (upTo 0 (wLaneBlocks e)).filter (on 16 32))

/-- Blocks of Gr that the enabled lane blocks need. -/
def gradBlocks (lbs : List Nat) : List Nat := (lbs.map (· / 2)).eraseDups

/-- A scratchpad operand: its pieces by data address, as (address, length), and whether the command writes it. -/
abbrev Operand := List (Nat × Nat) × Bool

/-- The scratchpad operands of a stream command, at the width it runs (R321, R327). -/
def State.streamOperands (s : State) (cl : Nat) (e : Entry) : List Operand :=
  match opcode e with
  | 0x52 =>
    let aux := (s.peek (clusterAddr cl (wAux e)) 128).blk
    let bs := s.wBlocks cl e
    let stripes := fun (o : WOp) (base blk vec : Nat) (blocks : List Nat) => blocks.flatMap fun b => (upTo 0 (wV e)).map fun v =>
      (scratchAddr (cl * 4 + b % 4) (base % 0x200000 + b / 4 * blk + v * vec), o.bytes)
    let out := bs.1.flatMap fun rb => bs.2.flatMap fun lb => (upTo 0 (min 256 (wR e - 256 * rb))).map fun r =>
      (wDst e + (rb * wLaneBlocks e + lb) * wImage e + r * 128 * wEntry e, min 128 (wL e - 128 * lb) * wEntry e)
    [(stripes (wOpOf (wXFmt e) aux 48) (wX e) (wXBlk e) (wXVec e) bs.1, false),
      (stripes (wOpOf (wGFmt e) aux 80) (wG e) (wGBlk e) (wGVec e) (gradBlocks bs.2), false),
      (if wNeedsAux e then [(clusterAddr cl (wAux e), 128)] else [], false), (if wAcc e then out else [], false), (out, true)]
  | 0x53 =>
    let rows := fun (a pitch n len : Nat) => (upTo 0 n).map fun i => (a + i * pitch, len)
    [(rows (gA e) (gAPitch e) (gM e) (gRow e (gAFmt e)), false),
      (if gFinish e then [] else rows (gB e) (gBPitch e) (gN e) (gRow e (gBFmt e)), false),
      (if gAcc e && !gFinish e then rows (gC e) (gCPitch e) (gM e) (gCRow e) else [], false),
      (rows (gC e) (gCPitch e) (gM e) (gCRow e), true)]
  | _ =>
    let rows := fun (base stride : Nat) (len : Nat → Nat) => (upTo 0 (aCount e)).flatMap fun i =>
      let n := len (aEntries e (s.aLength cl e i))
      if n = 0 then [] else (upTo 0 (aRows e)).map fun r => (clusterAddr cl base + i * stride + r * aPitch e, n)
    let out := rows (aDst e) (aDstStride e) (aOutBytes e)
    [([(clusterAddr cl (aList e), 4 * aCount e)], false), (rows (aOp e) (aOpStride e) (aOpBytes e), false),
      (if aExtra e then (upTo 0 (aCount e)).map fun i =>
        (clusterAddr cl (aExt e) + i * aExtStride e, aH e * aQ e * rowImageBytes (aKv e) (aD e)) else [], false),
      (if aAcc e then out else [], false), (out, true)]

/-- Pieces that a command reads, and pieces that it writes. -/
def State.streamRanges (s : State) (cl : Nat) (e : Entry) : List (Nat × Nat) × List (Nat × Nat) :=
  let os := s.streamOperands cl e
  ((os.filter fun o => !o.2).flatMap Prod.fst, (os.filter fun o => o.2).flatMap Prod.fst)

/-- Scratchpad operands in the issuing core, one entry for each (R327); slot tags are checked at each access (R321). An operand
that `ACCUMULATE` reads and writes is one written operand. -/
def State.streamAccess (s : State) (q : Nat) (e : Entry) : List Access :=
  let l := q / 4
  if !(s.lcore l).scr.discipline then [] else
  let os := s.streamOperands (clusterOf l) e
  let outs := (os.filter fun o => o.2).map Prod.fst
  (os.filter fun o => o.2 || !outs.contains o.1).flatMap fun o => accessOf o.2 (ownRanges l o.1)

def streamStop (q idx : Nat) (code : BitVec 16) : Stop := ⟨code, pgStream (clusterOf (q / 4)), contained, streamInfo q idx, 0⟩

def streamGate (q : Nat) (s : State) (e : Entry) : Gate :=
  let c := s.cluster (clusterOf (q / 4))
  if !streamOk e then .stop (streamStop q 0 0x0301)
  else if !streamAddrOk e then .stop (streamStop q 0 0x0304)
  else if !s.guardOk q (s.streamAccess q e) then .hold 6
  else if c.fenced then .stop (streamStop q 0 0x030A)
  else if 4 ≤ c.held.length then .hold 7
  else .go

/-! ### Computation (R265, R269, R271, R272) -/

/-- The whole computation of a command. -/
def SEng.run (g : StreamJob) (x : SEng) : SEng :=
  let e := g.job.cmd
  match opcode e with
  | 0x52 => x.wgrad e
  | 0x53 => (upTo 0 (gM e)).foldl (fun x m => if gFinish e then x.finishRow e m else x.gemmRow e m) x
  | _ => (upTo 0 (aCount e)).foldl (fun x i => x.attendCtx e g i) x

/-- A command as it goes on from where it stands, up to a slot that is not permitted unless `free`. -/
def StreamJob.runOn (g : StreamJob) (s : State) (free : Bool) : SEng :=
  let reads := ((s.streamRanges (clusterOf g.core) g.job.cmd).1.flatMap fun r => slotsOf r.1 r.2).eraseDups
  SEng.run g ⟨s, g.job, g.seen, g.wrote, g.puts, none, 0, false, g.idx, g.said, g.past, [], reads, g.holds, none, free, []⟩

/-- A command as it goes on from where it stands; the work of one that names contexts is kept for them (R553). -/
def StreamJob.go (g : StreamJob) (s : State) : SEng :=
  let x := g.runOn s false
  if opcode g.job.cmd = 0x50 ∨ opcode g.job.cmd = 0x51 then { x with s := x.s.countCommand g.job s.energy } else x

/-- Where a command stands after a run. -/
def StreamJob.after (g : StreamJob) (x : SEng) (done : Bool) : StreamJob :=
  { g with past := x.log.reverse, seen := x.seen, wrote := x.wrote, puts := x.puts, said := x.said, idx := x.idx, holds := x.holds, done := done }

def State.dropHeld (s : State) (cl : Nat) : State := s.modCluster cl fun c => { c with held := c.held.drop 1 }
def State.setHeldFront (s : State) (cl : Nat) (g : StreamJob) : State :=
  s.modCluster cl fun c => { c with held := g :: c.held.drop 1 }

/-- A job's scoreboard entries go whose ranges none of its later accesses lies within (R329); an access is an address, a length and
whether it writes. -/
def State.releaseUnused (s : State) (j : Job) (later : List (Nat × Nat × Bool)) : State :=
  let l := j.q / 4
  s.modLcore l fun c =>
    { c with scr := { c.scr with sb := c.scr.sb.filter fun b =>
        b.id != j.id || b.q != j.q || later.any fun o => o.2.2 == b.write && (ownRanges l [(o.1, o.2.1)]).any (Rng.meets ⟨b.lo, b.hi⟩) } }

/-- The ranges of a stream command are released with their last access (R329): all of them at its end, and where it waits at a slot
those that the rest of it does not touch. -/
def State.streamRelease (s : State) (g : StreamJob) (waits : Bool) : State :=
  if !waits then s.releaseJob g.job
  else if !(s.lcore g.core).scr.discipline then s
  else s.releaseUnused g.job (g.runOn s true).later

/-- A residue that does not match fences the engine (R272). -/
def State.streamMismatch (s : State) (cl : Nat) (q idx : Nat) (inj : Bool) : State :=
  let s := s.modCluster cl fun c => { c with mismatches := satInc c.mismatches }
  (s.raiseFull (pgStream cl) 0x0309 fenceSev (streamInfo q idx) 0 true inj).fenceEngine cl

/-- The engine's oldest command goes on: to its end, to a slot that is not permitted, where it waits with what it has written, or
to a stop of R271, after which the next command starts (R265). -/
def State.streamAdvance (s : State) (cl : Nat) : Nat → State
  | 0 => s
  | n + 1 =>
    match (s.cluster cl).held with
    | [] => s
    | g :: _ =>
      if g.done then s else
      let x := g.go s
      if x.s.err.deviceStopped then x.s
      else match x.fault with
        | some inj => (x.s.setHeldFront cl (g.after x false)).streamMismatch cl g.job.q x.idx inj
        | none =>
          if x.code ≠ 0 then
            let s := (x.s.dropHeld cl).modCluster cl fun c => { c with contextStops := satInc c.contextStops }
            (if x.quiet then s.dropJob g.job x.code else s.endJob g.job (streamStop g.job.q x.idx x.code)).streamAdvance cl n
          else (x.s.streamRelease (g.after x x.wait.isNone) x.wait.isSome).setHeldFront cl (g.after x x.wait.isNone)

/-! ### Acceptance and completion (R264 to R266, R269) -/

/-- The engine accepts a command and reads its KV geometry entry; an idle engine starts it. -/
def State.streamAccept (s : State) (q : Nat) (op : Nat) : State :=
  s.tryIssue q (hasOp op) (streamGate q) fun s e =>
    let j := s.newJob q e
    let cl := clusterOf (q / 4)
    let geo := s.kvGeo cl (if op = 0x50 ∨ op = 0x51 then aGeo e else 0)
    (((s.issue q).enterJob j (s.streamAccess q e)).modCluster cl fun c =>
      { c with held := c.held ++ [StreamJob.accept j (q / 4) geo.layerStride geo.headStride] }).streamAdvance cl 4

def execStreamScore (q : Nat) (s : State) : Res := .next (s.streamAccept q 0x50)
def execStreamValue (q : Nat) (s : State) : Res := .next (s.streamAccept q 0x51)
def execStreamWgrad (q : Nat) (s : State) : Res := .next (s.streamAccept q 0x52)
def execStreamGemm (q : Nat) (s : State) : Res := .next (s.streamAccept q 0x53)

/-- The oldest accepted command has written its last output: it completes and signals, and the next one starts. -/
def State.streamComplete (s : State) (cl : Nat) (g : StreamJob) : State :=
  let s := (s.dropHeld cl).modCluster cl fun c => { c with commands := satInc c.commands }
  ((s.fillPairs g.wrote).finishJob g.job []).streamAdvance cl 4

/-- STREAM_COMMAND_COMPLETE: a command that waited at a slot goes on; one whose outputs are all written completes. -/
def execStreamCommandComplete (cluster : Nat) (s : State) : Res :=
  let s := if cluster < 32 then s.streamAdvance cluster 4 else s
  .next (match decide (cluster < 32), (s.cluster cluster).held with
    | true, g :: _ => if g.done then s.streamComplete cluster g else s
    | _, _ => s)

end Sys2Proof.Machine
end

