-- ==== Sys2Proof/Machine/Transcend.lean ====
section
/-! DEFINITION. Transcend.lean: the transcendental functions of the vector unit (R285, R286) and of the sampler (R297), computed
in fixed point far more finely than FP32, and the error that R286 allows around them. -/

namespace Sys2Proof.Machine

/-! ### Fixed point: a real number x as the integer nearest below x × 2^320 -/

def fixBits : Nat := 320
def fixOne : Int := 2 ^ fixBits

/-- A finite FP32 value, exactly. -/
def fixOf (t : Word) : Int :=
  match fl32 t with
  | .fin neg m e => signed neg (m * 2 ^ ((fixBits : Int) + e).toNat)
  | _ => 0

def fixMul (x y : Int) : Int := x * y / fixOne
def fixDiv (x y : Int) : Int := x * fixOne / y

/-! ### Series -/

/-- Σ r^i / i! for i ≥ `i`, `n` terms from the term `t` on. -/
def expSeries (r : Int) : Nat → Nat → Int → Int
  | 0, _, _ => 0
  | n + 1, i, t => t + expSeries r n (i + 1) (fixMul t r / ((i : Int) + 1))

/-- Σ z^(2i + 1) / (2i + 1), the inverse hyperbolic tangent: `p` is the power z^(2i + 1). -/
def atanhSeries (zz : Int) : Nat → Nat → Int → Int
  | 0, _, _ => 0
  | n + 1, i, p => p / (2 * (i : Int) + 1) + atanhSeries zz n (i + 1) (fixMul p zz)

/-- The alternating series of the sine and the cosine: each term is the one before × −x² / (k (k + 1)). -/
def circularSeries (xx : Int) : Nat → Nat → Int → Int
  | 0, _, _ => 0
  | n + 1, k, t => t + circularSeries xx n (k + 2) (-(fixMul t xx / ((k : Int) * (k + 1))))

/-- atan (1 / d) × 2^480: the series, from the power 1 / d^(2i + 1) on. -/
def atanInverse (d : Int) : Nat → Nat → Int → Int
  | 0, _, _ => 0
  | n + 1, i, p => p / (2 * (i : Int) + 1) - atanInverse d n (i + 1) (p / (d * d))

/-- π × 2^480. -/
def piWide : Int := 16 * atanInverse 5 110 0 (2 ^ 480 / 5) - 4 * atanInverse 239 40 0 (2 ^ 480 / 239)

/-- ln 2. -/
def fixLn2 : Int := 2 * atanhSeries (fixOne / 9) 105 0 (fixOne / 3)

/-! ### The functions -/

/-- exp x, at least the smallest positive number; past 2^180 any larger one. -/
def fixExp (x : Int) : Int :=
  if x < -250 * fixOne then 1
  else if 128 * fixOne < x then 2 ^ (fixBits + 200)
  else
    let k := x.fdiv fixLn2
    let y := expSeries (x - k * fixLn2) 80 0 fixOne
    if 0 ≤ k then y * 2 ^ k.toNat else max 1 (y / 2 ^ (-k).toNat)

/-- ln of the positive value m × 2^e. -/
def fixLog (m : Nat) (e : Int) : Int :=
  let l := Nat.log2 m
  let z := fixDiv ((m : Int) - 2 ^ l) ((m : Int) + 2 ^ l)
  2 * atanhSeries (fixMul z z) 105 0 z + (e + l) * fixLn2

/-- 1 / √(m × 2^e) of a positive value. -/
def fixRsqrt (m : Nat) (e : Int) : Int :=
  let n := 2 ^ (2 * (fixBits : Int) - e).toNat / m
  (isqrtGo n (Nat.log2 n / 2 + 1) 0 : Nat)

/-- sigmoid x = 1 / (1 + exp (−x)), at least the smallest positive number. -/
def fixSigmoid (x : Int) : Int :=
  let y := fixExp (-(x.natAbs : Int))
  if 0 ≤ x then fixDiv fixOne (fixOne + y) else max 1 (fixDiv y (fixOne + y))

def fixTanh (x : Int) : Int :=
  let y := fixExp (-2 * (x.natAbs : Int))
  let r := if x.natAbs < 2 ^ (fixBits - 40) then (x.natAbs : Int) else fixDiv (fixOne - y) (fixOne + y)
  if x < 0 then -r else r

/-- The angle reduced to −π … π. -/
def fixReduce (x : Int) : Int :=
  let r := (x * 2 ^ 160) % (2 * piWide)
  (if piWide < r then r - 2 * piWide else r) / 2 ^ 160

def fixSin (x : Int) : Int :=
  let r := fixReduce x
  circularSeries (fixMul r r) 60 2 r

def fixCos (x : Int) : Int :=
  let r := fixReduce x
  circularSeries (fixMul r r) 60 1 fixOne

/-- √(8 / π) = 2 √(2 / π). -/
def geluSlope : Int :=
  let n := (8 * fixOne * fixOne * 2 ^ 480 / piWide).toNat
  (isqrtGo n (Nat.log2 n / 2 + 1) 0 : Nat)

/-- SILU (R285): x × sigmoid x. -/
def fixSilu (x : Int) : Int := fixMul x (fixSigmoid x)

/-- GELU (R285): x/2 × (1 + tanh u) with u = √(2/π) (x + 0.044715 x³); 1 + tanh u is 2 sigmoid (2u). -/
def fixGelu (x : Int) : Int :=
  fixMul x (fixSigmoid (fixMul geluSlope (x + 44715 * fixMul x (fixMul x x) / 1000000)))

/-- The exact function of a finite argument by its operation code (R285), where the function is defined. -/
def exactFn (op : Nat) (t : Word) : Int :=
  let x := fixOf t
  match op, fl32 t with
  | 0x20, _ => fixExp x
  | 0x21, .fin _ m e => fixLog m e
  | 0x23, .fin _ m e => fixRsqrt m e
  | 0x25, _ => fixTanh x
  | 0x26, _ => fixSigmoid x
  | 0x27, _ => fixSilu x
  | 0x28, _ => fixGelu x
  | 0x29, _ => fixSin x
  | _, _ => fixCos x

/-! ### The bound (R286) -/

/-- One ulp of FP32 at a value. -/
def fixUlp (y : Int) : Int := 2 ^ (max ((fixBits : Int) - 149) ((Nat.log2 y.natAbs : Int) - 23)).toNat

/-- The largest error that the table of R286 allows. -/
def errorBound (op : Nat) (y : Int) : Int :=
  match op with
  | 0x20 => fixUlp y
  | 0x21 => fixUlp y
  | 0x23 => fixUlp y
  | 0x27 => 3 * fixUlp y
  | 0x28 => max (4 * fixUlp y) (2 ^ (fixBits - 126))
  | _ => 2 * fixUlp y

/-- Pattern of the largest FP32 magnitude that does not exceed a number; +∞ past the finite ones. -/
def magBelow (n : Nat) : Nat :=
  let q := max (fixBits - 149) (Nat.log2 n - 23)
  min ((q - (fixBits - 149)) * 2 ^ 23 + n / 2 ^ q) FpFmt.f32.infinity

/-- Pattern of the smallest FP32 magnitude that is not below a number. -/
def magAbove (n : Nat) : Nat :=
  let q := max (fixBits - 149) (Nat.log2 n - 23)
  min ((q - (fixBits - 149)) * 2 ^ 23 + (n + 2 ^ q - 1) / 2 ^ q) FpFmt.f32.infinity

/-- The same for signed numbers, as keys of the order of FP32 values. -/
def keyBelow (y : Int) : Int := if 0 ≤ y then magBelow y.natAbs else -(magAbove y.natAbs : Int)
def keyAbove (y : Int) : Int := if 0 ≤ y then magAbove y.natAbs else -(magBelow y.natAbs : Int)

/-- The FP32 word of a key. -/
def wordOfKey (k : Int) : Word := BitVec.ofNat 32 (k.natAbs + (if k < 0 then 2 ^ 31 else 0))

/-- The FP32 value from key `lo` to key `hi` that the open word `w` stands for: `w` itself where it lies there. -/
def pickBetween (lo hi : Int) (w : Word) : Word :=
  if lo ≤ fKey w ∧ fKey w ≤ hi then w else wordOfKey (lo + (w.toNat : Int) % (hi - lo + 1))

/-- Whether a result is known exactly: of a zero, and the logarithm and the inverse square root of a value whose result is an FP32
value. Every other result is irrational, or no FP32 value lies exactly at its bound. -/
def exactly (op : Nat) (t : Word) (y : Int) : Bool :=
  fixOf t == 0 || (op == 0x21 && y == 0) || (op == 0x23 && y * y * fixOf t == fixOne * fixOne * fixOne)

/-- A transcendental result of a finite argument: some value within the bound of R286 (log entry 11). The exact function is computed
to a part in 2^60, and the values picked from keep that far inside the bound, so that none exceeds it. -/
def nearFn (op : Nat) (t : Word) : Word :=
  let y := exactFn op t
  let slack := if exactly op t y then 0 else (y.natAbs : Int) / 2 ^ 60
  let bound := errorBound op (y.natAbs - slack) - slack
  pickBetween (keyAbove (y - bound)) (keyBelow (y + bound)) (Config.vectorFn op t)

/-- exp of R297, rounded to nearest even: of −∞ it is 0. -/
def expRne (t : Word) : Word :=
  if isFinite t then BitVec.ofNat 32 (FpFmt.f32.round false (fixExp (fixOf t)).toNat 1 (-(fixBits : Int)))
  else if t = 0xFF800000 then 0 else t

end Sys2Proof.Machine
end

