-- ==== Sys2Proof/Machine/Vector.lean ====
section
/-! DEFINITION. Vector.lean: the vector unit: formats and conversions, the operations, `SCALE_RAW`, reductions, the optimiser
step, and the VECTOR command (R277 to R292, R302, R738). -/

namespace Sys2Proof.Machine

def State.modVec (s : State) (l : Nat) (f : Vec → Vec) : State := s.modLcore l fun c => { c with vec := f c.vec }

/-! ### Operands (R290) -/

def vFa (e : Entry) : Nat := fbits e 17 1 0
def vFb (e : Entry) : Nat := fbits e 17 3 2
def vFd (e : Entry) : Nat := fbits e 18 2 0
/-- B mode: 0 elementwise, 1 broadcast, 2 per-vector scalar. -/
def vMode (e : Entry) : Nat := fbits e 19 1 0
def vNoScale (e : Entry) : Bool := fbit e 19 2
def vN (e : Entry) : Nat := fld e 20 2
def vCount (e : Entry) : Nat := fld e 22 2
def vA (e : Entry) : Nat := fld e 24 4
def vAStride (e : Entry) : Nat := fld e 28 4
def vB (e : Entry) : Nat := fld e 32 4
def vBStride (e : Entry) : Nat := fld e 36 4
def vD (e : Entry) : Nat := fld e 40 4
def vDStride (e : Entry) : Nat := fld e 44 4
def vS0 (e : Entry) : Word := BitVec.ofNat 32 (fld e 48 4)
def vS1 (e : Entry) : Word := BitVec.ofNat 32 (fld e 52 4)
def vScale (e : Entry) : Nat := fld e 56 2
def vFirst (e : Entry) : Nat := fld e 58 2
def vAux (e : Entry) : Nat := fld e 60 4
def noAux : Nat := 0xFFFFFFFF

/-! ### Operations (R285) -/

def opScaleRaw : Nat := 0x10
def opAdamw : Nat := 0x38
def opRotary : Nat := 0x32
/-- The functions f(t). -/
def isFn (op : Nat) : Bool := within 0x20 0x2A op
def isReduce (op : Nat) : Bool := within 0x18 0x1A op
def usesB (op : Nat) : Bool := within 1 6 op || [0x10, 0x30, 0x31, 0x32, 0x38].contains op
def knownOp (op : Nat) : Bool := within 0 6 op || isReduce op || isFn op || usesB op
/-- Operations of four cycles a group (R292). -/
def slowOp (op : Nat) : Bool := isFn op || [0x30, 0x31, 0x38].contains op
/-- Operations with a multiplication or an addition, which the residue check covers (R302). -/
def checkedOp (op : Nat) : Bool := !List.contains [0x00, 0x04, 0x05, 0x19] op

/-- Bytes of a source element. -/
def srcSize (f : Nat) : Nat :=
  match f with
  | 0 => 4
  | 1 => 2
  | _ => 8

/-- Bytes of `n` results in a format (R228). -/
def dstBytes (f n : Nat) : Nat :=
  match f with
  | 0 => 4 * n
  | 1 => 2 * n
  | 4 => n / 2 + n / 32
  | _ => n

/-- Bytes that one vector of D takes. -/
def vDLen (e : Entry) : Nat := dstBytes (vFd e) (if isReduce (vOp e) then 1 else vN e)
def vALen (e : Entry) : Nat := vN e * srcSize (vFa e)
/-- Number, spacing and length of the pieces of B. -/
def vBShape (e : Entry) : Nat × Nat × Nat :=
  if !usesB (vOp e) then (0, 0, 0)
  else match vMode e with
    | 0 => (vCount e, vBStride e, vN e * srcSize (vFb e))
    | 1 => (1, 0, vN e * srcSize (vFb e))
    | _ => (vCount e, vBStride e, srcSize (vFb e))

/-- Bytes at the aux offset that the unit reads first. -/
def auxLen (op : Nat) : Nat := if op = opScaleRaw then 32 else if op = opAdamw then 64 else 0

/-- One past the last byte of `n` pieces. -/
def piecesEnd (a n stride len : Nat) : Nat := if n = 0 then 0 else a + (n - 1) * stride + len

/-- R291, R734: what the command alone decides. -/
def vectorOk (e : Entry) : Bool :=
  let op := vOp e
  let b := vBShape e
  fbits e 17 7 4 == 0 && fbits e 18 7 3 == 0 && fbits e 19 7 3 == 0 && decide (vScale e < 0x2000) && knownOp op &&
    decide (vFa e ≠ 3) && decide (vFb e ≠ 3) && decide (vFd e ≤ 4) && decide (vMode e ≠ 3) && within 1 16384 (vN e) &&
    within 1 512 (vCount e) && !(op == opRotary && vN e % 2 == 1) && !(vFd e == 4 && !mult 32 (vN e)) &&
    [vA e, vAStride e, vB e, vBStride e, vD e, vDStride e].all (mult 32) && (vAux e == noAux || mult 32 (vAux e)) &&
    !(isReduce op && decide (1 < vFd e)) &&
    (if op = opScaleRaw then
      vFa e == 2 && vFb e == 2 && vAux e != noAux &&
        (vNoScale e || (decide (4096 ≤ vScale e) && decide (vScale e + vN e - 1 ≤ 8191)))
     else decide (vFa e ≠ 2) && decide (vFb e ≠ 2)) &&
    !(op == opAdamw && (vFa e != 0 || vFb e != 0 || vFd e != 0 || vAux e == noAux)) &&
    decide (piecesEnd (vA e) (vCount e) (vAStride e) (vALen e) ≤ scratchSize) &&
    decide (piecesEnd (vB e) b.1 b.2.1 b.2.2 ≤ scratchSize) &&
    decide (piecesEnd (vD e) (vCount e) (vDStride e) (vDLen e) ≤ scratchSize) &&
    (auxLen op == 0 || decide (vAux e + auxLen op ≤ scratchSize))

/-! ### The record of SCALE_RAW and the parameter block of ADAMW -/

def auxNat (b : NMap Byte) (i n : Nat) : Nat := blkNat b i n

/-- State of a verdict record (R223, R224). -/
def recSettled (b : NMap Byte) : Bool := auxNat b 3 1 == 2
def recDynamic (b : NMap Byte) : Bool := (auxNat b 6 1).testBit 6

/-- Offset of the array entry of the command's first vector (R283). -/
def arrayAt (e : Entry) : Nat := vAux e + 32 + 8 * vFirst e

/-- Offsets of m and v; each array has to lie in the scratchpad (R289). -/
def mvOk (e : Entry) (off : Nat) : Bool := mult 32 off && decide (piecesEnd off (vCount e) (vAStride e) (vALen e) ≤ scratchSize)

/-- The block at the aux offset as it stands. -/
def State.auxBlock (s : State) (q : Nat) (e : Entry) : NMap Byte := (s.peek (scratchAddr (q / 4) (vAux e)) (auxLen (vOp e))).blk

/-- Scratchpad operands (R320, R327). In range-scoreboard mode the m and the v of `ADAMW`, which it reads and writes, are one entry
each. -/
def State.vectorAccess (s : State) (q : Nat) (e : Entry) : List Access :=
  let b := vBShape e
  let aux := s.auxBlock q e
  let extra : List Access :=
    if vOp e = opScaleRaw then
      (if recDynamic aux then pieces (arrayAt e) 1 0 (8 * vCount e) false else [])
    else if vOp e = opAdamw then
      [auxNat aux 0 4, auxNat aux 4 4].flatMap fun off =>
        if mvOk e off then
          (if (s.lcore (q / 4)).scr.discipline then [] else pieces off (vCount e) (vAStride e) (vALen e) false) ++
            pieces off (vCount e) (vAStride e) (vALen e) true
        else []
    else []
  pieces (vA e) (vCount e) (vAStride e) (vALen e) false ++ pieces (vB e) b.1 b.2.1 b.2.2 false ++
    pieces (vD e) (vCount e) (vDStride e) (vDLen e) true ++ pieces (vAux e) 1 0 (auxLen (vOp e)) false ++ extra

/-! ### Numbers -/

def posInf : Word := 0x7F800000
def negInf : Word := 0xFF800000
def isZero (w : Word) : Bool := fKey w == 0

/-- The functions of R285 and R286 on the rounded argument: exact where the spec states the value, else open. -/
def vecFn (op : Nat) (t : Word) : Word :=
  if isNan t then t else
  let near := nearFn op t
  match op with
  | 0x20 => if t = posInf then posInf else if t = negInf then 0 else if isZero t then fOne else near
  | 0x21 => if isZero t then negInf else if t.getLsbD 31 then nanWord op [t] else if t = posInf then posInf
      else if t = fOne then 0 else near
  | 0x22 => fDiv fOne t
  | 0x23 => if isZero t then t ||| posInf else if t.getLsbD 31 then nanWord op [t] else if t = posInf then 0 else near
  | 0x24 => fSqrt t
  | 0x25 => if isZero t then t else if isFinite t then near else (t &&& 0x80000000) ||| fOne
  | 0x26 => if t = posInf then fOne else if t = negInf then 0 else near
  | 0x27 => if t = posInf then posInf else if t = negInf then 0x80000000 else near
  | 0x28 => if t = posInf then posInf else if t = negInf then 0x80000000 else near
  | 0x29 => if isZero t then t else if isFinite t then near else nanWord op [t]
  | _ => if isZero t then fOne else if isFinite t then near else nanWord op [t]

/-- `MAX` and `MIN` of R285. -/
def vMax (a b : Word) : Word :=
  if isNan a || isNan b then 0x7FC00000 else if fKey a = fKey b then a &&& b else fMax a b
def vMin (a b : Word) : Word :=
  if isNan a || isNan b then 0x7FC00000 else if fKey a = fKey b then a ||| b else fMin a b

/-- The operations of one element of A and one of B. -/
def elemOp (op : Nat) (s0 s1 a b : Word) : Word :=
  match op with
  | 0x01 => fAdd a b
  | 0x02 => fSub a b
  | 0x03 => fMul a b
  | 0x04 => vMax a b
  | 0x05 => vMin a b
  | 0x06 => fAdd (fMul s0 a) (fMul s1 b)
  | 0x30 => vecFn 0x20 (fSub a b)
  | 0x31 => fMul (vecFn 0x27 a) b
  | _ => if isFn op then vecFn op (fFma s0 a s1) else a

/-- `ROTARY` over a group, pair by pair. -/
def rotary : List Word → List Word → List Word
  | x0 :: x1 :: xs, c :: s :: bs => fSub (fMul x0 c) (fMul x1 s) :: fAdd (fMul x0 s) (fMul x1 c) :: rotary xs bs
  | _, _ => []

/-- One halving of the partial sums (R287). -/
def halve (w : Nat) (p : List Word) : List Word := List.zipWith fAdd (p.take w) ((p.drop w).take w)

/-- Add a value to partial `j`. -/
def addAt (p : List Word) (j : Nat) (x : Word) : List Word := p.modify j fun y => fAdd y x

/-- Reductions of R287. -/
def reduceOp (op : Nat) (xs : List Word) : Word :=
  if op = 0x19 then
    match xs with
    | [] => 0
    | y :: ys => ys.foldl vMax y
  else
    let p := xs.zipIdx.foldl (fun p x => addAt p (x.2 % 64) (if op = 0x1A then fMul x.1 x.1 else x.1)) (List.replicate 64 (0 : Word))
    ([32, 16, 8, 4, 2, 1].foldl (fun p w => halve w p) p).headD 0

/-- Parameters of ADAMW (R289). -/
structure Adam where
  lr : Word
  b1 : Word
  b2 : Word
  eps : Word
  lam : Word
  c1 : Word
  c2 : Word

def adamOf (b : NMap Byte) : Adam :=
  let w := fun i => BitVec.ofNat 32 (auxNat b (8 + 4 * i) 4)
  ⟨w 0, w 1, w 2, w 3, w 4, w 5, w 6⟩

/-- One element of ADAMW: the new w, m and v. -/
def Adam.step (p : Adam) (w g m v : Word) : Word × Word × Word :=
  let m' := fAdd (fMul p.b1 m) (fMul (fSub fOne p.b1) g)
  let v' := fAdd (fMul p.b2 v) (fMul (fSub fOne p.b2) (fMul g g))
  let u := fAdd (fDiv (fMul m' p.c1) (fAdd (fSqrt (fMul v' p.c2)) p.eps)) (fMul p.lam w)
  let ops := [w, g, m, v]
  (nanFix 0x38 ops (fSub w (fMul p.lr u)), nanFix 0x138 ops m', nanFix 0x238 ops v')

/-! ### Conversion to D (R277, R281) -/

/-- Bytes of BF16; the pattern of a NaN follows the FP32 one. -/
def bf16Bytes (y : Word) : List Byte :=
  leBytes 2 (if isNan y then (let h := y.toNat / 65536; if h % 128 = 0 then h + 64 else h) else toBf16 (fl32 y))

/-- One block of 32 elements in MX FP4: element codes, scale byte, saturations. -/
def mxBlock (ys : List Word) : List Nat × Nat × Nat :=
  let vs := ys.map fl32
  if ys.any isNan then (ys.map fun _ => 0, 0xFF, 0)
  else if vs.any (fun v => match v with
      | .inf _ => true
      | _ => false) then mxCodes vs 254
  else
    let amax := ys.foldl (fun a y => fMax a (y &&& 0x7FFFFFFF)) 0
    match fl32 amax with
    | .fin _ m e => if m = 0 then mxCodes vs 0 else mxCodes vs (min 254 (log2Rat m 1 + e + 125).toNat)
    | _ => mxCodes vs 254
where
  mxCodes (vs : List Fl) (x : Nat) : List Nat × Nat × Nat :=
    let scaled := vs.map fun v => v.mul (.fin false 1 (127 - (x : Int)))
    (scaled.map toE2m1, x, (scaled.filter (smallSat 2 (-1) 7)).length)

/-- Nibbles packed two to a byte, the even element low (R228). -/
def packNibbles : List Nat → List Byte
  | a :: b :: xs => BitVec.ofNat 8 (a + 16 * b) :: packNibbles xs
  | [a] => [BitVec.ofNat 8 a]
  | [] => []

/-- Lists of at most `w` elements, `k` of them. -/
def chunks {α : Type} (w : Nat) : Nat → List α → List (List α)
  | 0, _ => []
  | k + 1, xs => xs.take w :: chunks w k (xs.drop w)

/-- Results `e0, e0 + 1, …` of a vector of `n` as pieces at offsets from the vector's start, and their saturations. -/
def encodeD (f n e0 : Nat) (ys : List Word) : List (Nat × List Byte) × Nat :=
  match f with
  | 0 => ([(4 * e0, ys.flatMap fun y => leBytes 4 y.toNat)], 0)
  | 1 => ([(2 * e0, ys.flatMap bf16Bytes)], 0)
  | 2 => ([(e0, ys.map fun y => BitVec.ofNat 8 (toE4m3 (fl32 y)))], (ys.filter fun y => smallSat 4 (-9) 0x7E (fl32 y)).length)
  | 3 => ([(e0, ys.map fun y => BitVec.ofNat 8 (toE5m2 (fl32 y)))], (ys.filter fun y => smallSat 3 (-16) 0x7B (fl32 y)).length)
  | _ =>
    let bs := (chunks 32 (ys.length / 32) ys).map mxBlock
    ([(e0 / 2, bs.flatMap fun b => packNibbles b.1), (n / 2 + e0 / 32, bs.map fun b => BitVec.ofNat 8 b.2.1)],
      (bs.map fun b => b.2.2).sum)

/-! ### Groups (R292) -/

def vecWho (q : Nat) : Who := unitWho q 5

/-- Elements of a group: 128 for arithmetic on BF16 throughout (R277). -/
def groupSize (e : Entry) : Nat :=
  if !slowOp (vOp e) && vFa e == 1 && vFd e == 1 && (vFb e == 1 || !usesB (vOp e)) then 128 else 64

/-- Bytes that a full group reads and writes. -/
def groupBytes (e : Entry) : Nat :=
  let g := groupSize e
  g * srcSize (vFa e) + (if usesB (vOp e) && vMode e == 0 then g * srcSize (vFb e) else 0) +
    (if isReduce (vOp e) then 0 else dstBytes (vFd e) g) + (if vOp e = opAdamw then 16 * g else 0)

/-- Group interval c. -/
def groupCycles (e : Entry) : Nat := max (if slowOp (vOp e) then 4 else 1) ((groupBytes e + 511) / 512)
/-- Cycles from a group's read to its write. -/
def groupLatency (e : Entry) : Nat := if slowOp (vOp e) || isReduce (vOp e) then 20 else 12
/-- Groups whose writes are still due when a group is read, `t` cycles after its request. -/
def groupsLate (e : Entry) (t : Nat) : Nat := (groupLatency e - t + groupCycles e - 1) / groupCycles e - 1

/-- A group that has been read and is to be written. -/
structure VWrite where
  pieces : List (Nat × List Byte)
  nonfinite : Nat
  saturated : Nat

/-- A command under way. `code`: it met a word that cannot be used; `over`: its core is being fenced. -/
structure VAcc where
  s : State
  late : List VWrite
  bs : List Nat                -- B of the vector, where it is not read by groups
  vec : List Word              -- the vector so far, for a reduction
  fin : Bool                   -- its operands so far are finite
  saidNonfinite : Bool
  saidSaturated : Bool
  code : BitVec 16
  fenced : Bool

/-- Write one group (R288, R302, R313). -/
def VAcc.put (j : Job) (a : VAcc) (w : VWrite) : VAcc :=
  if a.fenced ∨ a.code ≠ 0 ∨ w.pieces.isEmpty then a else
  let e := j.cmd
  let l := j.q / 4
  let pg := a.s.pgL l bVector
  let info := j.q % 4 + vOp e * 4
  let f := if checkedOp (vOp e) then a.s.takeCheckFault pg else (a.s, false)
  if f.2 then
    let s := f.1.modVec l fun v => { v with mismatches := satInc v.mismatches }
    { a with s := s.raiseFence (s.physOf l) bVector 0x0313 info true, fenced := true }
  else
    let r := w.pieces.foldl (fun (r : State × BitVec 16) p =>
      if r.2 ≠ 0 then r else r.1.writeBytes (vecWho j.q) (scratchAddr l p.1) p.2) (f.1, 0)
    if r.2 ≠ 0 then { a with s := r.1, code := r.2 } else
    let s := r.1.modVec l fun v =>
      { v with nonfinite := satAdd v.nonfinite w.nonfinite, convertSat := satAdd v.convertSat w.saturated }
    let s := s.raiseEach pg 0x0311 info (!a.saidNonfinite) w.nonfinite
    let s := s.raiseEach pg 0x0312 info (!a.saidSaturated) w.saturated
    { a with s := s, saidNonfinite := a.saidNonfinite || w.nonfinite != 0, saidSaturated := a.saidSaturated || w.saturated != 0 }

/-- Write all but the latest `keep` groups. -/
def VAcc.flush (j : Job) (keep : Nat) (a : VAcc) : VAcc :=
  let n := a.late.length - keep
  { (a.late.take n).foldl (VAcc.put j) a with late := a.late.drop n }

/-- Read `n` elements; on a lost word the command ends, with the groups that are due by then written. -/
def VAcc.get (j : Job) (a : VAcc) (off n size : Nat) : VAcc × List Nat :=
  if a.fenced ∨ a.code ≠ 0 then (a, []) else
  let r := a.s.read (vecWho j.q) (scratchAddr (j.q / 4) off) (n * size)
  if r.1.code ≠ 0 then ({ VAcc.flush j (groupsLate j.cmd 4) { a with s := r.2 } with code := r.1.code }, [])
  else ({ a with s := r.2 }, (upTo 0 n).map fun i => blkNat r.1.blk (size * i) size)

def fpOf (f x : Nat) : Word := if f = 1 then bf16Word x else BitVec.ofNat 32 x
def signed64 (x : Nat) : Int := if x < 2 ^ 63 then (x : Int) else (x : Int) - 2 ^ 64

/-- What SCALE_RAW and ADAMW take from the aux offset and the scale registers. -/
structure VAux where
  sw : List Word               -- s_w[j]; empty with `NO_WSCALE`
  sa : List (Word × Nat)       -- s_a and z of each vector
  adam : Adam
  mOff : Nat
  vOff : Nat

/-- R282. -/
def scaleRaw (x : VAux) (v j raw lane : Nat) : Word :=
  let az := x.sa.getD v (0, 0)
  let d := signed64 raw - az.2 * signed64 lane
  let f := if x.sw.isEmpty then az.1 else fMul (x.sw.getD j 0) az.1
  let df := fOfInt d
  nanFix 0x10 [df, f] (fMul df f)

/-- Results of the elements `e0 …` of vector `v`, then the m and the v of ADAMW, each with whether the operands that it is formed
from were finite (R288, R356). -/
def groupResults (e : Entry) (x : VAux) (v e0 : Nat) (as_ bs ms vs : List Nat) :
    List (Word × Bool) × List (Word × Bool) × List (Word × Bool) :=
  let op := vOp e
  let ws := as_.map (fpOf (vFa e))
  let gs := bs.map (fpOf (vFb e))
  let fin := fun (ys : List Word) => ys.all isFinite
  if op = opScaleRaw then
    ((List.zip as_ bs).zipIdx.map fun y => (scaleRaw x v (e0 + y.2) y.1.1 y.1.2, true), [], [])
  else if op = opAdamw then
    let p := x.adam
    let r := (List.zip (List.zip ws gs) (List.zip (ms.map (fpOf 0)) (vs.map (fpOf 0)))).map fun y =>
      let w := p.step y.1.1 y.1.2 y.2.1 y.2.2
      ((w.1, fin [y.1.1, y.1.2, y.2.1, y.2.2, p.lr, p.b1, p.b2, p.eps, p.lam, p.c1, p.c2]),
        (w.2.1, fin [y.1.2, y.2.1, p.b1]), (w.2.2, fin [y.1.2, y.2.2, p.b2]))
    (r.map fun y => y.1, r.map fun y => y.2.1, r.map fun y => y.2.2)
  else if op = opRotary then
    ((rotary ws gs).zipIdx.map fun y =>
      let ops := [ws.getD (y.2 / 2 * 2) 0, ws.getD (y.2 / 2 * 2 + 1) 0, gs.getD (y.2 / 2 * 2) 0, gs.getD (y.2 / 2 * 2 + 1) 0]
      (nanFix (op + 0x100 * (y.2 % 2)) ops y.1, fin ops), [], [])
  else
    let gs := if usesB op then gs else ws.map fun _ => 0
    ((List.zip ws gs).map fun y =>
      let ops := if isFn op ∨ op = 0x06 then [y.1, y.2, vS0 e, vS1 e] else [y.1, y.2]
      let r := elemOp op (vS0 e) (vS1 e) y.1 y.2
      (if op = 0 ∧ vFa e = vFd e then r else nanFix op ops r, fin ops), [], [])

/-- One group of one vector: read it, and have it written when its time comes. -/
def VAcc.group (j : Job) (x : VAux) (v : Nat) (a : VAcc) (g : Nat) : VAcc :=
  let e := j.cmd
  let op := vOp e
  let e0 := g * groupSize e
  let n := min (groupSize e) (vN e - e0)
  let a := VAcc.flush j (groupsLate e 0) a
  let ra := VAcc.get j a (vA e + v * vAStride e + e0 * srcSize (vFa e)) n (srcSize (vFa e))
  let rb := if usesB op && vMode e == 0 then
      VAcc.get j ra.1 (vB e + v * vBStride e + e0 * srcSize (vFb e)) n (srcSize (vFb e))
    else if vMode e = 1 then (ra.1, (ra.1.bs.drop e0).take n)
    else (ra.1, List.replicate n (ra.1.bs.headD 0))
  let at_ := v * vAStride e + 4 * e0
  let rm := if op = opAdamw then VAcc.get j rb.1 (x.mOff + at_) n 4 else (rb.1, [])
  let rv := if op = opAdamw then VAcc.get j rm.1 (x.vOff + at_) n 4 else (rm.1, [])
  let a := rv.1
  if a.fenced ∨ a.code ≠ 0 then a else
  let d0 := vD e + v * vDStride e
  if isReduce op then
    let ws := ra.2.map (fpOf (vFa e))
    let xs := (if g = 0 then [] else a.vec) ++ ws
    let fin := (g == 0 || a.fin) && ws.all isFinite
    let last := vN e ≤ e0 + n
    let y := nanFix op xs (reduceOp op xs)
    let w : VWrite := if last then
        ⟨(encodeD (vFd e) 1 0 [y]).1.map fun p => (d0 + p.1, p.2), b2n (fin && !isFinite (narrow e y)), 0⟩
      else ⟨[], 0, 0⟩
    { a with vec := xs, fin := fin, late := a.late ++ [w] }
  else
    let r := groupResults e x v e0 ra.2 rb.2 rm.2 rv.2
    let enc := encodeD (vFd e) (vN e) e0 (r.1.map Prod.fst)
    let words := fun (off : Nat) (ws : List (Word × Bool)) =>
      if ws.isEmpty then [] else [(off + at_, ws.flatMap fun w => leBytes 4 w.1.toNat)]
    let odd := fun (ws : List (Word × Bool)) => (ws.filter fun y => y.2 && !isFinite y.1).length
    let w : VWrite :=
      ⟨enc.1.map (fun p => (d0 + p.1, p.2)) ++ words x.mOff r.2.1 ++ words x.vOff r.2.2,
        (r.1.filter fun y => y.2 && !isFinite (narrow e y.1)).length + odd r.2.1 + odd r.2.2, enc.2⟩
    { a with late := a.late ++ [w] }
where
  /-- A result as its format holds it, for R288. -/
  narrow (e : Entry) (y : Word) : Word := if vFd e = 1 then bf16Word (leNat (bf16Bytes y)) else y

/-- One vector. -/
def VAcc.vector (j : Job) (x : VAux) (a : VAcc) (v : Nat) : VAcc :=
  let e := j.cmd
  let a := if usesB (vOp e) && vMode e == 2 then
      let r := VAcc.get j a (vB e + v * vBStride e) 1 (srcSize (vFb e))
      { r.1 with bs := r.2 }
    else a
  (upTo 0 ((vN e + groupSize e - 1) / groupSize e)).foldl (VAcc.group j x v) a

/-- The whole command, from the state in which it starts. -/
def State.vectorRun (s : State) (j : Job) (x : VAux) : VAcc :=
  let e := j.cmd
  let a : VAcc := ⟨s, [], [], [], true, false, false, 0, false⟩
  let a := if usesB (vOp e) && vMode e == 1 then
      let r := VAcc.get j a (vB e) (vN e) (srcSize (vFb e))
      { r.1 with bs := r.2 }
    else a
  VAcc.flush j 0 ((upTo 0 (vCount e)).foldl (VAcc.vector j x) a)

/-! ### Issue (R278, R291, R738) and completion -/

/-- A finish that holds the unit (R278). -/
def Vec.held (u : Vec) : Bool := u.unit.any fun x => decide (x.kind = .finish)

/-- Checks of the record that `SCALE_RAW` names, at its issue. -/
def State.recordStop (s : State) (q : Nat) (e : Entry) : Bool :=
  let b := s.auxBlock q e
  vOp e == opScaleRaw && (s.peek (scratchAddr (q / 4) (vAux e)) 32).code == 0 &&
    (!recSettled b || (recDynamic b && decide (scratchSize < arrayAt e + 8 * vCount e)))

def vectorGate (q : Nat) (s : State) (e : Entry) : Gate :=
  if !vectorOk e then .stop (s.vectorStop q (vOp e) 0x0310)
  else if !s.guardOk q (s.vectorAccess q e) then .hold 6
  else if (s.lcore (q / 4)).vec.held then .hold 7
  else if s.recordStop q e then .stop (s.vectorStop q (vOp e) 0x0310)
  else .go

/-- What the command reads before its first group. -/
def State.vectorAux (s : State) (j : Job) : State × VAux × BitVec 16 :=
  let e := j.cmd
  let l := j.q / 4
  let none_ : VAux := ⟨[], [], adamOf [], 0, 0⟩
  if auxLen (vOp e) = 0 then (s, none_, 0) else
  let r := s.read (vecWho j.q) (scratchAddr l (vAux e)) (auxLen (vOp e))
  if r.1.code ≠ 0 then (r.2, none_, r.1.code)
  else if vOp e = opAdamw then (r.2, { none_ with adam := adamOf r.1.blk, mOff := auxNat r.1.blk 0 4, vOff := auxNat r.1.blk 4 4 }, 0)
  else
    let sw := if vNoScale e then [] else (upTo (vScale e) (vN e)).map fun k => nget fOne (r.2.lcore l).quant.scale k
    if recDynamic r.1.blk then
      let d := r.2.read (vecWho j.q) (scratchAddr l (arrayAt e)) (8 * vCount e)
      let sa := (upTo 0 (vCount e)).map fun v => (BitVec.ofNat 32 (blkNat d.1.blk (8 * v) 4), blkNat d.1.blk (8 * v + 4) 2)
      (d.2, { none_ with sw := sw, sa := sa }, d.1.code)
    else
      (r.2, { none_ with sw := sw, sa := List.replicate (vCount e) (BitVec.ofNat 32 (auxNat r.1.blk 8 4), auxNat r.1.blk 12 2) }, 0)

/-- VECTOR: the command computes and writes its groups; its slots fill and its signal fires at its completion. -/
def execVector (q : Nat) (s : State) : Res :=
  .next (s.tryIssue q (hasOp 0x40) (vectorGate q) fun s e =>
    let j := s.newJob q e
    let as_ := s.vectorAccess q e
    let s := (s.issue q).enterJob j as_
    let x := s.vectorAux j
    if x.2.2 ≠ 0 then x.1.dropJob j x.2.2
    else if vOp e = opAdamw ∧ !(mvOk e x.2.1.mOff && mvOk e x.2.1.vOff) then x.1.endJob j (s.vectorStop q (vOp e) 0x0310)
    else
      let a := x.1.vectorRun j x.2.1
      if a.fenced then a.s
      else if a.code ≠ 0 then a.s.dropJob j a.code
      -- its last accesses have been made, so that its ranges go (R329)
      else (a.s.releaseJob j).modVec (q / 4) fun v => { v with unit := v.unit ++ [⟨j, .vector, false, (writeSlots as_).eraseDups⟩] })

/-- The unit's oldest command completes, if it is of the kind named. -/
def State.vecComplete (s : State) (core : Nat) (kind : VecKind) : State :=
  match decide (core < 128), (s.lcore core).vec.unit with
  | true, x :: rest =>
    if x.kind = kind then
      (s.modVec core fun v => { v with unit := rest, commands := satInc v.commands }).finishJob x.job x.fills
    else s
  | _, _ => s

def execVectorCommandComplete (core : Nat) (s : State) : Res := .next (s.vecComplete core .vector)

end Sys2Proof.Machine
end

