-- ==== Sys2Proof/Machine/Flags.lean ====
section
/-! DEFINITION. Flags.lean: status words that the register pages compute from the state: the common header (R712 to R716), what is
busy, and the fields that pack one bit or a few bits for each tile, frame, core or region. -/

namespace Sys2Proof.Machine

/-! ### Packing -/

/-- Fields of `w` bits each, the first lowest. -/
def pack (w : Nat) : List Nat → Nat
  | [] => 0
  | x :: xs => x % 2 ^ w + 2 ^ w * pack w xs

/-- One bit for each of `n` things from `base` on. -/
def packBits (base n : Nat) (f : Nat → Bool) : Nat := pack 1 ((upTo base n).map fun i => b2n (f i))

/-- A signed number as 32 bits. -/
def signed32 (x : Int) : Nat := (x % 2 ^ 32).toNat

/-- Word `i` of bytes that stand at rising offsets (R12). -/
def wordOf (bs : List Byte) (i : Nat) : Nat := leNat ((bs.drop (4 * i)).take 4)

/-! ### Queues -/

/-- Opcode of the oldest unissued command. -/
def State.frontOp (s : State) (q : Nat) : Nat :=
  match s.front q with
  | .cmd e => opcode e
  | .segment e => opcode e
  | .nested e => opcode e
  | _ => 0

/-- `Qn_STS`. -/
def State.queueStatus (s : State) (q : Nat) : Nat :=
  let x := s.queue q
  s.queueState q + 8 * b2n x.seg.isSome + 16 * b2n (x.heldStep == 1) + 32 * x.heldStep + 256 * s.frontOp q

/-- A queue of any core by physical core, as if it had a number: the queue of the logical core, or what a dark core keeps. -/
def State.coreQueue (s : State) (p i : Nat) : QState := (s.core p).queue i

def QState.working (x : QState) : Bool := !x.flight.isEmpty || (!x.stopped && (x.head != x.tail || x.seg.isSome))

/-! ### Frames and the slice bus -/

def Core.frameBusy (c : Core) (f : Nat) : Bool := c.runs.any fun r => r.usesFrame f
def Core.gangBusy (c : Core) (g : Nat) : Bool := c.runs.any fun r => r.gangLeft g

def PlaneState.code : PlaneState → Nat
  | .empty => 0
  | .loading => 1
  | .loaded => 2
  | .poisoned => 3

/-- States of the planes of eight frames. -/
def Core.planeStates (c : Core) (f : Nat) : Nat :=
  pack 4 ((upTo f 8).map fun i => (c.frame i).p0.st.code + 4 * (c.frame i).p1.st.code)

/-- The frame and the plane that `FRAMES.DBG_SEL` selects. -/
def Core.dbgFrame (c : Core) : Frame := c.frame (c.fr.dbgSel.toNat % 16)
def Core.dbgPlane (c : Core) : Plane := if c.fr.dbgSel.getLsbD 4 then c.dbgFrame.p1 else c.dbgFrame.p0
def Core.dbgLane (c : Core) : Nat := c.fr.dbgSel.toNat / 2 ^ 16 % 512

/-- Streams of a cluster that a run in progress publishes. -/
def State.streamActive (s : State) (cl st : Nat) : Bool :=
  (members cl 15).any fun l => (s.lcore l).runs.any fun r => (publishedStreams (l % 4) r.job.cmd).contains st

/-- The run of core `l` that waits at a join, of the lowest queue, with its tag. -/
def State.joinTagOf (s : State) (l : Nat) : Option Nat :=
  (upTo (4 * l) 4).findSome? fun q =>
    match s.front q with
    | .cmd e => if (s.joining q (joinTag e)).isSome then some (joinTag e) else none
    | _ => none

/-! ### Busy blocks (`PAGE_STS.BUSY`; log entry 36) -/

def Core.loading (c : Core) : Bool := (upTo 0 16).any fun f => decide ((c.frame f).p0.st = .loading) || decide ((c.frame f).p1.st = .loading)

def State.coreBusy (s : State) (p b : Nat) : Bool :=
  let c := s.core p
  match b with
  | 0 => (upTo 0 4).any fun i => (c.queue i).working
  | 1 => !c.runs.isEmpty || !c.swaps.isEmpty || c.loading
  | 2 => !c.ledger.port.isEmpty
  | 3 => !c.quant.unit.isEmpty
  | 4 => !c.vec.unit.isEmpty
  | 5 => !c.dma.isEmpty
  | _ => false

def State.pageBusy (s : State) (k : PageKind) : Bool :=
  match k with
  | .core p b => s.coreBusy p b
  | .cluster c b => if b = 0 then !(s.cluster c).held.isEmpty else (upTo 0 8).any fun i => s.streamActive c i
  | .region r b =>
    match b with
    | 0 => s.zeroSlots r != 0
    | 2 => s.rail.streams.any fun e => e.2.isOpen
    | _ => false
  | .die d n =>
    if 2 ≤ n ∧ n < 6 then (s.port (4 * d + (n - 2))).training else n == 8 && s.snap.flashDraining
  | .device n =>
    if n = pgMode then s.boot.partBusy.isSome
    else if n = pgContext then !s.closes.isEmpty
    else if n = pgSnapshot then decide (s.snap.phase ≠ .idle) || s.snap.flashDraining || s.snap.partnerDraining
    else if n = pgTransport then s.net.conns.any fun e => !e.2.unsent.isEmpty || !e.2.unacked.isEmpty
    else if n = pgRemap then (upTo 0 4).any fun i => (s.spare i).starting
    else n == pgDevqueue && (upTo 0 16).any fun i => (s.queue (512 + i)).working

/-! ### The common header (R712 to R716) -/

/-- Block type and instance of a page. -/
def pageType : PageKind → Nat × Nat
  | .device n => (0x0100 + n, 0)
  | .die d n => if 2 ≤ n ∧ n < 6 then (0x0202, 4 * d + (n - 2)) else (0x0200 + n, d)
  | .region r b => (0x0300 + b, r)
  | .cluster c b => (0x0400 + b, c)
  | .core p b => (0x0500 + b, p)

def pageId (k : PageKind) : Nat := 2 ^ 16 * ((pageType k).1) + 0x0100 + (pageType k).2

/-- Offset of the last block-specific register. -/
def lastOffset : PageKind → Nat
  | .device n =>
    [0x140, 0x114, 0x15C, 0x13C, 0x128, 0x1FC, 0x15C, 0x91C, 0x124, 0x140, 0xAFC, 0x190, 0x170, 0x4F4].getD n 0
  | .die _ n => [0x10C, 0x10C, 0x150, 0x150, 0x150, 0x150, 0x10C, 0x12C, 0x104, 0x110].getD n 0
  | .region _ b => [0x128, 0x160, 0x1B4, 0x100, 0x104].getD b 0
  | .cluster _ b => [0x14C, 0x114, 0x104].getD b 0
  | .core _ b => [0x1F4, 0x16C, 0x13C, 0x14C, 0x128, 0x1A8, 0x238, 0x108].getD b 0

def PageKind.isCore : PageKind → Bool
  | .core _ _ => true
  | _ => false
def PageKind.isStream : PageKind → Bool
  | .cluster _ 0 => true
  | _ => false
def PageKind.isPort : PageKind → Bool
  | .die _ n => decide (2 ≤ n) && decide (n < 6)
  | _ => false
/-- Pages whose block has a check compare (R585). -/
def PageKind.hasCheck : PageKind → Bool
  | .core _ b => b == bFrames || b == bVector
  | .cluster _ b => b == 0
  | _ => false
def PageKind.shared : PageKind → Bool
  | .region _ b => b == 1 || b == 2
  | _ => false

def pageCaps (k : PageKind) : Nat :=
  lastOffset k + 2 ^ 16 * b2n (k.isCore || k.isStream) + 2 ^ 17 * b2n k.isCore + 2 ^ 18 * b2n k.hasCheck +
    2 ^ 19 * b2n k.shared + 2 ^ 20 * b2n k.isPort

/-- The block of a page is fenced or being fenced or unfenced (R715). -/
def State.pageFenced (s : State) (k : PageKind) : Bool :=
  match k with
  | .core p _ => decide ((s.core p).fence ≠ .inService)
  | .cluster c 0 => (s.cluster c).fenced
  | _ => false

def State.pageEnabled (s : State) (k : PageKind) : Bool :=
  match k with
  | .core p _ => !s.dark p
  | .die d n => if 2 ≤ n ∧ n < 6 then (s.port (4 * d + (n - 2))).enable else true
  | _ => true

def State.pageQuiesce (s : State) (k : PageKind) : Bool :=
  match k with
  | .core p _ => (s.core p).quiesce
  | _ => false

/-- `QUIESCE` is set, and no issued command of the core is in progress. -/
def State.pageQuiesced (s : State) (k : PageKind) : Bool :=
  match k with
  | .core p _ => (s.core p).quiesce && (upTo 0 4).all fun i => ((s.core p).queue i).flight.isEmpty
  | _ => false

/-- A word of the common header but for the time of the first error. -/
def State.headerWord (s : State) (k : PageKind) (pg off : Nat) : Nat :=
  let h := s.page pg
  match off with
  | 0x000 => pageId k
  | 0x004 => pageCaps k
  | 0x008 => b2n (s.pageEnabled k) + 2 * b2n (s.pageFenced k) + 4 * b2n (s.pageQuiesce k)
  | 0x00C =>
    b2n (s.pageBusy k) + 2 * b2n (s.pageFenced k) + 4 * b2n (s.pageQuiesced k) + 8 * b2n (h.count != 0) + 16 * b2n h.lock
  | 0x010 => h.code.toNat
  | 0x014 => h.info.toNat
  | 0x020 => h.count.toNat
  | 0x028 => h.inject.toNat
  | 0x02C => h.route.toNat
  | 0x030 => b2n h.lock
  | _ => 0

/-! ### Clocks (R510, R512, the CLOCK page) -/

/-- Frequency in kHz of an operating point: 3.2 GHz over its divider. -/
def pointKhz (p : Nat) : Nat := 6400000 / pointDivider p

/-- The fused maximum frequency of a core domain in MHz (R512); 400, the least that the rule allows, where the fuses list none (log
entry 3). -/
def Fuses.maxMhz (f : Fuses) (d dom : Nat) : Nat := (nget 400 f.fmax (d * 66 + dom)).toNat

/-- Frequency in kHz of a physical core: 0 while a stop halts its clock. A core in fallback runs no faster than its fused maximum
(R512), and a stretched cycle lasts 1.5 times as long (R526). -/
def State.coreKhz (s : State) (p : Nat) : Nat :=
  let d := dieOfPhys p
  let at_ := pointKhz (s.region (regionOfPhys p)).point
  let dom := if p < 128 then p % 64 else 64 + p % 2
  let f := if (s.core p).fallback then min at_ (1000 * s.fuses.maxMhz d dom) else at_
  if s.halted then 0 else if (s.core p).stretched then f * 2 / 3 else f

/-- Whether a domain is gated: a stop under R543 or R544 leaves the management and Ethernet clocks, a device-stop those and the
memory controllers' (R545, R582); a dark core is off. -/
def State.domainGated (s : State) (d dom : Nat) : Bool :=
  (decide (s.power.stop ≠ .none) && (decide (dom < 105) || dom == 110)) ||
    (s.err.deviceStopped && (decide (dom < 86) || (decide (102 ≤ dom) && decide (dom < 105)) || dom == 110)) ||
    (decide (dom < 64) && s.dark (64 * d + dom)) ||
    (decide (64 ≤ dom) && decide (dom < 66) && s.dark (128 + 2 * d + (dom - 64)))

/-- Frequency in kHz of a domain of a die, as the CLOCK page measures it: 0 without a locked PLL, and of a gated domain. -/
def State.domainKhz (s : State) (d dom : Nat) : Nat :=
  if !(s.die d).pllLocked || s.domainGated d dom then 0
  else if dom < 64 then s.coreKhz (64 * d + dom)
  else if dom < 66 then s.coreKhz (128 + 2 * d + (dom - 64))
  else if dom < 82 then pointKhz (s.region (4 * d + (dom - 66) / 4)).point
  else if dom < 105 then 1600000
  else if dom = 105 then 400000
  else Config.freeNat dom % 2 ^ 21

def State.domainStretched (s : State) (d dom : Nat) : Bool :=
  if dom < 64 then (s.core (64 * d + dom)).stretched
  else if dom < 66 then (s.core (128 + 2 * d + (dom - 64))).stretched
  else false

end Sys2Proof.Machine
end

