-- ==== Sys2Proof/Machine/Tiers.lean ====
section
/-! DEFINITION. Tiers.lean: the patrol of the memory controllers, retirement of memory pages and the loss of a stack or channel
(R408 to R414). -/

namespace Sys2Proof.Machine

/-- Memory pages of a stack or channel (R403, R404). -/
def ctlPages : Nat := 0x100_0000

/-- Data address of a memory page of a controller: the inverse of R403 and R404. -/
def State.pageAddr (s : State) (k page : Nat) : Nat :=
  if k < 8 then tier1Size * k + 4096 * page
  else
    let c := k - 8
    let b := 24 * 2 ^ 30 * s.split.toNat
    let shared := b / (24 * 4096)
    if page < shared then tier2Base + 4096 * (page * 24 + c)
    else tier2Base + b + c / 3 * ((tier2Size - b) / 8) + 4096 * (3 * (page - shared) + c % 3)

/-- Spare memory pages of a controller (`SPARES_FREE` at reset). -/
def spareTotal (k : Nat) : Nat := if k < 8 then 16384 else 458752

def State.scrubPeriod (s : State) (k : Nat) : Nat :=
  if k < 8 then (s.region k).t1Scrub.toNat else (s.region (ctlRegion k)).t2Scrub.toNat

/-- A word that the patrol finds not sound (R413): corrected, passed over where it holds the poison pattern, or reported as
noted. -/
def State.patrolWord (s : State) (k : Nat) (c : WordCond) : State :=
  match c with
  | .uncorrectable =>
    let a := 32 * k
    let s := (s.modCtl (s.ctlOf a) fun x => { x with uncorrectable := satInc x.uncorrectable }).failPage a
    s.tierEvent a 0x0502 noted
  | .correctable => s.noteTierWord k .correctable
  | _ => s

/-- The patrol of a controller reads its next memory page. A period of 0 stops it, but for the reads of filler activity, which are
patrol reads (R533). -/
def execTierPatrol (ctl : Nat) (s : State) : Res :=
  .next (if !decide (ctl < 32) || !s.side.on || decide (s.power.stop ≠ .none) || s.boot.wiping ||
      (s.scrubPeriod ctl == 0 && !(s.region (ctlRegion ctl)).filler) then s
  else
    let p := (s.ctl ctl).patrol
    let a := s.pageAddr ctl p
    let s := s.checkAccess a 4096
    let s := (condsIn s.memCond a 4096).foldl (fun s e => s.patrolWord e.1 e.2) s
    s.modCtl ctl fun x => { x with patrol := (p + 1) % ctlPages })

/-- Conditions of a memory page once its spare serves it (R410). -/
def spareConds (m : NMap WordCond) (a : Nat) : NMap WordCond :=
  m.filterMap fun e =>
    if a / 32 ≤ e.1 ∧ e.1 < a / 32 + 128 then (if lostWord e.2 then some (e.1, .poison) else none) else some e

/-- The oldest failing memory page is copied to a spare (R410), or stays where none is free (R411). It waits while a stop has halted
the clocks of the memories (R545). -/
def execPageRetired (ctl : Nat) (s : State) : Res :=
  .next (if !decide (ctl < 32) || !s.side.on || decide (s.power.stop ≠ .none) then s else
    match (s.ctl ctl).failing with
    | [] => s
    | g :: rest =>
      let a := 4096 * g
      if (s.ctl ctl).sparesUsed < spareTotal ctl then
        let s := s.modCtl ctl fun x =>
          { x with
            failing := rest, retired := satInc x.retired, sparesUsed := x.sparesUsed + 1
            lastRetired := BitVec.ofNat 24 (s.memPage a) }
        let s : State := (s.setMemCond (spareConds s.memCond a)).setFlash
          { s.flash with retired := nset [] s.flash.retired ctl (nget [] s.flash.retired ctl ++ [s.memPage a]) }
        let s := if ctl < 8 then s else
          s.modRegion (ctlRegion ctl) fun x =>
            { x with t2LastChannel := BitVec.ofNat 2 ((ctl - 8) % 3), t2LastPage := BitVec.ofNat 24 (s.memPage a) }
        s.tierEvent a 0x0503 noted
      else
        let told := (s.ctl ctl).exhausted
        let s := s.modCtl ctl fun x => { x with failing := rest, exhausted := true }
        s.raiseEach (ctlPage (s.ctlOf a)) 0x0504 (s.tierInfo a) (!told) 1)

/-- A controller loses its stack or channel (R414): device-stop. The memory page of the check that failed is open. From 32 on the
number names the rail root of region `ctl - 32`, whose failure stops the device too (R569); no rule gives its code and information
(log entry 112). -/
def execTierChannelFailed (ctl : Nat) (s : State) : Res :=
  .next (if !decide (ctl < 40) || !s.side.on then s else
    let o := s.open_
    if ctl < 32 then o.2.raiseStop (ctlPage ctl) 0x0506 (o.1 % 2 ^ 24 + (if ctl < 8 then 0 else (ctl - 8) % 3 * 2 ^ 24))
    else
      let i := o.2.open_
      i.2.raiseStop (pgRail (ctl - 32)) (BitVec.ofNat 16 (o.1 % 0x1000)) i.1)

end Sys2Proof.Machine
end

