-- ==== Sys2Proof/Machine/RegRead.lean ====
section
/-! DEFINITION. RegRead.lean: what a register reads as, page by page (the field maps of the chapters; R15, R710, R711, R721, R723,
R726, R555). A word without a field reads zero, and so does a wo field. -/

namespace Sys2Proof.Machine

/-! ### 64-bit registers (R15) -/

/-- Value of the LO/HI pair whose LO word stands at `off` of a core's page. -/
def State.corePair (s : State) (p b off : Nat) : Option Nat :=
  let c := s.core p
  match b, off with
  | 1, 0x10C => some (c.planeStates 0 + 2 ^ 32 * c.planeStates 8)
  | 1, 0x140 => some c.fr.slices.toNat
  | 2, 0x110 => some (flagBits c.ledger.sat)
  | 2, 0x118 => some (flagBits c.ledger.poison)
  | 2, 0x120 => some c.ledger.dbgStale.toNat
  | 3, 0x138 => some c.quant.rerunCycles.toNat
  | 4, 0x120 => some c.vec.draws.toNat
  | 5, 0x158 => some c.scr.wideWait.toNat
  | 5, 0x160 => some c.scr.narrowWait.toNat
  | 5, 0x168 => some c.scr.guardWait.toNat
  | 5, 0x174 => some c.scr.inboundBytes.toNat
  | 5, 0x194 => some c.scr.dmaBytes.toNat
  | 6, 0x234 => some c.tally.waitCycles.toNat
  | 7, 0x100 => some c.cycles.toNat
  | 0, _ =>
    if 0x100 ≤ off ∧ off < 0x200 ∧ off % 0x40 = 0 then some (c.queue ((off - 0x100) / 0x40)).ringBase.toNat else none
  | _, _ => none

def State.clusterPair (s : State) (c b off : Nat) : Option Nat :=
  let x := s.cluster c
  match b, off with
  | 0, 0x128 => some x.mac.toNat
  | 0, 0x130 => some x.kvBytes.toNat
  | 1, 0x110 => some x.bufferFull.toNat
  | 2, 0x100 => some x.busCycles.toNat
  | _, _ => none

def State.regionPair (s : State) (r b off : Nat) : Option Nat :=
  let x := s.region r
  match b, off with
  | 0, 0x118 => some x.t1Read.toNat
  | 0, 0x120 => some x.t1Write.toNat
  | 1, 0x150 => some x.t2Read.toNat
  | 1, 0x158 => some x.t2Write.toNat
  | 2, 0x188 => some x.rootBytes.toNat
  | 2, 0x190 => some s.rail.stallCycles.toNat
  | _, _ => none

def State.diePair (s : State) (d n off : Nat) : Option Nat :=
  match n, off with
  | 1, 0x108 => some (s.die d).bridgeTx.toNat
  | 9, 0x104 => some (s.die d).fabRequests.toNat
  | _, _ =>
    if 2 ≤ n ∧ n < 6 then
      let p := 4 * d + (n - 2)
      match off with
      | 0x108 => some (leNat (beBytes 6 (s.macOf p).toNat))
      | 0x138 => some (s.port p).rxFrames.toNat
      | 0x140 => some (s.port p).txFrames.toNat
      | _ => none
    else none

def State.devicePair (s : State) (n off : Nat) : Option Nat :=
  match n, off with
  | 0, 0x104 => some s.fuses.deviceId.toNat
  | 6, 0x100 => some s.snap.stagingBase.toNat
  | 6, 0x10C => some s.snap.holdBase.toNat
  | 6, 0x13C => some s.snap.lastStop.toNat
  | 6, 0x144 => some s.snap.imageBytes.toNat
  | 8, 0x108 => some s.time.now.toNat
  | 8, 0x11C => some s.time.pps.toNat
  | 9, 0x138 => some (match s.err.log[s.err.logSel.toNat]? with
      | some e => e.time.toNat
      | none => 0)
  | 12, 0x100 => some s.energy.total.toNat
  | 12, 0x108 => some s.energy.unattributed.toNat
  | 12, 0x110 => some s.energy.filler.toNat
  | 12, 0x118 => some (((upTo 512 16).map fun q => (nget 0 s.energy.queue q).toNat).sum)
  | 12, 0x168 => some (nget 0 s.energy.queue s.energy.qsel.toNat).toNat
  | 12, _ => if 0x120 ≤ off ∧ off < 0x160 ∧ off % 8 = 0 then some (nget 0 s.energy.partition ((off - 0x120) / 8)).toNat else none
  | 13, _ =>
    if 0x100 ≤ off ∧ off < 0x500 ∧ off % 0x40 = 0 then some (s.queue (512 + (off - 0x100) / 0x40)).ringBase.toNat else none
  | _, _ => none

/-- Value of the pair whose LO word is at `off` of page `pg`, if there is one. -/
def State.pairAt (s : State) (k : PageKind) (pg off : Nat) : Option Nat :=
  if off = 0x018 then some (s.page pg).time.toNat
  else
    match k with
    | .core p b => s.corePair p b off
    | .cluster c b => s.clusterPair c b off
    | .region r b => s.regionPair r b off
    | .die d n => s.diePair d n off
    | .device n => s.devicePair n off

/-! ### Core pages -/

/-- A queue's register, at an offset within its block. -/
def queueWord (x : QState) (status off : Nat) : Nat :=
  match off with
  | 0x08 => x.ringSize
  | 0x0C => x.head.toNat
  | 0x10 => x.tail.toNat
  | 0x14 => status
  | 0x18 => x.stopCode.toNat + 2 ^ 16 * b2n x.stopEnded
  | 0x1C => x.stopHead.toNat
  | 0x20 => x.stopIndex.toNat
  | 0x24 => 2 ^ 8 * b2n (x.stopRequest && status % 8 != 4)
  | 0x28 => x.issued.toNat
  | 0x2C => x.skipped.toNat
  | 0x30 => x.refused.toNat
  | 0x34 => x.stops.toNat
  | _ => 0

/-- Status of queue `i` of a core; a dark core's queues fetch nothing. -/
def State.coreQueueStatus (s : State) (p i : Nat) : Nat :=
  match s.logOf p with
  | some l => s.queueStatus (4 * l + i)
  | none => if ((s.core p).queue i).stopped then 4 else 0

def State.seqWord (s : State) (p off : Nat) : Nat :=
  if 0x100 ≤ off ∧ off < 0x200 then
    let i := (off - 0x100) / 0x40
    queueWord ((s.core p).queue i) (s.coreQueueStatus p i) (off % 0x40)
  else 0

/-- `FRAMES.FILLER`: the idle frames of a core in service that run a filler pass; a run displaces it (R86). Which idle frames do is
open. -/
def State.fillerFrames (s : State) (p : Nat) : Nat :=
  let c := s.core p
  if (s.region (regionOfPhys p)).filler && decide (c.fence = .inService) && !s.dark p && !s.halted then
    packBits 0 16 fun f => !c.frameBusy f && (Config.freeNat (s.power.fillerKey + p)).testBit f
  else 0

def State.framesWord (s : State) (p off : Nat) : Nat :=
  let c := s.core p
  let f := c.dbgFrame
  let x := c.dbgPlane
  match off with
  | 0x100 => 0xFFFF
  | 0x104 => packBits 0 16 c.frameBusy
  | 0x108 => packBits 0 16 fun i => (c.frame i).active1
  | 0x114 => packBits 0 4 c.gangBusy
  | 0x118 => s.issueLimit p
  | 0x11C => b2n c.fr.checkEn
  | 0x120 => c.fr.mismatches.toNat
  | 0x124 => c.fr.loadCorrected.toNat
  | 0x128 => c.fr.dbgSel.toNat
  | 0x12C => x.format.toNat + 8 * x.st.code
  | 0x130 => (nget 0 x.check (c.fr.dbgSel.toNat / 256 % 256)).toNat
  | 0x134 => signed32 (nget 0 x.laneSum c.dbgLane)
  | 0x138 =>
    (nget 0 f.beads c.dbgLane % 2 ^ 21).toNat + 2 ^ 31 * b2n (c.frameBusy (c.fr.dbgSel.toNat % 16))
  | 0x13C => s.fillerFrames p
  | 0x148 => x.pad.toNat
  | 0x16C => f.pendFormat.toNat + 256 * f.pendPad.toNat
  | _ =>
    if 0x14C ≤ off ∧ off < 0x15C then wordOf x.c1 ((off - 0x14C) / 4)
    else if 0x15C ≤ off ∧ off < 0x16C then wordOf x.c2 ((off - 0x15C) / 4)
    else 0

/-- `LEDGER.BUSY`: the command that holds the port. -/
def Ledger.busyWord (L : Ledger) : Nat :=
  match L.port with
  | [] => 0
  | j :: _ =>
    let op := opcode j.job.cmd
    b2n (op == 0x29) + 2 * b2n (op == 0x2A) + 4 * b2n (op == 0x28) + 16 * (j.job.q % 4)

def State.ledgerWord (s : State) (p off : Nat) : Nat :=
  let L := (s.core p).ledger
  match off with
  | 0x128 => L.clamps.toNat
  | 0x12C => L.corrected.toNat
  | 0x130 => L.orderStalls.toNat
  | 0x134 => L.windowStops.toNat
  | 0x138 => L.addressWritesDropped.toNat
  | 0x13C => L.busyWord
  | _ =>
    if 0x100 ≤ off ∧ off < 0x110 then
      let w := L.win ((off - 0x100) / 4)
      w.base.toNat + 2 ^ 8 * w.count.toNat
    else 0

/-- `QUANT.BUSY`: the command being served; a `LAST` that waits at the exchange; a re-run or dynamic quantisation. -/
def Quant.busyWord (u : Quant) : Nat :=
  match u.unit with
  | [] => 0
  | j :: _ =>
    let wait := u.unit.any QuantJob.waiting
    b2n true + 2 * b2n (u.unit.any fun x => x.phase == 2) + 4 * b2n wait + 16 * (j.job.q % 4) + 256 * verdictSlot j.job.cmd

def State.quantWord (s : State) (p off : Nat) : Nat :=
  let u := (s.core p).quant
  let t := nget .reset u.slots u.dbgSlot.toNat
  match off with
  | 0x100 => u.exchangeTimeout.toNat
  | 0x104 => u.eventEn.toNat
  | 0x108 => u.busyWord
  | 0x10C => u.passes.toNat
  | 0x110 => u.widened.toNat
  | 0x114 => u.rescaled.toNat
  | 0x118 => u.clipOver.toNat
  | 0x11C => u.underuse.toNat
  | 0x120 => u.flatPos.toNat
  | 0x124 => u.flatNeg.toNat
  | 0x128 => u.flatZero.toNat
  | 0x12C => u.nonfinite.toNat
  | 0x130 => u.rerunClips.toNat
  | 0x134 => u.exchangeTimeouts.toNat
  | 0x140 => u.dbgIndex.toNat
  | 0x144 => (nget 0x3F800000 u.scale u.dbgIndex.toNat).toNat
  | 0x148 => u.dbgSlot.toNat
  | 0x14C => t.st.code + 2 ^ 8 * t.tag.toNat
  | _ => 0

/-- `VECTOR.BUSY`. -/
def Vec.busyWord (v : Vec) : Nat :=
  match v.unit with
  | [] => 0
  | j :: _ =>
    1 + 2 * b2n (v.unit.any fun x => x.joining) + 4 * (j.job.q % 4) +
      256 * (if j.kind = .vector then vOp j.job.cmd else 0xFF)

def State.vectorWord (s : State) (p off : Nat) : Nat :=
  let v := (s.core p).vec
  match off with
  | 0x100 => v.busyWord
  | 0x104 => v.rows.toNat + 2 ^ 16 * v.k.toNat
  | 0x108 => v.joinTimeout.toNat
  | 0x10C => v.commands.toNat
  | 0x110 => v.nonfinite.toNat
  | 0x114 => v.convertSat.toNat
  | 0x118 => v.samples.toNat
  | 0x11C => v.sampleEmpty.toNat
  | 0x128 => v.mismatches.toNat
  | _ => 0

/-- The scoreboard entry that `SCRATCH.SB_SEL` selects. -/
def Scratch.selEntry (c : Scratch) : Option SbEntry :=
  (c.sb.filter fun b => b.q % 4 == c.sbSel.toNat % 4)[c.sbSel.toNat / 256 % 16]?

def State.scratchWord (s : State) (p off : Nat) : Nat :=
  let c := s.core p
  let x := c.scr
  match off with
  | 0x100 => b2n (x.pendingMode.getD x.discipline) + 2 * b2n x.pendingMode.isSome
  | 0x104 => x.guardTimeout.toNat
  | 0x14C => x.corrected.toNat
  | 0x150 => x.uncorrectable.toNat
  | 0x154 => x.writebackDropped.toNat
  | 0x170 => x.guardTimeouts.toNat
  | 0x17C => x.sbSel.toNat
  | 0x180 => match x.selEntry with
    | some b => b.lo
    | none => 0
  | 0x184 => match x.selEntry with
    | some b => b.hi + 2 ^ 29 * b2n b.write + 2 ^ 31
    | none => 0
  | 0x190 =>
    packBits 0 4 (fun i => c.dma.any fun d => d.job.q % 4 == i) + 16 * packBits 0 4 fun i =>
      (c.dma.any fun d => d.job.q % 4 == i && d.ra == .unconfirmed) || c.takes.any fun t => t.job.q % 4 == i && t.ra == .unconfirmed
  | 0x19C => x.dmaKvRows.toNat
  | 0x1A0 => x.raStarted.toNat
  | 0x1A4 => x.raCancelled.toNat
  | 0x1A8 => x.gatherSkipped.toNat
  | _ => if 0x10C ≤ off ∧ off < 0x14C then packBits (8 * (off - 0x10C)) 32 x.full else 0

def State.tallyWord (s : State) (p off : Nat) : Nat :=
  let c := s.core p
  let t := c.tally
  match off with
  | 0x220 => t.signalsLocal.toNat
  | 0x224 => t.signalsIn.toNat
  | 0x228 => t.signalsOut.toNat
  | 0x22C => t.dropped.toNat
  | 0x230 => t.saturations.toNat
  | _ =>
    if 0x100 ≤ off ∧ off < 0x200 then (nget 0 t.value ((off - 0x100) / 4)).toNat
    else if 0x200 ≤ off ∧ off < 0x210 then
      let x := c.queue ((off - 0x200) / 4)
      x.waitTally + 2 ^ 15 * b2n x.waitValid
    else if 0x210 ≤ off ∧ off < 0x220 then (c.queue ((off - 0x210) / 4)).threshold.toNat
    else 0

def State.coreWord (s : State) (p b off : Nat) : Nat :=
  match b with
  | 0 => s.seqWord p off
  | 1 => s.framesWord p off
  | 2 => s.ledgerWord p off
  | 3 => s.quantWord p off
  | 4 => s.vectorWord p off
  | 5 => s.scratchWord p off
  | 6 => s.tallyWord p off
  | _ => if off = 0x108 then s.coreKhz p / 1000 else 0

/-! ### Cluster and region pages -/

/-- `STREAM.STATUS`: held commands, and core and queue of the one in the array. -/
def State.streamStatus (s : State) (c : Nat) : Nat :=
  let x := s.cluster c
  x.held.length + 8 * b2n x.fenced + match x.held with
    | [] => 0
    | g :: _ => 16 * (g.core % 4) + 64 * (g.job.q % 4)

def State.clusterWord (s : State) (c b off : Nat) : Nat :=
  let x := s.cluster c
  match b, off with
  | 0, 0x120 => s.streamStatus c
  | 0, 0x124 => b2n x.checkEn
  | 0, 0x138 => x.truncated.toNat
  | 0, 0x13C => x.saturated.toNat
  | 0, 0x140 => x.nonfinite.toNat
  | 0, 0x144 => x.mismatches.toNat
  | 0, 0x148 => x.commands.toNat
  | 0, 0x14C => x.contextStops.toNat
  | 0, _ =>
    if 0x100 ≤ off ∧ off < 0x120 then
      let g := nget .reset x.geo ((off - 0x100) / 8)
      (if off % 8 = 0 then g.layerStride else g.headStride).toNat
    else 0
  | 1, 0x100 => x.joinTimeout.toNat
  | 1, 0x104 => packBits 0 8 (s.streamActive c)
  | 1, 0x108 =>
    packBits (4 * c) 4 (fun l => (s.joinTagOf l).isSome) + 256 * ((members c 15).findSome? s.joinTagOf).getD 0
  | 1, 0x10C => x.joinTimeouts.toNat
  | _, _ => 0

def State.railWord (s : State) (r off : Nat) : Nat :=
  let x := s.region r
  match off with
  | 0x100 => s.rail.stallTimeout.toNat
  | 0x104 => packBits 0 8 fun n => (s.stream n).isOpen
  | 0x198 => s.rail.stallTimeouts.toNat
  | 0x19C => x.poisonedWords.toNat
  | 0x1A0 => s.rail.takersDropped.toNat
  | 0x1A4 => s.rail.dbgStream.toNat
  | _ =>
    if 0x108 ≤ off ∧ off < 0x188 then
      let n := (off - 0x108) / 16
      let t := s.stream n
      match (off - 0x108) % 16 with
      | 0 => t.tag.toNat + 2 ^ 16 * t.interleave + 2 ^ 21 * t.scaleBlocks
      | 4 => t.position
      | 8 => t.length
      | _ => match s.railHolder n with
        | some l => l + 2 ^ 7
        | none => 0
    else if 0x1A8 ≤ off ∧ off < 0x1B8 then packBits (32 * ((off - 0x1A8) / 4)) 32 fun l => (s.stream s.rail.dbgStream.toNat).takers.contains l
    else 0

/-- Memory controller of channel `c` of a region. -/
def chan (r c : Nat) : Nat := 8 + 3 * r + c

def State.tier2Word (s : State) (r off : Nat) : Nat :=
  let x := s.region r
  let c := off % 16 / 4
  match off with
  | 0x140 => s.split.toNat + 2 ^ 8 * s.splitNext.toNat
  | 0x144 => x.t2Scrub.toNat
  | 0x148 => x.t2LastPage.toNat + 2 ^ 24 * x.t2LastChannel.toNat
  | 0x160 => x.checkMisses.toNat
  | _ =>
    if off < 0x100 ∨ 0x140 ≤ off ∨ 3 ≤ c then 0
    else
      let k := s.ctl (chan r c)
      match (off - 0x100) / 16 with
      | 0 => k.corrected.toNat
      | 1 => k.uncorrectable.toNat
      | 2 => k.retired.toNat
      | _ => spareTotal (chan r c) - k.sparesUsed

def State.regionWord (s : State) (r b off : Nat) : Nat :=
  let x := s.region r
  let k := s.ctl r
  match b, off with
  | 0, 0x100 => k.corrected.toNat
  | 0, 0x104 => k.uncorrectable.toNat
  | 0, 0x108 => k.retired.toNat
  | 0, 0x10C => spareTotal r - k.sparesUsed
  | 0, 0x110 => x.t1Scrub.toNat
  | 0, 0x114 => k.lastRetired.toNat
  | 0, 0x128 => s.zeroSlots r
  | 1, _ => s.tier2Word r off
  | 2, _ => s.railWord r off
  | 3, 0x100 => x.fabCorrected.toNat
  | 4, 0x100 => x.sensorSel.toNat
  | 4, 0x104 => (nget 0 x.sensors x.sensorSel.toNat).toNat + 2 ^ 31 * b2n (nget false x.sensorFault x.sensorSel.toNat)
  | _, _ => 0

/-! ### Die pages -/

/-- An address in network byte order, as register word `i`. -/
def netWord (bytes a i : Nat) : Nat := wordOf (beBytes bytes a) i

def State.portWord (s : State) (p off : Nat) : Nat :=
  let x := s.port p
  match off with
  | 0x100 => b2n x.linkUp + 2 * b2n x.cr1 + 4 * b2n x.training
  | 0x104 => x.vid.toNat + 2 ^ 12 * b2n x.acceptUntagged
  | 0x110 => netWord 4 x.ipv4.toNat 0
  | 0x114 => x.ipv4Prefix.toNat
  | 0x128 => x.ipv6Prefix.toNat
  | 0x12C => x.fecLimit.toNat
  | 0x130 => x.fecCorrected.toNat
  | 0x134 => x.fecUncorrected.toNat
  | 0x148 => x.rxDropped.toNat
  | 0x14C => x.strangers.toNat
  | 0x150 => x.linkDowns.toNat
  | _ => if 0x118 ≤ off ∧ off < 0x128 then netWord 16 x.ipv6.toNat ((off - 0x118) / 4) else 0

def State.dieWord (s : State) (d n off : Nat) : Nat :=
  let x := s.die d
  match n, off with
  | 0, 0x100 => b2n x.imageRunning
  | 0, 0x104 => x.heartbeat.toNat
  | 0, 0x108 => x.memCorrected.toNat
  | 0, 0x10C => x.badAccess.toNat
  | 1, 0x100 => b2n x.bridgeUp
  | 1, 0x104 => x.replays.toNat
  | 6, 0x100 => b2n x.pllLocked + 2 * b2n x.refPresent
  | 6, 0x104 => x.domainSel.toNat
  | 6, 0x108 =>
    s.domainKhz d x.domainSel.toNat + 2 ^ 30 * b2n (s.domainStretched d x.domainSel.toNat) +
      2 ^ 31 * b2n (s.domainGated d x.domainSel.toNat)
  | 6, 0x10C => x.unlocks.toNat
  | 7, 0x100 => b2n x.fuseOk
  | 7, 0x104 => x.fuseCorrected.toNat
  | 7, 0x128 => x.fmaxSel.toNat
  | 7, 0x12C => s.fuses.maxMhz d x.fmaxSel.toNat
  | 7, _ => if 0x108 ≤ off ∧ off < 0x128 then s.fuses.mv d ((off - 0x108) / 4) else 0
  | 8, 0x100 => x.channelsGood.toNat
  | 8, 0x104 => x.badBlocks.toNat
  | 9, 0x100 => x.fabCorrected.toNat
  | 9, 0x10C => x.latencyMax.toNat
  | _, _ => if 2 ≤ n ∧ n < 6 then s.portWord (4 * d + (n - 2)) off else 0

/-! ### Device pages -/

def State.identWord (s : State) (off : Nat) : Nat :=
  match off with
  | 0x100 => identPart.toNat
  | 0x10C => (match s.boot.provision with
      | some p => p.index.toNat
      | none => 0) + 2 ^ 16 * s.boot.slotId.toNat
  | 0x110 => s.boot.info.version.toNat
  | _ => if 0x114 ≤ off ∧ off < 0x144 then wordOf s.boot.info.hash ((off - 0x114) / 4) else 0

def State.modeWord (s : State) (off : Nat) : Nat :=
  match off with
  | 0x100 => s.boot.mode.toNat
  | 0x104 => s.fuses.lifecycle.toNat
  | 0x10C => s.boot.lastReset.toNat + 8 * b2n s.boot.partBusy.isSome
  | 0x110 => b2n s.boot.ready + 2 * b2n s.boot.wiping
  | 0x114 => s.boot.bootTimeMs.toNat
  | _ => 0

def StopCause.code : StopCause → Nat
  | .none => 0
  | .coolant => 1
  | .leak => 2
  | .trip => 3

def State.powerWord (s : State) (off : Nat) : Nat :=
  let x := s.power
  let floor := (upTo 0 8).all (fun r => (s.region r).point == 0) && x.issue == 1 && x.memory == 4
  match off with
  | 0x100 => x.cap.toNat
  | 0x104 => x.rampUp.toNat
  | 0x108 => x.rampDown.toNat
  | 0x10C => b2n x.uniform + 2 * b2n x.fillerEn + 4 * b2n x.forecastEn
  | 0x110 => x.measured.toNat
  | 0x114 => x.budget.toNat
  | 0x118 => s.forecastDraw s.time.now.toNat % 2 ^ 12 + 2 ^ 31 * b2n s.forecastLive
  | 0x11C => x.issue + 2 ^ 8 * x.memory
  | 0x120 => pack 3 ((upTo 0 8).map fun r => (s.region r).point)
  | 0x124 =>
    pack 1 [b2n x.unattainable, b2n x.throttle, b2n floor, b2n x.rampHold, b2n x.fillerActive, b2n x.departed,
      b2n (decide (x.stop ≠ .none))] + 2 ^ 7 * x.stop.code + 2 ^ 9 * b2n x.restartReady
  | 0x12C => x.peak.toNat
  | 0x134 => x.railSel.toNat
  | 0x138 => (s.supply x.railSel.toNat).mv.toNat
  | 0x13C => (s.supply x.railSel.toNat).ma.toNat
  | 0x140 => x.unattainablePeriods.toNat
  | 0x144 => x.fillerPeriods.toNat
  | 0x148 => x.droopEvents.toNat
  | 0x14C => x.telemetryLost.toNat
  | _ => if 0x150 ≤ off ∧ off < 0x160 then packBits (8 * (off - 0x150)) 32 fun l => (s.lcore l).fallback else 0

/-- State of a region on the THERMAL page: at the limit, with a faulty sensor, throttling, or normal (log entry 37). -/
def Region.thermalState (x : Region) : Nat :=
  if x.atLimit then 2 else if x.sensorFault.any (fun e => e.2) then 3 else if x.ceiling < 7 then 1 else 0

def State.thermalWord (s : State) (off : Nat) : Nat :=
  let x := s.thermal
  match off with
  | 0x120 => x.throttleAt.toNat
  | 0x124 => pack 2 ((upTo 0 8).map fun r => (s.region r).thermalState)
  | 0x128 => pack 3 ((upTo 0 8).map fun r => (s.region r).ceiling)
  | 0x12C => x.max.toNat + 2 ^ 16 * x.maxZone.toNat
  | 0x134 => x.throttlePeriods.toNat
  | 0x138 => x.limitPeriods.toNat
  | 0x13C => x.trips.toNat
  | _ => if 0x100 ≤ off ∧ off < 0x120 then (s.region ((off - 0x100) / 4)).zone.toNat else 0

/-- Sideband inputs, with the levels of the two stopping inputs as given. -/
def Sideband.pins (x : Sideband) (coolant leak : Bool) : Nat :=
  pack 1 [b2n x.pwrEn, b2n x.resetL, b2n coolant, b2n leak, b2n x.throttleL] + 2 ^ 8 * x.feed.toNat + 2 ^ 16 * x.slot.toNat

def State.sidebandWord (s : State) (off : Nat) : Nat :=
  let x := s.side
  match off with
  | 0x100 => x.pins x.rawCoolant x.rawLeak + 2 ^ 5 * b2n x.pps
  | 0x104 => x.pins x.coolantOk x.leakL
  | 0x108 => b2n x.chatterCoolant + 2 * b2n x.chatterLeak
  | 0x10C => x.coolantTransitions.toNat
  | 0x110 => x.leakTransitions.toNat
  | 0x114 => x.throttleAssertions.toNat
  | 0x118 => x.chatterEvents.toNat
  | 0x11C => if x.loss then 0 else min 0xFFFFFFFF ((s.time.now.toNat - x.quietAt) / 1000000)
  | 0x120 => x.ppsEdges.toNat
  | 0x124 => x.ppsIgnored.toNat
  | 0x128 => x.vin.toNat
  | _ => 0

/-- Contexts of a state among the numbers from `base` on. -/
def State.countCtx (s : State) (base n : Nat) (st : CtxState) : Nat :=
  (s.ctxs.filter fun e => decide (base ≤ e.1) && decide (e.1 < base + n) && decide (e.2.st = st)).length

def State.contextWord (s : State) (off : Nat) : Nat :=
  match off with
  | 0x100 => s.ctxSel.toNat
  | 0x144 => s.countCtx 0 20480 .opened + 2 ^ 16 * s.countCtx 20480 20480 .opened
  | 0x148 => s.countCtx 0 ctxCount .closing
  | 0x14C => s.ctxWritesDropped.toNat
  | 0x150 => s.ctxCorrected.toNat
  | _ => if 0x180 ≤ off ∧ off < 0x200 then s.homed ((off - 0x180) / 4) else 0

def SnapPhase.code : SnapPhase → Nat
  | .idle => 0
  | .quiescing => 1
  | .copying => 2
  | .restoring => 3

def State.snapshotWord (s : State) (off : Nat) : Nat :=
  let x := s.snap
  match off with
  | 0x108 => x.stagingSize.toNat
  | 0x114 => x.holdSize.toNat
  | 0x118 => x.partnerConn.toNat + 2 ^ 15 * b2n x.partnerEn + 2 ^ 16 * b2n x.acceptCorrelated
  | 0x11C => x.partnerState + 4 * b2n x.correlated + 16 * x.partnerFeed.toNat + 2 ^ 16 * x.partnerIndex.toNat
  | 0x120 => s.side.feed.toNat
  | 0x124 => x.netRate.toNat
  | 0x128 =>
    x.phase.code + 4 * b2n x.flashDraining + 8 * b2n x.partnerDraining + 16 * b2n x.stagingValid + 32 * b2n x.holdValid
  | 0x12C => x.sequence.toNat
  | 0x130 => s.flash.newest.toNat
  | 0x134 => x.partnerSequence.toNat
  | 0x138 => x.holdSequence.toNat
  | 0x14C => s.flash.writtenGib.toNat
  | 0x150 => s.flash.wear.toNat
  | 0x154 => x.snapshots.toNat
  | 0x158 => x.restores.toNat
  | 0x15C => x.skews.toNat
  | _ => 0

def ConnState.code : ConnState → Nat
  | .closed => 0
  | .keyed => 1
  | .opened => 2
  | .lost => 3

def State.transportWord (s : State) (off : Nat) : Nat :=
  let t := s.net
  let n := t.sel.toNat
  let c := s.conn n
  match off with
  | 0x100 => n
  | 0x104 => c.st.code + 4 * b2n (c.staged.regEn || n == 0) + 8 * c.staged.dscp.toNat + 2 ^ 9 * c.staged.pcp.toNat
  | 0x128 => c.staged.port.toNat
  | 0x12C => c.generation.toNat
  | 0x134 => c.srtt
  | 0x138 => c.cwnd
  | 0x13C => c.retransmits.toNat
  | 0x160 => t.lostTimeout.toNat
  | 0x164 => b2n t.planeA + 2 * b2n t.planeB
  | 0x168 => t.duplicates.toNat
  | 0x16C => t.eventsLost.toNat
  | 0x170 => t.tokensDropped.toNat
  | _ =>
    if 0x108 ≤ off ∧ off < 0x118 then netWord 16 c.staged.peerA.toNat ((off - 0x108) / 4)
    else if 0x118 ≤ off ∧ off < 0x128 then netWord 16 c.staged.peerB.toNat ((off - 0x118) / 4)
    else if 0x140 ≤ off ∧ off < 0x150 then netWord 16 t.gwA.toNat ((off - 0x140) / 4)
    else if 0x150 ≤ off ∧ off < 0x160 then netWord 16 t.gwB.toNat ((off - 0x150) / 4)
    else if 0x800 ≤ off ∧ off < 0x860 then wordOf t.keyxPeer ((off - 0x800) / 4)
    else if 0x860 ≤ off ∧ off < 0x8C0 then wordOf t.keyxModule ((off - 0x860) / 4)
    else if 0x8C0 ≤ off ∧ off < 0x920 then wordOf t.keyxSig ((off - 0x8C0) / 4)
    else 0

def State.timeWord (s : State) (off : Nat) : Nat :=
  let t := s.time
  match off with
  | 0x100 => t.port.toNat + 8 * b2n t.ipv6 + 2 ^ 8 * t.domain.toNat + 2 ^ 16 * b2n t.ptpEn
  | 0x104 => t.state + 16 * s.ptpPort
  | 0x110 => signed32 t.offset
  | 0x114 => signed32 t.pathDelay
  | 0x118 => t.lockNs.toNat
  | 0x124 => t.steps.toNat
  | _ => 0

def State.erraggWord (s : State) (off : Nat) : Nat :=
  let a := s.err
  let e : LogEntry := a.log.getD a.logSel.toNat ⟨0, 0, false, 0, 0, 0⟩
  match off with
  | 0x100 => a.worst + 4 * b2n a.deviceStopped + 2 ^ 16 * a.stopCode.toNat
  | 0x118 => packBits 0 32 fun c => (s.cluster c).fenced
  | 0x11C => packBits 0 8 fun r => (s.region r).fenced
  | 0x120 => a.fences.toNat
  | 0x124 => a.logLost.toNat
  | 0x128 => a.logSel.toNat
  | 0x12C => e.code.toNat + 2 ^ 16 * e.severity + 2 ^ 18 * b2n e.injected
  | 0x130 => e.source.toNat
  | 0x134 => e.info.toNat
  | 0x140 => b2n a.injectEn
  | _ => if 0x108 ≤ off ∧ off < 0x118 then packBits (8 * (off - 0x108)) 32 s.lfenced else 0

def State.securityWord (s : State) (off : Nat) : Nat :=
  let f := s.fuses
  match off with
  | 0x100 =>
    f.ecdsaRevoked.toNat + 16 * f.lmsRevoked.toNat + 2 ^ 8 * s.boot.info.ecdsaSlot.toNat + 2 ^ 10 * s.boot.info.lmsSlot.toNat
  | 0x104 => f.svMin.toNat
  | 0x108 => f.lmsEpochs.toNat
  | 0x10C => s.flash.lmsNext % 2 ^ 21 + 2 ^ 31 * b2n s.boot.exhausted
  | 0x114 => f.flashKeyGen.toNat
  | _ =>
    if 0x200 ≤ off ∧ off < 0x260 then wordOf (ecPublic s.identity) ((off - 0x200) / 4)
    else if 0x260 ≤ off ∧ off < 0x298 then wordOf (lmsShown f.secret) ((off - 0x260) / 4)
    else if 0x2A0 ≤ off ∧ off < 0x2C0 then netWord 32 s.boot.nonce.toNat ((off - 0x2A0) / 4)
    else 0

/-- State of a spare: dark, starting, serving, fenced. -/
def State.spareState (s : State) (n : Nat) : Nat :=
  if (s.spare n).starting then 1
  else if (s.spare n).logical.isNone then 0
  else if (s.core (128 + n)).fence = .inService then 2 else 3

def State.remapWord (s : State) (off : Nat) : Nat :=
  if 0x100 ≤ off ∧ off < 0x110 then
    let n := (off - 0x100) / 4
    let x := s.spare n
    x.logical.getD 0 + 2 ^ 7 * b2n x.logical.isSome + 2 ^ 8 * b2n (s.fuses.sparePresent.getLsbD n) + 2 ^ 9 * s.spareState n
  else if 0x110 ≤ off ∧ off < 0x190 then pack 8 ((upTo (off - 0x110) 4).map s.physOf)
  else if off = 0x190 then s.remap.remaps.toNat
  else 0

def State.energyWord (s : State) (off : Nat) : Nat :=
  match off with
  | 0x160 => s.energy.partMap.toNat
  | 0x164 => s.energy.qsel.toNat
  | 0x170 => s.energy.calFactor.toNat
  | _ => 0

def State.devqueueWord (s : State) (off : Nat) : Nat :=
  if 0x100 ≤ off ∧ off < 0x500 then
    let q := 512 + (off - 0x100) / 0x40
    queueWord (s.queue q) (s.queueStatus q) (off % 0x40)
  else 0

def State.deviceWord (s : State) (n off : Nat) : Nat :=
  match n with
  | 0 => s.identWord off
  | 1 => s.modeWord off
  | 2 => s.powerWord off
  | 3 => s.thermalWord off
  | 4 => s.sidebandWord off
  | 5 => s.contextWord off
  | 6 => s.snapshotWord off
  | 7 => s.transportWord off
  | 8 => s.timeWord off
  | 9 => s.erraggWord off
  | 10 => s.securityWord off
  | 11 => s.remapWord off
  | 12 => s.energyWord off
  | _ => s.devqueueWord off

/-- A word that belongs to no LO/HI pair. -/
def State.wordAt (s : State) (k : PageKind) (pg off : Nat) : Nat :=
  if off < 0x100 then s.headerWord k pg off
  else
    match k with
    | .core p b => s.coreWord p b off
    | .cluster c b => s.clusterWord c b off
    | .region r b => s.regionWord r b off
    | .die d n => s.dieWord d n off
    | .device n => s.deviceWord n off

/-! ### A read -/

/-- A latched word of an initiator is replaced. -/
def setLatch (ls : List Latch) (ini : Nat) (addr v : Word) : List Latch :=
  ⟨ini, addr, v⟩ :: ls.filter fun x => !(x.ini == ini && x.addr == addr)

def latched (ls : List Latch) (ini : Nat) (addr : Word) : Option Word :=
  (ls.find? fun x => x.ini == ini && x.addr == addr).map Latch.value

def State.latch (s : State) (ini : Nat) (addr v : Word) : State := s.setHiLatch (setLatch s.hiLatch ini addr v)

/-- A read of `CONTEXT.DESC_0` latches the selected descriptor (R726, R727). -/
def State.readDesc (s : State) (ini : Nat) : State :=
  let n := s.ctxSel.toNat
  let s := (s.ctxRead n).1
  let b := (s.ctx n).bytes
  s.forEach (upTo 0 16) fun s i => s.latch ini (BitVec.ofNat 32 (0x5104 + 4 * i)) (BitVec.ofNat 32 (wordOf b i))

/-- An access by a management processor to an address that is unmapped or misaligned (R711). -/
def State.badAccess (s : State) (ini : Nat) : State :=
  if ini < 2 then s.modDie ini fun d => { d with badAccess := satInc d.badAccess } else s

/-- What an initiator reads at a register address, and what the read leaves. -/
def State.readReg (s : State) (ini : Nat) (addr : Word) : Word × State :=
  let a := addr.toNat
  let pg := a / 4096
  let off := a % 4096
  match pageKind pg with
  | none => (0, s.badAccess ini)
  | some k =>
    if off % 4 ≠ 0 then (0, s.badAccess ini)
    else if pg = pgContext ∧ 0x104 ≤ off ∧ off < 0x144 then
      let s := if off = 0x104 then s.readDesc ini else s
      ((latched s.hiLatch ini addr).getD 0, s)
    else
      match s.pairAt k pg off, s.pairAt k pg (off - 4) with
      | some v, _ => (BitVec.ofNat 32 v, s.latch ini (addr + 4) (BitVec.ofNat 32 (v / 2 ^ 32)))
      | none, some _ => ((latched s.hiLatch ini addr).getD 0, s)
      | none, none => (BitVec.ofNat 32 (s.wordAt k pg off), s)

end Sys2Proof.Machine
end

