-- ==== Sys2Proof/Machine/RegWrite.lean ====
section
/-! DEFINITION. RegWrite.lean: what a write to a register does, page by page, under the access codes of R16: reserved encodings are
passed over (R14), a locked page keeps its rw, w1c and w1s fields (R18), the two words of an rw pair apply together (R722). -/

namespace Sys2Proof.Machine

/-- A field takes a value unless its encoding is reserved (R14). -/
def State.unlessReserved (s : State) (ok : Bool) (f : State → State) : State := if ok then f s else s

/-- Bits `[i + n - 1 : i]` of a written word. -/
def bitsAt (v : Word) (i n : Nat) : Nat := v.toNat / 2 ^ i % 2 ^ n

/-- A number that lies in network byte order, with register word `i` of it written. -/
def setNetWord (bytes a i : Nat) (v : Word) : Nat :=
  let b := beBytes bytes a
  beNat (b.take (4 * i) ++ leBytes 4 v.toNat ++ b.drop (4 * i + 4))

/-- Bytes that stand at rising offsets, `n` of them, with word `i` written. -/
def setWordOf (n : Nat) (bs : List Byte) (i : Nat) (v : Word) : List Byte :=
  let b := (upTo 0 n).map fun k => bs.getD k 0
  b.take (4 * i) ++ leBytes 4 v.toNat ++ b.drop (4 * i + 4)

/-! ### Queues (R475 to R477) -/

/-- `Qn_RING_SIZE`: no ring, or 2^6 to 2^16 entries. -/
def ringSizeOk (n : Nat) : Bool := n == 0 || (decide (6 ≤ n) && decide (n ≤ 16))

/-- A queue of the pages: one of a core's four, by physical core, or a device queue. -/
inductive QueueAt where
  | core (p i : Nat) | device (n : Nat)
deriving DecidableEq, Repr

/-- The queue whose registers stand at an offset of a page. -/
def queueAt (k : PageKind) (off : Nat) : Option QueueAt :=
  match k with
  | .core p 0 => if 0x100 ≤ off ∧ off < 0x200 then some (.core p ((off - 0x100) / 0x40)) else none
  | .device 13 => if 0x100 ≤ off ∧ off < 0x500 then some (.device ((off - 0x100) / 0x40)) else none
  | _ => none

/-- Its number; a dark core's queues have none. -/
def State.queueNo (s : State) : QueueAt → Option Nat
  | .core p i => (s.logOf p).map fun l => 4 * l + i
  | .device n => some (512 + n)

def State.queueReg (s : State) : QueueAt → QState
  | .core p i => (s.core p).queue i
  | .device n => s.queue (512 + n)

/-- A write of the ring registers of any queue; those of a dark core are idle. -/
def State.setRingAt (s : State) (x : QueueAt) (base : BitVec 48) (size : Nat) : State :=
  match s.queueNo x, x with
  | some q, _ => s.setRing q base size
  | none, .core p i => (s.modCore p fun c => c.modQueue i fun x =>
      { x with ringBase := base &&& 0xFFFFFFFFFFC0, ringSize := size, head := 0, tail := 0, seg := none }).strikeAt p bSeq
  | none, .device _ => s

def State.writeRingSize (s : State) (x : QueueAt) (size : Nat) : State :=
  s.unlessReserved (ringSizeOk size) fun s => s.setRingAt x (s.queueReg x).ringBase size

/-- `STOP_REQUEST` of a queue: the bit reads 1 until the queue is STOPPED, in a queue that already stops for another cause
too. -/
def State.writeStop (s : State) (q : Nat) : State :=
  if s.queueState q = 4 ∨ q ≥ 528 then s else (s.requestStop q).modQueue q fun x => { x with stopRequest := true }

/-- The request that stopped a queue is gone once the queue runs again. -/
def QState.rerun (x : QState) : QState := if x.stopped then x else { x with stopRequest := false }

/-- `ACTION` of a queue. -/
def State.writeAction (s : State) (q act : Nat) : State := (s.queueAction q act).modQueue q QState.rerun

/-- `STOP_REQUEST` and `ACTION` of a queue by its registers. A dark core's queues have no number and hold no command: the
registers act on them as on a core queue, the event comes from the core's SEQ page, and nothing else follows (log entry 87). -/
def State.writeStopAt (s : State) (x : QueueAt) : State :=
  match s.queueNo x, x with
  | some q, _ => s.writeStop q
  | none, .core p i =>
    let y := (s.core p).queue i
    if y.stopped then s else
    (s.raise (pgCore p bSeq) 0x0608 noted (i % 4 + y.head.toNat % 65536 * 16)).modCore p fun c => c.modQueue i fun x => x.stopAt 0x0608 false
  | none, .device _ => s

def State.writeActionAt (s : State) (x : QueueAt) (act : Nat) : State :=
  match s.queueNo x, x with
  | some q, _ => s.writeAction q act
  | none, .core p i => if ((s.core p).queue i).stopped then s.modCore p fun c => c.modQueue i fun x => x.resume act else s
  | none, .device _ => s

/-! ### The common header (R562, R564, R584, R585, R714 to R716) -/

/-- `ERR_CLEAR`. -/
def PageHdr.clear (h : PageHdr) (record count : Bool) : PageHdr :=
  let h := if record then { h with code := 0, info := 0, time := 0, worst := 0 } else h
  if count then { h with count := 0 } else h

def State.clearError (s : State) (pg : Nat) (record count : Bool) : State := s.modPage pg fun h => h.clear record count

/-- Codes that the event tables give severity device-stop, fence and contained. -/
def stopCodes : List (BitVec 16) := [0x0506, 0x0528, 0x0710, 0x0711, 0x0720, 0x0B01, 0x0B10, 0x0B11, 0x0B12, 0x0B13, 0x0B14]
def fenceCodes : List (BitVec 16) := [0x0101, 0x0309, 0x0313, 0x0B02, 0x0B03, 0x0B04]
def containedCodes : List (BitVec 16) :=
  [0x0110, 0x0112, 0x0114, 0x0120, 0x0121, 0x0122, 0x0123, 0x0124, 0x0125, 0x0126, 0x0127, 0x0128, 0x0129] ++
  [0x0210, 0x0211, 0x0212, 0x0214, 0x0215, 0x0216, 0x0217, 0x0218, 0x0219] ++
  [0x0301, 0x0302, 0x0303, 0x0304, 0x0305, 0x030A, 0x0310, 0x0315, 0x0316, 0x0317, 0x0318, 0x0402, 0x0421] ++
  [0x0430, 0x0431, 0x0432, 0x0440, 0x0441, 0x0442, 0x0443, 0x0444, 0x0445, 0x0450, 0x0451, 0x0452, 0x0453, 0x0455] ++
  [0x0502, 0x0510, 0x0512, 0x0513, 0x0514, 0x0520, 0x0521, 0x0522, 0x0523, 0x0524, 0x0525, 0x0526] ++
  [0x0601, 0x0603, 0x0604, 0x0605, 0x0606, 0x0607, 0x0904, 0x0905, 0x0909, 0x090A]

/-- Severity of a code by the event tables; noted for the rest and for a code that no table names (R585; log entry 38). -/
def severityOf (code : BitVec 16) : Nat :=
  if stopCodes.contains code then deviceStopSev
  else if fenceCodes.contains code then fenceSev
  else if containedCodes.contains code then contained
  else noted

/-- What an injected fence fences: the structure that owns the page. -/
def State.fenceOwner (s : State) (k : PageKind) (code : BitVec 16) : State :=
  match k with
  | .core p _ => s.startFence p code
  | .cluster c b => if b = 0 then s.fenceEngine c else s.fenceCluster c code
  | .region r _ => s.fenceRegion r code
  | _ => s

/-- An injection of kind 4 fires. What its information holds is open, but zero on a die's pages (R733; log entry 40). -/
def State.fireInjection (s : State) (k : PageKind) (pg : Nat) (code : BitVec 16) : State :=
  let sev := severityOf code
  let i := match k with
    | .die _ _ => (0, s)
    | _ => s.open_
  let s := i.2.raiseFull pg code sev i.1 0 true true
  -- the responses of R543 and R544 for their codes, that of R582 for the others
  if code = 0x0710 then s.powerStop .coolant code
  else if code = 0x0711 then s.powerStop .leak code
  else if code = 0x0720 then (s.setPower { s.power with tripped := true, restartReady := false }).powerStop .trip code
  else if sev = deviceStopSev then s.deviceStop code
  else if sev = fenceSev then s.fenceOwner k code
  else s

/-- A write of `ERR_INJECT`. -/
def State.writeInject (s : State) (k : PageKind) (pg : Nat) (v : Word) : State :=
  if !s.injectOpen then s.countBad pg else
  let kind := bitsAt v 0 3
  let ok := decide (kind < 5) && (kind != 3 || k.hasCheck)
  let kind := if ok then kind else (s.page pg).inject.toNat % 8
  let fires := kind == 4 && v.getLsbD 3
  let armed := v.getLsbD 3 && !(fires && !v.getLsbD 4)
  let s := s.modPage pg fun h =>
    { h with inject := BitVec.ofNat 32 (kind + 8 * b2n armed + 16 * b2n (v.getLsbD 4) + 2 ^ 16 * bitsAt v 16 16) }
  if fires then s.fireInjection k pg (BitVec.ofNat 16 (bitsAt v 16 16)) else s

/-- `PAGE_CTL`: the bits that the page implements. -/
def State.writePageCtl (s : State) (k : PageKind) (pg : Nat) (v : Word) : State :=
  match k with
  | .core _ _ => (s.writeFence pg (v.getLsbD 1)).writeQuiesce pg (v.getLsbD 2)
  | .cluster _ _ => s.writeFence pg (v.getLsbD 1)
  | .die d n => if 2 ≤ n ∧ n < 6 then s.writeEnable (4 * d + (n - 2)) (v.getLsbD 0) else s
  | _ => s

/-- Whether a page implements a writable bit of `PAGE_CTL`. -/
def PageKind.ctlWritable (k : PageKind) : Bool := k.isCore || k.isStream || k.isPort

/-- The header's rw registers but for `PAGE_LOCK`. -/
def State.rwHeader (s : State) (k : PageKind) (pg off : Nat) (v : Word) : Option State :=
  match off with
  | 0x008 => if k.ctlWritable then some (s.writePageCtl k pg v) else none
  | 0x028 => some (s.writeInject k pg v)
  | 0x02C => some (s.modPage pg fun h => { h with route := v &&& 3 })
  | _ => none

/-! ### Core pages -/

def Ledger.setWin (L : Ledger) (i : Nat) (w : LedgerWin) : Ledger :=
  match i with
  | 0 => { L with win0 := w }
  | 1 => { L with win1 := w }
  | 2 => { L with win2 := w }
  | _ => { L with win3 := w }

/-- `LEDGER.WIN_q`. -/
def Ledger.writeWin (L : Ledger) (i : Nat) (v : Word) : Ledger :=
  let n := bitsAt v 8 7
  L.setWin i ⟨BitVec.ofNat 6 (bitsAt v 0 6), if n ≤ 64 then BitVec.ofNat 7 n else (L.win i).count⟩

/-- `SCRATCH.MODE.DISCIPLINE`: what is written takes effect under R317. -/
def Scratch.writeMode (c : Scratch) (m : Bool) : Scratch :=
  { c with pendingMode := if m = c.discipline then none else some m }

def State.rwCore (s : State) (p b off : Nat) (v : Word) : Option State :=
  let set := fun f => some (s.modCore p f)
  match b, off with
  | 1, 0x11C => some (if s.fuses.lifecycle = 1 then s.modCore p fun c => { c with fr := { c.fr with checkEn := v.getLsbD 0 } } else s)
  | 1, 0x128 => set fun c => { c with fr := { c.fr with dbgSel := v &&& 0x01FFFF1F } }
  | 2, 0x100 => set fun c => { c with ledger := c.ledger.writeWin 0 v }
  | 2, 0x104 => set fun c => { c with ledger := c.ledger.writeWin 1 v }
  | 2, 0x108 => set fun c => { c with ledger := c.ledger.writeWin 2 v }
  | 2, 0x10C => set fun c => { c with ledger := c.ledger.writeWin 3 v }
  | 2, 0x120 => set fun c => { c with ledger := { c.ledger with dbgStale := c.ledger.dbgStale &&& ~~~(BitVec.ofNat 64 v.toNat) } }
  | 2, 0x124 => set fun c =>
      { c with ledger := { c.ledger with dbgStale := c.ledger.dbgStale &&& ~~~(BitVec.ofNat 64 (2 ^ 32 * v.toNat)) } }
  | 3, 0x100 => set fun c => { c with quant := { c.quant with exchangeTimeout := BitVec.ofNat 24 v.toNat } }
  | 3, 0x104 => set fun c => { c with quant := { c.quant with eventEn := BitVec.ofNat 6 v.toNat } }
  | 3, 0x140 => set fun c => { c with quant := { c.quant with dbgIndex := BitVec.ofNat 13 v.toNat } }
  | 3, 0x148 => set fun c => { c with quant := { c.quant with dbgSlot := BitVec.ofNat 8 v.toNat } }
  | 4, 0x108 => set fun c => { c with vec := { c.vec with joinTimeout := BitVec.ofNat 24 v.toNat } }
  | 5, 0x100 => set fun c => { c with scr := c.scr.writeMode (v.getLsbD 0) }
  | 5, 0x104 => set fun c => { c with scr := { c.scr with guardTimeout := BitVec.ofNat 24 v.toNat } }
  | 5, 0x17C => set fun c => { c with scr := { c.scr with sbSel := v &&& 0xF03 } }
  | 6, _ =>
    if 0x100 ≤ off ∧ off < 0x200 then
      some ((s.modCore p fun c =>
        { c with tally := { c.tally with value := nset 0 c.tally.value ((off - 0x100) / 4) v } }).strikeAt p bTally)
    else none
  | _, _ => none

/-- `SCRATCH.TAG_ACTION` (R323); a range past slot 511 or a reserved action is only recorded (R348). -/
def State.tagAction (s : State) (p first count act : Nat) : State :=
  if 512 < first + count ∨ act = 3 then s.raise (pgCore p bScratch) 0x0432 contained (first % 512 * 128)
  else if act = 0 then s
  else s.modCore p fun c => { c with scr := c.scr.setTags (upTo first count) (act == 2) }

/-! ### Cluster and region pages -/

def State.rwCluster (s : State) (c b off : Nat) (v : Word) : Option State :=
  let set := fun f => some (s.modCluster c f)
  match b, off with
  | 0, 0x124 => some (if s.fuses.lifecycle = 1 then s.modCluster c fun x => { x with checkEn := v.getLsbD 0 } else s)
  | 0, _ =>
    if 0x100 ≤ off ∧ off < 0x120 then
      let w := v &&& 0xFFFFFFE0
      set fun x => { x with geo := nmod .reset x.geo ((off - 0x100) / 8) fun g =>
        if off % 8 = 0 then { g with layerStride := w } else { g with headStride := w } }
    else none
  | 1, 0x100 => set fun x => { x with joinTimeout := BitVec.ofNat 24 v.toNat }
  | _, _ => none

def State.rwRegion (s : State) (r b off : Nat) (v : Word) : Option State :=
  let set := fun f => some (s.modRegion r f)
  match b, off with
  | 0, 0x110 => set fun x => { x with t1Scrub := BitVec.ofNat 24 v.toNat }
  | 1, 0x140 =>
    let n := bitsAt v 8 7
    some (s.unlessReserved (decide (n ≤ 64)) fun s => s.setSplitNext (BitVec.ofNat 7 n))
  | 1, 0x144 => set fun x => { x with t2Scrub := BitVec.ofNat 24 v.toNat }
  | 2, 0x100 => some (s.setRail { s.rail with stallTimeout := BitVec.ofNat 24 v.toNat })
  | 2, 0x1A4 => some (s.setRail { s.rail with dbgStream := BitVec.ofNat 3 v.toNat })
  | 4, 0x100 => set fun x => { x with sensorSel := BitVec.ofNat 5 v.toNat }
  | _, _ => none

/-! ### Die pages -/

def State.rwPort (s : State) (p off : Nat) (v : Word) : Option State :=
  let set := fun f => some (s.modPort p f)
  let n := v.toNat
  match off with
  | 0x104 => set fun x => { x with vid := BitVec.ofNat 12 n, acceptUntagged := v.getLsbD 12 }
  | 0x110 => set fun x => { x with ipv4 := BitVec.ofNat 32 (setNetWord 4 x.ipv4.toNat 0 v) }
  | 0x114 => some (s.unlessReserved (decide (n % 64 ≤ 32)) fun s => s.modPort p fun x => { x with ipv4Prefix := BitVec.ofNat 6 n })
  | 0x128 => some (s.unlessReserved (decide (n % 256 ≤ 128)) fun s => s.modPort p fun x => { x with ipv6Prefix := BitVec.ofNat 8 n })
  | 0x12C => set fun x => { x with fecLimit := v }
  | _ =>
    if 0x118 ≤ off ∧ off < 0x128 then
      set fun x => { x with ipv6 := BitVec.ofNat 128 (setNetWord 16 x.ipv6.toNat ((off - 0x118) / 4) v) }
    else none

def State.rwDie (s : State) (d n off : Nat) (v : Word) : Option State :=
  let k := v.toNat % 128
  match n, off with
  | 6, 0x104 => some (s.unlessReserved (decide (k ≤ 110)) fun s => s.modDie d fun x => { x with domainSel := BitVec.ofNat 7 k })
  | 7, 0x128 => some (s.unlessReserved (decide (k ≤ 65)) fun s => s.modDie d fun x => { x with fmaxSel := BitVec.ofNat 7 k })
  | _, _ => if 2 ≤ n ∧ n < 6 then s.rwPort (4 * d + (n - 2)) off v else none

/-! ### Device pages -/

/-- A write of `POWER.CTL`: a change of the mode changes the rails' voltages (R523, R525). -/
def State.writePowerCtl (s : State) (v : Word) : State :=
  let was := s.power.uniform
  let s : State := s.setPower { s.power with uniform := v.getLsbD 0, fillerEn := v.getLsbD 1, forecastEn := v.getLsbD 2 }
  if was = v.getLsbD 0 ∨ !s.powered then s else s.setVoltages

def State.rwPower (s : State) (off : Nat) (v : Word) : Option State :=
  let set := fun (ok : Bool) (f : Power → Power) => some (s.unlessReserved ok fun s => s.setPower (f s.power))
  let ramp := bitsAt v 0 11
  match off with
  | 0x100 => set (within 500 2200 (bitsAt v 0 12)) fun x => { x with cap := BitVec.ofNat 12 v.toNat }
  | 0x104 => set (within 25 2000 ramp) fun x => { x with rampUp := BitVec.ofNat 11 ramp }
  | 0x108 => set (within 25 2000 ramp) fun x => { x with rampDown := BitVec.ofNat 11 ramp }
  | 0x10C => some (s.writePowerCtl v)
  | 0x134 => set (within 0 37 (bitsAt v 0 6)) fun x => { x with railSel := BitVec.ofNat 6 v.toNat }
  | _ => none

/-- `SNAPSHOT.PARTNER` (R605): pairing starts as `PARTNER_EN` is set, and clearing it ends the pairing. -/
def Snap.writePartner (x : Snap) (v : Word) : Snap :=
  let on := v.getLsbD 15
  let x := { x with partnerConn := BitVec.ofNat 12 v.toNat, partnerEn := on, acceptCorrelated := v.getLsbD 16 }
  if on then (if x.partnerState = 0 then { x with partnerState := 1 } else x)
  else { x with partnerState := 0, correlated := false, holdFilling := false }

/-- A write of a region's size. A reserved one changes nothing (R14), but counts while the fields are held (R615). -/
def State.writeSize (s : State) (which n : Nat) : State :=
  if s.regionsBusy then s.countBad pgSnapshot else s.unlessReserved (decide (n ≤ 768)) fun s => s.writeRegion which n

def State.rwSnapshot (s : State) (off : Nat) (v : Word) : Option State :=
  let n := bitsAt v 0 10
  match off with
  | 0x108 => some (s.writeSize 1 n)
  | 0x114 => some (s.writeSize 3 n)
  | 0x118 => some (s.modSnap fun x => x.writePartner v)
  | 0x124 =>
    let r := bitsAt v 0 6
    some (s.unlessReserved (within 1 60 r) fun s => s.modSnap fun x => { x with netRate := BitVec.ofNat 6 r })
  | _ => none

/-- A field of the selected connection: at the next `OPEN` of one in use, at once otherwise (R649). -/
def State.modConnCfg (s : State) (f : ConnCfg → ConnCfg) : State :=
  s.modConn s.net.sel.toNat fun c =>
    { c with staged := f c.staged, cfg := if c.st = .keyed ∨ c.st = .opened then c.cfg else f c.staged }

def State.rwTransport (s : State) (off : Nat) (v : Word) : Option State :=
  let cfg := fun f => some (s.modConnCfg f)
  let net := fun (f : Transport → Transport) => some (s.setNet (f s.net))
  match off with
  | 0x100 => net fun t => { t with sel := BitVec.ofNat 12 v.toNat }
  | 0x104 => cfg fun c =>
      { c with regEn := v.getLsbD 2, dscp := BitVec.ofNat 6 (bitsAt v 3 6), pcp := BitVec.ofNat 3 (bitsAt v 9 3) }
  | 0x128 => cfg fun c => { c with port := BitVec.ofNat 16 v.toNat }
  | 0x160 => if bitsAt v 0 24 = 0 then some s else net fun t => { t with lostTimeout := BitVec.ofNat 24 v.toNat }
  | _ =>
    if 0x108 ≤ off ∧ off < 0x118 then
      cfg fun c => { c with peerA := BitVec.ofNat 128 (setNetWord 16 c.peerA.toNat ((off - 0x108) / 4) v) }
    else if 0x118 ≤ off ∧ off < 0x128 then
      cfg fun c => { c with peerB := BitVec.ofNat 128 (setNetWord 16 c.peerB.toNat ((off - 0x118) / 4) v) }
    else if 0x140 ≤ off ∧ off < 0x150 then
      net fun t => { t with gwA := BitVec.ofNat 128 (setNetWord 16 t.gwA.toNat ((off - 0x140) / 4) v) }
    else if 0x150 ≤ off ∧ off < 0x160 then
      net fun t => { t with gwB := BitVec.ofNat 128 (setNetWord 16 t.gwB.toNat ((off - 0x150) / 4) v) }
    else if 0x800 ≤ off ∧ off < 0x860 then net fun t => { t with keyxPeer := setWordOf 96 t.keyxPeer ((off - 0x800) / 4) v }
    else none

def State.rwDevice (s : State) (n off : Nat) (v : Word) : Option State :=
  match n, off with
  | 1, 0x100 =>
    let m := bitsAt v 0 2
    some (s.unlessReserved (m != 2 || s.fuses.lifecycle != 5) fun s => s.modBoot fun b => { b with mode := BitVec.ofNat 2 m })
  | 2, _ => s.rwPower off v
  | 3, 0x120 =>
    some (s.unlessReserved (within 60 95 (bitsAt v 0 8)) fun s =>
      s.setThermal { s.thermal with throttleAt := BitVec.ofNat 8 v.toNat })
  | 5, 0x100 => some (s.unlessReserved (decide (bitsAt v 0 16 < ctxCount)) fun s => s.setCtxSel (BitVec.ofNat 16 v.toNat))
  | 6, _ => s.rwSnapshot off v
  | 7, _ => s.rwTransport off v
  | 8, 0x100 => some (s.modTime fun t =>
      { t with port := BitVec.ofNat 3 v.toNat, ipv6 := v.getLsbD 3, domain := BitVec.ofNat 8 (bitsAt v 8 8), ptpEn := v.getLsbD 16 })
  | 8, 0x118 => some (s.modTime fun t => { t with lockNs := BitVec.ofNat 16 v.toNat })
  | 9, 0x128 => some (s.setErr { s.err with logSel := BitVec.ofNat 4 v.toNat })
  | 9, 0x140 => some (s.setErr { s.err with injectEn := v.getLsbD 0 })
  | 11, _ =>
    if 0x100 ≤ off ∧ off < 0x110 then some (s.writeSpare ((off - 0x100) / 4) (bitsAt v 0 7) (v.getLsbD 7)) else none
  | 12, 0x160 => some (s.setEnergy { s.energy with partMap := BitVec.ofNat 24 v.toNat })
  | 12, 0x164 =>
    some (s.unlessReserved (decide (bitsAt v 0 10 ≤ 527)) fun s => s.setEnergy { s.energy with qsel := BitVec.ofNat 10 v.toNat })
  | _, _ => none

/-! ### rw, w1c and w1s fields, and wo fields -/

/-- The rw, w1c and w1s fields of a register take a written word; none where it has no such field. -/
def State.rwWrite (s : State) (k : PageKind) (pg off : Nat) (v : Word) : Option State :=
  if off < 0x100 then s.rwHeader k pg off v
  else
    match queueAt k off with
    | some x =>
      match off % 0x40 with
      | 0x08 => some (s.writeRingSize x (bitsAt v 0 5))
      | 0x24 => some (if v.getLsbD 8 then s.writeStopAt x else s)
      | _ => none
    | none =>
      match k with
      | .core p b => s.rwCore p b off v
      | .cluster c b => s.rwCluster c b off v
      | .region r b => s.rwRegion r b off v
      | .die d n => s.rwDie d n off v
      | .device n => s.rwDevice n off v

/-- The wo fields of a register, which no lock blocks (R717), and `PAGE_LOCK`. -/
def State.woWrite (s : State) (k : PageKind) (pg off : Nat) (v : Word) : State :=
  match off with
  | 0x024 => s.clearError pg (v.getLsbD 0) (v.getLsbD 1)
  | 0x030 => s.modPage pg fun h => { h with lock := v.getLsbD 0 }
  | _ =>
    match k, off with
    | .core p 5, 0x108 => s.tagAction p (bitsAt v 0 9) (bitsAt v 16 10) (bitsAt v 28 2)
    | .die d 9, 0x110 => if v.getLsbD 0 then s.modDie d fun x => { x with latencyMax := 0 } else s
    | .device 1, 0x108 => s.writeResetCtl v
    | .device 2, 0x128 => if v.getLsbD 0 then s.restart else s
    | .device 2, 0x130 => if v.getLsbD 0 then s.setPower { s.power with peak := 0 } else s
    | .device 3, 0x130 => if v.getLsbD 0 then s.setThermal { s.thermal with max := 0 } else s
    | .device 5, _ =>
      if 0x104 ≤ off ∧ off < 0x144 then s.setCtxWritesDropped (satInc s.ctxWritesDropped) else s
    | .device 7, 0x130 => s.writeConnCtl v
    | .device 9, 0x104 => if v.getLsbD 0 then s.setErr { s.err with worst := 0 } else s
    | .device 10, 0x110 => s.writeTransition (bitsAt v 0 3) (BitVec.ofNat 16 (bitsAt v 16 16))
    | .device 10, _ => if 0x300 ≤ off ∧ off < 0xB00 then s.writeUnlock (off - 0x300) v else s
    | _, _ =>
      match queueAt k off with
      | some x => if off % 0x40 = 0x24 then s.writeActionAt x (bitsAt v 0 2) else s
      | none => s

/-! ### rw pairs (R722) -/

/-- Offset of the LO word of the rw pair that an offset belongs to. -/
def rwPair (k : PageKind) (off : Nat) : Option Nat :=
  match queueAt k off with
  | some _ => if off % 0x40 = 0 ∨ off % 0x40 = 4 then some (off / 8 * 8) else none
  | none =>
    match k with
    | .device 6 =>
      if off = 0x100 ∨ off = 0x104 then some 0x100 else if off = 0x10C ∨ off = 0x110 then some 0x10C else none
    | _ => none

/-- Both words of the pair at `lo` take their values in one cycle. -/
def State.applyPairWrite (s : State) (k : PageKind) (lo : Nat) (l h : Word) : State :=
  let a := l.toNat + 2 ^ 32 * (h.toNat % 2 ^ 16)
  match queueAt k lo with
  | some x => s.setRingAt x (BitVec.ofNat 48 a) (s.queueReg x).ringSize
  | none => s.writeRegion (if lo = 0x100 then 0 else 2) a

/-- A write to a word of a pair: LO is held for its initiator, HI applies both. -/
def State.writePair (s : State) (ini : Nat) (k : PageKind) (pg off lo : Nat) (v : Word) : State :=
  let a := BitVec.ofNat 32 (4096 * pg + lo)
  if off = lo then s.setLoHeld (setLatch s.loHeld ini a v)
  else
    let l := (latched s.loHeld ini a).getD (BitVec.ofNat 32 ((s.pairAt k pg lo).getD 0))
    (s.setLoHeld (s.loHeld.filter fun x => !(x.ini == ini && x.addr == a))).applyPairWrite k lo l v

/-! ### A write -/

/-- Whether a write reaches an rw, w1c or w1s field that its page's lock keeps. -/
def State.blocked (s : State) (k : PageKind) (pg off : Nat) (v : Word) : Bool :=
  (s.page pg).lock && ((rwPair k off).isSome || (s.rwWrite k pg off v).isSome)

/-- A write of one word of a page. -/
def State.writeWord (s : State) (ini : Nat) (k : PageKind) (pg off : Nat) (v : Word) : State :=
  match rwPair k off with
  | some lo => if (s.page pg).lock then s else s.writePair ini k pg off lo v
  | none =>
    let t := s.woWrite k pg off v
    if (s.page pg).lock then t else (t.rwWrite k pg off v).getD t

/-- A write by an initiator at a register address (R711, R719). -/
def State.writeReg (s : State) (ini : Nat) (addr v : Word) : State :=
  let a := addr.toNat
  match pageKind (a / 4096) with
  | none => s.badAccess ini
  | some k => if a % 4 ≠ 0 then s.badAccess ini else s.writeWord ini k (a / 4096) (a % 4096) v

end Sys2Proof.Machine
end

