-- ==== Sys2Proof/Machine/Regs.lean ====
section
/-! DEFINITION. Regs.lean: the rows that are accesses to registers (R13 to R18, R323, R341, R475 to R477, R555, R562, R585, R615,
R711, R720 to R727), and REG_ACCESS (R640, R737). -/

namespace Sys2Proof.Machine

/-! ### Queue control -/

/-- A write to a register of queue `q`. -/
def State.queueRow (s : State) (ini q : Nat) (lockable : Bool) (f : State → State) : Res :=
  s.regRow ini (s.pgQueue q) lockable fun s => if q < 528 then f s else s

def execStopRequest (ini q : Nat) (s : State) : Res := s.queueRow ini q true fun s => s.writeStop q
def execActionRetry (ini q : Nat) (s : State) : Res := s.queueRow ini q false fun s => s.writeAction q 1
def execActionSkip (ini q : Nat) (s : State) : Res := s.queueRow ini q false fun s => s.writeAction q 2
def execActionFlush (ini q : Nat) (s : State) : Res := s.queueRow ini q false fun s => s.writeAction q 3

/-- The ring's base and size are written; a reserved size leaves the size as it is (R14). -/
def execRingConfig (ini q : Nat) (base : BitVec 48) (size : Nat) (s : State) : Res :=
  s.queueRow ini q true fun s => s.setRing q base (if ringSizeOk size then size else (s.queue q).ringSize)

/-! ### Slot tags and tallies of a core -/

def execTagEmpty (ini phys first count : Nat) (s : State) : Res :=
  s.regRow ini (pgCore phys bScratch) false fun s => if phys < 132 then s.tagAction phys first count 1 else s
def execTagFill (ini phys first count : Nat) (s : State) : Res :=
  s.regRow ini (pgCore phys bScratch) false fun s => if phys < 132 then s.tagAction phys first count 2 else s

def execTallyValueWrite (ini phys n : Nat) (v : Word) (s : State) : Res :=
  s.regRow ini (pgCore phys bTally) true fun s =>
    if phys < 132 ∧ n < 64 then (s.rwCore phys bTally (0x100 + 4 * n) v).getD s else s

/-! ### Errors -/

def execErrClearRecord (ini page : Nat) (s : State) : Res :=
  s.regRow ini page false fun s => if (pageKind page).isSome then s.clearError page true false else s
def execErrClearCount (ini page : Nat) (s : State) : Res :=
  s.regRow ini page false fun s => if (pageKind page).isSome then s.clearError page false true else s

def execErrInject (ini page : Nat) (v : Word) (s : State) : Res :=
  s.regRow ini page true fun s =>
    match pageKind page with
    | some k => s.writeInject k page v
    | none => s

/-- A write of 1 to a wo register, at an offset of a page. -/
def State.writeOne (s : State) (ini pg off : Nat) : Res :=
  s.regRow ini pg false fun s =>
    match pageKind pg with
    | some k => s.woWrite k pg off 1
    | none => s

def execErraggClear (ini : Nat) (s : State) : Res := s.writeOne ini pgErragg 0x104
def execPeakClear (ini : Nat) (s : State) : Res := s.writeOne ini pgPower 0x130
def execMaxClear (ini : Nat) (s : State) : Res := s.writeOne ini pgThermal 0x130
def execLatencyClear (ini die : Nat) (s : State) : Res := if die < 2 then s.writeOne ini (pgFabric die) 0x110 else .next s

/-! ### Any register -/

/-- A write at an address by an initiator that reaches its page. -/
def State.writeRow (s : State) (ini : Nat) (addr v : Word) : Res :=
  s.regRow ini (addr.toNat / 4096) false fun s => s.writeReg ini addr v

/-- A write of the staging and hold fields, by offset within the SNAPSHOT page. -/
def execStagingWrite (ini offset : Nat) (v : Word) (s : State) : Res :=
  if [0x100, 0x104, 0x108, 0x10C, 0x110, 0x114].contains offset then
    s.writeRow ini (BitVec.ofNat 32 (4096 * pgSnapshot + offset)) v
  else .next s

def execRegisterWrite (ini : Nat) (addr value : Word) (s : State) : Res := s.writeRow ini addr value

/-- A write of the HI word of an rw pair. -/
def execHiWrite (ini : Nat) (addr value : Word) (s : State) : Res :=
  match (pageKind (addr.toNat / 4096)).bind fun k => rwPair k (addr.toNat % 4096) with
  | some lo => if addr.toNat % 4096 = lo + 4 then s.writeRow ini addr value else .next s
  | none => .next s

/-- What a read leaves; what it returns goes to the reader. -/
def State.readRow (s : State) (ini : Nat) (addr : Word) : Res :=
  s.regRead ini (addr.toNat / 4096) fun s => (s.readReg ini addr).2

/-- A read of the LO word of a 64-bit register. -/
def execLoRead (ini : Nat) (addr : Word) (s : State) : Res :=
  match (pageKind (addr.toNat / 4096)).bind fun k => s.pairAt k (addr.toNat / 4096) (addr.toNat % 4096) with
  | some _ => s.readRow ini addr
  | none => .next s

def execQueueLoRead (ini : Nat) (s : State) : Res := s.readRow ini (BitVec.ofNat 32 (4096 * pgEnergy + 0x168))
def execDescRead (ini : Nat) (s : State) : Res := s.readRow ini (BitVec.ofNat 32 (4096 * pgContext + 0x104))

/-! ### REG_ACCESS -/

/-- One operation, with its status and the value read or written. -/
def State.applyOp (s : State) (n : Nat) (o : RegOp) : State × Nat × Word :=
  let a := o.addr.toNat
  match pageKind (a / 4096) with
  | none => (s, 0x0810, if o.kind = 0 then 0 else o.value)
  | some k =>
    if a % 4 ≠ 0 then (s, 0x0811, if o.kind = 0 then 0 else o.value)
    else if o.kind = 0 then
      let r := s.readReg (3 + n) o.addr
      (r.2, 0, r.1)
    else (s.writeReg (3 + n) o.addr o.value, if s.blocked k (a / 4096) (a % 4096) o.value then 0x0812 else 0, o.value)

/-- The operations in order; a reset that one of them starts ends the message. -/
def State.applyOps (s : State) (n : Nat) : List RegOp → State × List Byte
  | [] => (s, [])
  | o :: os =>
    if s.boot.phase ≠ .running then (s, []) else
    let r := s.applyOp n o
    let t := r.1.applyOps n os
    (t.1, leBytes 1 o.kind ++ leBytes 1 0 ++ leBytes 2 r.2.1 ++ leBytes 4 o.addr.toNat ++ leBytes 4 r.2.2.toNat ++ t.2)

def State.applyRegAccess (s : State) (n : Nat) (ops : List RegOp) : State × Answer :=
  if ops = [] ∨ 64 < ops.length ∨ ops.any (fun o => 1 < o.kind) then (s, ⟨0x0811, []⟩)
  else if n ≠ 0 ∧ !(s.conn n).cfg.regEn then (s, ⟨0x0812, []⟩)
  else
    let r := s.applyOps n ops
    (r.1, ⟨0, leBytes 1 ops.length ++ leBytes 7 0 ++ r.2⟩)

/-- A snapshot holds back a message that writes (R597). -/
def execRegAccess (conn : Nat) (hdr : MsgHdr) (ops : List RegOp) (s : State) : Res :=
  s.request conn 0x06 hdr (regBody ops) (decide (s.snap.phase ≠ .idle) && ops.any fun o => o.kind == 1) true
    fun s => s.applyRegAccess conn ops

end Sys2Proof.Machine
end

