-- ==== Sys2Proof/Machine/Sample.lean ====
section
/-! DEFINITION. Sample.lean: `SAMPLE`: collects, the join of a finish, and the sampler (R293 to R303, R641). -/

namespace Sys2Proof.Machine

/-! ### Operands (R300) -/

def sCollect (e : Entry) : Bool := fbit e 16 0
def sClear (e : Entry) : Bool := fbit e 16 1
def sGreedy (e : Entry) : Bool := fbit e 16 2
def sEmit (e : Entry) : Bool := fbit e 16 3
def sBf16 (e : Entry) : Bool := fbit e 16 4
def sK (e : Entry) : Nat := fld e 18 2
def sRows (e : Entry) : Nat := fld e 20 2
def sQ (e : Entry) : Nat := fld e 22 1
def sLane (e : Entry) : Nat := fld e 23 1
def sTemp (e : Entry) : Word := BitVec.ofNat 32 (fld e 24 4)
def sTopP (e : Entry) : Word := BitVec.ofNat 32 (fld e 28 4)
def sList (e : Entry) : Nat := fld e 32 4
def sFirst (e : Entry) : Nat := fld e 36 2
def sBlocks (e : Entry) : Nat := fld e 38 2
def sLogits (e : Entry) : Nat := fld e 40 4
def sRowStride (e : Entry) : Nat := fld e 44 4
def sBlkStride (e : Entry) : Nat := fld e 48 4
/-- V of a collect, record offset of a finish. -/
def sLast (e : Entry) : Nat := fld e 52 4
def sStep (e : Entry) : Nat := fld e 56 4
def sStream (e : Entry) : Nat := fld e 60 4

def isCollect (e : Entry) : Bool := opcode e == 0x41 && sCollect e
def isFinish (e : Entry) : Bool := opcode e == 0x41 && !sCollect e

def sElem (e : Entry) : Nat := if sBf16 e then 2 else 4
def sMembers (e : Entry) : Nat := maskCount (sampleMask e)
/-- Global block of local block `i` (R294). -/
def sBlock (e : Entry) (i : Nat) : Nat := sFirst e + i * sMembers e
/-- Channels of local block `i` that lie below V. -/
def sValid (e : Entry) (i : Nat) : Nat := min 256 (sLast e - 256 * sBlock e i)

/-- Pieces that a collect reads. -/
def collectRanges (e : Entry) : List Rng :=
  (upTo 0 (sBlocks e)).flatMap fun i =>
    if sValid e i = 0 then [] else (upTo 0 (sRows e)).map fun r =>
      rng (sLogits e + i * sBlkStride e + r * sRowStride e) (sValid e i * sElem e)

def collectAccess (e : Entry) : List Access := accessOf false (collectRanges e)

/-- Entries of the context list. -/
def sContexts (e : Entry) : Nat := sRows e / sQ e

/-- Rows that the member of rank `k` samples (R296). -/
def rowsOf (e : Entry) (rank : Nat) : List Nat := (upTo 0 (sRows e)).filter fun i => i % sMembers e == rank

def finishAccess (rank : Nat) (e : Entry) : List Access :=
  pieces (sList e) 1 0 (4 * sContexts e) false ++
    accessOf true ((rowsOf e rank).map fun i => rng (sLast e + 16 * i) 16)

/-- Limits of both phases; the table gives those of the inverse temperature and of top-p for the opcode. -/
def sampleOk (k : Nat) (e : Entry) : Bool :=
  fbits e 16 7 5 == 0 && fbits e 17 7 4 == 0 && (sampleMask e).testBit k && within 1 256 (sK e) && within 1 64 (sQ e) &&
    within 1 512 (sRows e) && mult (sQ e) (sRows e) && isFinite (sTemp e) && fLt 0 (sTemp e) && isFinite (sTopP e) &&
    fLt 0 (sTopP e) && fLe (sTopP e) fOne

def collectOk (k : Nat) (e : Entry) : Bool :=
  sampleOk k e && within 1 1024 (sBlocks e) && mult 32 (sRowStride e) && mult 32 (sBlkStride e) && within 1 262144 (sLast e) &&
    decide (maxOr 0 ((collectRanges e).map Rng.hi) < scratchSize)

def finishOk (k : Nat) (e : Entry) : Bool :=
  sampleOk k e && decide (sList e + 4 * sContexts e ≤ scratchSize) &&
    decide (sLast e + 16 * sRows e ≤ scratchSize)

/-! ### Collect (R293, R294) -/

/-- Whether candidate `a` ranks before `b`: the larger logit, and of two equal ones the lower index. -/
def Cand.before (a b : Cand) : Bool := fLt b.logit a.logit || (fKey a.logit == fKey b.logit && decide (a.index < b.index))

def candInsert (c : Cand) : List Cand → List Cand
  | [] => [c]
  | x :: xs => if c.before x then c :: x :: xs else x :: candInsert c xs

/-- Enter a logit of row `r`. -/
def Vec.enter (u : Vec) (k r index : Nat) (w : Word) : Vec :=
  let odd := !isFinite w
  let u := if odd then { u with marked := nset false u.marked r true, collectNonfinite := satInc u.collectNonfinite } else u
  if isNan w || w == negInf then u
  else
    let c : Cand := ⟨if w = posInf then maxF32 else w, index⟩
    { u with cands := nmod [] u.cands r fun cs => (candInsert c cs).take k }

/-- Rows and k that a `CLEAR` records. -/
def Vec.clear (u : Vec) (rows k : Nat) : Vec :=
  { u with rows := BitVec.ofNat 10 rows, k := BitVec.ofNat 9 k, cands := [], marked := [] }

def Vec.agrees (u : Vec) (e : Entry) : Bool := u.rows.toNat == sRows e && u.k.toNat == sK e

/-- Steps 5 to 7 of a collect (R459): its limits and its agreement with the recorded rows and k come before any wait. -/
def collectGate (q : Nat) (s : State) (e : Entry) : Gate :=
  let u := (s.lcore (q / 4)).vec
  if !collectOk (q / 4 % 4) e || (if sClear e then decide (16384 < sRows e * sK e) else !u.agrees e) then
    .stop (s.vectorStop q 0xFF 0x0310)
  else if !s.guardOk q (collectAccess e) then .hold 6
  else if u.held then .hold 7
  else .go

/-- Read one row of one local block. -/
def State.collectRow (s : State) (q : Nat) (e : Entry) (i r : Nat) : State × BitVec 16 :=
  let l := q / 4
  let n := sValid e i
  if n = 0 then (s, 0) else
  let rd := s.read (vecWho q) (scratchAddr l (sLogits e + i * sBlkStride e + r * sRowStride e)) (n * sElem e)
  if rd.1.code ≠ 0 then (rd.2, rd.1.code) else
  (rd.2.modVec l fun u => (upTo 0 n).foldl (fun u c =>
    u.enter (sK e) r (256 * sBlock e i + c) (fpOf (b2n (sBf16 e)) (blkNat rd.1.blk (sElem e * c) (sElem e)))) u, 0)

def execSampleCollect (q : Nat) (s : State) : Res :=
  .next (s.tryIssue q isCollect (collectGate q) fun s e =>
    let j := s.newJob q e
    let s := (s.issue q).enterJob j (collectAccess e)
    let s := if sClear e then s.modVec (q / 4) fun u => u.clear (sRows e) (sK e) else s
    let order := (upTo 0 (sBlocks e)).flatMap fun i => (upTo 0 (sRows e)).map fun r => (i, r)
    let r := order.foldl (fun (a : State × BitVec 16) x => if a.2 ≠ 0 then a else a.1.collectRow q e x.1 x.2) (s, 0)
    if r.2 ≠ 0 then r.1.dropJob j r.2
    else ((r.1.releaseJob j).modVec (q / 4) fun v => { v with unit := v.unit ++ [⟨j, .collect, false, []⟩] }).strike (q / 4) bVector)

def execSampleCollectComplete (core : Nat) (s : State) : Res := .next (s.vecComplete core .collect)

/-! ### Finish: issue and join (R295) -/

def finishGate (q : Nat) (s : State) (e : Entry) : Gate :=
  let u := (s.lcore (q / 4)).vec
  let k := q / 4 % 4
  if !finishOk k e || !u.agrees e then .stop (s.vectorStop q 0xFF 0x0310)
  else if !s.guardOk q (finishAccess (rankOf (sampleMask e) k) e) then .hold 6
  else if u.held then .hold 7
  else .go

/-- SAMPLE finish: it holds the unit and waits for the members of its join mask; a fenced one ends it (R572). -/
def execSampleFinish (q : Nat) (s : State) : Res :=
  .next (s.tryIssue q isFinish (finishGate q) fun s e =>
    let j := s.newJob q e
    let as_ := finishAccess (rankOf (sampleMask e) (q / 4 % 4)) e
    let s := (s.issue q).enterJob j as_
    if s.maskFenced (q / 4) (sampleMask e) then s.endJob j (s.vectorStop q 0xFF 0x0318)
    else s.modVec (q / 4) fun v => { v with unit := v.unit ++ [⟨j, .finish, true, (writeSlots as_).eraseDups⟩] })

/-- The finish of core `l` that waits at its join. -/
def State.waitingFinish (s : State) (l : Nat) : Option Job :=
  ((s.lcore l).vec.unit.find? fun x => x.joining).map fun x => x.job

/-- What the members agree on. -/
def finishKey (e : Entry) : List Nat :=
  [sampleMask e, sRows e, sQ e, sK e, fld e 28 4, fld e 24 4, sStep e, sStream e, sLane e, fld e 16 1]

/-- A finish leaves the unit and its queue stops. -/
def State.finishLeave (s : State) (j : Job) (code : BitVec 16) : State :=
  (s.modVec (j.q / 4) fun v => { v with unit := v.unit.filter fun x => !(x.job.q == j.q && x.job.id == j.id) }).endJob j
    (s.vectorStop j.q 0xFF code)

/-! ### The sampler (R297 to R299) -/

/-- The k best of the members' candidates of row `i`. -/
def State.merged (s : State) (ls : List Nat) (k i : Nat) : List Cand :=
  ((ls.flatMap fun l => nget [] (s.lcore l).vec.cands i).foldl (fun cs c => candInsert c cs) []).take k

/-- A value clamped to ± the largest finite one. -/
def clampFinite (w : Word) : Word := if w = posInf then maxF32 else if w = negInf then 0xFF7FFFFF else w

/-- Running sums of R297. -/
def sums (acc : Word) : List Word → List Word
  | [] => []
  | x :: xs => fAdd acc x :: sums (fAdd acc x) xs

/-- What the sampler forms before its draw: e, c and n. -/
structure Ranked where
  es : List Word
  cs : List Word
  n : Nat

def rank (cands : List Cand) (temp topP : Word) : Ranked :=
  let zs := cands.map fun c => clampFinite (fMul c.logit temp)
  let es := zs.map fun z => expRne (fSub z (zs.headD 0))
  let cs := sums 0 es
  let bar := fMul topP (cs.getLastD 0)
  ⟨es, cs, match cs.findIdx? fun c => fLe bar c with
    | some j => j + 1
    | none => cands.length⟩

/-- The rank that a draw picks. -/
def Ranked.pick (r : Ranked) (word0 : Nat) : Nat :=
  let u := BitVec.ofNat 32 (FpFmt.f32.round false (word0 / 256) 1 (-24))
  let t := fMul u (r.cs.getD (r.n - 1) 0)
  match (r.cs.take r.n).findIdx? fun c => fLt t c with
  | some j => j
  | none => r.n - 1

/-- A record (R299) with what its TOKEN_OUT carries beside. -/
structure Rec where
  token : Nat
  prob : Word
  draw : Nat
  n : Nat
  flags : Nat

def Rec.bytes (r : Rec) : List Byte :=
  leBytes 4 r.token ++ leBytes 4 r.prob.toNat ++ leBytes 4 r.draw ++ leBytes 2 r.n ++ leBytes 1 r.flags ++ leBytes 1 0

/-- A TOKEN_OUT record with its connection (R641). -/
structure TokenRec where
  conn : Nat
  bytes : List Byte

/-- One member's sampling under way. -/
structure SAcc where
  s : State
  tokens : List TokenRec
  saidEmpty : Bool
  code : BitVec 16

/-- Sample row `i` with context `n`, whose descriptor reads `c` (R297, R298). -/
def SAcc.row (j : Job) (ls : List Nat) (ctxs : List (Nat × Ctx)) (a : SAcc) (i : Nat) : SAcc :=
  if a.code ≠ 0 then a else
  let e := j.cmd
  let l := j.q / 4
  let x := ctxs.getD (i / sQ e) (0, .reset)
  let cands := a.s.merged ls (sK e) i
  let marked := ls.any fun k => nget false (a.s.lcore k).vec.marked i
  let r := rank cands (sTemp e) (sTopP e)
  let flags := b2n (sGreedy e) + 2 * b2n cands.isEmpty + 4 * b2n marked
  let draws := !cands.isEmpty && !sGreedy e
  let pos := x.2.position.toNat + i % sQ e
  let word0 := (philox x.2.philox.toNat pos (sStep e) (sLane e) (sStream e)).headD 0
  -- values that the spec leaves open: the draw bits where none is drawn, and the rest of an empty row
  let o1 := a.s.open_
  let o2 := o1.2.open_
  let o3 := o2.2.open_
  let p := if sGreedy e then 0 else r.pick word0
  let rec_ : Rec :=
    if cands.isEmpty then ⟨0xFFFFFFFF, BitVec.ofNat 32 (o2.1 % 2 ^ 32), o1.1 % 2 ^ 24, o3.1 % 2 ^ 16, flags⟩
    else ⟨(cands.getD p ⟨0, 0⟩).index, if sGreedy e then fOne else fDiv (r.es.getD p 0) (r.cs.getD (r.n - 1) 0),
      if draws then word0 / 256 else o1.1 % 2 ^ 24, r.n, flags⟩
  let s := if cands.isEmpty then o3.2 else if draws then a.s else o1.2
  let s := if draws then
      (s.ctxWrite x.1 fun c => { c with draws := c.draws + 1 }).modVec l fun v => { v with draws := v.draws + 1 }
    else s
  let s := if cands.isEmpty then
      (let s := s.modVec l fun v => { v with sampleEmpty := satInc v.sampleEmpty }
       s.raiseEach (s.pgL l bVector) 0x0314 (j.q % 4 + 0xFF * 4) (!a.saidEmpty) 1)
    else s
  let w := s.writeBytes (vecWho j.q) (scratchAddr l (sLast e + 16 * i)) rec_.bytes
  if w.2 ≠ 0 then { a with s := w.1, code := w.2 } else
  let s := w.1.modVec l fun v => { v with samples := satInc v.samples }
  let out : TokenRec :=
    ⟨x.2.conn.toNat, leBytes 2 x.1 ++ leBytes 1 (i % sQ e) ++ leBytes 1 flags ++ leBytes 4 rec_.token ++ leBytes 4 pos ++
      leBytes 4 rec_.prob.toNat⟩
  { s := s, tokens := if sEmit e then a.tokens ++ [out] else a.tokens, saidEmpty := a.saidEmpty || cands.isEmpty, code := 0 }

/-- TOKEN_OUT: one message for each connection that the rows name; one that is not OPEN takes none (R641). -/
def State.tokenOut (s : State) (q : Nat) (e : Entry) (ts : List TokenRec) : State :=
  ((ts.map TokenRec.conn).eraseDups).foldl (fun s n =>
    if 0x8000 ≤ n then s
    else if n < 4096 ∧ (s.conn n).st = .opened then
      let mine := ts.filter fun t => t.conn == n
      (s.sendOwn n 0x04 (leBytes 4 (sStep e) ++ leBytes 2 mine.length ++ leBytes 2 0 ++ mine.flatMap TokenRec.bytes)).countWork q 4 1
    else s.setNet { s.net with tokensDropped := satInc s.net.tokensDropped }) s

/-- The contexts of a member's rows, each descriptor read once; none where one is not open or is homed elsewhere (R296). -/
def State.sampleContexts (s : State) (cluster : Nat) (ns : List Nat) : State × Bool :=
  ns.eraseDups.foldl (fun (a : State × Bool) n =>
    if !a.2 then a else
    if ctxCount ≤ n then (a.1, false) else
    let r := a.1.ctxRead n
    (r.1, r.2 && decide ((r.1.ctx n).st = .opened) && (r.1.ctx n).home.toNat == cluster)) (s, true)

/-- What one member does once the join has completed. -/
def State.sampleMember (s0 : State) (ls : List Nat) (j : Job) : State :=
  let s := s0
  let e := j.cmd
  let l := j.q / 4
  let rows := rowsOf e (rankOf (sampleMask e) (l % 4))
  if s.waitingFinish l ≠ some j then s else
  -- R302: the compare of the command's arithmetic
  let f := s.takeCheckFault (s.pgL l bVector)
  if f.2 then
    let s := f.1.modVec l fun v => { v with mismatches := satInc v.mismatches }
    s.raiseFence (s.physOf l) bVector 0x0313 (j.q % 4 + 0xFF * 4) true
  else
  let gone := fun (s : State) => s.modVec l fun v => { v with unit := v.unit.filter fun x => !(x.job.q == j.q && x.job.id == j.id) }
  let rd := s.read (vecWho j.q) (scratchAddr l (sList e)) (4 * sContexts e)
  if rd.1.code ≠ 0 then (gone rd.2).dropJob j rd.1.code else
  let ns := (upTo 0 (sContexts e)).map fun i => blkNat rd.1.blk (4 * i) 2
  let cx := rd.2.sampleContexts (clusterOf l) (rows.map fun i => ns.getD (i / sQ e) 0)
  if cx.1.err.deviceStopped then cx.1
  else if !cx.2 then cx.1.finishLeave j 0x0316
  else
    let s := rows.foldl (fun s i => s.charge j (ns.getD (i / sQ e) 0) 1) cx.1
    let a := rows.foldl (SAcc.row j ls (ns.map fun n => (n, s.ctx n))) ⟨s, [], false, 0⟩
    let s := (a.s.tokenOut j.q e a.tokens).countCommand j s0.energy
    if a.code ≠ 0 then (gone s).dropJob j a.code
    else ((gone s).modVec l fun v => { v with commands := satInc v.commands }).finishJob j (writeSlots (finishAccess
      (rankOf (sampleMask e) (l % 4)) e)).eraseDups

/-- SAMPLE_FINISH_JOIN: the members' finishes meet at the join mask of one of them; they agree and sample their rows, or all of
them stop (R295). -/
def execSampleFinishJoin (cluster mask : Nat) (s : State) : Res :=
  let found := (members cluster mask).map s.waitingFinish
  let js := found.filterMap id
  .next (match js with
    | [] => s
    | lead :: _ =>
      if cluster < 32 ∧ js.length = found.length ∧ js.any (fun j => sampleMask j.cmd == mask) then
        if !js.all (fun j => finishKey j.cmd == finishKey lead.cmd) then js.foldl (fun s j => s.finishLeave j 0x0317) s
        else js.foldl (fun s j => s.sampleMember (js.map fun j => j.q / 4) j) s
      else s)

def execSampleJoinTimeout (core : Nat) (s : State) : Res :=
  .next (match decide (core < 128), s.waitingFinish core with
    | true, some j =>
      if s.timed j.q ∧ (s.lcore core).vec.joinTimeout ≠ 0 then s.finishLeave j 0x0315 else s
    | _, _ => s)

end Sys2Proof.Machine
end

