-- ==== Sys2Proof/Machine/RunAhead.lean ====
section
/-! DEFINITION. RunAhead.lean: run-ahead behind closed gates (R389 to R394), the timeouts of the producer-consumer discipline
(R332), its switch (R317), and write-backs (R315). -/

namespace Sys2Proof.Machine

/-! ### Scratchpad operands of any command -/

/-- Slices per vector of a run at the widest width that its tensor can still settle at (R321): the settled one once there is a
verdict. A pass that has not begun can settle at any width, A16 of 8 slices the widest (R203, R212). -/
def State.widestSlices (s : State) (q : Nat) (e : Entry) : Nat :=
  let sl := s.slot (q / 4) (verdictSlot e)
  if verdictId e = 0 then 2 ^ runWidth e
  else if sl.tag.toNat ≠ verdictTag e then 8
  else match sl.st with
    | .settled => 2 ^ sl.settledWidth
    | .pending => 2 ^ max sl.base sl.widest
    | .idle => 8

/-- Operands that step 6 checks in the issuing core (R321, R327). -/
def State.cmdAccess (s : State) (q : Nat) (e : Entry) : List Access :=
  let op := opcode e
  if op = 0x10 ∨ op = 0x11 ∨ op = 0x60 ∨ op = 0x61 then s.dmaAccess q e
  else if op = 0x21 ∨ op = 0x22 then runAccess (s.widestSlices q e) e
  else if op = 0x28 ∨ op = 0x29 ∨ op = 0x2A then ledAccess e
  else if op = 0x30 then quantiseAccess e
  else if op = 0x31 then tableAccess true e
  else if op = 0x32 then tableAccess false e
  else if op = 0x40 then s.vectorAccess q e
  else if op = 0x41 then (if sCollect e then collectAccess e else finishAccess (rankOf (sampleMask e) (q / 4 % 4)) e)
  else if within 0x50 0x53 op then s.streamAccess q e
  else if op = 0x70 then commitAccess e
  else []

/-- Slots that a command reads or writes, as (logical core, slot). -/
def State.cmdSlots (s : State) (q : Nat) (e : Entry) : List (Nat × Nat) :=
  let op := opcode e
  let of := fun (xs : List (Nat × Nat)) => xs.flatMap fun x => slotsOf x.1 x.2
  if op = 0x10 ∨ op = 0x11 ∨ op = 0x60 ∨ op = 0x61 then
    (let r := s.dmaOperands q e; of r.1.flatten ++ of r.2.flatten)
  else if within 0x50 0x53 op then (let r := s.streamRanges (clusterOf (q / 4)) e; of r.1 ++ of r.2)
  else (s.cmdAccess q e).flatMap fun a => a.slots.map fun k => (q / 4, k)

/-! ### Which commands may run ahead (R389 to R391) -/

/-- Frames that a command names in a swap, a mode, a run or a load. -/
def cmdFrames (e : Entry) : List Nat :=
  let op := opcode e
  if op = 0x20 ∨ op = 0x21 ∨ op = 0x22 ∨ op = 0x23 then bitsOf (fld e 16 2) 16
  else if op = 0x12 then takeFrames e
  else if isPlaneCopy e then [copyFrame e] else []

/-- Destination ranges of a memory copy or a table gather. -/
def copyDsts (e : Entry) : List (Nat × Nat) :=
  if opcode e = 0x10 then (upTo 0 (copyRows e)).map fun i => (copyRowDst e i, copyLen e)
  else (upTo 0 (gatherCount e)).map fun i => (gatherDst e + i * gatherDstPitch e, gatherLen e)

/-- Every destination byte lies in a scratchpad of a core in slot-tag mode. -/
def State.slotTagged (s : State) (e : Entry) : Bool :=
  (copyDsts e).all fun x => match wholePlace x.1 x.2 with
    | some (.scratch l _) => !(s.lcore l).scr.discipline
    | _ => false

/-- R389, R331. -/
def State.mayRunAhead (s : State) (q : Nat) (e : Entry) : Bool :=
  decide (q < 512) && runAheadOk e &&
    (isPlaneCopy e ||
      ((isCopy 0 e || (opcode e == 0x11 && !isKvWrite e)) && !(s.lcore (q / 4)).scr.discipline && s.slotTagged e) ||
      (opcode e == 0x12 && (takeEntries e).all fun i => takeKind e i == 1))

/-- Destination slots of a run-ahead command. -/
def aheadSlots (e : Entry) : List (Nat × Nat) :=
  if isPlaneCopy e ∨ opcode e = 0x12 then [] else (copyDsts e).flatMap fun x => slotsOf x.1 x.2

/-- Whether command `e` may pass an earlier command `d` that has not issued; `started`: `d` itself runs ahead (R390). -/
def State.mayPass (s : State) (q : Nat) (e d : Entry) (started : Bool) : Bool :=
  !barrier d && (started || !s.mayRunAhead q d) && (cmdFrames e).all (fun f => !(cmdFrames d).contains f) &&
    (let ks := aheadSlots e; ks.isEmpty || (s.cmdSlots q d).all fun k => !ks.contains k)

/-- Whether the unit can start it now, and its own checks pass. -/
def State.aheadReady (s : State) (q : Nat) (e : Entry) : Bool :=
  if opcode e = 0x12 then s.takeReady q e && (s.takeCheck q e).isNone
  else (s.dmaCheck q e).isNone && (s.lcore (q / 4)).dmaFree q e && s.guardOk q (s.dmaAccess q e)

/-- Commands that a sequencer fetches ahead of issue (R450). -/
def lookAhead : Nat := 16

/-- RUN_AHEAD_START: the command `i` entries past the queue's oldest one starts before it issues. The sequencer has to have fetched
it (R450). -/
def execRunAheadStart (q i : Nat) (s : State) : Res :=
  let x := s.queue q
  let es := s.ahead q x (i + 1)
  .next (match decide (q < 512) && decide (i < lookAhead) && s.mayIssue q && !x.passed.contains i, es[i]? with
    | true, some e =>
      let c := s.lcore (q / 4)
      let free := (es.take i).zipIdx.all fun d => s.mayPass q e d.1 (x.passed.contains d.2)
      if s.mayRunAhead q e ∧ s.headerCheck q e = none ∧ !barrier e ∧ (!waitEn e ∨ s.waitMet q e) ∧ free ∧
          (c.unconfirmed q).length < 2 ∧ s.aheadReady q e then
        let j := s.newJob q e
        let s := s.modQueue q fun y => { y with nextId := y.nextId + 1, passed := y.passed ++ [i] }
        let s := s.modLcore (q / 4) fun c => { c with scr := { c.scr with raStarted := satInc c.scr.raStarted } }
        if opcode e = 0x12 then s.startTake j .unconfirmed else (s.enterJob j (s.dmaAccess q e)).dmaStart j .unconfirmed
      else s
    | _, _ => s)

/-! ### Confirmation (R392 to R394) -/

/-- A job's standing. -/
def Core.setAhead (c : Core) (j : Job) (ra : RunAhead) : Core :=
  { c with
    dma := c.dma.map fun d => if d.job.q = j.q ∧ d.job.id = j.id then { d with ra := ra } else d
    takes := c.takes.map fun t => if t.job.q = j.q ∧ t.job.id = j.id then { t with ra := ra } else t }

/-- A run-ahead command is to be skipped: a copy ends, a take stays without effect until its stream closes. -/
def Core.skipAhead (c : Core) (j : Job) : Core :=
  let c := c.voidTargets (cmdFrames j.cmd)
  { c.setAhead j .cancelled with
    dma := c.dma.filter fun d => !(d.job.q == j.q && d.job.id == j.id)
    scr := { c.scr with
      raCancelled := satInc c.scr.raCancelled
      sb := c.scr.sb.filter fun b => !(b.id == j.id && b.q == j.q) } }

/-- The command that a queue has started ahead and that is now its oldest one. -/
def State.aheadFront (s : State) (q : Nat) : Option Job :=
  let c := s.lcore (q / 4)
  if q < 512 ∧ (s.queue q).passed.contains 0 then
    (c.unconfirmed q).find? fun j => c.aheadPlace j == (s.queue q).passed.idxOf 0
  else none

/-- RUN_AHEAD_CONFIRM: the oldest command of the queue has run ahead, and every earlier one has issued or been skipped (R392).
It passes the command as an issue does, inside the segment that holds it (R449). -/
def execRunAheadConfirm (q : Nat) (s : State) : Res :=
  .next (match s.mayIssue q, s.aheadFront q with
    | true, some j =>
      let s := (s.enterFront q).fetchMarks q
      match s.verdictSteps q j.cmd with
      | .hold n => s.hold q n j.cmd
      | .stop st => s.stopWith q st
      | .skip =>
        ((s.modLcore (q / 4) fun c => c.skipAhead j).skip q j.cmd).sweepSwaps (q / 4) 4
      | .go => (s.modQueue q fun x => x.issueAs j.id).modLcore (q / 4) fun c => c.setAhead j .confirmed
    | _, _ => s)

/-! ### Timeouts of the discipline (R332) -/

def State.guardStop (s : State) (q : Nat) (code : BitVec 16) (word src : Nat) : Stop :=
  ⟨code, s.pgL (q / 4) bScratch, contained, word % 65536 + 2 ^ 16 * (q % 4) + 2 ^ 18 * src, 0⟩

/-- Access source of a unit's command, in the order of R308. -/
def sourceOf (e : Entry) : Nat :=
  match opcode e / 8 with
  | 4 => 1
  | 5 => 3
  | 6 => 4
  | 8 => 5
  | 10 => 2
  | _ => 6

def State.countGuard (s : State) (q : Nat) : State :=
  s.modLcore (q / 4) fun c => { c with scr := { c.scr with guardTimeouts := satInc c.scr.guardTimeouts } }

/-- The oldest command of a queue, if it waits at step 6. -/
def State.guardHeld (s : State) (q : Nat) : Option Entry :=
  match s.front q with
  | .cmd e =>
    if (s.queue q).heldStep = 6 ∧ s.headerCheck q e = none ∧ s.headerSteps q e = .go ∧ !s.guardOk q (s.cmdAccess q e) then some e
    else none
  | _ => none

/-- The slot at which a turn of the DMA engine waits, having moved nothing beyond the first `off` bytes of its row. -/
def Turn.waits (off : Nat) : Turn → Option (Nat × Nat)
  | .wait _ d k => if d.off = off then some k else none
  | _ => none

/-- The command of queue `q` that the DMA engine holds at a slot, and the slot. -/
def State.dmaWaiting (s : State) (q : Nat) : Option (DmaJob × Nat) :=
  (s.lcore (q / 4)).dma.findSome? fun d => if d.job.q == q && !d.done then ((s.dmaTurn d).waits d.off).map fun k => (d, k.2) else none

/-- The stream command of queue `q` that is served and waits at a slot, unable to go on, and the slot. -/
def State.streamWaiting (s : State) (q : Nat) : Option (StreamJob × Nat) :=
  match (s.cluster (clusterOf (q / 4))).held with
  | g :: _ =>
    if g.job.q = q ∧ !g.done then
      let x := g.go s
      if x.log.length = g.past.length then x.wait.map fun k => (g, k.2) else none
    else none
  | [] => none

/-- Whether the timeout of queue `q` can expire. -/
def State.guardTimed (s : State) (q : Nat) : Bool :=
  decide (q < 512) && s.timed q && decide ((s.lcore (q / 4)).scr.guardTimeout ≠ 0)

/-- First word of the slot that blocks a command. -/
def State.blockedWord (s : State) (q : Nat) (e : Entry) : Nat :=
  match (s.lcore (q / 4)).scr.blockedSlot (s.cmdAccess q e) with
  | some k => 128 * k
  | none => 0

/-- First word of the range that the scoreboard holds back, or 0 where the queue's entries are used up. -/
def State.heldWord (s : State) (q : Nat) (e : Entry) : Nat :=
  match (s.cmdAccess q e).find? fun a => (s.lcore (q / 4)).scr.sb.any fun b => a.hull.meets ⟨b.lo, b.hi⟩ && (a.write || b.write) with
  | some a => a.hull.lo / 32
  | none => 0

/-- A DMA command leaves its engine without completing, and the plane that it was loading is EMPTY (R58). -/
def Core.leaveDma (c : Core) (d : DmaJob) : Core :=
  let c := if isPlaneCopy d.job.cmd then c.emptyTargets [copyFrame d.job.cmd] else c
  { c with dma := c.dma.filter fun x => x.job.q != d.job.q }

/-- SLOT_TAG_TIMEOUT: a command waits under R321 at issue, in the DMA engine or in the stream engine; in an engine it ends at the
access at which it waits, and what it wrote before stands (R332). An unconfirmed command is cancelled by its queue's stop
(R393). -/
def execSlotTagTimeout (q : Nat) (s : State) : Res :=
  .next (if !s.guardTimed q then s else
    match (if (s.lcore (q / 4)).scr.discipline then none else s.guardHeld q) with
    | some e => (s.countGuard q).stopWith q (s.guardStop q 0x0430 (s.blockedWord q e) (sourceOf e))
    | none =>
      match s.dmaWaiting q, s.streamWaiting q with
      | some (d, k), _ =>
        let s := if d.ra = .unconfirmed then s.countGuard q else (s.countGuard q).modLcore (q / 4) fun c => c.leaveDma d
        s.endJob d.job (s.guardStop q 0x0430 (128 * k) 6)
      | none, some (g, k) =>
        (((s.countGuard q).dropHeld (clusterOf (q / 4))).endJob g.job (s.guardStop q 0x0430 (128 * k) 2)).streamAdvance
          (clusterOf (q / 4)) 4
      | none, none => s)

/-- SCOREBOARD_TIMEOUT: a command waits under R328. -/
def execScoreboardTimeout (q : Nat) (s : State) : Res :=
  .next (match s.guardTimed q && (s.lcore (q / 4)).scr.discipline, s.guardHeld q with
    | true, some e => (s.countGuard q).stopWith q (s.guardStop q 0x0431 (s.heldWord q e) (sourceOf e))
    | _, _ => s)

/-! ### The discipline's switch, and write-backs -/

/-- A pending mode takes effect; a change empties every tag and clears the scoreboard. -/
def Scratch.switch (c : Scratch) : Scratch :=
  match c.pendingMode with
  | none => c
  | some m => if m = c.discipline then { c with pendingMode := none } else { c with discipline := m, pendingMode := none, tags := [], sb := [] }

/-- DISCIPLINE_SWITCH: none of the core's queues holds an issued command that has not completed. -/
def execDisciplineSwitch (core : Nat) (s : State) : Res :=
  .next (if core < 128 ∧ (upTo 0 4).all fun i => ((s.lcore core).queue i).flight.isEmpty then
      s.modLcore core fun c => { c with scr := c.scr.switch }
    else s)

/-- CORRECTED_WRITEBACK: the oldest queued word is written back. -/
def execCorrectedWriteback (core : Nat) (s : State) : Res :=
  .next (match decide (core < 128), (s.lcore core).scr.writeback with
    | true, k :: rest =>
      let s := s.modLcore core fun c => { c with scr := { c.scr with writeback := rest } }
      if nget .sound (s.lcore core).scr.cond k = .correctable then
        let r := s.takeInjection (s.pgL core bScratch)
        r.1.modLcore core fun c => { c with scr := { c.scr with cond := nset .sound c.scr.cond k r.2 } }
      else s
    | _, _ => s)

end Sys2Proof.Machine
end

