-- ==== Sys2Proof/Machine/Dispatch.lean ====
section
/-! DEFINITION. Dispatch.lean: one arm per command; each calls the meaning of its own. -/

namespace Sys2Proof.Machine

def exec (i : Instr) (s : State) : Host.Outcome State Fault Refusal :=
  match i with
  | .nop q => Sys2Proof.Machine.execNop q s
  | .wait q => Sys2Proof.Machine.execWait q s
  | .signal q => Sys2Proof.Machine.execSignal q s
  | .stop q => Sys2Proof.Machine.execStop q s
  | .forecast q => Sys2Proof.Machine.execForecast q s
  | .versionFence q => Sys2Proof.Machine.execVersionFence q s
  | .versionFenceTimeout q => Sys2Proof.Machine.execVersionFenceTimeout q s
  | .segmentEntry q => Sys2Proof.Machine.execSegmentEntry q s
  | .dmaCopy q => Sys2Proof.Machine.execDmaCopy q s
  | .planeCopy q => Sys2Proof.Machine.execPlaneCopy q s
  | .scaleCopy q => Sys2Proof.Machine.execScaleCopy q s
  | .railLaunch q => Sys2Proof.Machine.execRailLaunch q s
  | .tableGather q => Sys2Proof.Machine.execTableGather q s
  | .kvWrite q => Sys2Proof.Machine.execKvWrite q s
  | .dmaComplete q => Sys2Proof.Machine.execDmaComplete q s
  | .railTake q => Sys2Proof.Machine.execRailTake q s
  | .takeStart q n => Sys2Proof.Machine.execTakeStart q n s
  | .railBlockSend stream => Sys2Proof.Machine.execRailBlockSend stream s
  | .railTakeComplete q n => Sys2Proof.Machine.execRailTakeComplete q n s
  | .railStreamClose stream => Sys2Proof.Machine.execRailStreamClose stream s
  | .railStallTimeout stream => Sys2Proof.Machine.execRailStallTimeout stream s
  | .runAheadStart q n => Sys2Proof.Machine.execRunAheadStart q n s
  | .runAheadConfirm q => Sys2Proof.Machine.execRunAheadConfirm q s
  | .frameMode q => Sys2Proof.Machine.execFrameMode q s
  | .frameRun q => Sys2Proof.Machine.execFrameRun q s
  | .frameRunT q => Sys2Proof.Machine.execFrameRunT q s
  | .joinedRunStart cluster mask tag => Sys2Proof.Machine.execJoinedRunStart cluster mask tag s
  | .sliceJoinTimeout q => Sys2Proof.Machine.execSliceJoinTimeout q s
  | .promotion core gang => Sys2Proof.Machine.execPromotion core gang s
  | .planeSwap q => Sys2Proof.Machine.execPlaneSwap q s
  | .planeExchange core frame => Sys2Proof.Machine.execPlaneExchange core frame s
  | .planeLoadComplete core frame => Sys2Proof.Machine.execPlaneLoadComplete core frame s
  | .ledgerClear q => Sys2Proof.Machine.execLedgerClear q s
  | .ledgerDrain q => Sys2Proof.Machine.execLedgerDrain q s
  | .ledgerLoad q => Sys2Proof.Machine.execLedgerLoad q s
  | .quantise q => Sys2Proof.Machine.execQuantise q s
  | .quantExchange cluster mask => Sys2Proof.Machine.execQuantExchange cluster mask s
  | .quantSettle core => Sys2Proof.Machine.execQuantSettle core s
  | .quantExchangeTimeout core => Sys2Proof.Machine.execQuantExchangeTimeout core s
  | .scaleLoad q => Sys2Proof.Machine.execScaleLoad q s
  | .statsRead q => Sys2Proof.Machine.execStatsRead q s
  | .vector q => Sys2Proof.Machine.execVector q s
  | .sampleCollect q => Sys2Proof.Machine.execSampleCollect q s
  | .sampleFinish q => Sys2Proof.Machine.execSampleFinish q s
  | .sampleFinishJoin cluster mask => Sys2Proof.Machine.execSampleFinishJoin cluster mask s
  | .sampleJoinTimeout core => Sys2Proof.Machine.execSampleJoinTimeout core s
  | .streamScore q => Sys2Proof.Machine.execStreamScore q s
  | .streamValue q => Sys2Proof.Machine.execStreamValue q s
  | .streamWgrad q => Sys2Proof.Machine.execStreamWgrad q s
  | .streamGemm q => Sys2Proof.Machine.execStreamGemm q s
  | .streamCommandComplete cluster => Sys2Proof.Machine.execStreamCommandComplete cluster s
  | .stashSave q => Sys2Proof.Machine.execStashSave q s
  | .stashLoad q => Sys2Proof.Machine.execStashLoad q s
  | .ctxCommit q => Sys2Proof.Machine.execCtxCommit q s
  | .ctxOpen q => Sys2Proof.Machine.execCtxOpen q s
  | .ctxClose q => Sys2Proof.Machine.execCtxClose q s
  | .closeHoldersReleased ctx => Sys2Proof.Machine.execCloseHoldersReleased ctx s
  | .kvAreaZeroed ctx => Sys2Proof.Machine.execKvAreaZeroed ctx s
  | .snapshot q => Sys2Proof.Machine.execSnapshot q s
  | .quiesceEnd => Sys2Proof.Machine.execQuiesceEnd s
  | .snapQuiesceTimeout => Sys2Proof.Machine.execSnapQuiesceTimeout s
  | .snapshotCopyComplete => Sys2Proof.Machine.execSnapshotCopyComplete s
  | .flashDrainComplete => Sys2Proof.Machine.execFlashDrainComplete s
  | .snapDrainFailed partner => Sys2Proof.Machine.execSnapDrainFailed partner s
  | .restore q => Sys2Proof.Machine.execRestore q s
  | .command conn hdr q entries => Sys2Proof.Machine.execCommand conn hdr q entries s
  | .dataWrite conn hdr addr data => Sys2Proof.Machine.execDataWrite conn hdr addr data s
  | .dataRead conn hdr addr len => Sys2Proof.Machine.execDataRead conn hdr addr len s
  | .regAccess conn hdr ops => Sys2Proof.Machine.execRegAccess conn hdr ops s
  | .tallyRemote conn hdr pairs => Sys2Proof.Machine.execTallyRemote conn hdr pairs s
  | .snapshotChunk conn hdr offset header data => Sys2Proof.Machine.execSnapshotChunk conn hdr offset header data s
  | .offer hdr keys signature imageLen => Sys2Proof.Machine.execOffer hdr keys signature imageLen s
  | .chunk hdr piece => Sys2Proof.Machine.execChunk hdr piece s
  | .attestReq conn hdr nonce => Sys2Proof.Machine.execAttestReq conn hdr nonce s
  | .relsenPacket port pkt => Sys2Proof.Machine.execRelsenPacket port pkt s
  | .ackTimer conn => Sys2Proof.Machine.execAckTimer conn s
  | .lossDetectionTimer conn packet => Sys2Proof.Machine.execLossDetectionTimer conn packet s
  | .retransmissionTimer conn => Sys2Proof.Machine.execRetransmissionTimer conn s
  | .connectionLost conn => Sys2Proof.Machine.execConnectionLost conn s
  | .planeProbe plane => Sys2Proof.Machine.execPlaneProbe plane s
  | .eventSend die => Sys2Proof.Machine.execEventSend die s
  | .frameReceive port f => Sys2Proof.Machine.execFrameReceive port f s
  | .arpRequest port senderMac senderIp targetIp => Sys2Proof.Machine.execArpRequest port senderMac senderIp targetIp s
  | .arpReply port senderMac senderIp => Sys2Proof.Machine.execArpReply port senderMac senderIp s
  | .neighbourSolicitation port senderMac senderIp targetIp => Sys2Proof.Machine.execNeighbourSolicitation port senderMac senderIp targetIp s
  | .neighbourAdvertisement port targetMac targetIp => Sys2Proof.Machine.execNeighbourAdvertisement port targetMac targetIp s
  | .neighbourExpiry port ip => Sys2Proof.Machine.execNeighbourExpiry port ip s
  | .ptpSync port domain seq => Sys2Proof.Machine.execPtpSync port domain seq s
  | .ptpFollowUp port domain seq origin => Sys2Proof.Machine.execPtpFollowUp port domain seq origin s
  | .ptpDelayResp port domain seq receive => Sys2Proof.Machine.execPtpDelayResp port domain seq receive s
  | .ptpDelayReq => Sys2Proof.Machine.execPtpDelayReq s
  | .linkUp port cr1 => Sys2Proof.Machine.execLinkUp port cr1 s
  | .linkDown port => Sys2Proof.Machine.execLinkDown port s
  | .fecDegraded port corrected uncorrectable => Sys2Proof.Machine.execFecDegraded port corrected uncorrectable s
  | .remoteSignal src tally => Sys2Proof.Machine.execRemoteSignal src tally s
  | .correctedWriteback core => Sys2Proof.Machine.execCorrectedWriteback core s
  | .slotTagTimeout q => Sys2Proof.Machine.execSlotTagTimeout q s
  | .scoreboardTimeout q => Sys2Proof.Machine.execScoreboardTimeout q s
  | .disciplineSwitch core => Sys2Proof.Machine.execDisciplineSwitch core s
  | .tierPatrol ctl => Sys2Proof.Machine.execTierPatrol ctl s
  | .pageRetired ctl => Sys2Proof.Machine.execPageRetired ctl s
  | .tierChannelFailed ctl => Sys2Proof.Machine.execTierChannelFailed ctl s
  | .powerPeriod => Sys2Proof.Machine.execPowerPeriod s
  | .avsbusSample rail mv ma => Sys2Proof.Machine.execAvsbusSample rail mv ma s
  | .powerTelemetryLost rail => Sys2Proof.Machine.execPowerTelemetryLost rail s
  | .opPointStep region failing => Sys2Proof.Machine.execOpPointStep region failing s
  | .droopStretch core => Sys2Proof.Machine.execDroopStretch core s
  | .stretchEnd core => Sys2Proof.Machine.execStretchEnd core s
  | .clampEnd core => Sys2Proof.Machine.execClampEnd core s
  | .stepUpResume region => Sys2Proof.Machine.execStepUpResume region s
  | .throttleAsserted => Sys2Proof.Machine.execThrottleAsserted s
  | .throttleReleased => Sys2Proof.Machine.execThrottleReleased s
  | .thermalSample region readings => Sys2Proof.Machine.execThermalSample region readings s
  | .ceilingStep region => Sys2Proof.Machine.execCeilingStep region s
  | .thermalSensorFault region sensor => Sys2Proof.Machine.execThermalSensorFault region sensor s
  | .thermalTrip region sensor => Sys2Proof.Machine.execThermalTrip region sensor s
  | .coolantStop => Sys2Proof.Machine.execCoolantStop s
  | .leakStop => Sys2Proof.Machine.execLeakStop s
  | .sidebandChatter input => Sys2Proof.Machine.execSidebandChatter input s
  | .chatterClear input => Sys2Proof.Machine.execChatterClear input s
  | .restartReady => Sys2Proof.Machine.execRestartReady s
  | .feedIdChange v => Sys2Proof.Machine.execFeedIdChange v s
  | .slotIdChanged v => Sys2Proof.Machine.execSlotIdChanged v s
  | .ppsEdge => Sys2Proof.Machine.execPpsEdge s
  | .vinOutOfRange mv10 stays => Sys2Proof.Machine.execVinOutOfRange mv10 stays s
  | .pwrEnRise => Sys2Proof.Machine.execPwrEnRise s
  | .powerUpTimeout => Sys2Proof.Machine.execPowerUpTimeout s
  | .powerOff railFault => Sys2Proof.Machine.execPowerOff railFault s
  | .coldReset byResetL => Sys2Proof.Machine.execColdReset byResetL s
  | .clockFailed die domain => Sys2Proof.Machine.execClockFailed die domain s
  | .bridgeReplay die failed => Sys2Proof.Machine.execBridgeReplay die failed s
  | .mgmtFailed die => Sys2Proof.Machine.execMgmtFailed die s
  | .provisionRead record => Sys2Proof.Machine.execProvisionRead record s
  | .hello => Sys2Proof.Machine.execHello s
  | .tierZeroingComplete => Sys2Proof.Machine.execTierZeroingComplete s
  | .imageVerify => Sys2Proof.Machine.execImageVerify s
  | .imageStart => Sys2Proof.Machine.execImageStart s
  | .coreFence phys cause => Sys2Proof.Machine.execCoreFence phys cause s
  | .fenceComplete phys => Sys2Proof.Machine.execFenceComplete phys s
  | .unfenceComplete phys => Sys2Proof.Machine.execUnfenceComplete phys s
  | .coreRemapped spare => Sys2Proof.Machine.execCoreRemapped spare s
  | .partitionResetComplete => Sys2Proof.Machine.execPartitionResetComplete s
  | .pairingExchange feed index hold refuses => Sys2Proof.Machine.execPairingExchange feed index hold refuses s
  | .jtagInstruction die ins => Sys2Proof.Machine.execJtagInstruction die ins s
  | .jtagTransition target => Sys2Proof.Machine.execJtagTransition target s
  | .stopRequest ini q => Sys2Proof.Machine.execStopRequest ini q s
  | .actionRetry ini q => Sys2Proof.Machine.execActionRetry ini q s
  | .actionSkip ini q => Sys2Proof.Machine.execActionSkip ini q s
  | .actionFlush ini q => Sys2Proof.Machine.execActionFlush ini q s
  | .ringConfig ini q base size => Sys2Proof.Machine.execRingConfig ini q base size s
  | .tagEmpty ini phys first count => Sys2Proof.Machine.execTagEmpty ini phys first count s
  | .tagFill ini phys first count => Sys2Proof.Machine.execTagFill ini phys first count s
  | .tallyValueWrite ini phys n v => Sys2Proof.Machine.execTallyValueWrite ini phys n v s
  | .hostFence ini page => Sys2Proof.Machine.execHostFence ini page s
  | .unfence ini page => Sys2Proof.Machine.execUnfence ini page s
  | .quiesceSet ini phys => Sys2Proof.Machine.execQuiesceSet ini phys s
  | .quiesceRelease ini phys => Sys2Proof.Machine.execQuiesceRelease ini phys s
  | .portEnable ini port on => Sys2Proof.Machine.execPortEnable ini port on s
  | .errClearRecord ini page => Sys2Proof.Machine.execErrClearRecord ini page s
  | .errClearCount ini page => Sys2Proof.Machine.execErrClearCount ini page s
  | .errInject ini page v => Sys2Proof.Machine.execErrInject ini page v s
  | .erraggClear ini => Sys2Proof.Machine.execErraggClear ini s
  | .remapMap ini spare logical => Sys2Proof.Machine.execRemapMap ini spare logical s
  | .remapUnmap ini spare => Sys2Proof.Machine.execRemapUnmap ini spare s
  | .powerRestart ini => Sys2Proof.Machine.execPowerRestart ini s
  | .peakClear ini => Sys2Proof.Machine.execPeakClear ini s
  | .maxClear ini => Sys2Proof.Machine.execMaxClear ini s
  | .latencyClear ini die => Sys2Proof.Machine.execLatencyClear ini die s
  | .warmReset ini key => Sys2Proof.Machine.execWarmReset ini key s
  | .partitionReset ini part key => Sys2Proof.Machine.execPartitionReset ini part key s
  | .lifecycleTransition ini target key => Sys2Proof.Machine.execLifecycleTransition ini target key s
  | .unlockToken ini last => Sys2Proof.Machine.execUnlockToken ini last s
  | .connOpen ini => Sys2Proof.Machine.execConnOpen ini s
  | .connClose ini => Sys2Proof.Machine.execConnClose ini s
  | .stagingWrite ini offset v => Sys2Proof.Machine.execStagingWrite ini offset v s
  | .loRead ini addr => Sys2Proof.Machine.execLoRead ini addr s
  | .queueLoRead ini => Sys2Proof.Machine.execQueueLoRead ini s
  | .descRead ini => Sys2Proof.Machine.execDescRead ini s
  | .hiWrite ini addr value => Sys2Proof.Machine.execHiWrite ini addr value s
  | .registerWrite ini addr value => Sys2Proof.Machine.execRegisterWrite ini addr value s
  | .ledgerCommandComplete core => Sys2Proof.Machine.execLedgerCommandComplete core s
  | .vectorCommandComplete core => Sys2Proof.Machine.execVectorCommandComplete core s
  | .quantiseCommandComplete core => Sys2Proof.Machine.execQuantiseCommandComplete core s
  | .sampleCollectComplete core => Sys2Proof.Machine.execSampleCollectComplete core s
  | .scaleLoadComplete core => Sys2Proof.Machine.execScaleLoadComplete core s
  | .statsReadComplete core => Sys2Proof.Machine.execStatsReadComplete core s
  | .ctxCommitComplete q => Sys2Proof.Machine.execCtxCommitComplete q s
  | .restoreComplete => Sys2Proof.Machine.execRestoreComplete s
  | .resetLRelease => Sys2Proof.Machine.execResetLRelease s
  | .stoppingInputReturn input => Sys2Proof.Machine.execStoppingInputReturn input s
  | .deviceQueueWake q => Sys2Proof.Machine.execDeviceQueueWake q s
  | .packetPacing conn => Sys2Proof.Machine.execPacketPacing conn s

end Sys2Proof.Machine
end

