-- ==== Sys2Proof/Safety.lean ====
section
/-! DEFINITION. Safety.lean: what every run of the module keeps, whatever commands it takes: fuses burn one way, the one-time
signature indices only rise, and memory has one form. -/

namespace Sys2Proof.Machine

/-- A lifecycle state that may follow another, in any number of transitions (R672, R673): BLANK is left for good, and SCRAPPED
(5) is never left. -/
def lifecycleOrder (a b : BitVec 3) : Prop := a = b ∨ ((a = 0 ∨ b ≠ 0) ∧ a ≠ 5)

/-- Fuses `f` may follow fuses `f0`: what is burned stays burned (R666, R670, R672). -/
structure Fuses.Burned (f0 f : Fuses) : Prop where
  lifecycle : lifecycleOrder f0.lifecycle f.lifecycle
  ecdsaRevoked : f0.ecdsaRevoked &&& f.ecdsaRevoked = f0.ecdsaRevoked
  lmsRevoked : f0.lmsRevoked &&& f.lmsRevoked = f0.lmsRevoked
  svMin : f0.svMin.toNat ≤ f.svMin.toNat
  lmsEpochs : f0.lmsEpochs.toNat ≤ f.lmsEpochs.toNat
  keys : f.ecdsaHash = f0.ecdsaHash ∧ f.lmsHash = f0.lmsHash
  identity : f.deviceId = f0.deviceId ∧ f.secret = f0.secret
  parts : f.sparePresent = f0.sparePresent ∧ f.mac = f0.mac ∧ f.votes = f0.votes ∧ f.vtable = f0.vtable ∧ f.fmax = f0.fmax

/-- The index record names the present epoch (R671). -/
def State.recordHeld (s : State) : Bool :=
  decide (0 < s.fuses.lmsEpochs.toNat) && decide (s.flash.lmsEpoch = some (s.fuses.lmsEpochs.toNat - 1))

/-- The lowest one-time index that may still be used: a lost record skips to the next epoch (R670, R671). -/
def State.nextIndex (s : State) : Nat := if s.recordHeld then s.flash.lmsNext else 1024 * s.fuses.lmsEpochs.toNat

/-- At most 1,024 epoch bits are burned, and a record that names the present epoch lies within it, or at the end of the last
one (R670). -/
def State.recordOk (s : State) : Prop :=
  s.fuses.lmsEpochs.toNat ≤ 1024 ∧
    (s.recordHeld = true → s.flash.lmsNext < 1024 * s.fuses.lmsEpochs.toNat ∨
      (s.fuses.lmsEpochs.toNat = 1024 ∧ s.flash.lmsNext = 1024 * 1024))

/-- A spare that stands in for a logical core serves that one and no other (R577, R579). -/
def Remap.ok (m : Remap) : Prop := ∀ l n, nget none m.map l = some n → nget .reset m.spares n = ⟨some l, false⟩

/-- What holds in every state of a run from `s0` on, up to the queue of commands. -/
structure State.Follows (s0 s : State) : Prop where
  fuses : s0.fuses.Burned s.fuses
  record : s0.recordOk → s.recordOk ∧ s0.nextIndex ≤ s.nextIndex
  memory : Memory.wf s0.mem = true → Memory.wf s.mem = true
  map : s0.remap.ok → s.remap.ok

/-- A queue takes its oldest command `e` (R447, R457, R459): the queue may issue, nothing of it has run ahead to the front, the
header passes its checks and holds nothing, and the row's own steps 5 to 7 let it go. -/
structure State.Ready (s : State) (q : Nat) (e : Entry) (isRow : Entry → Bool) (later : State → Entry → Gate) : Prop where
  may : s.mayIssue q = true
  unpassed : (s.queue q).passed.contains 0 = false
  front : s.front q = .cmd e
  row : isRow e = true
  header : s.headerCheck q e = none
  steps : (s.fetchMarks q).headerSteps q e = .go
  later : later (s.fetchMarks q) e = .go

/-- `t` is `s` with port `p` at `x`, and nothing else. -/
structure State.WithPort (s t : State) (p : Nat) (x : Port) : Prop where
  port : t.port p = x
  others : ∀ k, k ≠ p → t.port k = s.port k
  rest : t = s.setNet { s.net with ports := t.net.ports }

/-- `t` is `s` but for what the raising of an event leaves: its information where that is open, the records of the pages, the log,
the event queues of the dies, and the count of lost events (R560 to R568, R642). -/
structure State.Reports (s t : State) : Prop where
  rest : t = ((((s.setOracle t.oracle).setErr t.err).setPages t.pages).setDies t.dies).setNet t.net
  log : t.err = { s.err with log := t.err.log, logLost := t.err.logLost, worst := t.err.worst }
  queues : ∀ d, t.die d = { s.die d with events := (t.die d).events, evSeq := (t.die d).evSeq }
  lost : t.net = { s.net with eventsLost := t.net.eventsLost, eventsLostAt := t.net.eventsLostAt }

/-- The commands by which a queue's oldest command issues, and their queue. -/
def issueRow : Instr → Option Nat
  | .nop q | .wait q | .signal q | .stop q | .forecast q | .versionFence q
  | .dmaCopy q | .planeCopy q | .scaleCopy q | .railLaunch q | .tableGather q | .kvWrite q | .railTake q
  | .frameMode q | .frameRun q | .frameRunT q | .planeSwap q | .ledgerClear q | .ledgerDrain q | .ledgerLoad q
  | .quantise q | .scaleLoad q | .statsRead q | .vector q | .sampleCollect q | .sampleFinish q
  | .streamScore q | .streamValue q | .streamWgrad q | .streamGemm q | .stashSave q | .stashLoad q
  | .ctxCommit q | .ctxOpen q | .ctxClose q | .snapshot q | .restore q => some q
  | _ => none

end Sys2Proof.Machine
end

