-- ==== Sys2Proof/Certificates/Slice0/Obligations.lean ====
section
/-! DEFINITION. Obligations.lean: what the provers are asked for. Statements O1 to O6 are about every step; the rest go
through the families of the command table. -/

open Sys2Proof Sys2Proof.Machine

/-! ### Every command -/

/-- A step with a command at the front of the queue is `exec` of that command on the state with the queue's rest. -/
def Obligations.StepRunsFront : Prop :=
  ∀ (s : State) (c : Instr) (rest : List Instr), step (s.setPending (c :: rest)) = exec c (s.setPending rest)

/-- With no command waiting, a step is one period of the 100 MHz reference (log entry 1, the model's choice): device time goes
on by 10 ns, a heartbeat may advance, and nothing else changes. -/
def Obligations.IdleStepIsATick : Prop :=
  ∀ s : State, s.pending = [] → ∃ t, step s = .next t ∧ t.time = { s.time with now := s.time.now + 10 } ∧
    t = (s.setTime t.time).setDies t.dies ∧ ∀ d, t.die d = { s.die d with heartbeat := (t.die d).heartbeat }

/-- Every command is answered by a next state, never by a fault or a refusal, and leaves the queue of the commands that wait as
it was. That a row whose conditions do not hold leaves the state as it is, and stops nothing, is the model's choice (log entry
2). -/
def Obligations.EveryCommandAnswers : Prop := ∀ (c : Instr) (s : State), ∃ t, exec c s = .next t ∧ t.pending = s.pending

/-- Fuses burn one way (R666, R670, R672): whatever a step does, the lifecycle goes forward, a revoked slot stays revoked, the
minimum security version and the number of epoch bits never fall, and the fused keys, identity and parts stay. -/
def Obligations.StepsBurnFusesOneWay : Prop := ∀ s t : State, step s = .next t → s.fuses.Burned t.fuses

/-- R671: the lowest one-time signature index that may still be used never falls, and while a signature is left the report of
ATTEST_REQ (R669) moves past the index that it used, so that no index is used twice. A connection without register access gets
no report (R639). The index record of State.reset is the model's choice (log entry 4); the statement holds for every record. -/
def Obligations.OneTimeIndexOnlyRises : Prop :=
  (∀ s t : State, s.recordOk → step s = .next t → t.recordOk ∧ s.nextIndex ≤ t.nextIndex) ∧
  ∀ (s : State) (conn : Nat) (hdr : MsgHdr) (nonce : List Byte),
    s.arrives conn 0x09 (reqHeader hdr ++ bootBody 0x06 nonce) = true →
    let v := s.modConn conn Conn.applied
    (v.regConn conn = true → ∃ (u : State) (body : List Byte), exec (.attestReq conn hdr nonce) s =
        .next ((u.sendMsg conn 0x09 (msgHeader true 0 hdr.tag.toNat ++ bootBody 0x07 body)).refuseMalformed conn) ∧
      (s.lmsSpent = true → u.flash.lmsNext = s.flash.lmsNext) ∧
      (s.recordOk → s.recordHeld = true → s.lmsSpent = false → s.flash.lmsNext < u.nextIndex)) ∧
    (v.regConn conn = false → exec (.attestReq conn hdr nonce) s = .next (v.bootAnswer conn hdr 0x0811))

/-- Every step keeps the canonical form of Tier 1 and Tier 2 (addresses rise strictly, and no listed byte is 0), and the spare
map one to one: a spare that stands in for a logical core serves that one and no other (R577, R579). The canonical form is the
model's representation of memory (log entry 93). -/
def Obligations.StepsKeepForm : Prop :=
  ∀ s t : State, step s = .next t →
    (Memory.wf s.mem = true → Memory.wf t.mem = true) ∧ (s.remap.ok → t.remap.ok)

/-- What a reset leaves: the form of the memory, of the spare map and of the one-time index record that the steps keep; and, in
every core, ledgers of zeros with clear flags (R135), frames whose pending mode is linear W4 with empty codebooks (R131), scale
registers of 1.0 (R179), and in every queue an IDLE ring of size 0 with `HEAD` and `TAIL` at zero (R478). A warm reset leaves
the same cores. That unlisted bytes read 0 and that the index record is present at State.reset are the model's choices (log
entries 4 and 93). -/
def Obligations.ResetLeavesZero : Prop :=
  Memory.wf State.reset.mem = true ∧ State.reset.remap.ok ∧ State.reset.recordOk ∧
  (∀ s : State, s.cores = [] → s.devq = [] → (∀ p t row lane f k : Nat,
      (s.core p).ledger.entry t row lane = 0 ∧ nget false (s.core p).ledger.sat t = false ∧
      nget false (s.core p).ledger.poison t = false ∧ ((s.core p).frame f).pendFormat = 2 ∧ ((s.core p).frame f).pendPad = 0 ∧
      ((s.core p).frame f).pendC1 = [] ∧ ((s.core p).frame f).pendC2 = [] ∧
      nget 0x3F800000 (s.core p).quant.scale k = 0x3F800000) ∧
    ∀ q, s.queueState q = 0 ∧ (s.queue q).ringSize = 0 ∧ (s.queue q).head = 0 ∧ (s.queue q).tail = 0) ∧
  State.reset.cores = [] ∧ State.reset.devq = [] ∧
  ∀ (s t : State) (ini : Nat), s.admits ini pgMode = true → exec (.warmReset ini 0xA5) s = .next t → t.cores = [] ∧ t.devq = []

/-! ### How a queue takes its oldest command (R445 to R478) -/

/-- A queue that is stopped, fenced, quiesced or held by a snapshot, or whose device is stopped, issues nothing (R472, R571,
R582, R595, R716); and a header that fails a check of R457 stops the queue before the command, whichever row the command would
be. That a row leaves the state where its queue may not issue is the model's choice (log entry 2). -/
def Obligations.QueuesCheckFirst : Prop :=
  (∀ (c : Instr) (q : Nat) (s : State), issueRow c = some q → s.mayIssue q = false → exec c s = .next s) ∧
  (∀ (c : Instr) (q : Nat) (s : State) (e : Entry) (st : Stop), issueRow c = some q → s.mayIssue q = true →
    (s.queue q).passed.contains 0 = false → s.front q = .cmd e → s.headerCheck q e = some st →
    exec c s = .next ((s.fetchMarks q).stopWith q st))

/-- What a stop leaves (R472): the queue has stopped with the code, before the command that failed, and its count of stops has
risen by 1; the command has neither issued nor been passed. -/
def Obligations.StopsLeaveTheCommand : Prop :=
  ∀ (s : State) (q : Nat) (st : Stop), q < 528 → (s.queue q).stopped = false →
    let x := (s.stopWith q st).queue q
    x.stopped = true ∧ x.stopCode = st.code ∧ x.stopHead = (s.queue q).head ∧ x.head = (s.queue q).head ∧
      x.tail = (s.queue q).tail ∧ x.seg = (s.queue q).seg ∧ x.issued = (s.queue q).issued ∧ x.stops = satInc (s.queue q).stops

/-- The three ways past a command: at once (`issueFinish`), in progress (`issue`), and skipped (R461). HEAD or the segment
advances by one command, and the matching counter counts it. An injection that a signal meets (R584) may do more, where
injection is open. -/
def Obligations.CommandsPass : Prop :=
  ∀ (s : State) (q : Nat) (e : Entry), q < 528 →
    (s.fetchMarks q).queue q = s.queue q ∧
    (s.issue q).queue q = { (s.queue q).advance with
      issued := satInc (s.queue q).issued, nextId := (s.queue q).nextId + 1
      flight := (s.queue q).flight ++ [⟨(s.queue q).nextId, (s.queue q).head, (s.queue q).seg⟩] } ∧
    (s.remap.ok → ∀ k, k < 528 → k ≠ q → (s.issue q).queue k = s.queue k) ∧
    (s.injectOpen = false →
      (s.issueFinish q e).queue q =
        { (s.queue q).advance with issued := satInc (s.queue q).issued, nextId := (s.queue q).nextId + 1 } ∧
      (s.skip q e).queue q = { (s.queue q).advance with skipped := satInc (s.queue q).skipped } ∧
      (s.remap.ok → ∀ k, k < 528 → k ≠ q → (s.issueFinish q e).queue k = s.queue k ∧ (s.skip q e).queue k = s.queue k))

/-- R334: a signal adds its increment to the tally, clamped to 32 unsigned bits; a clamp counts and raises TALLY_SATURATED
(0x0420), noted. The increment of a header is its bytes 10 to 11 as a signed 16-bit value. An own signal is applied, with those
of other sources that the fabric brings in the same cycle, or waits for others: behind an earlier one of its queue, or where the
clamp would change it (R335; which signals share a cycle is a free choice of the model, log entry 23). An injection armed at the
page of the tally (R584) is not at issue here. -/
def Obligations.SignalsAddToTallies : Prop :=
  (∀ (s : State) (l n : Nat) (inc : Int) (src : Nat), (s.takeInjection (s.pgL l bTally)).2 = .sound →
    let x : Int := (nget 0 (s.lcore l).tally.value n).toNat + inc
    let t := s.applySignal l n inc src
    nget 0 (t.lcore l).tally.value n = (if 0xFFFFFFFF < x then 0xFFFFFFFF else if x < 0 then 0 else BitVec.ofNat 32 x.toNat) ∧
    (∀ k, k ≠ n → nget 0 (t.lcore l).tally.value k = nget 0 (s.lcore l).tally.value k) ∧
    (0 ≤ x ∧ x ≤ 0xFFFFFFFF → (t.lcore l).tally.saturations = (s.lcore l).tally.saturations ∧ t.pages = s.pages) ∧
    (x < 0 ∨ 0xFFFFFFFF < x → (t.lcore l).tally.saturations = satInc (s.lcore l).tally.saturations ∧
      ∃ (u : State) (info : Nat), t = u.raise (s.pgL l bTally) 0x0420 noted info ∧ u.pages = s.pages)) ∧
  ∀ (s : State) (q : Nat) (e : Entry), q < 512 → signalEn e = true → tallyCore (signalTallyOf e) = q / 4 →
    let tally := BitVec.ofNat 16 (signalTallyOf e)
    let n := tallyNum (signalTallyOf e)
    let inc : Int := if fld e 10 2 < 0x8000 then (fld e 10 2 : Int) else (fld e 10 2 : Int) - 0x10000
    let x : Int := (nget 0 (s.lcore (q / 4)).tally.value n).toNat + inc
    let waits := fun u : State => u.setFabric (u.fabric ++ [⟨q, tally, BitVec.ofNat 16 (fld e 10 2), opcode e⟩])
    ((∀ g ∈ s.fabric, g.tally ≠ tally) → 0 ≤ x → x ≤ 0xFFFFFFFF → s.headerSignal q e = s.applySignal (q / 4) n inc q) ∧
    ((∃ g ∈ s.fabric, g.src = q ∧ g.tally = tally) → s.headerSignal q e = waits s) ∧
    ((∀ g ∈ s.fabric, ¬(g.src = q ∧ g.tally = tally)) → ∃ (others : List Nat) (u : State), u = s.setOracle u.oracle ∧
      (∀ k ∈ others, k ≠ q ∧ ∃ g ∈ s.fabric, g.src = k ∧ g.tally = tally) ∧
      (s.headerSignal q e = (u.takeSignals others tally).2.applySignals (q / 4) n (inc + (u.takeSignals others tally).1) (q :: others) ∨
        ((x < 0 ∨ 0xFFFFFFFF < x) ∧ s.headerSignal q e = waits u)))

/-- A signal to another core's tally, or of a device queue, enters the fabric behind the earlier ones (R338); the oldest signal
of a source to a tally leaves it first, and is applied unless the core is fenced, where it is dropped (R340; one of the core's
own that waits there goes with the core). Signals of other sources to that tally may arrive in the same cycle and are added with
it, with one clamp (R335); which of them do is a free choice of the model (log entry 23). -/
def Obligations.SignalsTravelInOrder : Prop :=
  (∀ (s : State) (q tally inc op : Nat), ¬(q < 512 ∧ q / 4 = tallyCore tally) →
    (s.performSignal q tally inc op).fabric = s.fabric ++ [⟨q, BitVec.ofNat 16 tally, BitVec.ofNat 16 inc, op⟩]) ∧
  ∀ (s : State) (src : Nat) (tally : BitVec 16) (g : Signal) (a b : List Signal), s.fabric = a ++ g :: b →
    g.src = src → g.tally = tally → (∀ x ∈ a, ¬(x.src = src ∧ x.tally = tally)) →
    let l := tallyCore tally.toNat
    s.takeSignal src tally = (signed16 g.inc.toNat, s.setFabric (a ++ b)) ∧
    (s.lfenced l = true → exec (.remoteSignal src tally) s = .next (if ownSource l src then s.setFabric (a ++ b)
      else (s.setFabric (a ++ b)).dropSignal src tally g.op)) ∧
    ((∀ x ∈ s.fabric, x.tally = tally → x.src = src) → s.lfenced l = false →
      exec (.remoteSignal src tally) s =
        .next ((s.setFabric (a ++ b)).applySignal l (tallyNum tally.toNat) (signed16 g.inc.toNat) src)) ∧
    (s.lfenced l = false → ∃ (others : List Nat) (u : State), u = (s.setFabric (a ++ b)).setOracle u.oracle ∧
      (∀ x ∈ others, x ≠ src ∧ ∃ y ∈ s.fabric, y.src = x ∧ y.tally = tally) ∧
      exec (.remoteSignal src tally) s = .next ((u.takeSignals others tally).2.applySignals l (tallyNum tally.toNat)
        (signed16 g.inc.toNat + (u.takeSignals others tally).1) (src :: others)))

/-- The control commands of a queue complete (R454, R466 to R469, R323): NOP, WAIT and VERSION_FENCE issue and complete at once,
FORECAST leaves its forecast, SIGNAL acts on its tags, STOP signals and stops its queue before itself. A segment entry makes the
queue take its commands from the segment (R448), and a wake meets the wait of a device queue whose command has passed step 1
(R455, R459). STOP leaves HEAD at itself and signals before it stops its queue (log entry 52). -/
def Obligations.ControlCommandsComplete : Prop :=
  (∀ (s : State) (q : Nat) (e : Entry),
    (s.Ready q e (hasOp 0x00) (State.queueOperands noOperands q) →
      exec (.nop q) s = .next ((s.fetchMarks q).issueFinish q e)) ∧
    (s.Ready q e (hasOp 0x01) (State.queueOperands noOperands q) →
      exec (.wait q) s = .next ((s.fetchMarks q).issueFinish q e)) ∧
    (s.Ready q e (hasOp 0x09) (State.queueOperands versionFenceOk q) →
      exec (.versionFence q) s = .next ((s.fetchMarks q).issueFinish q e)) ∧
    (s.Ready q e (hasOp 0x08) (State.queueOperands forecastOk q) → exec (.forecast q) s = .next
      (((s.fetchMarks q).modQueue q fun x => { x with forecast := some (forecastOf (s.fetchMarks q).time.now e) }).issueFinish q e)) ∧
    (s.Ready q e (hasOp 0x02) (fun _ _ => .go) → signalOk q e = true →
      (tagActs e = true → tagRemote e = true → (s.fetchMarks q).lfenced (tagCore q e) = false) →
      exec (.signal q) s = .next ((if tagActs e then
        (s.fetchMarks q).setTags (tagCore q e) (upTo (tagFirst e) (tagCount e)) (tagAction e == 2) else s.fetchMarks q).issueFinish q e)) ∧
    (s.Ready q e (hasOp 0x03) (State.queueOperands (fun e => fzero e 20 44) q) → exec (.stop q) s = .next
      (((s.fetchMarks q).headerSignal q e).stopWith q ((s.fetchMarks q).seqStop q e 0x0602 noted (fld e 16 4))))) ∧
  ((∀ (s : State) (q : Nat) (e : Entry), s.mayIssue q = true → s.front q = .segment e → segmentOk q e = true →
    ∃ u : State, u = (s.fetchMarks q).modQueue q (fun x => { x with seg := some ⟨fld e 8 6, fld e 16 4, 0⟩ }) ∧
      exec (.segmentEntry q) s = .next (u.strikeSeq q) ∧ (s.injectOpen = false → u.strikeSeq q = u)) ∧
  ∀ (s : State) (q : Nat) (e : Entry), 512 ≤ q → s.mayIssue q = true → s.front q = .cmd e → s.headerCheck q e = none →
    (waitsAsBarrier e = true → (s.queue q).flight = []) → waitEn e = true → thresholdOf e ≤ (s.tallyAt (waitTallyOf e)).toNat →
    exec (.deviceQueueWake q) s = .next (s.modQueue q fun x => { x with woken := true }))

/-! ### The rows of each family by which a queue's command issues -/

/-- The DMA commands issue into the engine with their ranges, and the engine serves the queue at once (R366, R440). A launch
opens its stream at position 0 with the unfenced cores of its mask as takers (R377), and a take whose stream is open and whose
planes are free issues and starts (R386). A unit does the work of a command at once where nothing can come between (log entry
24). -/
def Obligations.DmaAndRailCommandsIssue : Prop :=
  (∀ (s : State) (q : Nat) (e : Entry),
    let u := s.fetchMarks q
    let t := ((u.issue q).enterJob (u.newJob q e) (u.dmaAccess q e)).dmaStart (u.newJob q e) .none
    (s.Ready q e (isCopy 0) (dmaGate q) → exec (.dmaCopy q) s = .next t) ∧
    (s.Ready q e (isCopy 1) (dmaGate q) → exec (.planeCopy q) s = .next t) ∧
    (s.Ready q e (isCopy 2) (dmaGate q) → exec (.scaleCopy q) s = .next t) ∧
    (s.Ready q e (fun e => opcode e == 0x11 && !isKvWrite e) (dmaGate q) → exec (.tableGather q) s = .next t) ∧
    (s.Ready q e (fun e => opcode e == 0x11 && isKvWrite e) (dmaGate q) → exec (.kvWrite q) s = .next t) ∧
    (s.Ready q e (hasOp 0x60) (dmaGate q) → exec (.stashSave q) s = .next t) ∧
    (s.Ready q e (hasOp 0x61) (dmaGate q) → exec (.stashLoad q) s = .next t)) ∧
  (∀ (s : State) (q : Nat) (e : Entry),
    let u := s.fetchMarks q
    (s.Ready q e (isCopy 3) (launchGate q) → ∃ t, exec (.railLaunch q) s = .next t ∧
      t = ((u.issue q).setRail { u.rail with launches := u.rail.launches + 1 }).modStream (railStreamOf e)
        (fun _ => t.stream (railStreamOf e)) ∧
      let x := t.stream (railStreamOf e)
      x.isOpen = true ∧ x.position = 0 ∧ x.tag.toNat = railTag e % 65536 ∧ x.scaleBlocks = copyRows e ∧ x.images = copyLen e ∧
        x.source = copySrc e ∧ x.q = q ∧ ∀ l, l ∈ x.takers ↔ l ∈ railTakers e ∧ u.lfenced l = false) ∧
    (s.Ready q e (hasOp 0x12) (takeGate q) →
      exec (.railTake q) s = .next ((u.issue q).startTake (u.newJob q e) .none)))

/-- A run without partners starts (R71), FRAME_MODE sets the pending mode of the frames that its mask names (R111), and
PLANE_SWAP leaves the swap pending in them (R60). -/
def Obligations.FrameCommandsIssue : Prop :=
  ∀ (s : State) (q : Nat) (e : Entry),
    let u := s.fetchMarks q
    let run := u.startRun (u.runStreams q e) (q, (u.queue q).nextId) q e
    (s.Ready q e (hasOp 0x21) (runRowGate q) → exec (.frameRun q) s = .next run) ∧
    (s.Ready q e (hasOp 0x22) (runRowGate q) → exec (.frameRunT q) s = .next run) ∧
    (s.Ready q e (hasOp 0x20) (fun _ _ => .go) → frameModeOk e = true → padZero e = true →
      exec (.frameMode q) s = .next ((u.modLcore (q / 4) fun c => (bitsOf (fld e 16 2) 16).foldl (fun c f =>
        c.modFrame f (Frame.setMode · e)) c).issueFinish q e)) ∧
    (s.Ready q e (hasOp 0x23) (swapGate q) → ∃ t, exec (.planeSwap q) s = .next t ∧
      (t.lcore (q / 4)).swaps = (u.lcore (q / 4)).swaps ++ [⟨u.newJob q e, bitsOf (swapMask e) 16⟩] ∧
      ∀ f, ((t.lcore (q / 4)).frame f).swapPending = (((u.lcore (q / 4)).frame f).swapPending || (bitsOf (swapMask e) 16).contains f))

/-- The ledger commands issue and queue at the port of their core (R160). -/
def Obligations.LedgerCommandsIssue : Prop :=
  ∀ (s : State) (q : Nat) (e : Entry),
    let t := s.countWindow ((s.fetchMarks q).ledgerIssue q e) q
    (s.Ready q e (hasOp 0x28) (ledgerGate q) → exec (.ledgerClear q) s = .next t) ∧
    (s.Ready q e (hasOp 0x29) (ledgerGate q) → exec (.ledgerDrain q) s = .next t) ∧
    (s.Ready q e (hasOp 0x2A) (ledgerGate q) → exec (.ledgerLoad q) s = .next t)

/-- QUANTISE enters its verdict slot and the unit (R191, R192); SCALE_LOAD loads the values that it reads (R220, R221) and
STATS_READ writes what it copies (R222), and both keep the unit until they complete. SCALE_LOAD checks its values after it has
issued (log entry 46), and fields of a pending slot are free (log entry 42). -/
def Obligations.QuantCommandsIssue : Prop :=
  ∀ (s : State) (q : Nat) (e : Entry),
    let u := s.fetchMarks q
    let j := u.newJob q e
    (s.Ready q e (hasOp 0x30) (quantiseGate q) → exec (.quantise q) s = .next
      ((((u.issue q).enterJob j (quantiseAccess e)).modQuant (q / 4) fun x =>
        let x := x.modSlot (verdictSlot e) (Slot.enter · j)
        let x := if qFirst e && qDynamic e then { x with vmin := [], vmax := [] } else x
        { x with unit := x.unit ++ [⟨j, .quantise, 1⟩] }).quantServe j)) ∧
    (s.Ready q e (hasOp 0x31) (loadGate q) →
      let r := ((u.issue q).enterJob j (tableAccess true e)).read (quantWho q) (scratchAddr (q / 4) (tOffset e)) (tBytes true e)
      r.1.code = 0 → loadBadIndex e r.1.blk = none →
      exec (.scaleLoad q) s = .next (((r.2.releaseReads j).modQuant (q / 4) fun x =>
        { x.load e r.1.blk with unit := x.unit ++ [⟨j, .scaleLoad, 1⟩] }).strike (q / 4) bQuant)) ∧
    (s.Ready q e (hasOp 0x32) (readGate q) →
      let o := ((u.issue q).enterJob j (tableAccess false e)).open_
      let w := o.2.writeBytes (quantWho q) (scratchAddr (q / 4) (tOffset e))
        ((((u.issue q).enterJob j (tableAccess false e)).lcore (q / 4)).quant.readOut e o.1)
      w.2 = 0 → exec (.statsRead q) s = .next ((w.1.releaseJob j).modQuant (q / 4) fun x => { x with unit := x.unit ++ [⟨j, .statsRead, 1⟩] }))

/-- VECTOR computes and writes its groups (R278 to R291) and stays in the unit until it completes; SAMPLE collects, or waits in
the unit for the other finishes of its mask (R294, R295). Results whose bits the spec leaves open are free functions (log
entries 11 and 20). -/
def Obligations.VectorCommandsIssue : Prop :=
  ∀ (s : State) (q : Nat) (e : Entry),
    let u := s.fetchMarks q
    let j := u.newJob q e
    (s.Ready q e (hasOp 0x40) (vectorGate q) →
      let as_ := u.vectorAccess q e
      let x := ((u.issue q).enterJob j as_).vectorAux j
      let a := x.1.vectorRun j x.2.1
      x.2.2 = 0 → (vOp e = opAdamw → mvOk e x.2.1.mOff = true ∧ mvOk e x.2.1.vOff = true) → a.fenced = false → a.code = 0 →
      exec (.vector q) s = .next ((a.s.releaseJob j).modVec (q / 4) fun v =>
        { v with unit := v.unit ++ [⟨j, .vector, false, (writeSlots as_).eraseDups⟩] })) ∧
    (s.Ready q e isCollect (collectGate q) →
      let v := (u.issue q).enterJob j (collectAccess e)
      let v := if sClear e then v.modVec (q / 4) fun x => x.clear (sRows e) (sK e) else v
      let r := ((upTo 0 (sBlocks e)).flatMap fun i => (upTo 0 (sRows e)).map fun r => (i, r)).foldl
        (fun (a : State × BitVec 16) x => if a.2 ≠ 0 then a else a.1.collectRow q e x.1 x.2) (v, 0)
      r.2 = 0 → exec (.sampleCollect q) s = .next (((r.1.releaseJob j).modVec (q / 4) fun v =>
        { v with unit := v.unit ++ [⟨j, .collect, false, []⟩] }).strike (q / 4) bVector)) ∧
    (s.Ready q e isFinish (finishGate q) →
      let as_ := finishAccess (rankOf (sampleMask e) (q / 4 % 4)) e
      let v := (u.issue q).enterJob j as_
      v.maskFenced (q / 4) (sampleMask e) = false →
      exec (.sampleFinish q) s = .next (v.modVec (q / 4) fun v =>
        { v with unit := v.unit ++ [⟨j, .finish, true, (writeSlots as_).eraseDups⟩] }))

/-- The stream engine accepts a command behind those that it holds, with the KV geometry entry that the command names, read at
acceptance (R264, R265, R275), and its oldest command goes as far as it can. How far a command goes before its completion row is
log entry 24. -/
def Obligations.StreamCommandsIssue : Prop :=
  ∀ (s : State) (q : Nat) (e : Entry),
    let u := s.fetchMarks q
    let cl := clusterOf (q / 4)
    let t := fun g : KvGeo => (((u.issue q).enterJob (u.newJob q e) (u.streamAccess q e)).modCluster cl fun c =>
      { c with held := c.held ++ [.accept (u.newJob q e) (q / 4) g.layerStride g.headStride] }).streamAdvance cl 4
    let geo := (u.cluster cl).geo
    (s.Ready q e (hasOp 0x50) (streamGate q) → exec (.streamScore q) s = .next (t (nget .reset geo (aGeo e)))) ∧
    (s.Ready q e (hasOp 0x51) (streamGate q) → exec (.streamValue q) s = .next (t (nget .reset geo (aGeo e)))) ∧
    (s.Ready q e (hasOp 0x52) (streamGate q) → exec (.streamWgrad q) s = .next (t (nget .reset geo 0))) ∧
    (s.Ready q e (hasOp 0x53) (streamGate q) → exec (.streamGemm q) s = .next (t (nget .reset geo 0)))

/-- CTX_OPEN leaves an OPEN descriptor of the next generation (R420 to R423), CTX_COMMIT commits its list in order from its
first entry on, as far as no other unit holds a context (R424, R425), and CTX_CLOSE makes the context CLOSING and takes a
zeroing slot (R429). -/
def Obligations.ContextCommandsIssue : Prop :=
  ∀ (s : State) (q : Nat) (e : Entry),
    let u := s.fetchMarks q
    let j := u.newJob q e
    (s.Ready q e (hasOp 0x7A) (openGate q) →
      exec (.ctxOpen q) s = .next ((u.ctxWrite (oCtx e) fun c => openCtx e c.generation).issueFinish q e)) ∧
    (s.Ready q e (hasOp 0x70) (commitGate q) →
      exec (.ctxCommit q) s = .next ((((u.issue q).enterJob j (commitAccess e)).modLcore (q / 4) fun c =>
        { c with commits := c.commits ++ [⟨j, 0⟩] }).commitAdvance ⟨j, 0⟩)) ∧
    (s.Ready q e (hasOp 0x7B) (closeGate q) → ∃ t, exec (.ctxClose q) s = .next t ∧
      t = ((u.issue q).ctxWrite (clCtx e) fun c => { c with st := .closing }).setCloses t.closes ∧
      t.closes = u.closes ++ [⟨clCtx e, (u.ctx (clCtx e)).stack, j, if clRecord e = noRecord then none else some (clRecord e), true, false⟩])

/-- SNAPSHOT reads its list, starts the quiesce and ends the drains in progress (R592 to R595); RESTORE starts the copy back
once the image in staging and the rewinds have passed their checks (R608 to R611). RESTORE makes its checks before issue with
the flash image already in staging (log entry 85). -/
def Obligations.SnapshotCommandsIssue : Prop :=
  ∀ (s : State) (q : Nat) (e : Entry),
    let u := s.fetchMarks q
    (s.Ready q e (hasOp 0x78) (fun s e => snapshotGate s e) → ∃ t, exec (.snapshot q) s = .next t ∧
      t = ((u.abandonPartner.noteRead (deviceWho q) (snList e) (16 * snCount e)).issue q).setSnap t.snap ∧
      t.snap.phase = .quiescing ∧ t.snap.job = u.abandonPartner.newJob q e ∧ t.snap.start = u.time.now.toNat ∧ t.snap.flashDraining = false ∧
      t.snap.partnerDraining = false ∧ t.snap.headerMsg = none) ∧
    (s.Ready q e (hasOp 0x79) (restoreGate q) →
      let l := if rsFlash e then u.loadSlot q else (u, true)
      let v := l.1.noteRead (deviceWho q) (rsList e) (8 * rsCount e)
      l.2 = true → v.stagedOk e = true → (v.rewinds e).any (fun r => !rewindOk v.stagedCtxs r) = false →
      ∃ t, exec (.restore q) s = .next t ∧ t = (v.issue q).setSnap t.snap ∧ t.snap.phase = .restoring ∧
        t.snap.job = v.newJob q e ∧ t.snap.start = v.time.now.toNat)

/-! ### Units at work, and completions -/

/-- Commands of the units complete when their row comes: the unit's oldest command leaves it, its written slots fill, its ranges
go and its signal fires (R322, R329, R454). A DMA command completes once the engine has done all of it, and a run-ahead one only
when confirmed (R394); the oldest CTX_COMMIT of a queue completes once all of its entries are committed (R427). The completion
is a row of its own (log entry 24). -/
def Obligations.CompletionsSignal : Prop :=
  (∀ (s : State) (core : Nat), core < 128 →
    (∀ x rest, (s.lcore core).vec.unit = x :: rest → x.kind = .vector → exec (.vectorCommandComplete core) s = .next
      ((s.modVec core fun v => { v with unit := rest, commands := satInc v.commands }).finishJob x.job x.fills)) ∧
    (∀ x rest, (s.lcore core).vec.unit = x :: rest → x.kind = .collect → exec (.sampleCollectComplete core) s = .next
      ((s.modVec core fun v => { v with unit := rest, commands := satInc v.commands }).finishJob x.job x.fills)) ∧
    (∀ x, (s.lcore core).quant.served = some x → x.kind = .scaleLoad → exec (.scaleLoadComplete core) s = .next
      ((s.modQuant core fun u => { u with unit := u.unit.erase x }).finishJob x.job (writeSlots (tableAccess true x.job.cmd)))) ∧
    (∀ x, (s.lcore core).quant.served = some x → x.kind = .statsRead → exec (.statsReadComplete core) s = .next
      ((s.modQuant core fun u => { u with unit := u.unit.erase x }).finishJob x.job (writeSlots (tableAccess false x.job.cmd)))) ∧
    (∀ x rest, (s.lcore core).quant.unit = x :: rest → x.kind = .quantise → qLast x.job.cmd = false →
      exec (.quantiseCommandComplete core) s = .next (let u := s.modQuant core fun u => { u with unit := rest }
        (((if qDynamic x.job.cmd then u else u.fillSlots core (slotsIn (statRanges x.job.cmd))).releasePart x.job).finish x.job))) ∧
    (∀ p rest, ((s.portAdvance core).lcore core).ledger.port = p :: rest → p.done = true →
      exec (.ledgerCommandComplete core) s = .next ((((s.portAdvance core).modLedger core fun L => { L with port := rest }).finishJob
        p.job (writeSlots (ledAccess p.job.cmd))).portAdvance core))) ∧
  (∀ (s : State) (q : Nat), q < 512 →
    (∀ d, ((s.dmaAdvance q).lcore (q / 4)).dma.find? (fun d => d.job.q == q) = some d → d.done = true → d.ra ≠ .unconfirmed →
      ((s.dmaAdvance q).lcore (q / 4)).planeDue d.job.cmd = false →
      exec (.dmaComplete q) s = .next ((((s.dmaAdvance q).modLcore (q / 4) fun c =>
        { c with dma := c.dma.filter fun x => x.job.q != q }).fillPairs d.wrote).finishJob d.job [])) ∧
    (∀ c d, s.oldestCommit q = some c → (s.commitAdvance c).oldestCommit q = some d → d.job = c.job → cCount d.job.cmd ≤ d.pos →
      exec (.ctxCommitComplete q) s = .next (((s.commitAdvance c).modLcore (q / 4) fun x =>
        { x with commits := x.commits.filter fun y => !y.isOf d.job }).finishJob d.job [])))

/-- The rail (R375 to R388): a take that waited at its queue's front issues, captures its planes and starts once its stream is
open and its planes are free; each block of an open stream that no taker holds goes to every taker and moves the position by
one; a take with all of its blocks completes, with a poisoned scale it stops its queue with 0x0455, and with LAST its core
leaves the stream; a stream that has sent all of its blocks closes and signals. When a take starts is log entry 96. -/
def Obligations.RailWorks : Prop :=
  (∀ (s : State) (q : Nat) (e : Entry), (s.queue q).heldStep = 7 → s.Ready q e (hasOp 0x12) (takeGate q) →
    ∃ t, exec (.takeStart q (s.takesOf q).length) s = .next t ∧ (let u := s.fetchMarks q
      t = ((u.issue q).startTake (u.newJob q e) .none)) ∧
      ∃ k : Take, (t.lcore (q / 4)).takes.getLast? = some k ∧ k.job = (s.fetchMarks q).newJob q e ∧ k.planesLeft = takeFrames e ∧
        k.scalesLeft = (takeScales e).map Prod.fst ∧ ∀ f ∈ takeFrames e, ((t.lcore (q / 4)).frame f).idle.st = .loading) ∧
  (∀ (s : State) (stream : Nat), stream < 8 → (s.stream stream).isOpen = true →
    (s.stream stream).position < (s.stream stream).length → (s.railHolder stream).isNone = true →
    let x := s.stream stream
    let r := s.peek (x.source + 256 * x.position) 256
    ∃ (u : State) (inj : WordCond), u.rail = s.rail ∧ u.mem = s.mem ∧ (s.injectOpen = false → inj = .sound) ∧
      exec (.railBlockSend stream) s = .next ((x.takers.foldl (fun t l => t.takeBlock stream l x.position r.blk
        (decide (r.code ≠ 0 ∨ inj = .uncorrectable)) (b2n (inj == .correctable))) u).modStream stream fun y =>
          { y with position := x.position + 1 })) ∧
  (∀ (s : State) (q i : Nat) (t : Take), s.takeAt q i = some t → t.planesLeft = [] → t.scalesLeft = [] →
    t.ra ≠ .unconfirmed → t.ra ≠ .cancelled →
    let n := takeStream t.job.cmd
    let u := s.modLcore (q / 4) fun c => c.dropTake t.job
    let v := if t.scalePoison then u.endJob t.job (railStop q n 0x0455) else u.finishJob t.job []
    exec (.railTakeComplete q i) s = .next (if takeLast t.job.cmd ∧ (v.stream n).isOpen ∧ (v.stream n).gen = t.gen then
      (v.leaveStream (q / 4) n false).sweepSwaps (q / 4) 4 else v)) ∧
  (∀ (s : State) (stream : Nat), stream < 8 → (s.stream stream).isOpen = true →
    (s.stream stream).position = (s.stream stream).length →
    (s.closeStream stream).stream stream = .reset ∧
    exec (.railStreamClose stream) s = .next (if (s.stream stream).signals then (s.closeStream stream).finish
      ⟨(s.stream stream).id, (s.stream stream).q, (s.stream stream).cmd⟩ else s.closeStream stream))

/-- RUN_AHEAD_START takes the command `i` entries ahead of the oldest one, inside the look-ahead of R450, into the engine or
among the takes, unconfirmed (R389 to R391); RUN_AHEAD_CONFIRM issues it when it has become the oldest (R392), inside the
segment that it begins where it is a segment's first. -/
def Obligations.RunAheadWorks : Prop :=
  (∀ (s : State) (q i : Nat) (e : Entry), q < 512 → i < lookAhead → s.mayIssue q = true → (s.queue q).passed.contains i = false →
    (s.ahead q (s.queue q) (i + 1))[i]? = some e → s.mayRunAhead q e = true → s.headerCheck q e = none → barrier e = false →
    waitEn e = false → (((s.ahead q (s.queue q) (i + 1)).take i).zipIdx.all fun d =>
      s.mayPass q e d.1 ((s.queue q).passed.contains d.2)) = true →
    ((s.lcore (q / 4)).unconfirmed q).length < 2 → s.aheadReady q e = true →
    let u := (s.modQueue q fun y => { y with nextId := y.nextId + 1, passed := y.passed ++ [i] }).modLcore (q / 4) fun c =>
      { c with scr := { c.scr with raStarted := satInc c.scr.raStarted } }
    exec (.runAheadStart q i) s = .next (if opcode e = 0x12 then u.startTake (s.newJob q e) .unconfirmed
      else (u.enterJob (s.newJob q e) (u.dmaAccess q e)).dmaStart (s.newJob q e) .unconfirmed)) ∧
  (∀ (s : State) (q : Nat) (j : Job), q < 512 → s.mayIssue q = true → s.aheadFront q = some j →
    let u := (s.enterFront q).fetchMarks q
    u.verdictSteps q j.cmd = .go →
    exec (.runAheadConfirm q) s = .next ((u.modQueue q fun x => x.issueAs j.id).modLcore (q / 4) fun c => c.setAhead j .confirmed))

/-- Frames at work: a joined run starts in all of its members together (R70), a promotion group of a run is written, with the
groups of other gangs, of this run or another, that come in the same step (R79, R82), a frame exchanges its planes once the idle
one is LOADED and no earlier run uses it (R60), and a plane whose rows are all in is LOADED (R58), which stops a PLANE_SWAP that
waits for it where it can no longer swap (R61), and nothing where none waits. JOINED_RUN_START starts the members together (log
entry 55), promotions of one gang come in order (log entry 56), and which groups land together is log entry 97. -/
def Obligations.FramesWork : Prop :=
  (∀ (s : State) (cluster mask tag : Nat) (ms : List (Nat × Entry)), cluster < 32 →
    (members cluster mask).map (s.joinOf tag) = ms.map some → ms.any (fun x => runMask x.2 == mask) = true →
    s.joinAgrees ms = true →
    exec (.joinedRunStart cluster mask tag) s = .next (ms.foldl (fun t x =>
      (t.fetchMarks x.1).startRun (ms.flatMap fun x => s.runStreams x.1 x.2)
        ((ms.map fun x => (x.1, (s.queue x.1).nextId)).headD (0, 0)) x.1 x.2) s)) ∧
  (∀ (s : State) (core gang : Nat) (r : Run), core < 128 → gang < 4 → (s.lcore core).fence = .inService →
    (s.lcore core).gangRun gang = some r → s.gangReady core r gang = true →
    exec (.promotion core gang) s = .next ((s.together core gang).2.promote core (s.together core gang).1)) ∧
  (∀ (s : State) (core frame : Nat), core < 128 → frame < 16 → (s.lcore core).fence = .inService →
    ((s.lcore core).frame frame).swapPending = true → ((s.lcore core).frame frame).idle.st = .loaded →
    (s.lcore core).runs.any (fun r => r.usesFrame frame) = false →
    ∃ t, exec (.planeExchange core frame) s = .next t ∧
      (t.lcore core).frame frame = { (s.lcore core).frame frame with
        active1 := !((s.lcore core).frame frame).active1, swapPending := false } ∧
      ∀ f, f ≠ frame → (t.lcore core).frame f = (s.lcore core).frame f) ∧
  (∀ (s : State) (core frame : Nat), core < 128 → frame < 16 → ((s.lcore core).frame frame).idle.st = .loading →
    ((s.lcore core).frame frame).idle.rowsIn = 256 →
    ∃ t : State, exec (.planeLoadComplete core frame) s = .next (t.sweepSwaps core 4) ∧
      ((t.lcore core).frame frame).idle = { ((s.lcore core).frame frame).idle with
        st := if ((s.lcore core).frame frame).idle.bad then .poisoned else .loaded } ∧
      ((t.lcore core).frame frame).active = ((s.lcore core).frame frame).active ∧
      (∀ f, f ≠ frame → (t.lcore core).frame f = (s.lcore core).frame f) ∧ (∀ q, t.queue q = s.queue q) ∧
      ((∀ q, q / 4 = core → (s.queue q).heldStep ≠ 7) → t.sweepSwaps core 4 = t))

/-- The joint work of a mask: the members of a quantise pass exchange their statistics and each judges the same joint statistics
(R193, R201), a pass whose codes are final settles (R207), the finishes of a SAMPLE sample their rows together (R295, R296), and
the stream engine's oldest command, once it has computed and written all of its rows, counts, fills the slots it wrote and
signals (R264, R265). -/
def Obligations.JointWorkCompletes : Prop :=
  (∀ (s : State) (cluster mask : Nat) (lead : Job) (js : List Job), cluster < 32 →
    (members cluster mask).map s.waitingLast = (lead :: js).map some →
    (lead :: js).any (fun j => quantMask j.cmd == mask) = true →
    (lead :: js).all (fun j => verdictId j.cmd == verdictId lead.cmd) = true →
    (lead :: js).all (fun j => lastKey j.cmd == lastKey lead.cmd) = true → qDynamic lead.cmd = false →
    exec (.quantExchange cluster mask) s = .next ((lead :: js).foldl (fun t j => t.judge (j.q == lead.q)
      (joinAll ((lead :: js).map fun j => (s.slot (j.q / 4) (verdictSlot j.cmd)).stats)) j) s)) ∧
  (∀ (s : State) (core : Nat) (x : QuantJob), core < 128 →
    (s.lcore core).quant.unit.find? (fun x => decide (x.kind = .quantise) && x.phase == 2) = some x →
    (s.slot core (verdictSlot x.job.cmd)).dynamic = false → exec (.quantSettle core) s = .next (s.settle core x.job)) ∧
  (∀ (s : State) (cluster mask : Nat) (lead : Job) (js : List Job), cluster < 32 →
    (members cluster mask).map s.waitingFinish = (lead :: js).map some →
    (lead :: js).any (fun j => sampleMask j.cmd == mask) = true →
    (lead :: js).all (fun j => finishKey j.cmd == finishKey lead.cmd) = true →
    exec (.sampleFinishJoin cluster mask) s = .next ((lead :: js).foldl (fun t j =>
      t.sampleMember ((lead :: js).map fun j => j.q / 4) j) s)) ∧
  (∀ (s : State) (cluster : Nat) (g : StreamJob) (rest : List StreamJob), cluster < 32 →
    let u := s.streamAdvance cluster 4
    (u.cluster cluster).held = g :: rest → g.done = true →
    exec (.streamCommandComplete cluster) s = .next (((((u.dropHeld cluster).modCluster cluster fun c =>
      { c with commands := satInc c.commands }).fillPairs g.wrote).finishJob g.job []).streamAdvance cluster 4))

/-- A timeout of a command that waits at its issue stops its queue before the command, with the code of the rule: VERSION_FENCE
(R470), a join (R73), a slot tag or the scoreboard (R332). Durations are not measured: a timeout row is taken as having met its
time (log entry 22). -/
def Obligations.IssueTimeoutsStop : Prop :=
  ∀ (s : State) (q : Nat) (e : Entry), q < 512 → s.timed q = true → s.front q = .cmd e →
    (opcode e = 0x09 → fld e 20 4 ≠ 0 → s.headerCheck q e = none → s.headerSteps q e = .hold 2 → waitEn e = false →
      ∃ t, exec (.versionFenceTimeout q) s = .next t ∧ (t.queue q).stopped = true ∧ (t.queue q).stopCode = 0x0601 ∧
        (t.queue q).head = (s.queue q).head ∧ (t.queue q).issued = (s.queue q).issued) ∧
    ((s.cluster (clusterOf (q / 4))).joinTimeout ≠ 0 → (s.queue q).heldStep = 7 → opcode e = 0x21 ∨ opcode e = 0x22 →
      runAlone q e = false → runGate q s e = .go →
      ∃ t, exec (.sliceJoinTimeout q) s = .next t ∧ (t.queue q).stopped = true ∧ (t.queue q).stopCode = 0x0125 ∧
        (t.queue q).head = (s.queue q).head ∧ (t.queue q).issued = (s.queue q).issued ∧
        (t.cluster (clusterOf (q / 4))).joinTimeouts = satInc (s.cluster (clusterOf (q / 4))).joinTimeouts) ∧
    (s.guardTimed q = true → s.guardHeld q = some e →
      ((s.lcore (q / 4)).scr.discipline = false → ∃ t, exec (.slotTagTimeout q) s = .next t ∧ (t.queue q).stopped = true ∧
        (t.queue q).stopCode = 0x0430 ∧ (t.queue q).head = (s.queue q).head ∧ (t.queue q).issued = (s.queue q).issued) ∧
      ((s.lcore (q / 4)).scr.discipline = true → ∃ t, exec (.scoreboardTimeout q) s = .next t ∧ (t.queue q).stopped = true ∧
        (t.queue q).stopCode = 0x0431 ∧ (t.queue q).head = (s.queue q).head ∧ (t.queue q).issued = (s.queue q).issued))

/-- A timeout of a command that has issued ends it and stops its queue: the exchange of a quantise pass (R195), the join of a
SAMPLE finish (R295), the quiesce of a SNAPSHOT (R596), and a rail stream whose source stalls is aborted (R382). Durations are
not measured: a timeout row is taken as having met its time (log entry 22). -/
def Obligations.WorkTimeoutsStop : Prop :=
  (∀ (s : State) (core : Nat) (j : Job), core < 128 → s.waitingLast core = some j → s.timed j.q = true →
    (s.lcore core).quant.exchangeTimeout ≠ 0 → exec (.quantExchangeTimeout core) s =
      .next ((s.modQuant core fun u => { u with exchangeTimeouts := satInc u.exchangeTimeouts }).quantLeave j 0x0212)) ∧
  (∀ (s : State) (core : Nat) (j : Job), core < 128 → s.waitingFinish core = some j → s.timed j.q = true →
    (s.lcore core).vec.joinTimeout ≠ 0 → exec (.sampleJoinTimeout core) s = .next (s.finishLeave j 0x0315)) ∧
  (∀ s : State, s.snap.phase = .quiescing → exec .snapQuiesceTimeout s =
    .next ((s.modSnap fun x => { x with phase := .idle }).endJob s.snap.job (snapStop 0x0904 s.nextSequence))) ∧
  (∀ (s : State) (stream : Nat), stream < 8 → s.rail.stallTimeout ≠ 0 → s.snap.phase = .idle → (s.railHolder stream).isSome = true →
    ∃ t, exec (.railStallTimeout stream) s = .next t ∧ t.rail.stallTimeouts = satInc s.rail.stallTimeouts ∧
      (t.stream stream).isOpen = false)

/-- A close goes on (R429, R430): with nothing that still reads through the context (R256), its descriptor readable and no
record to write, the zeroing of its KV area starts; when the area is zero, the context is CLOSED, its slot is free and the close
signals. -/
def Obligations.ClosesComplete : Prop :=
  (∀ (s : State) (ctx : Nat) (c : Close), s.closes.find? (fun c => c.ctx == ctx && !c.zeroing) = some c → c.record = none →
    s.ctxHeld ctx = false → (s.ctxRead ctx).2 = true → ∃ t, exec (.closeHoldersReleased ctx) s = .next t ∧
      t = (s.ctxRead ctx).1.setCloses ((s.ctxRead ctx).1.closes.map fun x =>
        if x.ctx = ctx then { x with zeroing := true } else x)) ∧
  ∀ (s : State) (ctx : Nat) (c : Close), s.closes.find? (fun c => c.ctx == ctx && c.zeroing) = some c → c.signals = true →
    ∃ t : State, exec (.kvAreaZeroed ctx) s = .next (t.finish c.job) ∧ (t.ctx ctx).st = .closed ∧
      t.closes = s.closes.filter (fun x => x.ctx != ctx) ∧
      ∀ a, (s.ctx ctx).kvBase.toNat ≤ a → a < (s.ctx ctx).kvBase.toNat + (s.ctx ctx).area → byteAt t.mem a = 0

/-- The snapshot goes on: the quiesce ends and the copy starts (R595, R598), the copy is complete and every queue resumes
(R598), a drain completes or fails (R602 to R604), and the copy back is complete (R611, R612). The flash drain takes the slot
that does not hold the newest complete image and invalidates it first (log entry 84). The copy reads the context table: a word
there that cannot be read stops the device, and the copy does not complete (R601, R727). -/
def Obligations.SnapshotsComplete : Prop :=
  (∀ s : State, s.snap.phase = .quiescing → s.quiesced = true → ∃ t, exec .quiesceEnd s = .next t ∧ t = s.setSnap t.snap ∧
    t.snap.phase = .copying ∧ t.snap.endTime = s.time.now ∧ t.snap.stagingValid = false ∧ t.snap.job = s.snap.job) ∧
  (∀ s : State, s.snap.phase = .copying → s.copyCtxs.2 = true → ∃ u : State, exec .snapshotCopyComplete s = .next
      ((u.startDrains s.snap.job.cmd).finish s.snap.job) ∧ u.snap.phase = .idle ∧ u.snap.stagingValid = true ∧
      u.snap.sequence = s.nextSequence ∧ u.snap.snapshots = satInc s.snap.snapshots) ∧
  (∀ s : State, s.snap.phase = .copying → s.copyCtxs.2 = false → exec .snapshotCopyComplete s = .next s.copyCtxs.1) ∧
  (∀ s : State, s.snap.flashDraining = true → s.halted = false → ∃ u : State, exec .flashDrainComplete s = .next u.drained ∧
    u.snap.flashDraining = false ∧ (if s.flash.drainSlot1 then u.flash.slot1 else u.flash.slot0).sequence = s.snap.sequence ∧
    (if s.flash.drainSlot1 then u.flash.slot0 = s.flash.slot0 else u.flash.slot1 = s.flash.slot1)) ∧
  (∀ (s : State) (partner : Bool), (if partner then s.snap.partnerDraining else s.snap.flashDraining) = true →
    ∃ t, exec (.snapDrainFailed partner) s = .next t ∧ t.snap.drainFailed = true ∧
      (if partner then t.snap.partnerDraining else t.snap.flashDraining) = false) ∧
  (∀ s : State, s.snap.phase = .restoring → ∃ u : State, exec .restoreComplete s = .next (u.finish s.snap.job) ∧
    u.snap.phase = .idle ∧ u.snap.restores = satInc s.snap.restores)

/-! ### Messages (R447, R629, R640, R641) -/

/-- A request that arrives while the image runs, and that nothing holds back, is applied once and answered with what it gave
(R636, R639); a DATA_READ of the tiers also while the device is stopped (R546). Which requests wait, and the bodies of
responses, are readings of the model (log entries 63 to 66). -/
def Obligations.RequestsAreAnswered : Prop :=
  ∀ (s : State) (n : Nat) (hdr : MsgHdr), s.side.on = true → s.boot.phase = .running →
    let u := s.modConn n Conn.applied
    let answered := fun (type : Byte) (always : Bool) (r : State × Answer) => (r.1.respond n type hdr always r.2).refuseMalformed n
    (∀ q es, s.power.stop = .none → s.holdsWrites = false → s.arrives n 0x01 (reqHeader hdr ++ commandBody q es) = true →
      (u.applyCommand n q es).1.boot.phase = .running →
      exec (.command n hdr q es) s = .next (answered 0x01 false (u.applyCommand n q es))) ∧
    (∀ a d, s.power.stop = .none → s.holdsWrites = false → s.arrives n 0x02 (reqHeader hdr ++ dataBody a d.length d) = true →
      (u.applyWrite n (a % 2 ^ 48) d).1.boot.phase = .running →
      exec (.dataWrite n hdr a d) s = .next (answered 0x02 false (u.applyWrite n (a % 2 ^ 48) d))) ∧
    (∀ a len, s.arrives n 0x03 (reqHeader hdr ++ dataBody a (len % 2 ^ 32) []) = true →
      (u.readWhileStopped n (a % 2 ^ 48) (len % 2 ^ 32)).1.boot.phase = .running →
      exec (.dataRead n hdr a len) s = .next (answered 0x03 true (u.readWhileStopped n (a % 2 ^ 48) (len % 2 ^ 32)))) ∧
    (∀ ops, s.snap.phase = .idle → s.arrives n 0x06 (reqHeader hdr ++ regBody ops) = true →
      (u.applyRegAccess n ops).1.boot.phase = .running →
      exec (.regAccess n hdr ops) s = .next (answered 0x06 true (u.applyRegAccess n ops))) ∧
    (∀ ps, s.power.stop = .none → s.holdsWrites = false → s.arrives n 0x07 (reqHeader hdr ++ tallyBody ps) = true →
      (u.applyTallies ps).1.boot.phase = .running →
      exec (.tallyRemote n hdr ps) s = .next (answered 0x07 false (u.applyTallies ps))) ∧
    (∀ off h d, s.power.stop = .none →
      s.arrives n 0x08 (reqHeader hdr ++ chunkBody off h d) = true → (u.applyChunk n off h d).1.boot.phase = .running →
      exec (.snapshotChunk n hdr off h d) s = .next (answered 0x08 false (u.applyChunk n off h d)))

/-- A COMMAND that its queue's ring can take appends its entries at `TAIL`, in the ring's own memory: byte `j` of entry `i` at
the address of ring entry `TAIL + i` (R446, R447), with every other byte of memory as it was; and changes no other queue. One
that the ring cannot take is refused with COMMAND_REFUSED (0x0609), and neither `HEAD` nor `TAIL` moves (R447). Injection is not
open (R584), and no word of the ring's memory has been lost (R401). -/
def Obligations.CommandsFillTheRing : Prop :=
  ∀ (s : State) (n q : Nat) (es : List Entry), q < 528 → es ≠ [] → es.length ≤ 141 → s.injectOpen = false →
    let x := s.queue q
    let t := (s.applyCommand n q es).1
    let at_ := fun i => x.ringAddr (x.tail.toNat + i)
    let bytes := fun i => leBytes 64 (es.getD i 0).toNat
    (s.ringTakes q es.length = true → (s.applyCommand n q es).2.status = 0 ∧
      (t.queue q).tail = x.tail + BitVec.ofNat 32 es.length ∧ (t.queue q).head = x.head ∧
      (s.remap.ok → ∀ k, k < 528 → k ≠ q → t.queue k = s.queue k) ∧
      ((∀ i, i < es.length → (wholePlace (at_ i) 64).any Place.isTier = true) →
        (∀ k, lostWord (nget .sound s.memCond k) = false) →
        (∀ i j, i < es.length → j < 64 → byteAt t.mem (at_ i + j) = (bytes i).getD j 0) ∧
        (∀ a, (∀ i, i < es.length → a < at_ i ∨ at_ i + 64 ≤ a) → byteAt t.mem a = byteAt s.mem a) ∧
        ∀ p, (t.core p).scr.mem = (s.core p).scr.mem) ∧
      (∀ off : Nat → Nat, (∀ i, i < es.length → wholePlace (at_ i) 64 = some (.scratch (q / 4) (off i))) →
        (∀ k, lostWord (nget .sound (s.lcore (q / 4)).scr.cond k) = false) →
        (∀ i j, i < es.length → j < 64 → byteAt (t.lcore (q / 4)).scr.mem (off i + j) = (bytes i).getD j 0) ∧
        (∀ a, (∀ i, i < es.length → a < off i ∨ off i + 64 ≤ a) →
          byteAt (t.lcore (q / 4)).scr.mem a = byteAt (s.lcore (q / 4)).scr.mem a) ∧
        t.mem = s.mem ∧ ∀ p, p ≠ s.physOf (q / 4) → (t.core p).scr.mem = (s.core p).scr.mem)) ∧
    (s.ringTakes q es.length = false → (s.applyCommand n q es).2.status = 0x0609 ∧
      (t.queue q) = { x with refused := satInc x.refused } ∧ t.mem = s.mem ∧ ∀ p, (t.core p).scr.mem = (s.core p).scr.mem)

/-- A DATA_READ changes no byte of Tier 1 and Tier 2, no tag and no queue, whatever it reads (R639, R640), where injection is
not open (R584). -/
def Obligations.DataReadsChangeNoData : Prop :=
  ∀ (s : State) (n a len : Nat), s.injectOpen = false → let t := (s.applyRead n a len).1
    t.mem = s.mem ∧ t.ctxs = s.ctxs ∧ t.fuses = s.fuses ∧ t.snap = s.snap ∧ (∀ q, t.queue q = s.queue q) ∧
      ∀ l, (t.lcore l).scr.mem = (s.lcore l).scr.mem ∧ (t.lcore l).scr.tags = (s.lcore l).scr.tags ∧
        (t.lcore l).ledger.entries = (s.lcore l).ledger.entries ∧ (t.lcore l).tally = (s.lcore l).tally

/-- A write to Tier 1 or Tier 2 whose words are all sound puts its bytes there and leaves every other byte (R400, R401). -/
def Obligations.TierWritesStayInRange : Prop :=
  ∀ (s : State) (w : Who) (a : Nat) (bs : List Byte) (p : Place), bs ≠ [] → wholePlace a bs.length = some p → p.isTier = true →
    (∀ k, lostWord (nget .sound s.memCond k) = false) →
    (∀ i, i < bs.length → byteAt (s.writeBytes w a bs).1.mem (a + i) = bs.getD i 0) ∧
    ∀ k, k < a ∨ a + bs.length ≤ k → byteAt (s.writeBytes w a bs).1.mem k = byteAt s.mem k

/-! ### Boot (R652 to R671) -/

/-- The boot sequence (R655 to R667): with the fuses read, a valid provisioning record makes HELLO due, HELLO goes out, an OFFER
that passes its checks starts the fetches and another raises BOOT_SERVER_UNAUTHENTIC (0x0A03), each CHUNK is stored, a good
image is verified and a bad one thrown away, both tiers are zeroed, and the image starts and then makes the device READY. An
OFFER or a CHUNK that does not fit is answered with 0x0811 (R639; log entry 115). How HELLO alternates its servers, which CHUNK
is taken and when READY comes are readings of the model (log entries 69 to 72), and durations are not measured (log entry 22).
-/
def Obligations.BootGoesOn : Prop :=
  (∀ (s : State) (record : List Byte), s.side.on = true → s.runsImages = true → s.boot.phase = .provisioning →
    s.openSilicon.fusesRead = true → recordOk s.openSilicon record = true → ∃ t, exec (.provisionRead record) s = .next t ∧ t.boot.phase = .helloDue ∧
      t.boot.provision.isSome = true ∧ t.mem = s.mem) ∧
  (∀ (s : State) (p : Provision), s.boot.provision = some p → s.boot.phase = .helloDue ∨ s.boot.phase = .helloSent →
    ((s.port 0).linkUp || (s.port 4).linkUp) = true → ∃ t u : State, ∃ body, exec .hello s = .next t ∧ t = u.sendBoot 0x01 body ∧
      u.boot.phase = .helloSent ∧ u.boot.server = 1 - s.boot.server) ∧
  (∀ (s : State) (hdr : MsgHdr) (se ss sig : List Byte) (len : Nat),
    s.arrives 0 0x09 (reqHeader hdr ++ bootBody 0x02 (se ++ ss ++ sig ++ leBytes 4 len)) = true →
    let v := s.modConn 0 Conn.applied
    (∀ p, s.boot.provision = some p → s.boot.phase = .helloSent → ∃ t, exec (.offer hdr ⟨se, ss⟩ sig len) s = .next t ∧
      if v.offerOk p se ss sig && (ecdh v.boot.ephemeral se).isSome then
        ∃ u : State, t = (u.bootAnswer 0 hdr 0).forEach (upTo 0 (min 64 (fetchCount len))) (fun s i => s.sendFetch i) ∧
          u.boot.phase = .fetching ∧ u.boot.imageLen = len ∧ u.boot.got = []
      else t = (v.raise pgSecurity 0x0A03 noted 0).bootAnswer 0 hdr 0x0811) ∧
    (s.boot.phase ≠ .helloSent → exec (.offer hdr ⟨se, ss⟩ sig len) s = .next (v.bootAnswer 0 hdr 0x0811))) ∧
  (∀ (s : State) (hdr : MsgHdr) (off : Nat) (d : List Byte),
    s.arrives 0 0x09 (reqHeader hdr ++ bootBody 0x04 (leBytes 4 off ++ leBytes 4 d.length ++ d)) = true →
    let v := s.modConn 0 Conn.applied
    let fits := s.boot.phase = .fetching ∧ off % 8192 = 0 ∧ off / 8192 < fetchCount s.boot.imageLen ∧
      d.length = fetchLen s.boot.imageLen (off / 8192)
    (fits → s.boot.got.any (fun g => g.1 == off) = false → ∃ u : State, u.boot.got = s.boot.got ++ [(off, d.length)] ∧
      u.boot.image = nput s.boot.image off d.length (blockOf 0 d) ∧ u.boot.imageLen = s.boot.imageLen ∧
      exec (.chunk hdr ⟨off, d⟩) s = .next ((if u.boot.got.length + 63 < fetchCount u.boot.imageLen then
        u.sendFetch (u.boot.got.length + 63) else u).bootAnswer 0 hdr 0)) ∧
    (fits → s.boot.got.any (fun g => g.1 == off) = true → exec (.chunk hdr ⟨off, d⟩) s = .next (v.bootAnswer 0 hdr 0)) ∧
    (¬fits → exec (.chunk hdr ⟨off, d⟩) s = .next (v.bootAnswer 0 hdr 0x0811))) ∧
  (∀ s : State, s.boot.phase = .fetching → fetchCount s.boot.imageLen ≤ s.boot.got.length →
    ∃ u : State, ∃ body, exec .imageVerify s = .next ((u.sendBoot 0x05 body).refuseMalformed 0) ∧
      if s.imageReason s.boot.imageLen s.boot.image = 0 then u.boot.phase = .verified ∧ u.boot.verified = true
      else u.boot.phase = .helloDue ∧ u.boot.image = []) ∧
  (∀ s : State, s.side.on = true → s.boot.wiping = true → s.boot.phase ≠ .held → s.power.stop = .none →
    ∃ t, exec .tierZeroingComplete s = .next t ∧
    t = ((s.setMem []).setMemCond []).setBoot t.boot ∧ t.boot.zeroed = true ∧ t.boot.wiping = false) ∧
  (∀ s : State, s.boot.phase = .verified → s.boot.zeroed = true → s.side.loss = false → ∃ t, exec .imageStart s = .next t ∧
    t.boot.phase = .running ∧ t.boot.ready = s.boot.ready ∧ (t.die 0).imageRunning = true ∧ (t.die 1).imageRunning = true ∧
    t.mem = s.mem) ∧
  (∀ s : State, s.boot.phase = .running → s.boot.ready = false → s.halted = false → ∃ u : State, exec .imageStart s =
    .next (u.raise pgSecurity 0x0A01 noted 0) ∧ u = s.setBoot u.boot ∧ u.boot = { s.boot with
      ready := true, bootTimeMs := BitVec.ofNat 32 (s.time.now.toNat / 1000000) })

/-! ### The network (R617 to R642) -/

/-- Relsen: a packet for the port (R621) that authenticates is accepted or answered as R634 to R637 say; the timers of a live
connection act; the oldest message that the windows allow leaves; events go to the management connection. Which packets count as
arrivals and which connection a probe uses are choices of the model (log entries 31 and 32). -/
def Obligations.RelsenWorks : Prop :=
  (∀ (s : State) (port : Nat) (p : RxPacket), s.portUp port = true → s.hasFamily port p.srcIp = true →
    s.macOk port p.dstMac = true → s.ownIp port p.dstIp = true →
    let u := s.modPort port Port.rx
    let n := hConn p.header
    let c := u.conn n
    n < 4096 → c.st = .opened → (p.srcIp = c.cfg.peerA ∨ p.srcIp = c.cfg.peerB) → p.srcPort = c.cfg.port.toNat →
    headerOk p.header = true → c.hasReceived (hPacket p.header) = false → hType p.header = 0 →
    exec (.relsenPacket port p) s = .next (match gcmOpen (keyBytes c.keyIn) (nonceOf n (hPacket p.header)) (leBytes 64 p.header.toNat)
        p.body (beBytes 16 p.tag.toNat) with
      | some msg => u.acceptPacket port n p msg
      | none => u.stranger port p.srcIp)) ∧
  (∀ (s : State) (n : Nat), s.side.on = true → n < 4096 → (s.conn n).live = true →
    ((s.conn n).ackDue ≠ 0 → exec (.ackTimer n) s = .next (s.sendPacket n none none).2) ∧
    (∀ k, (s.conn n).maxAcked.any (fun a => decide (k < a)) = true →
      exec (.lossDetectionTimer n k) s = .next (s.loseSent n ((s.conn n).unacked.filter fun p => p.packet == k))) ∧
    ((s.conn n).unacked ≠ [] → ∃ t u : State, exec (.retransmissionTimer n) s = .next t ∧ u = s.loseSent n (s.conn n).unacked ∧
      (t.conn n) = { u.conn n with rto := min 100000000 (2 * (u.conn n).rto) }) ∧
    (n ≠ 0 → ∃ t, exec (.connectionLost n) s = .next t ∧ (t.conn n) = { s.conn n with st := .lost, unsent := [], unacked := [] } ∧
      ∀ k, k ≠ n → t.conn k = s.conn k) ∧
    (∀ m rest, ((s.feedDrain n).conn n).unsent = m :: rest →
      (((s.feedDrain n).conn n).unacked.map Sent.size).sum + 80 + m.bytes.length ≤ ((s.feedDrain n).conn n).cwnd →
      (((s.feedDrain n).conn n).unacked.filter fun p => p.msg.isSome).length ≤ ((s.feedDrain n).conn n).window →
      ((s.feedDrain n).sendPacket n (some m) none).1 = true → ∃ t, exec (.packetPacing n) s = .next t ∧ (t.conn n).unsent = rest)) ∧
  (∀ (s : State) (plane n : Nat), plane < 2 → s.side.on = true → s.net.plane plane = false → s.probeConn plane = some n →
    exec (.planeProbe plane) s = .next (s.sendPacket n none (some plane)).2) ∧
  (∀ (s : State) (d : Nat), s.side.on = true → d < 2 → (s.die d).events ≠ [] → (s.conn 0).live = true → 2 ≤ (s.conn 0).generation.toNat →
    ∃ u : State, (u.die d).events = (s.die d).events.drop 255 ∧ exec (.eventSend d) s = .next (u.sendOwn 0 0x05
      (leBytes 2 ((s.die d).events.take 255).length ++ leBytes 6 0 ++ ((s.die d).events.take 255).flatMap (EventRec.bytes d))))

/-- Links and neighbours: what each event (R618, R620, R621, R624, R625, R714) leaves in its port, and that nothing else changes
but the outbox, where the module answers, and what an event's report leaves. The module's own answers carry the port's fused MAC
address, its VLAN and priority 7 (R619). The length of an answer's frame, by which its transmit queue grows, is log entry 30,
and the limit of one FEC_DEGRADED per second does not hold back its count (R563). -/
def Obligations.PortsWork : Prop :=
  let leaves := fun (s : State) (c : Instr) (p : Nat) (x : Port) => ∃ t, exec c s = .next t ∧ s.WithPort t p x
  let answers := fun (s : State) (c : Instr) (p : Nat) (x : Port) (o : Out) =>
    ∃ u, exec c s = .next (u.setOutbox (s.outbox ++ [o])) ∧ s.WithPort u p x
  let tells := fun (s : State) (c : Instr) (p : Nat) (x : Port) (code : BitVec 16) =>
    ∃ u, s.WithPort u p x ∧ u.Reports (u.raise (pgEth p) code noted 0) ∧ exec c s = .next (u.raise (pgEth p) code noted 0)
  (∀ (s : State) (p : Nat) (cr1 : Bool), s.side.on = true → p < 8 → (s.port p).enable = true → (s.port p).linkUp = false →
    tells s (.linkUp p cr1) p { s.port p with linkUp := true, cr1 := cr1, training := false } 0x0803) ∧
  (∀ (s : State) (p : Nat), s.side.on = true → p < 8 →
    ((s.port p).linkUp = false → exec (.linkDown p) s = .next s) ∧
    ((s.port p).linkUp = true →
      let x := { s.port p with linkUp := false, linkDowns := satInc (s.port p).linkDowns }
      let another := ∃ k, k / 4 = p / 4 ∧ k ≠ p ∧ (s.port k).linkUp = true
      (another ∨ s.net.plane (p / 4) = false → tells s (.linkDown p) p x 0x0802) ∧
      (¬another → s.net.plane (p / 4) = true → ∃ u v w : State, s.WithPort u p x ∧ v = u.raise (pgEth p) 0x0802 noted 0 ∧
        u.Reports v ∧ w = v.setNet (if p / 4 = 0 then { v.net with planeA := false, lossesA := 0 }
          else { v.net with planeB := false, lossesB := 0 }) ∧
        w.Reports (w.raise pgTransport 0x0804 noted (p / 4)) ∧
        exec (.linkDown p) s = .next (w.raise pgTransport 0x0804 noted (p / 4))))) ∧
  (∀ (s : State) (p c n : Nat), s.portUp p = true →
    let x := { s.port p with fecCorrected := satAdd (s.port p).fecCorrected c, fecUncorrected := satAdd (s.port p).fecUncorrected n }
    (c ≤ (s.port p).fecLimit.toNat ∧ n = 0 → leaves s (.fecDegraded p c n) p x) ∧
    ((s.port p).fecLimit.toNat < c ∨ 0 < n →
      (s.secondPast (s.port p).fecAt = true →
        tells s (.fecDegraded p c n) p { x with fecAt := some s.time.now.toNat } 0x0809) ∧
      (s.secondPast (s.port p).fecAt = false → ∃ u, s.WithPort u p x ∧
        u.Reports (u.raiseFull (pgEth p) 0x0809 noted 0 0 false false) ∧
        exec (.fecDegraded p c n) s = .next (u.raiseFull (pgEth p) 0x0809 noted 0 0 false false)))) ∧
  (∀ (s : State) (p : Nat), s.portUp p = true →
    (∀ f : EthFrame,
      let foreign := match f.vid with
        | some v => v ≠ (s.port p).vid.toNat
        | none => (s.port p).acceptUntagged = false
      let whole := f.bytes ≤ 9216 ∧ f.badFcs = false
      let taken := whole ∧ f.pause = false ∧ ¬foreign ∧ 64 ≤ f.bytes ∧ s.macOk p f.dstMac = true ∧
        (f.dstIp = 0 ∨ s.ownIp p f.dstIp = true ∨ s.ptpGroup p f.dstIp f.udpPort = true)
      let wrong := f.fragment = true ∨ f.badChecksum = true ∨ ∃ n, f.udpPort = some n ∧ n ≠ 47712 ∧ n ≠ 319 ∧ n ≠ 320
      (¬whole → leaves s (.frameReceive p f) p (s.port p).drop) ∧
      (whole → f.pause = true → exec (.frameReceive p f) s = .next s) ∧
      (whole → f.pause = false → foreign → leaves s (.frameReceive p f) p (s.port p).drop) ∧
      (whole → f.pause = false → ¬foreign → ¬taken → exec (.frameReceive p f) s = .next s) ∧
      (taken → wrong → leaves s (.frameReceive p f) p (s.port p).drop) ∧
      (taken → ¬wrong → leaves s (.frameReceive p f) p (s.port p).rx)) ∧
    (∀ (mac : BitVec 48) (sip tip : Word),
      (tip ≠ 0 → tip = (s.port p).ipv4 → answers s (.arpRequest p mac sip tip) p ((s.port p).rx.tx s.time.now.toNat 64)
        (.arpReply (s.ethOwn p) p mac sip)) ∧
      (tip = 0 ∨ tip ≠ (s.port p).ipv4 → leaves s (.arpRequest p mac sip tip) p (s.port p).rx)) ∧
    (∀ (mac : BitVec 48) (sip tip : BitVec 128),
      ((s.port p).ipv6 ≠ 0 → tip = (s.port p).ipv6 → answers s (.neighbourSolicitation p mac sip tip) p
        ((s.port p).rx.tx s.time.now.toNat 94) (.neighbourAdvert (s.ethOwn p) p mac sip)) ∧
      ((s.port p).ipv6 ≠ 0 → tip ≠ (s.port p).ipv6 → leaves s (.neighbourSolicitation p mac sip tip) p (s.port p).rx) ∧
      ((s.port p).ipv6 = 0 → exec (.neighbourSolicitation p mac sip tip) s = .next s)) ∧
    (∀ mac ip, leaves s (.arpReply p mac ip) p ((s.port p).rx.learn (ipv4Mapped ip) mac s.time.now.toNat)) ∧
    ∀ mac ip, ((s.port p).ipv6 ≠ 0 →
        leaves s (.neighbourAdvertisement p mac ip) p ((s.port p).rx.learn ip mac s.time.now.toNat)) ∧
      ((s.port p).ipv6 = 0 → exec (.neighbourAdvertisement p mac ip) s = .next s)) ∧
  (∀ (x : Port) (ip : BitVec 128) (mac : BitVec 48) (now : Nat), let y := x.learn ip mac now
    y = { x with neighbours := y.neighbours } ∧ ⟨ip, mac, now⟩ ∈ y.neighbours ∧
      (x.neighbours.length ≤ 256 → y.neighbours.length ≤ 256) ∧
      (∀ n ∈ y.neighbours, n = ⟨ip, mac, now⟩ ∨ (n ∈ x.neighbours ∧ n.ip ≠ ip)) ∧
      (x.neighbours.length < 256 → ∀ n ∈ x.neighbours, n.ip ≠ ip → n ∈ y.neighbours)) ∧
  (∀ (s : State) (p : Nat), s.ethOwn p = ⟨nget 0 s.fuses.mac p, (s.port p).vid, 7⟩) ∧
  (∀ (s : State) (p : Nat) (ip : BitVec 128), p < 8 → leaves s (.neighbourExpiry p ip) p
    { s.port p with neighbours := (s.port p).neighbours.filter fun n => n.ip != ip }) ∧
  ∀ (s : State) (ini p : Nat), s.admits ini (pgEth p) = true → (s.page (pgEth p)).lock = false → p < 8 →
    ((s.port p).enable = true → exec (.portEnable ini p true) s = .next s) ∧
    ((s.port p).enable = false → leaves s (.portEnable ini p true) p { s.port p with enable := true, training := true }) ∧
    ∃ d t : State, exec (.linkDown p) s = .next d ∧ exec (.portEnable ini p false) s = .next t ∧
      d.WithPort t p { d.port p with enable := false, training := false }

/-- Time (R626, R627, R698): SYNC, FOLLOW_UP, DELAY_REQ and DELAY_RESP discipline the clock from the server's: the correction
that the servo has found is applied from the lock on, and until then device time follows the 100 MHz reference alone. The body,
the checksum and the ports of the Delay_Req are log entry 106, and so is the correction that is found before the lock. -/
def Obligations.TimeFollowsTheServer : Prop :=
  (∀ (s : State) (p dom n : Nat), s.ptpHears p dom = true →
    (∃ t, exec (.ptpSync p dom n) s = .next t ∧ t.time.syncSeq = some n ∧ t.time.t2 = s.time.now.toNat ∧ t.time.now = s.time.now ∧
      t.time.state = if s.time.state = 0 then 1 else s.time.state) ∧
    (∀ origin : Nat, s.time.syncSeq = some n → let ms : Int := s.time.t2 + s.time.servo - origin
      ∃ t, exec (.ptpFollowUp p dom n origin) s = .next t ∧ t.time.syncSeq = none ∧ t.time.offset = ms - s.time.pathDelay ∧
      t.time = { (s.time.follow (ms - s.time.pathDelay)).1 with lastMs := ms } ∧
      (t.time.state < 2 → t.time.now = s.time.now ∧
        t.time.servo = s.time.servo - slew t.time.offset s.time.interval)) ∧
    (∀ rx, s.time.delaySeq = some n → ∃ t, exec (.ptpDelayResp p dom n rx) s = .next t ∧ t.time.delaySeq = none ∧
      t.time.pathDelay = (s.time.lastMs + (rx - (s.time.t3 + s.time.servo))) / 2 ∧ t.time.now = s.time.now)) ∧
  ∀ s : State, s.ptpUp s.ptpPort = true → ∃ t, exec .ptpDelayReq s = .next t ∧
    t.time.delaySeq = some s.time.nextDelay ∧ t.time.t3 = s.time.now.toNat ∧ t.outbox = s.outbox ++
      [.delayReq (s.ethOwn s.ptpPort) s.delayIp (udpSum s.delayIp (s.delayBody s.time.nextDelay)) s.ptpPort (s.delayBody s.time.nextDelay)]

/-! ### Scratchpads and tiers (R315, R317, R408 to R414) -/

/-- A core whose queues hold nothing takes the discipline that was asked for (R317), and the oldest corrected word is written
back, where no injection is armed that the write meets (R315, R584). The patrol reads the next memory page of its controller
(R408), a failing page goes to a spare while one is left and the flash keeps its number (R410, R412), and a stack or channel
that is lost stops the device (R414), as does a rail root that fails (R569; its code is open, log entry 112). -/
def Obligations.ScratchpadsAndTiersWork : Prop :=
  ((∀ (s : State) (core : Nat), core < 128 → ((upTo 0 4).all fun i => ((s.lcore core).queue i).flight.isEmpty) = true →
    exec (.disciplineSwitch core) s = .next (s.modLcore core fun c => { c with scr := c.scr.switch })) ∧
  ∀ (s : State) (core k : Nat) (rest : List Nat), core < 128 → (s.lcore core).scr.writeback = k :: rest →
    nget .sound (s.lcore core).scr.cond k = .correctable → (s.takeInjection (s.pgL core bScratch)).2 = .sound → ∃ t, exec (.correctedWriteback core) s = .next t ∧
      (t.lcore core).scr.writeback = rest ∧ nget .sound (t.lcore core).scr.cond k = .sound ∧
      (∀ j, j ≠ k → nget .sound (t.lcore core).scr.cond j = nget .sound (s.lcore core).scr.cond j) ∧
      (t.lcore core).scr.mem = (s.lcore core).scr.mem) ∧
  (∀ (s : State) (k : Nat), k < 32 → s.side.on = true →
    (s.power.stop = .none → s.boot.wiping = false → s.scrubPeriod k ≠ 0 →
      ∃ t, exec (.tierPatrol k) s = .next t ∧ (t.ctl k).patrol = ((s.ctl k).patrol + 1) % ctlPages ∧ t.mem = s.mem) ∧
    (∀ g rest, s.power.stop = .none → (s.ctl k).failing = g :: rest → (s.ctl k).sparesUsed < spareTotal k → ∃ t, exec (.pageRetired k) s = .next t ∧
      (t.ctl k).failing = rest ∧ (t.ctl k).sparesUsed = (s.ctl k).sparesUsed + 1 ∧
      (t.ctl k).retired = satInc (s.ctl k).retired ∧ t.mem = s.mem ∧
      nget [] t.flash.retired k = nget [] s.flash.retired k ++ [s.memPage (4096 * g)]) ∧
    (s.err.deviceStopped = false → s.power.stop = .none → ∃ t, exec (.tierChannelFailed k) s = .next t ∧ t.err.deviceStopped = true ∧ t.err.stopCode = 0x0506)) ∧
  ∀ (s : State) (r : Nat), r < 8 → s.side.on = true → s.err.deviceStopped = false → s.power.stop = .none →
    ∃ t, exec (.tierChannelFailed (32 + r)) s = .next t ∧ t.err.deviceStopped = true

/-! ### Power, droop, heat (R502 to R543, R691) -/

/-- Measurement and the period: a regulator's sample (R502), which a step up that waits for its voltage notes (R511), a rail
that has missed four samples (R504), the end of a period with its measured draw and its budget (R503, R515), the floor under
`THROTTLE_L` (R521), and the last stage of a region's step (R511): up, the dividers switch to the next point; down, the dividers
have switched and the core rail is set to the voltage of the point. The draw that the manager predicts is a free value (log
entry 13); MEASURED holds at most 4,095 W (log entry 79). -/
def Obligations.PowerWorks : Prop :=
  (∀ (s : State) (rail mv ma : Nat), rail < railCount → s.side.on = true → ∃ t, exec (.avsbusSample rail mv ma) s = .next t ∧
    (t.supply rail).mv = BitVec.ofNat 16 mv ∧ (t.supply rail).ma = BitVec.ofNat 32 ma ∧ (t.supply rail).missed = false ∧
    (∀ k, k ≠ rail → t.supply k = s.supply k) ∧
    t = (if rail < 8 then (s.setPower { s.power with supplies := t.power.supplies }).modRegion rail fun x => x.reported (mv % 65536)
      else s.setPower { s.power with supplies := t.power.supplies })) ∧
  (∀ (s : State) (rail : Nat), rail < railCount → s.side.on = true → (s.supply rail).missed = false →
    (∃ k, k < railCount ∧ k ≠ rail ∧ (s.supply k).missed = false) → ∃ t, exec (.powerTelemetryLost rail) s = .next t ∧
      (t.supply rail).missed = true ∧ t.power.telemetryLost = satInc s.power.telemetryLost) ∧
  (∀ s : State, s.side.on = true → ∃ t, exec .powerPeriod s = .next t ∧ t.power.fillerActive = s.power.fillerNext ∧
    t.power.measured = BitVec.ofNat 12 (min 4095 (s.draw / 1000000)) ∧
    t.power.peak = (if s.power.peak.toNat < t.power.measured.toNat then t.power.measured else s.power.peak) ∧
    (s.powered = true → t.power.budget = BitVec.ofNat 12 (min 4095 (s.budget (s.basis s.oracle) (s.draw / 1000) / 1000)) ∧
      (s.power.throttle = true → t.power.issue = 1 ∧ t.power.memory = 4)) ∧
    (s.powered = false → t.power.issue = s.power.issue ∧ t.power.memory = s.power.memory ∧ t.power.budget = s.power.budget)) ∧
  (∀ (s : State) (r : Nat) (st : PointStep), r < 8 → s.powered = true → (s.region r).step = some st → s.stepReady r st = true →
    s.power.uniform = false → ∃ u : State, exec (.opPointStep r []) s = .next (u.startStep r) ∧
      (u.region r).point = (if st.up then (s.region r).point + 1 else (s.region r).point) ∧
      (u.region r).railMv = (if st.up then (s.region r).railMv else s.pointMv r (s.region r).point) ∧ (u.region r).step = none)

/-- Droop (R526 to R530): a stretch clamps the core and freezes a step in progress; its end, the end of the clamp, and the
release of steps up after it. `THROTTLE_L` (R521): an accepted low level takes every actuator to the floor; its release lets
them rise again. Durations are not measured (log entry 22). -/
def Obligations.DroopAndThrottleWork : Prop :=
  ((∀ (s : State) (core : Nat), core < 128 → s.powered = true → (s.lcore core).stretched = false →
    ∃ t, exec (.droopStretch core) s = .next t ∧ (t.lcore core).stretched = true ∧ (t.lcore core).clamped = true ∧
      t.power.droopEvents = satInc s.power.droopEvents ∧ (t.region (regionOfPhys (s.physOf core))).upHold = true ∧
      (t.region (regionOfPhys (s.physOf core))).step =
        (s.region (regionOfPhys (s.physOf core))).step.map fun st => { st with frozen := true }) ∧
  (∀ (s : State) (core : Nat), core < 128 → (s.lcore core).stretched = true → ∃ t, exec (.stretchEnd core) s = .next t ∧
    (t.lcore core).stretched = false ∧ (t.lcore core).clamped = (s.lcore core).clamped) ∧
  (∀ (s : State) (core : Nat), core < 128 → (s.lcore core).stretched = false →
    exec (.clampEnd core) s = .next (s.modLcore core fun c => { c with clamped := false })) ∧
  (∀ (s : State) (r : Nat), r < 8 → s.regionStretched r = false → exec (.stepUpResume r) s = .next ((s.modRegion r fun x =>
    (Region.switchDown { x with upHold := false, step := x.step.map fun st => { st with frozen := false } }).resumeUp
      (s.pointMv r (x.point + 1))).startStep r))) ∧
  ((∀ s : State, s.side.on = true → s.side.throttleL = true → ∃ t, exec .throttleAsserted s = .next t ∧ t.power.throttle = true ∧
    t.power.issue = 1 ∧ t.power.memory = 4 ∧ t.power.fillerNext = false ∧ t.side.throttleL = false ∧
    t.side.throttleAssertions = satInc s.side.throttleAssertions ∧ t.power.fillerMw = 0 ∧
    ∀ r, r < 8 → (t.region r).target = 0 ∧ (t.region r).filler = false) ∧
  ∀ s : State, s.side.on = true → s.side.throttleL = false → ∃ t, exec .throttleReleased s = .next t ∧ t.side.throttleL = true ∧
    t = (s.setSide t.side).setPower { s.power with throttle := false })

/-- Heat: the zone takes the hottest of the region's readings, in which a faulty sensor counts as 105 °C (R538, R542), and at
105 °C its region is at the limit until it is below 100 °C, with THERMAL_LIMIT (0x0722) on entry (R540); the ceiling moves by
one point with THERMAL_THROTTLE (0x0721) when it leaves 7 (R539), and no target passes it; a sensor that fails is reported once
(0x0723, R542); a trip counts, is recorded (0x0720) and stops the device (R543). -/
def Obligations.HeatWorks : Prop :=
  ∀ (s : State) (r : Nat), r < 8 → s.side.on = true →
    (∀ (rs : List (BitVec 16)) (z : Int × Nat), rs.length ≤ 32 →
      let u := rs.zipIdx.foldl (fun u v => u.sensorReads r v.2 v.1) s
      (u.region r).hottest rs.length = some z → exec (.thermalSample r rs) s = .next (u.setZone r z.1 z.2) ∧
        z.1 = (u.region r).sensorAt z.2 ∧
        ∀ k, k < 32 → (k < rs.length ∨ nget false (u.region r).sensorFault k = true) → (u.region r).sensorAt k ≤ z.1) ∧
    (∀ (k : Nat) (v : BitVec 16), let u := s.sensorReads r k v
      nget 0 (u.region r).sensors k = v ∧
      (Config.sensorInRange v = false → nget false (u.region r).sensorFault k = true ∧ (u.region r).sensorAt k = 1680) ∧
      (Config.sensorInRange v = true → v ≠ nget 0 (s.region r).sensors k → nget false (u.region r).sensorFault k = false ∧
        (u.region r).sensorAt k = v.toInt)) ∧
    (∀ (t : BitVec 16) (k : Nat), let u := s.setZone r t.toInt k
      (u.region r).zone = t ∧ (u.region r).hot = k ∧
      (u.region r).atLimit = (decide (1680 ≤ t.toInt) || ((s.region r).atLimit && decide (1600 ≤ t.toInt))) ∧
      (u.region r).ceiling = (if (s.region r).atLimit = true ∧ t.toInt < 1600 then 0 else (s.region r).ceiling) ∧
      (u.region r).target = min (s.region r).target (u.region r).top ∧
      (s.thermal.max.toInt < t.toInt → u.thermal.max = t ∧ u.thermal.maxZone.toNat = r) ∧
      ((u.region r).atLimit = true → (s.region r).atLimit = false →
        ∃ x : State, u = x.raise pgThermal 0x0722 noted (powerInfo r k))) ∧
    (∃ t, exec (.ceilingStep r) s = .next t ∧ (t.region r).ceiling =
        (if 16 * s.thermal.throttleAt.toNat ≤ (s.region r).zone.toInt then (s.region r).ceiling - 1
        else if (s.region r).zone.toInt ≤ 16 * s.thermal.throttleAt.toNat - 48 then min 7 ((s.region r).ceiling + 1)
        else (s.region r).ceiling) ∧
      (t.region r).target = min (s.region r).target (t.region r).top ∧
      ((s.region r).ceiling = 7 → (t.region r).ceiling < 7 →
        ∃ x : State, t = x.raise pgThermal 0x0721 noted (powerInfo r (s.region r).hot))) ∧
    (∀ k, k < 32 → ∃ t, exec (.thermalSensorFault r k) s = .next t ∧ nget false (t.region r).sensorFault k = true ∧
      (t.region r).zone.toInt = max 1680 (s.region r).zone.toInt ∧ (t.region r).atLimit = true ∧
      (nget false (s.region r).faultSeen k = false →
        ∃ x : State, s.sensorFails r k = x.raise pgThermal 0x0723 noted (powerInfo r k))) ∧
    (∀ k, k < 32 → ∃ u t : State, exec (.thermalTrip r k) s = .next t ∧
      t = (u.raise pgThermal 0x0720 deviceStopSev (powerInfo r k)).powerStop .trip 0x0720 ∧
      t.thermal.trips = satInc s.thermal.trips ∧ t.power.tripped = true ∧ t.power.restartReady = false ∧
      (s.power.stop = .none → s.err.deviceStopped = false → t.power.stop = .trip))

/-! ### Sideband, supply, clocks (R544 to R547, R679 to R698, R728 to R730) -/

/-- The stopping inputs (R544, R547, R692, R694, R695): a level is accepted once its samples have shown it for 10 µs, or with
its first sample; a loss is taken and stops a running device; the ninth raw transition within 10 ms makes an input count as
lost; each comes back, and with both good, and after a trip with every zone at 85 °C or below (R543), the device may be
restarted. Which rows bring a raw transition is log entry 81, and other durations are not measured (log entry 22). Durations are
not measured (log entry 22). -/
def Obligations.StoppingInputsWork : Prop :=
  (∀ s : State, s.side.on = true → s.side.coolantOk = true →
    s.side.rawCoolant = true ∨ s.side.steady 0 s.time.now.toNat = true →
    ∃ t, exec .coolantStop s = .next t ∧ t.side.coolantOk = false ∧ t.side.rawCoolant = false ∧
    (s.boot.phase = .running → s.power.stop = .none → s.err.deviceStopped = false → t.power.stop = .coolant)) ∧
  (∀ s : State, s.side.on = true → s.side.leakL = true → s.side.rawLeak = true ∨ s.side.steady 1 s.time.now.toNat = true →
    ∃ t, exec .leakStop s = .next t ∧ t.side.leakL = false ∧ t.side.rawLeak = false ∧
    (s.boot.phase = .running → s.power.stop = .none → s.err.deviceStopped = false → t.power.stop = .leak)) ∧
  (∀ (s : State) (i : Nat), i < 2 → s.side.on = true →
    let u := s.modSide fun x => x.transition i s.time.now.toNat
    u.side.raw i = !s.side.raw i ∧ u.side.level i = s.side.level i ∧ u.side.moves i =
      (s.side.moves i).filter (fun t => decide (s.time.now.toNat < t + 10000000)) ++ [s.time.now.toNat] ∧
    (s.side.chatters i = true ∨ (u.side.moves i).length < 9 → exec (.sidebandChatter i) s = .next u ∧
      (s.side.level i = false → s.side.raw i = false →
        exec (.stoppingInputReturn i) s = .next (u.modSide fun x => x.setLevel i true))) ∧
    (s.side.chatters i = false → 9 ≤ (u.side.moves i).length → ∃ t, exec (.sidebandChatter i) s = .next t ∧
      t.side.chatters i = true ∧ t.side.raw i = !s.side.raw i ∧ t.side.chatterEvents = satInc s.side.chatterEvents ∧
      (s.boot.phase = .running → s.power.stop = .none → s.err.deviceStopped = false →
        t.power.stop = if i = 0 then .coolant else .leak)) ∧
    (s.side.level i = false → s.side.raw i = false → ∃ t, exec (.stoppingInputReturn i) s = .next t ∧ t.side.level i = true) ∧
    (s.side.level i = false → s.side.raw i = true → exec (.stoppingInputReturn i) s =
      .next (if s.side.steady i s.time.now.toNat then s.modSide fun x => x.setLevel i true else s))) ∧
  (∀ s : State, s.side.on = true →
    (s.side.coolantOk = true → exec (.chatterClear 0) s = .next (s.setSide { s.side with chatterCoolant := false })) ∧
    (s.side.leakL = true → exec (.chatterClear 1) s = .next (s.setSide { s.side with chatterLeak := false }))) ∧
  ∀ s : State, s.side.on = true → s.side.loss = false → s.boot.phase = .running → s.power.stop ≠ .none →
    (s.power.tripped = true → s.zonesCool = true) →
    exec .restartReady s = .next (s.setPower { s.power with restartReady := true })

/-- The other inputs: `FEED_ID` (R607), `SLOT_ID` (R693), `PPS` (R697) and `VIN` (R684). -/
def Obligations.SidebandInputsWork : Prop :=
  ∀ s : State, s.side.on = true →
    (∀ v : BitVec 4, v ≠ s.side.feed → ∃ t, exec (.feedIdChange v) s = .next t ∧ t.side.feed = v ∧ t.snap.correlated = false ∧
      t.snap.partnerState ≠ 2 ∧ t = (s.setSide t.side).setSnap t.snap) ∧
    (∀ v : BitVec 6, v ≠ s.side.slot → ∃ t, exec (.slotIdChanged v) s = .next t ∧ t.side.slot = v ∧ t.boot = s.boot) ∧
    (s.time.ppsAt = none → ∃ t, exec .ppsEdge s = .next t ∧ t.time.pps = s.time.now ∧ t.time.ppsAt = some s.time.now.toNat ∧
      t.side.ppsEdges = satInc s.side.ppsEdges) ∧
    (∀ mv, ∃ t, exec (.vinOutOfRange mv false) s = .next t ∧ t = s.setSide { s.side with vin := mv }) ∧
    (∀ mv, 4400 ≤ mv.toNat → mv.toNat < 4600 → s.secondPast s.side.vinAt = true → ∃ t, exec (.vinOutOfRange mv true) s = .next t ∧
      t.side.vin = mv ∧ t.side.vinAt = some s.time.now.toNat ∧ t.side.on = true)

/-- Supply and reset pins (R655, R686 to R688): the rails come up, or do not; they go off and the fuses and the flash stay; a
cold reset starts the boot, or `RESET_L` holds it until it rises. PWR_EN_RISE leaves VIN at an open value in its range, and a
retry after a fault needs PWR_EN low first (log entry 81). -/
def Obligations.SupplyAndResetPinsWork : Prop :=
  (∀ s : State, s.side.on = false → s.side.retryHold = false → ∃ t, exec .pwrEnRise s = .next t ∧ t.side.on = true ∧
    t.side.pwrEn = true ∧ 4600 ≤ t.side.vin.toNat ∧ t.side.vin.toNat ≤ 5600) ∧
  (∀ s : State, s.side.on = false → s.side.retryHold = false → exec .powerUpTimeout s =
    .next (s.setSide { s.side with pwrEn := true, retryHold := true })) ∧
  (∀ (s : State) (fault : Bool), s.side.on = true → ∃ t, exec (.powerOff fault) s = .next t ∧ t.side.on = false ∧ t.fuses = s.fuses ∧
    t.flash = s.flash ∧ t.mem = [] ∧ t.cores = [] ∧ t.boot.phase = .off ∧ t.side.retryHold = fault) ∧
  (∀ s : State, s.side.on = true → s.boot.phase = .off → ∃ t, exec (.coldReset false) s = .next t ∧
    t.boot.phase = (if s.side.resetL then .provisioning else .held) ∧ t.fuses = s.fuses ∧ t.flash = s.flash ∧ t.mem = [] ∧ t.cores = []) ∧
  (∀ s : State, s.side.on = true → s.side.resetL = true → ∃ t, exec (.coldReset true) s = .next t ∧ t.boot.phase = .held ∧
    t.side.resetL = false ∧ t.fuses = s.fuses ∧ t.flash = s.flash ∧ t.mem = [] ∧ t.cores = []) ∧
  ∀ s : State, s.side.resetL = false → s.boot.phase = .held → ∃ t, exec .resetLRelease s = .next t ∧ t.side.resetL = true ∧
    t.boot.phase = .provisioning ∧ t.mem = s.mem

/-- Clocks, the bridge and the management processors (R728, R730, R732): each failure stops the device; a replay counts. A
failure of either die stops the whole device (log entry 91). -/
def Obligations.DieFailuresStop : Prop :=
  ∀ (s : State) (d : Nat), s.side.on = true → d < 2 → s.err.deviceStopped = false → s.power.stop = .none →
    (∀ x : BitVec 7, ∃ t, exec (.clockFailed d x) s = .next t ∧ t.err.deviceStopped = true ∧ t.err.stopCode = 0x0B10 ∧
      (if x = 0x7F then (t.die d).refPresent = false else (t.die d).pllLocked = false)) ∧
    (∃ t, exec (.bridgeReplay d true) s = .next t ∧ t.err.deviceStopped = true ∧ t.err.stopCode = 0x0B11 ∧
      (t.die 0).bridgeUp = false ∧ (t.die 1).bridgeUp = false) ∧
    (∃ t, exec (.bridgeReplay d false) s = .next t ∧ (t.die d).replays = satInc (s.die d).replays ∧ t.err.deviceStopped = false) ∧
    (∃ t, exec (.mgmtFailed d) s = .next t ∧ t.err.deviceStopped = true ∧ t.err.stopCode = 0x0B14 ∧ (t.die d).imageRunning = false)

/-! ### Fences, spares, partitions (R570 to R581, R653, R716) -/

/-- R570, R571, R575, R716, R741: a fence cause that is found in a core fences it with that cause; CLUSTER_FENCED fences the
cores of its cluster and the stream engine, REGION_FENCED those of its region; a check mismatch of the frames or of the vector
unit is counted, recorded on that unit's page and fences the core (what its information holds is log entries 40 and 86). The
fence of a core in service starts with its cause and with CORE_FENCED (0x0B02); when it is complete the core is FENCED and its
four queues are STOPPED with 0x0B02; an unfence of a FENCED core starts, and when it is complete the core is IN_SERVICE with its
units empty, its ledger, scratchpad, slot tags and tallies at their reset values, and CORE_UNFENCED (0x0B05); QUIESCE is set and
released. A host's fence has the cause 0x0B07, on any page of the core, and fences the stream engine on its page (R715). -/
def Obligations.FencesWork : Prop :=
  (∀ (s : State) (p : Nat), p < 132 → s.dark p = false → s.side.on = true →
    (∀ cause : BitVec 16, cause ∉ [0x0B03, 0x0B04, 0x0101, 0x0313] → exec (.coreFence p cause) s = .next (s.startFence p cause)) ∧
    (let c := clusterOf (s.logOr p)
      let u := s.raiseFull pgErragg 0x0B03 fenceSev (errInfo 0 c (c / 4) 0x0B03) 0x0B03 true false
      exec (.coreFence p 0x0B03) s =
        .next (((upTo (4 * c) 4).foldl (fun t l => t.startFence (s.physOf l) 0x0B03) u).fenceEngine c)) ∧
    (let r := regionOf (s.logOr p)
      let u := s.raiseFull pgErragg 0x0B04 fenceSev (errInfo 0 0 r 0x0B04) 0x0B04 true false
      exec (.coreFence p 0x0B04) s = .next ((upTo (4 * r) 4).foldl State.fenceEngine
        ((upTo (16 * r) 16).foldl (fun t l => t.startFence (s.physOf l) 0x0B04)
          (if s.err.deviceStopped then u else u.modRegion r fun x => { x with fenced := true })))) ∧
    (∃ (u : State) (info : Nat), u = (s.setOracle u.oracle).modCore p (fun c =>
        { c with fr := { c.fr with mismatches := satInc c.fr.mismatches } }) ∧
      exec (.coreFence p 0x0101) s =
        .next ((u.raiseFull (pgCore p bFrames) 0x0101 fenceSev info 0 true false).startFence p 0x0101)) ∧
    (∃ (u : State) (info : Nat), u = (s.setOracle u.oracle).modCore p (fun c =>
        { c with vec := { c.vec with mismatches := satInc c.vec.mismatches } }) ∧
      (∀ j rest, (s.core p).vec.unit = j :: rest →
        info = j.job.q % 4 + 4 * (if j.kind = .vector then vOp j.job.cmd else 0xFF)) ∧
      exec (.coreFence p 0x0313) s =
        .next ((u.raiseFull (pgCore p bVector) 0x0313 fenceSev info 0 true false).startFence p 0x0313))) ∧
  (∀ (s : State) (p l : Nat) (cause : BitVec 16), s.logOf p = some l → s.err.deviceStopped = false →
    ((s.core p).fence = .inService → ∃ t u : State, t = s.startFence p cause ∧
      t = u.raiseFull pgErragg 0x0B02 fenceSev (errInfo l (clusterOf l) (regionOf l) cause) cause.toNat true false ∧
      (t.core p).fence = .fencing ∧ (t.core p).cause = cause ∧ t.err.fences = satInc s.err.fences) ∧
    ((s.core p).fence = .unfencing → ∃ t u : State, t = s.startFence p cause ∧
      t = u.raiseFull pgErragg 0x0B02 fenceSev (errInfo l (clusterOf l) (regionOf l) cause) cause.toNat true false ∧
      u = (s.modCore p fun c => { c with fence := .fenced, cause := cause }).setErr { s.err with fences := satInc s.err.fences }) ∧
    ((s.core p).fence = .fencing ∨ (s.core p).fence = .fenced → s.startFence p cause = s)) ∧
  (∀ (s : State) (c : Nat), s.err.deviceStopped = false → (s.cluster c).fenced = false →
    ((s.fenceEngine c).cluster c).fenced = true ∧ ((s.fenceEngine c).cluster c).held = []) ∧
  (∀ (s : State) (p : Nat), p < 132 → (s.core p).fence = .fencing →
    (s.power.stop = .none → ∃ t, exec (.fenceComplete p) s = .next t ∧ t = s.modCore p (fun _ => t.core p) ∧
      (t.core p).fence = .fenced ∧ ∀ i, i < 4 → ((t.core p).queue i).stopped = true ∧ ((t.core p).queue i).stopCode = 0x0B02 ∧
        ((t.core p).queue i).head = ((s.core p).queue i).head ∧ ((t.core p).queue i).issued = ((s.core p).queue i).issued) ∧
    (s.power.stop ≠ .none → exec (.fenceComplete p) s = .next (s.modCore p fun c => { c with fence := .fenced }))) ∧
  (∀ (s : State) (p : Nat), p < 132 → (s.core p).fence = .unfencing → s.halted = false → s.inReset p = false →
    ∃ u t : State, exec (.unfenceComplete p) s = .next t ∧
      t = u.raise pgErragg 0x0B05 noted (errInfo (s.logOr p) (clusterOf (s.logOr p)) (regionOf (s.logOr p)) 0) ∧
      (t.core p).fence = .inService ∧ (t.core p).cause = 0 ∧ (t.core p).runs = [] ∧ (t.core p).dma = [] ∧ (t.core p).takes = [] ∧
      (t.core p).ledger.entries = [] ∧ (t.core p).scr.mem = [] ∧ (t.core p).scr.tags = [] ∧ (t.core p).tally.value = [] ∧
      ∀ k, k ≠ p → t.core k = s.core k) ∧
  (∀ (s : State) (ini p b : Nat), p < 132 → b < 8 → s.admits ini (pgCore p b) = true → (s.page (pgCore p b)).lock = false →
    exec (.hostFence ini (pgCore p b)) s = .next (s.startFence p 0x0B07) ∧
    ((s.core p).fence = .fenced → s.dark p = false → s.inReset p = false → exec (.unfence ini (pgCore p b)) s =
      .next (s.modCore p fun c => { c with fence := .unfencing })) ∧
    ((s.core p).fence = .fencing → exec (.unfence ini (pgCore p b)) s = .next (s.countBad (pgCore p b)))) ∧
  (∀ (s : State) (ini c : Nat), c < 32 → s.admits ini (pgStream c) = true → (s.page (pgStream c)).lock = false →
    exec (.hostFence ini (pgStream c)) s = .next (s.fenceEngine c) ∧
    ∃ t, exec (.unfence ini (pgStream c)) s = .next t ∧
      ((s.cluster c).fenced = true → (t.cluster c).fenced = false ∧ (t.cluster c).held = [])) ∧
  ∀ (s : State) (ini p : Nat), p < 132 → s.admits ini (pgCore p bSeq) = true → (s.page (pgCore p bSeq)).lock = false →
    exec (.quiesceSet ini p) s = .next (s.modCore p fun c => { c with quiesce := true }) ∧
    exec (.quiesceRelease ini p) s = .next (s.modCore p fun c => { c with quiesce := false })

/-- A spare is mapped in place of a fenced core of its region (R578), serves it once it has started (R579), and is unmapped
again (R580). A partition reset whose cores are all fenced completes, with its stacks of Tier 1 at zero (R653). -/
def Obligations.SparesAndPartitionsWork : Prop :=
  ((∀ (s : State) (ini n l : Nat), s.admits ini pgRemap = true → (s.page pgRemap).lock = false → n < 4 → l < 128 →
    (s.lcore l).fence = .fenced → s.fuses.sparePresent.getLsbD n = true → s.spare n = ⟨none, false⟩ → s.physOf l = l →
    regionOfPhys l = regionOfPhys (128 + n) →
    ∃ t, exec (.remapMap ini n l) s = .next t ∧ t.spare n = ⟨some l, true⟩ ∧ t.physOf l = l ∧ ∀ k, k ≠ n → t.spare k = s.spare k) ∧
  (∀ (s : State) (n l : Nat), n < 4 → s.spare n = ⟨some l, true⟩ → s.halted = false → s.inReset (128 + n) = false →
    ∃ t, exec (.coreRemapped n) s = .next t ∧
    t.spare n = ⟨some l, false⟩ ∧ t.physOf l = 128 + n ∧ (t.lcore l).fence = .inService ∧ (t.lcore l).scr.mem = []) ∧
  ∀ (s : State) (ini n l : Nat), s.admits ini pgRemap = true → (s.page pgRemap).lock = false → n < 4 →
    s.spare n = ⟨some l, false⟩ → (s.core (128 + n)).fence = .fenced →
    ∃ t, exec (.remapUnmap ini n) s = .next t ∧ t.spare n = ⟨none, false⟩ ∧ t.physOf l = l) ∧
  (∀ (s : State) (part : Nat), s.boot.partBusy = some part → s.halted = false →
    (physIn (s.partRegions part)).any (fun p => !s.dark p && decide ((s.core p).fence ≠ .fenced)) = false →
    ∃ t, exec .partitionResetComplete s = .next t ∧ t.boot.partBusy = none ∧
      ∀ r ∈ s.partRegions part, ∀ a, tier1Size * r ≤ a → a < tier1Size * r + tier1Size → byteAt t.mem a = 0)

/-! ### Pairing and JTAG -/

/-- The partner is accepted when it and the feed identities allow it (R605, R606). JTAG moves a BLANK module (R673) and loads
its instruction register, of which SAMPLE/PRELOAD and EXTEST scan the boundary register (its cells are open, log entry 114):
IDCODE shifts out the identity of R701, and EXTEST, CLAMP and HIGHZ behave as BYPASS while a queue runs an image (R702). -/
def Obligations.PairingAndJtagWork : Prop :=
  (∀ (s : State) (f : BitVec 4) (i : BitVec 16) (h : Nat), s.side.on = true → s.snap.partnerEn = true → s.snap.partnerState = 1 →
    f ≠ s.side.feed → ∃ t, exec (.pairingExchange f i h false) s = .next t ∧ t = s.setSnap t.snap ∧ t.snap.partnerState = 2 ∧
      t.snap.correlated = false ∧ t.snap.partnerFeed = f ∧ t.snap.partnerIndex = i ∧ t.snap.partnerHold = h) ∧
  (∀ (s : State) (d : Nat) (ins : TapIns), s.auxUp = true → d < 2 →
    let u := s.modDie d fun x => { x with tap := ins }
    (ins ≠ .samplePreload → u.tapNow d ≠ .extest → exec (.jtagInstruction d ins) s = .next u) ∧
    (ins = .samplePreload ∨ u.tapNow d = .extest → ∃ t b, exec (.jtagInstruction d ins) s = .next t ∧
      t = (u.setOracle t.oracle).modDie d fun x => { x with boundary := b })) ∧
  (∀ s : State, (s.die 0).tap = .idcode → (s.die 1).tap = .idcode →
    s.dataScan = (List.range 64).map fun i => (0x10800B5D : Word).getLsbD (i % 32)) ∧
  (∀ (s : State) (d : Nat) (ins : TapIns), ins ∈ [TapIns.extest, .clamp, .highz] → (s.die d).tap = ins →
    s.tapNow d = if s.allQuiet || s.boot.phase != .running then ins else .bypass) ∧
  ∀ s : State, s.side.on = true → s.fuses.lifecycle = 0 → ∃ t, exec (.jtagTransition 1) s = .next t ∧ t.fuses.lifecycle = 1 ∧
    t.fuses = { s.fuses with lifecycle := 1, flashKeyGen := s.fuses.flashKeyGen + 1 }

/-! ### Register rows (R13 to R18, R472 to R477, R562, R710 to R723) -/

/-- A register row whose initiator does not reach the page has no effect (R710), nor has a write of the network while a snapshot
holds the device (R597), and one that writes an rw or w1s field of a locked page has none either (R18, R717). That such an
access has no effect at all, and counts nothing, is the model's reading (log entry 2). -/
def Obligations.UnreachedPagesAreSilent : Prop :=
  ∀ (s : State) (ini : Nat),
    (∀ q, (s.admits ini (s.pgQueue q) = false ∨ (s.page (s.pgQueue q)).lock = true → exec (.stopRequest ini q) s = .next s ∧
      ∀ b n, exec (.ringConfig ini q b n) s = .next s) ∧
      (s.admits ini (s.pgQueue q) = false → exec (.actionRetry ini q) s = .next s ∧ exec (.actionSkip ini q) s = .next s ∧
        exec (.actionFlush ini q) s = .next s)) ∧
    (∀ p n v, s.admits ini (pgCore p bTally) = false ∨ (s.page (pgCore p bTally)).lock = true →
      exec (.tallyValueWrite ini p n v) s = .next s) ∧
    (∀ pg v, s.admits ini pg = false ∨ (s.page pg).lock = true → exec (.errInject ini pg v) s = .next s ∧
      exec (.hostFence ini pg) s = .next s ∧ exec (.unfence ini pg) s = .next s) ∧
    (∀ a v, s.admits ini (a.toNat / 4096) = false → exec (.registerWrite ini a v) s = .next s ∧
      exec (.hiWrite ini a v) s = .next s) ∧
    (∀ a, s.reaches ini (a.toNat / 4096) = false → exec (.loRead ini a) s = .next s) ∧
    (∀ n l, s.admits ini pgRemap = false ∨ (s.page pgRemap).lock = true → exec (.remapMap ini n l) s = .next s ∧
      exec (.remapUnmap ini n) s = .next s) ∧
    (∀ n k, s.admits ini pgSecurity = false → exec (.lifecycleTransition ini n k) s = .next s)

/-- `STOP_REQUEST`, `ACTION` and the ring registers (R475 to R477): a request stops a running queue before its oldest unissued
command; retry, skip and flush restart a STOPPED one at that command, after it (inside the segment whose first command it is),
or with an empty ring, unless the device is stopped (log entry 94). When STOP_REQUEST reads 0 again is a reading of the model
(log entry 62); injection (R584) is not open where a ring is set. A queue of a stopped device takes no ACTION (log entry 94),
and when STOP_REQUEST reads 0 again is a reading of the model (log entry 62). -/
def Obligations.QueueRegistersWork : Prop :=
  ∀ (s : State) (ini q : Nat), q < 528 → s.admits ini (s.pgQueue q) = true →
    ((s.page (s.pgQueue q)).lock = false → (s.queue q).stopped = false → ∃ t, exec (.stopRequest ini q) s = .next t ∧
      (t.queue q).stopped = true ∧ (t.queue q).stopCode = 0x0608 ∧ (t.queue q).stopRequest = true ∧
      (t.queue q).head = (s.queue q).head ∧ (t.queue q).seg = (s.queue q).seg ∧ (t.queue q).issued = (s.queue q).issued) ∧
    (s.queueState q = 4 → s.power.stop = .none → s.err.deviceStopped = false →
      (∃ t, exec (.actionRetry ini q) s = .next t ∧ t.queue q = { s.queue q with stopped := false, stopRequest := false } ∧
        (s.remap.ok → ∀ k, k < 528 → k ≠ q → t.queue k = s.queue k)) ∧
      ((s.queue q).stopEnded = false → (s.queue q).frontAddr ≠ none →
        (∀ e, s.front q = .segment e → segmentOk q e = false) → ∃ t, exec (.actionSkip ini q) s = .next t ∧
        t.queue q = { (s.queue q).advance with stopped := false, stopRequest := false } ∧
        (s.remap.ok → ∀ k, k < 528 → k ≠ q → t.queue k = s.queue k)) ∧
      (∀ e, (s.queue q).stopEnded = false → s.front q = .segment e → segmentOk q e = true → ∃ t, exec (.actionSkip ini q) s = .next t ∧
        t.queue q = { ((s.queue q).enter e).advance with stopped := false, stopRequest := false } ∧
        (s.remap.ok → ∀ k, k < 528 → k ≠ q → t.queue k = s.queue k)) ∧
      (∃ t, exec (.actionFlush ini q) s = .next t ∧ t.queue q = { s.queue q with
          stopped := false, stopRequest := false, head := (s.queue q).tail, seg := none } ∧
        (s.remap.ok → ∀ k, k < 528 → k ≠ q → t.queue k = s.queue k))) ∧
    (∀ base size, (s.page (s.pgQueue q)).lock = false → s.queueState q = 0 ∨ s.queueState q = 4 → ringSizeOk size = true →
      s.injectOpen = false →
      ∃ t, exec (.ringConfig ini q base size) s = .next t ∧ t.queue q = { s.queue q with
          ringBase := base &&& 0xFFFFFFFFFFC0, ringSize := size, head := 0, tail := 0, seg := none } ∧
        (s.remap.ok → ∀ k, k < 528 → k ≠ q → t.queue k = s.queue k))

/-- The wo and rw rows of a core's pages: slot tags (R319, R323), tally values (R341), where injection (R584) is not open. -/
def Obligations.CoreRegistersWork : Prop :=
  ∀ (s : State) (ini p : Nat), p < 132 →
    (s.admits ini (pgCore p bScratch) = true → ∀ first count, first + count ≤ 512 →
      (∃ t, exec (.tagEmpty ini p first count) s = .next t ∧ (∀ k, (t.core p).scr.full k =
        if first ≤ k ∧ k < first + count then false else (s.core p).scr.full k) ∧ (t.core p).scr.mem = (s.core p).scr.mem) ∧
      (∃ t, exec (.tagFill ini p first count) s = .next t ∧ (∀ k, (t.core p).scr.full k =
        if first ≤ k ∧ k < first + count then true else (s.core p).scr.full k) ∧ (t.core p).scr.mem = (s.core p).scr.mem)) ∧
    (s.admits ini (pgCore p bTally) = true → (s.page (pgCore p bTally)).lock = false → s.injectOpen = false → ∀ n v, n < 64 →
      ∃ t, exec (.tallyValueWrite ini p n v) s = .next t ∧ nget 0 (t.core p).tally.value n = v ∧
        ∀ k, k ≠ n → nget 0 (t.core p).tally.value k = nget 0 (s.core p).tally.value k)

/-- `ERR_CLEAR`, `ERR_INJECT`, `ERRAGG.CLEAR`, `PEAK_CLEAR`, `MAX_CLEAR` and `LATENCY_CLEAR` (R562, R568, R584, R720): each
clears or arms what it names and nothing else; and RESTART, after a trip only with every zone at 85 °C or below (R543, R547),
which holds the floor that THROTTLE_L asks for (R521). -/
def Obligations.ClearingRegistersWork : Prop :=
  ∀ (s : State) (ini : Nat),
    (∀ pg, s.admits ini pg = true → (pageKind pg).isSome = true →
      exec (.errClearRecord ini pg) s = .next (s.modPage pg fun h => { h with code := 0, info := 0, time := 0, worst := 0 }) ∧
      exec (.errClearCount ini pg) s = .next (s.modPage pg fun h => { h with count := 0 })) ∧
    (∀ (pg : Nat) (v : Word), s.admits ini pg = true → (s.page pg).lock = false → (pageKind pg).isSome = true → s.injectOpen = true →
      bitsAt v 0 3 < 3 → v.getLsbD 3 = true → ∃ t, exec (.errInject ini pg v) s = .next t ∧
        t = (s.modPage pg fun h => { h with inject := (t.page pg).inject }) ∧ (t.page pg).inject.toNat % 8 = bitsAt v 0 3 ∧
        (t.page pg).inject.getLsbD 3 = true) ∧
    (s.admits ini pgErragg = true → exec (.erraggClear ini) s = .next (s.setErr { s.err with worst := 0 })) ∧
    (s.admits ini pgPower = true → exec (.peakClear ini) s = .next (s.setPower { s.power with peak := 0 })) ∧
    (s.admits ini pgThermal = true → exec (.maxClear ini) s = .next (s.setThermal { s.thermal with max := 0 })) ∧
    (∀ d, d < 2 → s.admits ini (pgFabric d) = true →
      exec (.latencyClear ini d) s = .next (s.modDie d fun x => { x with latencyMax := 0 })) ∧
    (s.admits ini pgPower = true → s.power.stop ≠ .none → s.power.restartReady = true →
      (s.power.tripped = true → s.zonesCool = true) → ∃ t, exec (.powerRestart ini) s = .next t ∧ t.power.stop = .none ∧
      t.power.issue = (if s.power.throttle then 1 else 16) ∧ t.power.memory = (if s.power.throttle then 4 else 16) ∧ t.mem = s.mem ∧ t.cores = s.cores ∧
      ∀ r, r < 8 → (t.region r).point = 0)

/-- Resets, the lifecycle and the unlock token through registers (R650, R651, R653, R673, R675): each needs its key. -/
def Obligations.ResetRegistersWork : Prop :=
  ∀ (s : State) (ini : Nat),
    (s.admits ini pgMode = true → ∃ t, exec (.warmReset ini 0xA5) s = .next t ∧ t.boot.phase = .provisioning ∧ t.fuses = s.fuses ∧
      t.flash = s.flash ∧ t.mem = [] ∧ t.cores = []) ∧
    (s.admits ini pgMode = true → ∀ part, part < 8 → exec (.partitionReset ini part 0xA5) s = .next (s.partitionReset part)) ∧
    (s.admits ini pgMode = true → ∀ part k, k ≠ 0xA5 → exec (.warmReset ini k) s = .next s ∧
      exec (.partitionReset ini part k) s = .next s) ∧
    (s.admits ini pgSecurity = true → ∀ n, n < 8 →
      (transitionOk s.fuses.lifecycle.toNat n (decide (s.boot.unlockTarget = some n)) = true → s.allQuiet = true →
        s.snap.phase = .idle → s.snap.flashDraining = false → s.snap.partnerDraining = false →
        ∃ t, exec (.lifecycleTransition ini n 0x5EC5) s = .next t ∧ t.fuses.lifecycle = BitVec.ofNat 3 n ∧ t.mem = []) ∧
      (∀ k, k ≠ 0x5EC5 → exec (.lifecycleTransition ini n k) s = .next (s.countBad pgSecurity))) ∧
    (s.admits ini pgSecurity = true → ∀ v, ∃ u : State, exec (.unlockToken ini v) s = .next u.checkToken ∧
      blockBytes (nblock u.boot.unlock 1908 4) 4 = leBytes 4 v.toNat)

/-- `CONN_CTL` and the staging fields: a connection is opened with fresh keys of its next generation, or closed (R631, R632),
and a write to the staging fields leaves the other pages alone (R615). A peer key that is no point of the curve counts an error
(log entry 68), and fresh keys are free (log entry 12). -/
def Obligations.ConnectionRegistersWork : Prop :=
  ∀ (s : State) (ini : Nat),
    (s.admits ini pgTransport = true → s.net.sel ≠ 0 → ∃ t, exec (.connOpen ini) s = .next t ∧
      if (ecdh s.freshScalar.1 s.net.keyxPeer).isSome then (t.conn s.net.sel.toNat).st = .keyed ∧
        (t.conn s.net.sel.toNat).generation = (s.conn s.net.sel.toNat).generation + 1 ∧
        (t.conn s.net.sel.toNat).cfg = (s.conn s.net.sel.toNat).staged ∧ t.net.keyxModule = ecPublic s.freshScalar.1
      else t = s.countBad pgTransport) ∧
    (s.admits ini pgTransport = true → ∃ t, exec (.connClose ini) s = .next t ∧ (t.conn s.net.sel.toNat).st = .closed ∧
      ∀ k, k ≠ s.net.sel.toNat → t.conn k = s.conn k) ∧
    (s.admits ini pgSnapshot = true → (s.page pgSnapshot).lock = false → s.snap.phase = .idle → s.snap.flashDraining = false →
      s.snap.partnerDraining = false → s.snap.holdFilling = false → ∀ v : Word, bitsAt v 0 10 ≤ 768 →
      regionOk s.snap.stagingBase.toNat (bitsAt v 0 10) = true → regionOk s.snap.holdBase.toNat s.snap.holdSize.toNat = true →
      overlaps s.snap.stagingBase.toNat (gib (bitsAt v 0 10)) s.snap.holdBase.toNat (gib s.snap.holdSize.toNat) = false →
      exec (.stagingWrite ini 0x108 v) s =
        .next (s.setSnap { s.snap with stagingSize := BitVec.ofNat 10 (bitsAt v 0 10), stagingValid := false }))

/-- 64-bit registers (R15, R555, R721, R722): a read of LO keeps HI for the initiator that read, a write of HI applies both
words, and another initiator's latch is not touched. Latches that nothing has set read 0 (log entry 8). -/
def Obligations.PairsAreLatchedPerInitiator : Prop :=
  (∀ (s : State) (ini v : Nat) (a : Word) (k : PageKind), pageKind (a.toNat / 4096) = some k → a.toNat % 4 = 0 →
    ¬(a.toNat / 4096 = pgContext ∧ 0x104 ≤ a.toNat % 4096 ∧ a.toNat % 4096 < 0x144) →
    s.pairAt k (a.toNat / 4096) (a.toNat % 4096) = some v → s.reaches ini (a.toNat / 4096) = true →
    (s.readReg ini a).1 = BitVec.ofNat 32 v ∧ ∃ t, exec (.loRead ini a) s = .next t ∧ t = s.setHiLatch t.hiLatch ∧
      latched t.hiLatch ini (a + 4) = some (BitVec.ofNat 32 (v / 2 ^ 32)) ∧
      ∀ i b, (i ≠ ini ∨ b ≠ a + 4) → latched t.hiLatch i b = latched s.hiLatch i b) ∧
  (∀ (s : State) (ini : Nat), s.reaches ini pgEnergy = true → ∃ t, exec (.queueLoRead ini) s = .next t ∧ t = s.setHiLatch t.hiLatch) ∧
  (∀ (s : State) (ini : Nat), s.reaches ini pgContext = true → ∃ t, exec (.descRead ini) s = .next t ∧
    t = (s.readReg ini (BitVec.ofNat 32 (4096 * pgContext + 0x104))).2 ∧ t.mem = s.mem ∧ ∀ q, t.queue q = s.queue q) ∧
  (∀ (s : State) (ini q : Nat) (v : Word), q < 512 → s.physOf (q / 4) = q / 4 →
    let a := 4096 * pgCore (q / 4) bSeq
    s.admits ini (pgCore (q / 4) bSeq) = true → (s.page (pgCore (q / 4) bSeq)).lock = false → s.queueState q = 0 →
    s.injectOpen = false →
    ∃ t, exec (.hiWrite ini (BitVec.ofNat 32 (a + 0x100 + 0x40 * (q % 4) + 4)) v) s = .next t ∧
      (t.queue q).ringBase.toNat / 2 ^ 32 = v.toNat % 2 ^ 16) ∧
  ∀ (s : State) (ini : Nat) (v : Word), s.admits ini pgMode = true → exec (.registerWrite ini (BitVec.ofNat 32 (4096 * pgMode + 0x030)) v) s =
    .next (s.modPage pgMode fun h => { h with lock := v.getLsbD 0 })

/-- R514: `POWER.CAP` takes 500 to 2,200 W and ignores every other value as R14 says; its reset value is 2,200 W. -/
def Obligations.PowerCapTakesItsRange : Prop :=
  State.reset.power.cap = 2200 ∧
  ∀ (s : State) (ini : Nat) (v : Word), s.admits ini pgPower = true → (s.page pgPower).lock = false →
    exec (.registerWrite ini (BitVec.ofNat 32 (4096 * pgPower + 0x100)) v) s =
      .next (if 500 ≤ v.toNat % 4096 ∧ v.toNat % 4096 ≤ 2200 then s.setPower { s.power with cap := BitVec.ofNat 12 (v.toNat % 4096) }
        else s)

/-! ### Rules of one family -/

/-- R116 to R118: a FRAME_MODE whose pad code is not worth zero stops its queue with CODEBOOK_PAD_NONZERO (0x0126), and one with
format 6 or 7, with a format 4 pad code beyond 4 bits or with an empty mask with FRAME_MODE_INVALID (0x0127), both contained;
the pending mode of every frame stays. One that breaks both rules, which have no order, stops with one of the two codes. -/
def Obligations.FrameModeRefusals : Prop :=
  ∀ (s : State) (q : Nat) (e : Entry), q < 512 → s.Ready q e (hasOp 0x20) (fun _ _ => .go) →
    let invalid := fld e 16 2 = 0 ∨ modeFormat e = 6 ∨ modeFormat e = 7 ∨ (modeFormat e = 4 ∧ 16 ≤ modePad e)
    let nonzero := (modeFormat e = 4 ∧ modePad e < 16 ∧ cbEntry (modeC1 e) (modePad e) ≠ 0) ∨
      (modeFormat e = 5 ∧ cbEntry (modeC1 e) (modePad e / 16) + cbEntry (modeC2 e) (modePad e % 16) ≠ 0)
    let stopsWith := fun (codes : List (BitVec 16)) =>
      ∃ t st, exec (.frameMode q) s = .next t ∧ t = (s.fetchMarks q).stopWith q st ∧ st.sev = contained ∧ st.code ∈ codes ∧
        (t.queue q).stopCode = st.code ∧ (t.queue q).stopped = true ∧ (t.queue q).issued = (s.queue q).issued ∧
        ∀ f, ((t.lcore (q / 4)).frame f).pendFormat = ((s.lcore (q / 4)).frame f).pendFormat ∧
          ((t.lcore (q / 4)).frame f).pendPad = ((s.lcore (q / 4)).frame f).pendPad ∧
          ((t.lcore (q / 4)).frame f).pendC1 = ((s.lcore (q / 4)).frame f).pendC1 ∧
          ((t.lcore (q / 4)).frame f).pendC2 = ((s.lcore (q / 4)).frame f).pendC2
    (invalid → ¬nonzero → stopsWith [0x0127]) ∧ (frameModeOk e = true → nonzero → stopsWith [0x0126]) ∧
      (invalid → nonzero → stopsWith [0x0126, 0x0127])

/-- R171: a write to the ledger's address window is dropped and counted, and changes nothing else but the counts of the bytes
that crossed (BRIDGE.TX_BYTES and the energy of the writer's queue). -/
def Obligations.LedgerWindowIsReadOnly : Prop :=
  ∀ (s : State) (w : Who) (a n l off : Nat) (blk : NMap Byte), n ≠ 0 → wholePlace a n = some (.ledger l off) →
    (s.write w a n blk).2 = 0 ∧ (s.write w a n blk).1 = ((s.countBridge w a n true).countBytes w a n).modLcore l fun c => { c with ledger := { c.ledger with
      addressWritesDropped := satInc c.ledger.addressWritesDropped } }

/-- R143: an addition to a row of the ledger leaves in each entry the exact sum, clamped once to the range of R134, and no entry
outside the lanes added to changes its value. -/
def Obligations.LedgerAdditionsClamp : Prop :=
  ∀ (L : Ledger) (t row lo hi : Nat) (v : Nat → Int), hi ≤ 128 → (∀ k, -ledMax ≤ nget 0 L.entries k ∧ nget 0 L.entries k ≤ ledMax) →
    (∀ lane, lo ≤ lane → lane < hi → ((L.addRow t row lo hi v).1).entry t row lane =
      (if ledMax < L.entry t row lane + v lane then ledMax
      else if L.entry t row lane + v lane < -ledMax then -ledMax else L.entry t row lane + v lane)) ∧
    (∀ lane, lane < 128 → lane < lo ∨ hi ≤ lane → ((L.addRow t row lo hi v).1).entry t row lane = L.entry t row lane) ∧
    (∀ t' row' lane, row < 9 → row' < 9 → lane < 128 → (t' ≠ t ∨ row' ≠ row) →
      ((L.addRow t row lo hi v).1).entry t' row' lane = L.entry t' row' lane)
end

