-- ==== Sys2Proof/Laws/Store.lean ====
section
/-! SUPPORT. Store.lean: the laws of sparse storage. Every operation keeps the canonical form, a read after a write gives the
value written, and a write leaves every other key as it was. -/

namespace Sys2Proof.Machine

variable {α : Type}

/-- What the canonical form says: keys rise strictly and no entry holds the default. -/
theorem NMap.wf_iff [DecidableEq α] (d : α) (m : NMap α) :
    NMap.wf d m = true ↔ m.Pairwise (fun a b => a.1 < b.1) ∧ ∀ e ∈ m, e.2 ≠ d := by
  induction m with
  | nil => simp [NMap.wf]
  | cons e m ih =>
    obtain ⟨k, v⟩ := e
    cases m with
    | nil => simp [NMap.wf]
    | cons e' m =>
      obtain ⟨k', v'⟩ := e'
      have step : NMap.wf d ((k, v) :: (k', v') :: m) = true ↔ v ≠ d ∧ k < k' ∧ NMap.wf d ((k', v') :: m) = true := by
        simp [NMap.wf, and_assoc]
      rw [step, ih]
      constructor
      · rintro ⟨hv, hk, hp, hd⟩
        refine ⟨List.pairwise_cons.2 ⟨?_, hp⟩, ?_⟩
        · intro e he
          rcases List.mem_cons.1 he with rfl | he
          · exact hk
          · exact lt_trans hk ((List.pairwise_cons.1 hp).1 e he)
        · intro e he
          rcases List.mem_cons.1 he with rfl | he
          · exact hv
          · exact hd e he
      · rintro ⟨hp, hd⟩
        have h := List.pairwise_cons.1 hp
        exact ⟨hd _ List.mem_cons_self, h.1 _ List.mem_cons_self, h.2, fun e he => hd e (List.mem_cons_of_mem _ he)⟩

theorem NMap.wf_nil [DecidableEq α] (d : α) : NMap.wf d ([] : NMap α) = true := rfl

theorem nkeep_wf [DecidableEq α] {d : α} {m : NMap α} (p : Nat → Bool) (h : NMap.wf d m = true) : NMap.wf d (nkeep p m) = true := by
  rw [NMap.wf_iff] at h ⊢
  exact ⟨h.1.filter _, fun e he => h.2 e (List.mem_filter.1 he).1⟩

theorem mem_ninsert {k : Nat} {v : α} {m : NMap α} {e : Nat × α} (h : e ∈ ninsert k v m) : e = (k, v) ∨ e ∈ m := by
  induction m with
  | nil => simpa [ninsert] using h
  | cons a m ih =>
    obtain ⟨k', v'⟩ := a
    unfold ninsert at h
    split at h
    · simpa using h
    · rcases List.mem_cons.1 h with rfl | h
      · exact .inr List.mem_cons_self
      · exact (ih h).imp_right (List.mem_cons_of_mem _)

theorem ninsert_wf [DecidableEq α] {d : α} {m : NMap α} {k : Nat} {v : α} (h : NMap.wf d m = true) (hv : v ≠ d)
    (hk : ∀ e ∈ m, e.1 ≠ k) : NMap.wf d (ninsert k v m) = true := by
  rw [NMap.wf_iff] at h ⊢
  refine ⟨?_, fun e he => (mem_ninsert he).elim (fun x => x ▸ hv) (h.2 e)⟩
  have hp := h.1
  clear h
  induction m with
  | nil => simp [ninsert]
  | cons a m ih =>
    obtain ⟨k', v'⟩ := a
    have hc := List.pairwise_cons.1 hp
    unfold ninsert
    split
    · rename_i hlt
      refine List.pairwise_cons.2 ⟨fun e he => ?_, hp⟩
      rcases List.mem_cons.1 he with rfl | he
      · exact hlt
      · exact lt_trans hlt (hc.1 e he)
    · rename_i hge
      refine List.pairwise_cons.2 ⟨fun e he => ?_, ih (fun e he => hk e (List.mem_cons_of_mem _ he)) hc.2⟩
      rcases mem_ninsert he with rfl | he
      · exact lt_of_le_of_ne (not_lt.1 hge) (hk _ List.mem_cons_self)
      · exact hc.1 e he

theorem nset_wf [DecidableEq α] {d : α} {m : NMap α} (k : Nat) (v : α) (h : NMap.wf d m = true) : NMap.wf d (nset d m k v) = true := by
  unfold nset
  dsimp only
  split
  · exact nkeep_wf _ h
  · rename_i hv
    exact ninsert_wf (nkeep_wf _ h) hv fun e he => by simpa using (List.mem_filter.1 he).2

theorem nmod_wf [DecidableEq α] {d : α} {m : NMap α} (k : Nat) (f : α → α) (h : NMap.wf d m = true) : NMap.wf d (nmod d m k f) = true :=
  nset_wf _ _ h

theorem nclear_wf [DecidableEq α] {d : α} {m : NMap α} (a n : Nat) (h : NMap.wf d m = true) : NMap.wf d (nclear m a n) = true :=
  nkeep_wf _ h

theorem nblock_wf [DecidableEq α] {d : α} {m : NMap α} (a n : Nat) (h : NMap.wf d m = true) : NMap.wf d (nblock m a n) = true := by
  have hk := nkeep_wf (fun k => decide (a ≤ k) && decide (k < a + n)) h
  rw [NMap.wf_iff] at hk ⊢
  have ha : ∀ e ∈ nkeep (fun k => decide (a ≤ k) && decide (k < a + n)) m, a ≤ e.1 := fun e he => by
    have := (List.mem_filter.1 he).2
    simp at this
    exact this.1
  refine ⟨?_, ?_⟩
  · unfold nblock
    rw [List.pairwise_map]
    exact hk.1.imp_of_mem fun {x y} hx hy hxy => by
      have := ha x hx
      have := ha y hy
      dsimp only
      omega
  · intro e he
    obtain ⟨x, hx, rfl⟩ := List.mem_map.1 he
    exact hk.2 x hx

theorem nput_wf [DecidableEq α] {d : α} {m blk : NMap α} (a n : Nat) (h : NMap.wf d m = true) (hb : NMap.wf d blk = true) :
    NMap.wf d (nput m a n blk) = true := by
  have hb' := nkeep_wf (fun k => decide (k < n)) hb
  rw [NMap.wf_iff] at h hb' ⊢
  have lo : ∀ e ∈ nkeep (fun k => decide (k < a)) m, e.1 < a := fun e he => by simpa using (List.mem_filter.1 he).2
  have hi : ∀ e ∈ nkeep (fun k => decide (a + n ≤ k)) m, a + n ≤ e.1 := fun e he => by simpa using (List.mem_filter.1 he).2
  have md : ∀ e ∈ (nkeep (fun k => decide (k < n)) blk).map (fun e => (e.1 + a, e.2)), a ≤ e.1 ∧ e.1 < a + n := fun e he => by
    obtain ⟨x, hx, rfl⟩ := List.mem_map.1 he
    have := (List.mem_filter.1 hx).2
    simp at this
    exact ⟨Nat.le_add_left _ _, by dsimp only; omega⟩
  unfold nput
  refine ⟨?_, ?_⟩
  · rw [List.pairwise_append, List.pairwise_append]
    refine ⟨⟨h.1.filter _, ?_, fun x hx y hy => lt_of_lt_of_le (lo x hx) (md y hy).1⟩, h.1.filter _, ?_⟩
    · rw [List.pairwise_map]
      exact hb'.1.imp fun hxy => Nat.add_lt_add_right hxy _
    · intro x hx y hy
      have := hi y hy
      rcases List.mem_append.1 hx with hx | hx
      · have := lo x hx
        omega
      · have := md x hx
        omega
  · intro e he
    rcases List.mem_append.1 he with he | he
    · rcases List.mem_append.1 he with he | he
      · exact h.2 e (List.mem_filter.1 he).1
      · obtain ⟨x, hx, rfl⟩ := List.mem_map.1 he
        exact hb'.2 x hx
    · exact h.2 e (List.mem_filter.1 he).1

/-- A block that a memory takes has the canonical form whatever it came in. -/
theorem canonBlock_wf (blk : NMap Byte) : Memory.wf (canonBlock blk) = true := by
  unfold canonBlock
  split
  · assumption
  · suffices H : ∀ m : NMap Byte, NMap.wf 0 m = true → NMap.wf 0 (blk.foldl (fun m e => nset 0 m e.1 e.2) m) = true from H [] rfl
    rename_i hb
    clear hb
    intro m hm
    induction blk generalizing m with
    | nil => exact hm
    | cons e blk ih => exact ih _ (nset_wf _ _ hm)

/-- Every write of a memory keeps its canonical form. -/
theorem putMem_wf {m : List Host.Cell} (a n : Nat) (blk : NMap Byte) (h : Memory.wf m = true) : Memory.wf (putMem m a n blk) = true :=
  nput_wf _ _ h (canonBlock_wf blk)

/-! ### Reading after writing -/

theorem nget_eq_of_not_mem (d : α) (m : NMap α) (k : Nat) (h : ∀ e ∈ m, e.1 ≠ k) : nget d m k = d := by
  induction m with
  | nil => rfl
  | cons e m ih =>
    obtain ⟨k', v⟩ := e
    have : k' ≠ k := h _ List.mem_cons_self
    simp only [nget, this, if_false]
    exact ih fun e he => h e (List.mem_cons_of_mem _ he)

theorem nget_nkeep (d : α) (m : NMap α) (p : Nat → Bool) (k : Nat) :
    nget d (nkeep p m) k = if p k then nget d m k else d := by
  induction m with
  | nil => simp [nkeep, nget]
  | cons e m ih =>
    obtain ⟨k', v⟩ := e
    unfold nkeep at ih ⊢
    by_cases hp : p k' = true
    · rw [List.filter_cons_of_pos (by simpa using hp)]
      by_cases hk : k' = k
      · subst hk
        simp [nget, hp]
      · simp only [nget, hk, if_false]
        exact ih
    · rw [List.filter_cons_of_neg (by simpa using hp), ih]
      by_cases hk : k' = k
      · subst hk
        simp [hp]
      · simp [nget, hk]

theorem nget_ninsert (d : α) (m : NMap α) (k k' : Nat) (v : α) (h : ∀ e ∈ m, e.1 ≠ k) :
    nget d (ninsert k v m) k' = if k' = k then v else nget d m k' := by
  induction m with
  | nil => simp [ninsert, nget, eq_comm]
  | cons e m ih =>
    obtain ⟨j, w⟩ := e
    have hj : j ≠ k := h _ List.mem_cons_self
    unfold ninsert
    split
    · simp [nget, eq_comm]
    · have := ih fun e he => h e (List.mem_cons_of_mem _ he)
      by_cases hjk : j = k'
      · subst hjk
        simp [nget, hj]
      · simp only [nget, hjk, if_false]
        exact this

/-- A read after a write of one key. -/
theorem nget_nset [DecidableEq α] (d : α) (m : NMap α) (k k' : Nat) (v : α) :
    nget d (nset d m k v) k' = if k' = k then v else nget d m k' := by
  unfold nset
  dsimp only
  split
  · rename_i hv
    rw [nget_nkeep]
    by_cases hk : k' = k <;> simp [hk, hv]
  · rw [nget_ninsert _ _ _ _ _ (fun e he => by simpa using (List.mem_filter.1 he).2), nget_nkeep]
    by_cases hk : k' = k <;> simp [hk]

@[simp] theorem nget_nset_same [DecidableEq α] (d : α) (m : NMap α) (k : Nat) (v : α) : nget d (nset d m k v) k = v := by
  rw [nget_nset, if_pos rfl]

theorem nget_nset_other [DecidableEq α] (d : α) (m : NMap α) {k k' : Nat} (v : α) (h : k' ≠ k) : nget d (nset d m k v) k' = nget d m k' := by
  rw [nget_nset, if_neg h]

@[simp] theorem nget_nmod_same [DecidableEq α] (d : α) (m : NMap α) (k : Nat) (f : α → α) : nget d (nmod d m k f) k = f (nget d m k) :=
  nget_nset_same d m k _

theorem nget_nmod_other [DecidableEq α] (d : α) (m : NMap α) {k k' : Nat} (f : α → α) (h : k' ≠ k) :
    nget d (nmod d m k f) k' = nget d m k' := nget_nset_other d m _ h

theorem nget_append (d : α) (m m' : NMap α) (k : Nat) :
    nget d (m ++ m') k = if m.any (fun e => decide (e.1 = k)) then nget d m k else nget d m' k := by
  induction m with
  | nil => simp
  | cons e m ih =>
    obtain ⟨j, v⟩ := e
    by_cases hj : j = k
    · simp [nget, hj]
    · simp only [List.cons_append, nget, hj, if_false, ih, List.any_cons, decide_false, Bool.false_or]

/-- A write of a range leaves every key outside it as it was. -/
theorem nget_nput_outside [DecidableEq α] (d : α) (m : NMap α) (a n : Nat) (blk : NMap α) (k : Nat) (h : k < a ∨ a + n ≤ k) :
    nget d (nput m a n blk) k = nget d m k := by
  have mid : ((nkeep (fun k => decide (k < n)) blk).map fun e => (e.1 + a, e.2)).any (fun e => decide (e.1 = k)) = false := by
    rw [List.any_eq_false]
    intro e he
    obtain ⟨x, hx, rfl⟩ := List.mem_map.1 he
    have := (List.mem_filter.1 hx).2
    simp at this ⊢
    omega
  unfold nput
  rw [nget_append, nget_append, List.any_append, mid]
  rcases h with h | h
  · have hn : nget d (nkeep (fun k => decide (a + n ≤ k)) m) k = d := by
      rw [nget_nkeep]
      simp
      omega
    by_cases hm : (nkeep (fun k => decide (k < a)) m).any (fun e => decide (e.1 = k)) = true
    · simp [hm, nget_nkeep, h]
    · have h0 : nget d (nkeep (fun k => decide (k < a)) m) k = d := nget_eq_of_not_mem d _ k fun e he => by
        intro hk
        exact hm (List.any_eq_true.2 ⟨e, he, by simpa using hk⟩)
      rw [nget_nkeep] at h0
      simp [h] at h0
      simp [hm, hn, h0]
  · have hl : (nkeep (fun k => decide (k < a)) m).any (fun e => decide (e.1 = k)) = false := by
      rw [List.any_eq_false]
      intro e he
      have := (List.mem_filter.1 he).2
      simp at this ⊢
      omega
    simp [hl, nget_nkeep, h]

theorem nget_shift (d : α) (m : NMap α) (a k : Nat) (h : a ≤ k) : nget d (m.map fun e => (e.1 + a, e.2)) k = nget d m (k - a) := by
  induction m with
  | nil => rfl
  | cons e m ih =>
    obtain ⟨j, v⟩ := e
    simp only [List.map_cons, nget, ih]
    by_cases hj : j + a = k
    · rw [if_pos hj, if_pos (by omega)]
    · rw [if_neg hj, if_neg (by omega)]

/-- A write of a range gives the block's values inside it. -/
theorem nget_nput_inside (d : α) (m : NMap α) (a n : Nat) (blk : NMap α) (k : Nat) (h : k < n) :
    nget d (nput m a n blk) (a + k) = nget d blk k := by
  have hl : (nkeep (fun j => decide (j < a)) m).any (fun e => decide (e.1 = a + k)) = false := by
    rw [List.any_eq_false]
    intro e he
    have := (List.mem_filter.1 he).2
    simp at this ⊢
    omega
  have hh : nget d (nkeep (fun j => decide (a + n ≤ j)) m) (a + k) = d := by
    rw [nget_nkeep]
    simp
    omega
  unfold nput
  rw [nget_append, nget_append, List.any_append, hl, Bool.false_or]
  have hm : nget d ((nkeep (fun j => decide (j < n)) blk).map fun e => (e.1 + a, e.2)) (a + k) = nget d blk k := by
    rw [nget_shift _ _ _ _ (Nat.le_add_right a k), nget_nkeep, Nat.add_sub_cancel_left, if_pos (by simpa using h)]
  by_cases hb : ((nkeep (fun j => decide (j < n)) blk).map fun e => (e.1 + a, e.2)).any (fun e => decide (e.1 = a + k)) = true
  · rw [if_pos hb, if_neg (by simp), hm]
  · rw [if_neg hb, hh, ← hm]
    exact (nget_eq_of_not_mem d _ _ fun e he hk => hb (List.any_eq_true.2 ⟨e, he, by simpa using hk⟩)).symm

/-- A write of a range leaves every byte outside it as it was. -/
theorem byteAt_putMem_outside (m : List Host.Cell) (a n : Nat) (blk : NMap Byte) (k : Nat) (h : k < a ∨ a + n ≤ k) :
    byteAt (putMem m a n blk) k = byteAt m k := nget_nput_outside 0 m a n _ k h

/-- Clearing a range: zero inside it, as before outside it. -/
theorem byteAt_nclear (m : List Host.Cell) (a n k : Nat) :
    byteAt (nclear m a n) k = if k < a ∨ a + n ≤ k then byteAt m k else 0 := by
  unfold byteAt nclear
  rw [nget_nkeep]
  by_cases h : k < a <;> by_cases h' : a + n ≤ k <;> simp [h, h']

end Sys2Proof.Machine
end

