-- ==== Sys2Proof/Laws/State.lean ====
section
/-! SUPPORT. Laws/State.lean: what each update of State leaves as it was, and what it sets; proved once, so that no later
proof unfolds a record update. -/

namespace Sys2Proof.Machine

/-! ### The setters: one field each -/

@[simp] theorem State.setPending_fields (s : State) (v : List Instr) :
    (s.setPending v).pending = v ∧ (s.setPending v).oracle = s.oracle ∧ (s.setPending v).outbox = s.outbox ∧
    (s.setPending v).time = s.time ∧ (s.setPending v).mem = s.mem ∧ (s.setPending v).memCond = s.memCond ∧
    (s.setPending v).split = s.split ∧ (s.setPending v).splitNext = s.splitNext ∧ (s.setPending v).ctls = s.ctls ∧
    (s.setPending v).cores = s.cores ∧ (s.setPending v).clusters = s.clusters ∧ (s.setPending v).regions = s.regions ∧
    (s.setPending v).dies = s.dies ∧ (s.setPending v).devq = s.devq ∧ (s.setPending v).rail = s.rail ∧
    (s.setPending v).ctxs = s.ctxs ∧ (s.setPending v).closes = s.closes ∧ (s.setPending v).ctxSel = s.ctxSel ∧
    (s.setPending v).ctxWritesDropped = s.ctxWritesDropped ∧ (s.setPending v).ctxCorrected = s.ctxCorrected ∧
    (s.setPending v).ctxCond = s.ctxCond ∧ (s.setPending v).fabric = s.fabric ∧ (s.setPending v).power = s.power ∧
    (s.setPending v).thermal = s.thermal ∧ (s.setPending v).energy = s.energy ∧ (s.setPending v).err = s.err ∧
    (s.setPending v).pages = s.pages ∧ (s.setPending v).remap = s.remap ∧ (s.setPending v).snap = s.snap ∧
    (s.setPending v).flash = s.flash ∧ (s.setPending v).net = s.net ∧ (s.setPending v).boot = s.boot ∧
    (s.setPending v).fuses = s.fuses ∧ (s.setPending v).side = s.side ∧ (s.setPending v).hiLatch = s.hiLatch ∧
    (s.setPending v).loHeld = s.loHeld :=
  ⟨rfl, rfl, rfl, rfl, rfl, rfl, rfl, rfl, rfl, rfl, rfl, rfl, rfl, rfl, rfl, rfl, rfl, rfl, rfl, rfl,
    rfl, rfl, rfl, rfl, rfl, rfl, rfl, rfl, rfl, rfl, rfl, rfl, rfl, rfl, rfl, rfl⟩

@[simp] theorem State.setOracle_fields (s : State) (v : Nat) :
    (s.setOracle v).pending = s.pending ∧ (s.setOracle v).oracle = v ∧ (s.setOracle v).outbox = s.outbox ∧
    (s.setOracle v).time = s.time ∧ (s.setOracle v).mem = s.mem ∧ (s.setOracle v).memCond = s.memCond ∧
    (s.setOracle v).split = s.split ∧ (s.setOracle v).splitNext = s.splitNext ∧ (s.setOracle v).ctls = s.ctls ∧
    (s.setOracle v).cores = s.cores ∧ (s.setOracle v).clusters = s.clusters ∧ (s.setOracle v).regions = s.regions ∧
    (s.setOracle v).dies = s.dies ∧ (s.setOracle v).devq = s.devq ∧ (s.setOracle v).rail = s.rail ∧
    (s.setOracle v).ctxs = s.ctxs ∧ (s.setOracle v).closes = s.closes ∧ (s.setOracle v).ctxSel = s.ctxSel ∧
    (s.setOracle v).ctxWritesDropped = s.ctxWritesDropped ∧ (s.setOracle v).ctxCorrected = s.ctxCorrected ∧
    (s.setOracle v).ctxCond = s.ctxCond ∧ (s.setOracle v).fabric = s.fabric ∧ (s.setOracle v).power = s.power ∧
    (s.setOracle v).thermal = s.thermal ∧ (s.setOracle v).energy = s.energy ∧ (s.setOracle v).err = s.err ∧
    (s.setOracle v).pages = s.pages ∧ (s.setOracle v).remap = s.remap ∧ (s.setOracle v).snap = s.snap ∧
    (s.setOracle v).flash = s.flash ∧ (s.setOracle v).net = s.net ∧ (s.setOracle v).boot = s.boot ∧
    (s.setOracle v).fuses = s.fuses ∧ (s.setOracle v).side = s.side ∧ (s.setOracle v).hiLatch = s.hiLatch ∧
    (s.setOracle v).loHeld = s.loHeld :=
  ⟨rfl, rfl, rfl, rfl, rfl, rfl, rfl, rfl, rfl, rfl, rfl, rfl, rfl, rfl, rfl, rfl, rfl, rfl, rfl, rfl,
    rfl, rfl, rfl, rfl, rfl, rfl, rfl, rfl, rfl, rfl, rfl, rfl, rfl, rfl, rfl, rfl⟩

@[simp] theorem State.setOutbox_fields (s : State) (v : List Out) :
    (s.setOutbox v).pending = s.pending ∧ (s.setOutbox v).oracle = s.oracle ∧ (s.setOutbox v).outbox = v ∧
    (s.setOutbox v).time = s.time ∧ (s.setOutbox v).mem = s.mem ∧ (s.setOutbox v).memCond = s.memCond ∧
    (s.setOutbox v).split = s.split ∧ (s.setOutbox v).splitNext = s.splitNext ∧ (s.setOutbox v).ctls = s.ctls ∧
    (s.setOutbox v).cores = s.cores ∧ (s.setOutbox v).clusters = s.clusters ∧ (s.setOutbox v).regions = s.regions ∧
    (s.setOutbox v).dies = s.dies ∧ (s.setOutbox v).devq = s.devq ∧ (s.setOutbox v).rail = s.rail ∧
    (s.setOutbox v).ctxs = s.ctxs ∧ (s.setOutbox v).closes = s.closes ∧ (s.setOutbox v).ctxSel = s.ctxSel ∧
    (s.setOutbox v).ctxWritesDropped = s.ctxWritesDropped ∧ (s.setOutbox v).ctxCorrected = s.ctxCorrected ∧
    (s.setOutbox v).ctxCond = s.ctxCond ∧ (s.setOutbox v).fabric = s.fabric ∧ (s.setOutbox v).power = s.power ∧
    (s.setOutbox v).thermal = s.thermal ∧ (s.setOutbox v).energy = s.energy ∧ (s.setOutbox v).err = s.err ∧
    (s.setOutbox v).pages = s.pages ∧ (s.setOutbox v).remap = s.remap ∧ (s.setOutbox v).snap = s.snap ∧
    (s.setOutbox v).flash = s.flash ∧ (s.setOutbox v).net = s.net ∧ (s.setOutbox v).boot = s.boot ∧
    (s.setOutbox v).fuses = s.fuses ∧ (s.setOutbox v).side = s.side ∧ (s.setOutbox v).hiLatch = s.hiLatch ∧
    (s.setOutbox v).loHeld = s.loHeld :=
  ⟨rfl, rfl, rfl, rfl, rfl, rfl, rfl, rfl, rfl, rfl, rfl, rfl, rfl, rfl, rfl, rfl, rfl, rfl, rfl, rfl,
    rfl, rfl, rfl, rfl, rfl, rfl, rfl, rfl, rfl, rfl, rfl, rfl, rfl, rfl, rfl, rfl⟩

@[simp] theorem State.setTime_fields (s : State) (v : TimeSt) :
    (s.setTime v).pending = s.pending ∧ (s.setTime v).oracle = s.oracle ∧ (s.setTime v).outbox = s.outbox ∧
    (s.setTime v).time = v ∧ (s.setTime v).mem = s.mem ∧ (s.setTime v).memCond = s.memCond ∧ (s.setTime v).split = s.split ∧
    (s.setTime v).splitNext = s.splitNext ∧ (s.setTime v).ctls = s.ctls ∧ (s.setTime v).cores = s.cores ∧
    (s.setTime v).clusters = s.clusters ∧ (s.setTime v).regions = s.regions ∧ (s.setTime v).dies = s.dies ∧
    (s.setTime v).devq = s.devq ∧ (s.setTime v).rail = s.rail ∧ (s.setTime v).ctxs = s.ctxs ∧ (s.setTime v).closes = s.closes ∧
    (s.setTime v).ctxSel = s.ctxSel ∧ (s.setTime v).ctxWritesDropped = s.ctxWritesDropped ∧
    (s.setTime v).ctxCorrected = s.ctxCorrected ∧ (s.setTime v).ctxCond = s.ctxCond ∧ (s.setTime v).fabric = s.fabric ∧
    (s.setTime v).power = s.power ∧ (s.setTime v).thermal = s.thermal ∧ (s.setTime v).energy = s.energy ∧
    (s.setTime v).err = s.err ∧ (s.setTime v).pages = s.pages ∧ (s.setTime v).remap = s.remap ∧ (s.setTime v).snap = s.snap ∧
    (s.setTime v).flash = s.flash ∧ (s.setTime v).net = s.net ∧ (s.setTime v).boot = s.boot ∧ (s.setTime v).fuses = s.fuses ∧
    (s.setTime v).side = s.side ∧ (s.setTime v).hiLatch = s.hiLatch ∧ (s.setTime v).loHeld = s.loHeld :=
  ⟨rfl, rfl, rfl, rfl, rfl, rfl, rfl, rfl, rfl, rfl, rfl, rfl, rfl, rfl, rfl, rfl, rfl, rfl, rfl, rfl,
    rfl, rfl, rfl, rfl, rfl, rfl, rfl, rfl, rfl, rfl, rfl, rfl, rfl, rfl, rfl, rfl⟩

@[simp] theorem State.setMem_fields (s : State) (v : List Host.Cell) :
    (s.setMem v).pending = s.pending ∧ (s.setMem v).oracle = s.oracle ∧ (s.setMem v).outbox = s.outbox ∧
    (s.setMem v).time = s.time ∧ (s.setMem v).mem = v ∧ (s.setMem v).memCond = s.memCond ∧ (s.setMem v).split = s.split ∧
    (s.setMem v).splitNext = s.splitNext ∧ (s.setMem v).ctls = s.ctls ∧ (s.setMem v).cores = s.cores ∧
    (s.setMem v).clusters = s.clusters ∧ (s.setMem v).regions = s.regions ∧ (s.setMem v).dies = s.dies ∧
    (s.setMem v).devq = s.devq ∧ (s.setMem v).rail = s.rail ∧ (s.setMem v).ctxs = s.ctxs ∧ (s.setMem v).closes = s.closes ∧
    (s.setMem v).ctxSel = s.ctxSel ∧ (s.setMem v).ctxWritesDropped = s.ctxWritesDropped ∧
    (s.setMem v).ctxCorrected = s.ctxCorrected ∧ (s.setMem v).ctxCond = s.ctxCond ∧ (s.setMem v).fabric = s.fabric ∧
    (s.setMem v).power = s.power ∧ (s.setMem v).thermal = s.thermal ∧ (s.setMem v).energy = s.energy ∧
    (s.setMem v).err = s.err ∧ (s.setMem v).pages = s.pages ∧ (s.setMem v).remap = s.remap ∧ (s.setMem v).snap = s.snap ∧
    (s.setMem v).flash = s.flash ∧ (s.setMem v).net = s.net ∧ (s.setMem v).boot = s.boot ∧ (s.setMem v).fuses = s.fuses ∧
    (s.setMem v).side = s.side ∧ (s.setMem v).hiLatch = s.hiLatch ∧ (s.setMem v).loHeld = s.loHeld :=
  ⟨rfl, rfl, rfl, rfl, rfl, rfl, rfl, rfl, rfl, rfl, rfl, rfl, rfl, rfl, rfl, rfl, rfl, rfl, rfl, rfl,
    rfl, rfl, rfl, rfl, rfl, rfl, rfl, rfl, rfl, rfl, rfl, rfl, rfl, rfl, rfl, rfl⟩

@[simp] theorem State.setMemCond_fields (s : State) (v : NMap WordCond) :
    (s.setMemCond v).pending = s.pending ∧ (s.setMemCond v).oracle = s.oracle ∧ (s.setMemCond v).outbox = s.outbox ∧
    (s.setMemCond v).time = s.time ∧ (s.setMemCond v).mem = s.mem ∧ (s.setMemCond v).memCond = v ∧
    (s.setMemCond v).split = s.split ∧ (s.setMemCond v).splitNext = s.splitNext ∧ (s.setMemCond v).ctls = s.ctls ∧
    (s.setMemCond v).cores = s.cores ∧ (s.setMemCond v).clusters = s.clusters ∧ (s.setMemCond v).regions = s.regions ∧
    (s.setMemCond v).dies = s.dies ∧ (s.setMemCond v).devq = s.devq ∧ (s.setMemCond v).rail = s.rail ∧
    (s.setMemCond v).ctxs = s.ctxs ∧ (s.setMemCond v).closes = s.closes ∧ (s.setMemCond v).ctxSel = s.ctxSel ∧
    (s.setMemCond v).ctxWritesDropped = s.ctxWritesDropped ∧ (s.setMemCond v).ctxCorrected = s.ctxCorrected ∧
    (s.setMemCond v).ctxCond = s.ctxCond ∧ (s.setMemCond v).fabric = s.fabric ∧ (s.setMemCond v).power = s.power ∧
    (s.setMemCond v).thermal = s.thermal ∧ (s.setMemCond v).energy = s.energy ∧ (s.setMemCond v).err = s.err ∧
    (s.setMemCond v).pages = s.pages ∧ (s.setMemCond v).remap = s.remap ∧ (s.setMemCond v).snap = s.snap ∧
    (s.setMemCond v).flash = s.flash ∧ (s.setMemCond v).net = s.net ∧ (s.setMemCond v).boot = s.boot ∧
    (s.setMemCond v).fuses = s.fuses ∧ (s.setMemCond v).side = s.side ∧ (s.setMemCond v).hiLatch = s.hiLatch ∧
    (s.setMemCond v).loHeld = s.loHeld :=
  ⟨rfl, rfl, rfl, rfl, rfl, rfl, rfl, rfl, rfl, rfl, rfl, rfl, rfl, rfl, rfl, rfl, rfl, rfl, rfl, rfl,
    rfl, rfl, rfl, rfl, rfl, rfl, rfl, rfl, rfl, rfl, rfl, rfl, rfl, rfl, rfl, rfl⟩

@[simp] theorem State.setSplit_fields (s : State) (v : BitVec 7) :
    (s.setSplit v).pending = s.pending ∧ (s.setSplit v).oracle = s.oracle ∧ (s.setSplit v).outbox = s.outbox ∧
    (s.setSplit v).time = s.time ∧ (s.setSplit v).mem = s.mem ∧ (s.setSplit v).memCond = s.memCond ∧ (s.setSplit v).split = v ∧
    (s.setSplit v).splitNext = s.splitNext ∧ (s.setSplit v).ctls = s.ctls ∧ (s.setSplit v).cores = s.cores ∧
    (s.setSplit v).clusters = s.clusters ∧ (s.setSplit v).regions = s.regions ∧ (s.setSplit v).dies = s.dies ∧
    (s.setSplit v).devq = s.devq ∧ (s.setSplit v).rail = s.rail ∧ (s.setSplit v).ctxs = s.ctxs ∧
    (s.setSplit v).closes = s.closes ∧ (s.setSplit v).ctxSel = s.ctxSel ∧
    (s.setSplit v).ctxWritesDropped = s.ctxWritesDropped ∧ (s.setSplit v).ctxCorrected = s.ctxCorrected ∧
    (s.setSplit v).ctxCond = s.ctxCond ∧ (s.setSplit v).fabric = s.fabric ∧ (s.setSplit v).power = s.power ∧
    (s.setSplit v).thermal = s.thermal ∧ (s.setSplit v).energy = s.energy ∧ (s.setSplit v).err = s.err ∧
    (s.setSplit v).pages = s.pages ∧ (s.setSplit v).remap = s.remap ∧ (s.setSplit v).snap = s.snap ∧
    (s.setSplit v).flash = s.flash ∧ (s.setSplit v).net = s.net ∧ (s.setSplit v).boot = s.boot ∧
    (s.setSplit v).fuses = s.fuses ∧ (s.setSplit v).side = s.side ∧ (s.setSplit v).hiLatch = s.hiLatch ∧
    (s.setSplit v).loHeld = s.loHeld :=
  ⟨rfl, rfl, rfl, rfl, rfl, rfl, rfl, rfl, rfl, rfl, rfl, rfl, rfl, rfl, rfl, rfl, rfl, rfl, rfl, rfl,
    rfl, rfl, rfl, rfl, rfl, rfl, rfl, rfl, rfl, rfl, rfl, rfl, rfl, rfl, rfl, rfl⟩

@[simp] theorem State.setSplitNext_fields (s : State) (v : BitVec 7) :
    (s.setSplitNext v).pending = s.pending ∧ (s.setSplitNext v).oracle = s.oracle ∧ (s.setSplitNext v).outbox = s.outbox ∧
    (s.setSplitNext v).time = s.time ∧ (s.setSplitNext v).mem = s.mem ∧ (s.setSplitNext v).memCond = s.memCond ∧
    (s.setSplitNext v).split = s.split ∧ (s.setSplitNext v).splitNext = v ∧ (s.setSplitNext v).ctls = s.ctls ∧
    (s.setSplitNext v).cores = s.cores ∧ (s.setSplitNext v).clusters = s.clusters ∧ (s.setSplitNext v).regions = s.regions ∧
    (s.setSplitNext v).dies = s.dies ∧ (s.setSplitNext v).devq = s.devq ∧ (s.setSplitNext v).rail = s.rail ∧
    (s.setSplitNext v).ctxs = s.ctxs ∧ (s.setSplitNext v).closes = s.closes ∧ (s.setSplitNext v).ctxSel = s.ctxSel ∧
    (s.setSplitNext v).ctxWritesDropped = s.ctxWritesDropped ∧ (s.setSplitNext v).ctxCorrected = s.ctxCorrected ∧
    (s.setSplitNext v).ctxCond = s.ctxCond ∧ (s.setSplitNext v).fabric = s.fabric ∧ (s.setSplitNext v).power = s.power ∧
    (s.setSplitNext v).thermal = s.thermal ∧ (s.setSplitNext v).energy = s.energy ∧ (s.setSplitNext v).err = s.err ∧
    (s.setSplitNext v).pages = s.pages ∧ (s.setSplitNext v).remap = s.remap ∧ (s.setSplitNext v).snap = s.snap ∧
    (s.setSplitNext v).flash = s.flash ∧ (s.setSplitNext v).net = s.net ∧ (s.setSplitNext v).boot = s.boot ∧
    (s.setSplitNext v).fuses = s.fuses ∧ (s.setSplitNext v).side = s.side ∧ (s.setSplitNext v).hiLatch = s.hiLatch ∧
    (s.setSplitNext v).loHeld = s.loHeld :=
  ⟨rfl, rfl, rfl, rfl, rfl, rfl, rfl, rfl, rfl, rfl, rfl, rfl, rfl, rfl, rfl, rfl, rfl, rfl, rfl, rfl,
    rfl, rfl, rfl, rfl, rfl, rfl, rfl, rfl, rfl, rfl, rfl, rfl, rfl, rfl, rfl, rfl⟩

@[simp] theorem State.setCtls_fields (s : State) (v : NMap Ctl) :
    (s.setCtls v).pending = s.pending ∧ (s.setCtls v).oracle = s.oracle ∧ (s.setCtls v).outbox = s.outbox ∧
    (s.setCtls v).time = s.time ∧ (s.setCtls v).mem = s.mem ∧ (s.setCtls v).memCond = s.memCond ∧
    (s.setCtls v).split = s.split ∧ (s.setCtls v).splitNext = s.splitNext ∧ (s.setCtls v).ctls = v ∧
    (s.setCtls v).cores = s.cores ∧ (s.setCtls v).clusters = s.clusters ∧ (s.setCtls v).regions = s.regions ∧
    (s.setCtls v).dies = s.dies ∧ (s.setCtls v).devq = s.devq ∧ (s.setCtls v).rail = s.rail ∧ (s.setCtls v).ctxs = s.ctxs ∧
    (s.setCtls v).closes = s.closes ∧ (s.setCtls v).ctxSel = s.ctxSel ∧ (s.setCtls v).ctxWritesDropped = s.ctxWritesDropped ∧
    (s.setCtls v).ctxCorrected = s.ctxCorrected ∧ (s.setCtls v).ctxCond = s.ctxCond ∧ (s.setCtls v).fabric = s.fabric ∧
    (s.setCtls v).power = s.power ∧ (s.setCtls v).thermal = s.thermal ∧ (s.setCtls v).energy = s.energy ∧
    (s.setCtls v).err = s.err ∧ (s.setCtls v).pages = s.pages ∧ (s.setCtls v).remap = s.remap ∧ (s.setCtls v).snap = s.snap ∧
    (s.setCtls v).flash = s.flash ∧ (s.setCtls v).net = s.net ∧ (s.setCtls v).boot = s.boot ∧ (s.setCtls v).fuses = s.fuses ∧
    (s.setCtls v).side = s.side ∧ (s.setCtls v).hiLatch = s.hiLatch ∧ (s.setCtls v).loHeld = s.loHeld :=
  ⟨rfl, rfl, rfl, rfl, rfl, rfl, rfl, rfl, rfl, rfl, rfl, rfl, rfl, rfl, rfl, rfl, rfl, rfl, rfl, rfl,
    rfl, rfl, rfl, rfl, rfl, rfl, rfl, rfl, rfl, rfl, rfl, rfl, rfl, rfl, rfl, rfl⟩

@[simp] theorem State.setCores_fields (s : State) (v : NMap Core) :
    (s.setCores v).pending = s.pending ∧ (s.setCores v).oracle = s.oracle ∧ (s.setCores v).outbox = s.outbox ∧
    (s.setCores v).time = s.time ∧ (s.setCores v).mem = s.mem ∧ (s.setCores v).memCond = s.memCond ∧
    (s.setCores v).split = s.split ∧ (s.setCores v).splitNext = s.splitNext ∧ (s.setCores v).ctls = s.ctls ∧
    (s.setCores v).cores = v ∧ (s.setCores v).clusters = s.clusters ∧ (s.setCores v).regions = s.regions ∧
    (s.setCores v).dies = s.dies ∧ (s.setCores v).devq = s.devq ∧ (s.setCores v).rail = s.rail ∧ (s.setCores v).ctxs = s.ctxs ∧
    (s.setCores v).closes = s.closes ∧ (s.setCores v).ctxSel = s.ctxSel ∧
    (s.setCores v).ctxWritesDropped = s.ctxWritesDropped ∧ (s.setCores v).ctxCorrected = s.ctxCorrected ∧
    (s.setCores v).ctxCond = s.ctxCond ∧ (s.setCores v).fabric = s.fabric ∧ (s.setCores v).power = s.power ∧
    (s.setCores v).thermal = s.thermal ∧ (s.setCores v).energy = s.energy ∧ (s.setCores v).err = s.err ∧
    (s.setCores v).pages = s.pages ∧ (s.setCores v).remap = s.remap ∧ (s.setCores v).snap = s.snap ∧
    (s.setCores v).flash = s.flash ∧ (s.setCores v).net = s.net ∧ (s.setCores v).boot = s.boot ∧
    (s.setCores v).fuses = s.fuses ∧ (s.setCores v).side = s.side ∧ (s.setCores v).hiLatch = s.hiLatch ∧
    (s.setCores v).loHeld = s.loHeld :=
  ⟨rfl, rfl, rfl, rfl, rfl, rfl, rfl, rfl, rfl, rfl, rfl, rfl, rfl, rfl, rfl, rfl, rfl, rfl, rfl, rfl,
    rfl, rfl, rfl, rfl, rfl, rfl, rfl, rfl, rfl, rfl, rfl, rfl, rfl, rfl, rfl, rfl⟩

@[simp] theorem State.setClusters_fields (s : State) (v : NMap Cluster) :
    (s.setClusters v).pending = s.pending ∧ (s.setClusters v).oracle = s.oracle ∧ (s.setClusters v).outbox = s.outbox ∧
    (s.setClusters v).time = s.time ∧ (s.setClusters v).mem = s.mem ∧ (s.setClusters v).memCond = s.memCond ∧
    (s.setClusters v).split = s.split ∧ (s.setClusters v).splitNext = s.splitNext ∧ (s.setClusters v).ctls = s.ctls ∧
    (s.setClusters v).cores = s.cores ∧ (s.setClusters v).clusters = v ∧ (s.setClusters v).regions = s.regions ∧
    (s.setClusters v).dies = s.dies ∧ (s.setClusters v).devq = s.devq ∧ (s.setClusters v).rail = s.rail ∧
    (s.setClusters v).ctxs = s.ctxs ∧ (s.setClusters v).closes = s.closes ∧ (s.setClusters v).ctxSel = s.ctxSel ∧
    (s.setClusters v).ctxWritesDropped = s.ctxWritesDropped ∧ (s.setClusters v).ctxCorrected = s.ctxCorrected ∧
    (s.setClusters v).ctxCond = s.ctxCond ∧ (s.setClusters v).fabric = s.fabric ∧ (s.setClusters v).power = s.power ∧
    (s.setClusters v).thermal = s.thermal ∧ (s.setClusters v).energy = s.energy ∧ (s.setClusters v).err = s.err ∧
    (s.setClusters v).pages = s.pages ∧ (s.setClusters v).remap = s.remap ∧ (s.setClusters v).snap = s.snap ∧
    (s.setClusters v).flash = s.flash ∧ (s.setClusters v).net = s.net ∧ (s.setClusters v).boot = s.boot ∧
    (s.setClusters v).fuses = s.fuses ∧ (s.setClusters v).side = s.side ∧ (s.setClusters v).hiLatch = s.hiLatch ∧
    (s.setClusters v).loHeld = s.loHeld :=
  ⟨rfl, rfl, rfl, rfl, rfl, rfl, rfl, rfl, rfl, rfl, rfl, rfl, rfl, rfl, rfl, rfl, rfl, rfl, rfl, rfl,
    rfl, rfl, rfl, rfl, rfl, rfl, rfl, rfl, rfl, rfl, rfl, rfl, rfl, rfl, rfl, rfl⟩

@[simp] theorem State.setRegions_fields (s : State) (v : NMap Region) :
    (s.setRegions v).pending = s.pending ∧ (s.setRegions v).oracle = s.oracle ∧ (s.setRegions v).outbox = s.outbox ∧
    (s.setRegions v).time = s.time ∧ (s.setRegions v).mem = s.mem ∧ (s.setRegions v).memCond = s.memCond ∧
    (s.setRegions v).split = s.split ∧ (s.setRegions v).splitNext = s.splitNext ∧ (s.setRegions v).ctls = s.ctls ∧
    (s.setRegions v).cores = s.cores ∧ (s.setRegions v).clusters = s.clusters ∧ (s.setRegions v).regions = v ∧
    (s.setRegions v).dies = s.dies ∧ (s.setRegions v).devq = s.devq ∧ (s.setRegions v).rail = s.rail ∧
    (s.setRegions v).ctxs = s.ctxs ∧ (s.setRegions v).closes = s.closes ∧ (s.setRegions v).ctxSel = s.ctxSel ∧
    (s.setRegions v).ctxWritesDropped = s.ctxWritesDropped ∧ (s.setRegions v).ctxCorrected = s.ctxCorrected ∧
    (s.setRegions v).ctxCond = s.ctxCond ∧ (s.setRegions v).fabric = s.fabric ∧ (s.setRegions v).power = s.power ∧
    (s.setRegions v).thermal = s.thermal ∧ (s.setRegions v).energy = s.energy ∧ (s.setRegions v).err = s.err ∧
    (s.setRegions v).pages = s.pages ∧ (s.setRegions v).remap = s.remap ∧ (s.setRegions v).snap = s.snap ∧
    (s.setRegions v).flash = s.flash ∧ (s.setRegions v).net = s.net ∧ (s.setRegions v).boot = s.boot ∧
    (s.setRegions v).fuses = s.fuses ∧ (s.setRegions v).side = s.side ∧ (s.setRegions v).hiLatch = s.hiLatch ∧
    (s.setRegions v).loHeld = s.loHeld :=
  ⟨rfl, rfl, rfl, rfl, rfl, rfl, rfl, rfl, rfl, rfl, rfl, rfl, rfl, rfl, rfl, rfl, rfl, rfl, rfl, rfl,
    rfl, rfl, rfl, rfl, rfl, rfl, rfl, rfl, rfl, rfl, rfl, rfl, rfl, rfl, rfl, rfl⟩

@[simp] theorem State.setDies_fields (s : State) (v : NMap Die) :
    (s.setDies v).pending = s.pending ∧ (s.setDies v).oracle = s.oracle ∧ (s.setDies v).outbox = s.outbox ∧
    (s.setDies v).time = s.time ∧ (s.setDies v).mem = s.mem ∧ (s.setDies v).memCond = s.memCond ∧
    (s.setDies v).split = s.split ∧ (s.setDies v).splitNext = s.splitNext ∧ (s.setDies v).ctls = s.ctls ∧
    (s.setDies v).cores = s.cores ∧ (s.setDies v).clusters = s.clusters ∧ (s.setDies v).regions = s.regions ∧
    (s.setDies v).dies = v ∧ (s.setDies v).devq = s.devq ∧ (s.setDies v).rail = s.rail ∧ (s.setDies v).ctxs = s.ctxs ∧
    (s.setDies v).closes = s.closes ∧ (s.setDies v).ctxSel = s.ctxSel ∧ (s.setDies v).ctxWritesDropped = s.ctxWritesDropped ∧
    (s.setDies v).ctxCorrected = s.ctxCorrected ∧ (s.setDies v).ctxCond = s.ctxCond ∧ (s.setDies v).fabric = s.fabric ∧
    (s.setDies v).power = s.power ∧ (s.setDies v).thermal = s.thermal ∧ (s.setDies v).energy = s.energy ∧
    (s.setDies v).err = s.err ∧ (s.setDies v).pages = s.pages ∧ (s.setDies v).remap = s.remap ∧ (s.setDies v).snap = s.snap ∧
    (s.setDies v).flash = s.flash ∧ (s.setDies v).net = s.net ∧ (s.setDies v).boot = s.boot ∧ (s.setDies v).fuses = s.fuses ∧
    (s.setDies v).side = s.side ∧ (s.setDies v).hiLatch = s.hiLatch ∧ (s.setDies v).loHeld = s.loHeld :=
  ⟨rfl, rfl, rfl, rfl, rfl, rfl, rfl, rfl, rfl, rfl, rfl, rfl, rfl, rfl, rfl, rfl, rfl, rfl, rfl, rfl,
    rfl, rfl, rfl, rfl, rfl, rfl, rfl, rfl, rfl, rfl, rfl, rfl, rfl, rfl, rfl, rfl⟩

@[simp] theorem State.setDevq_fields (s : State) (v : NMap QState) :
    (s.setDevq v).pending = s.pending ∧ (s.setDevq v).oracle = s.oracle ∧ (s.setDevq v).outbox = s.outbox ∧
    (s.setDevq v).time = s.time ∧ (s.setDevq v).mem = s.mem ∧ (s.setDevq v).memCond = s.memCond ∧
    (s.setDevq v).split = s.split ∧ (s.setDevq v).splitNext = s.splitNext ∧ (s.setDevq v).ctls = s.ctls ∧
    (s.setDevq v).cores = s.cores ∧ (s.setDevq v).clusters = s.clusters ∧ (s.setDevq v).regions = s.regions ∧
    (s.setDevq v).dies = s.dies ∧ (s.setDevq v).devq = v ∧ (s.setDevq v).rail = s.rail ∧ (s.setDevq v).ctxs = s.ctxs ∧
    (s.setDevq v).closes = s.closes ∧ (s.setDevq v).ctxSel = s.ctxSel ∧ (s.setDevq v).ctxWritesDropped = s.ctxWritesDropped ∧
    (s.setDevq v).ctxCorrected = s.ctxCorrected ∧ (s.setDevq v).ctxCond = s.ctxCond ∧ (s.setDevq v).fabric = s.fabric ∧
    (s.setDevq v).power = s.power ∧ (s.setDevq v).thermal = s.thermal ∧ (s.setDevq v).energy = s.energy ∧
    (s.setDevq v).err = s.err ∧ (s.setDevq v).pages = s.pages ∧ (s.setDevq v).remap = s.remap ∧ (s.setDevq v).snap = s.snap ∧
    (s.setDevq v).flash = s.flash ∧ (s.setDevq v).net = s.net ∧ (s.setDevq v).boot = s.boot ∧ (s.setDevq v).fuses = s.fuses ∧
    (s.setDevq v).side = s.side ∧ (s.setDevq v).hiLatch = s.hiLatch ∧ (s.setDevq v).loHeld = s.loHeld :=
  ⟨rfl, rfl, rfl, rfl, rfl, rfl, rfl, rfl, rfl, rfl, rfl, rfl, rfl, rfl, rfl, rfl, rfl, rfl, rfl, rfl,
    rfl, rfl, rfl, rfl, rfl, rfl, rfl, rfl, rfl, rfl, rfl, rfl, rfl, rfl, rfl, rfl⟩

@[simp] theorem State.setRail_fields (s : State) (v : Rail) :
    (s.setRail v).pending = s.pending ∧ (s.setRail v).oracle = s.oracle ∧ (s.setRail v).outbox = s.outbox ∧
    (s.setRail v).time = s.time ∧ (s.setRail v).mem = s.mem ∧ (s.setRail v).memCond = s.memCond ∧
    (s.setRail v).split = s.split ∧ (s.setRail v).splitNext = s.splitNext ∧ (s.setRail v).ctls = s.ctls ∧
    (s.setRail v).cores = s.cores ∧ (s.setRail v).clusters = s.clusters ∧ (s.setRail v).regions = s.regions ∧
    (s.setRail v).dies = s.dies ∧ (s.setRail v).devq = s.devq ∧ (s.setRail v).rail = v ∧ (s.setRail v).ctxs = s.ctxs ∧
    (s.setRail v).closes = s.closes ∧ (s.setRail v).ctxSel = s.ctxSel ∧ (s.setRail v).ctxWritesDropped = s.ctxWritesDropped ∧
    (s.setRail v).ctxCorrected = s.ctxCorrected ∧ (s.setRail v).ctxCond = s.ctxCond ∧ (s.setRail v).fabric = s.fabric ∧
    (s.setRail v).power = s.power ∧ (s.setRail v).thermal = s.thermal ∧ (s.setRail v).energy = s.energy ∧
    (s.setRail v).err = s.err ∧ (s.setRail v).pages = s.pages ∧ (s.setRail v).remap = s.remap ∧ (s.setRail v).snap = s.snap ∧
    (s.setRail v).flash = s.flash ∧ (s.setRail v).net = s.net ∧ (s.setRail v).boot = s.boot ∧ (s.setRail v).fuses = s.fuses ∧
    (s.setRail v).side = s.side ∧ (s.setRail v).hiLatch = s.hiLatch ∧ (s.setRail v).loHeld = s.loHeld :=
  ⟨rfl, rfl, rfl, rfl, rfl, rfl, rfl, rfl, rfl, rfl, rfl, rfl, rfl, rfl, rfl, rfl, rfl, rfl, rfl, rfl,
    rfl, rfl, rfl, rfl, rfl, rfl, rfl, rfl, rfl, rfl, rfl, rfl, rfl, rfl, rfl, rfl⟩

@[simp] theorem State.setCtxs_fields (s : State) (v : NMap Ctx) :
    (s.setCtxs v).pending = s.pending ∧ (s.setCtxs v).oracle = s.oracle ∧ (s.setCtxs v).outbox = s.outbox ∧
    (s.setCtxs v).time = s.time ∧ (s.setCtxs v).mem = s.mem ∧ (s.setCtxs v).memCond = s.memCond ∧
    (s.setCtxs v).split = s.split ∧ (s.setCtxs v).splitNext = s.splitNext ∧ (s.setCtxs v).ctls = s.ctls ∧
    (s.setCtxs v).cores = s.cores ∧ (s.setCtxs v).clusters = s.clusters ∧ (s.setCtxs v).regions = s.regions ∧
    (s.setCtxs v).dies = s.dies ∧ (s.setCtxs v).devq = s.devq ∧ (s.setCtxs v).rail = s.rail ∧ (s.setCtxs v).ctxs = v ∧
    (s.setCtxs v).closes = s.closes ∧ (s.setCtxs v).ctxSel = s.ctxSel ∧ (s.setCtxs v).ctxWritesDropped = s.ctxWritesDropped ∧
    (s.setCtxs v).ctxCorrected = s.ctxCorrected ∧ (s.setCtxs v).ctxCond = s.ctxCond ∧ (s.setCtxs v).fabric = s.fabric ∧
    (s.setCtxs v).power = s.power ∧ (s.setCtxs v).thermal = s.thermal ∧ (s.setCtxs v).energy = s.energy ∧
    (s.setCtxs v).err = s.err ∧ (s.setCtxs v).pages = s.pages ∧ (s.setCtxs v).remap = s.remap ∧ (s.setCtxs v).snap = s.snap ∧
    (s.setCtxs v).flash = s.flash ∧ (s.setCtxs v).net = s.net ∧ (s.setCtxs v).boot = s.boot ∧ (s.setCtxs v).fuses = s.fuses ∧
    (s.setCtxs v).side = s.side ∧ (s.setCtxs v).hiLatch = s.hiLatch ∧ (s.setCtxs v).loHeld = s.loHeld :=
  ⟨rfl, rfl, rfl, rfl, rfl, rfl, rfl, rfl, rfl, rfl, rfl, rfl, rfl, rfl, rfl, rfl, rfl, rfl, rfl, rfl,
    rfl, rfl, rfl, rfl, rfl, rfl, rfl, rfl, rfl, rfl, rfl, rfl, rfl, rfl, rfl, rfl⟩

@[simp] theorem State.setCloses_fields (s : State) (v : List Close) :
    (s.setCloses v).pending = s.pending ∧ (s.setCloses v).oracle = s.oracle ∧ (s.setCloses v).outbox = s.outbox ∧
    (s.setCloses v).time = s.time ∧ (s.setCloses v).mem = s.mem ∧ (s.setCloses v).memCond = s.memCond ∧
    (s.setCloses v).split = s.split ∧ (s.setCloses v).splitNext = s.splitNext ∧ (s.setCloses v).ctls = s.ctls ∧
    (s.setCloses v).cores = s.cores ∧ (s.setCloses v).clusters = s.clusters ∧ (s.setCloses v).regions = s.regions ∧
    (s.setCloses v).dies = s.dies ∧ (s.setCloses v).devq = s.devq ∧ (s.setCloses v).rail = s.rail ∧
    (s.setCloses v).ctxs = s.ctxs ∧ (s.setCloses v).closes = v ∧ (s.setCloses v).ctxSel = s.ctxSel ∧
    (s.setCloses v).ctxWritesDropped = s.ctxWritesDropped ∧ (s.setCloses v).ctxCorrected = s.ctxCorrected ∧
    (s.setCloses v).ctxCond = s.ctxCond ∧ (s.setCloses v).fabric = s.fabric ∧ (s.setCloses v).power = s.power ∧
    (s.setCloses v).thermal = s.thermal ∧ (s.setCloses v).energy = s.energy ∧ (s.setCloses v).err = s.err ∧
    (s.setCloses v).pages = s.pages ∧ (s.setCloses v).remap = s.remap ∧ (s.setCloses v).snap = s.snap ∧
    (s.setCloses v).flash = s.flash ∧ (s.setCloses v).net = s.net ∧ (s.setCloses v).boot = s.boot ∧
    (s.setCloses v).fuses = s.fuses ∧ (s.setCloses v).side = s.side ∧ (s.setCloses v).hiLatch = s.hiLatch ∧
    (s.setCloses v).loHeld = s.loHeld :=
  ⟨rfl, rfl, rfl, rfl, rfl, rfl, rfl, rfl, rfl, rfl, rfl, rfl, rfl, rfl, rfl, rfl, rfl, rfl, rfl, rfl,
    rfl, rfl, rfl, rfl, rfl, rfl, rfl, rfl, rfl, rfl, rfl, rfl, rfl, rfl, rfl, rfl⟩

@[simp] theorem State.setCtxSel_fields (s : State) (v : BitVec 16) :
    (s.setCtxSel v).pending = s.pending ∧ (s.setCtxSel v).oracle = s.oracle ∧ (s.setCtxSel v).outbox = s.outbox ∧
    (s.setCtxSel v).time = s.time ∧ (s.setCtxSel v).mem = s.mem ∧ (s.setCtxSel v).memCond = s.memCond ∧
    (s.setCtxSel v).split = s.split ∧ (s.setCtxSel v).splitNext = s.splitNext ∧ (s.setCtxSel v).ctls = s.ctls ∧
    (s.setCtxSel v).cores = s.cores ∧ (s.setCtxSel v).clusters = s.clusters ∧ (s.setCtxSel v).regions = s.regions ∧
    (s.setCtxSel v).dies = s.dies ∧ (s.setCtxSel v).devq = s.devq ∧ (s.setCtxSel v).rail = s.rail ∧
    (s.setCtxSel v).ctxs = s.ctxs ∧ (s.setCtxSel v).closes = s.closes ∧ (s.setCtxSel v).ctxSel = v ∧
    (s.setCtxSel v).ctxWritesDropped = s.ctxWritesDropped ∧ (s.setCtxSel v).ctxCorrected = s.ctxCorrected ∧
    (s.setCtxSel v).ctxCond = s.ctxCond ∧ (s.setCtxSel v).fabric = s.fabric ∧ (s.setCtxSel v).power = s.power ∧
    (s.setCtxSel v).thermal = s.thermal ∧ (s.setCtxSel v).energy = s.energy ∧ (s.setCtxSel v).err = s.err ∧
    (s.setCtxSel v).pages = s.pages ∧ (s.setCtxSel v).remap = s.remap ∧ (s.setCtxSel v).snap = s.snap ∧
    (s.setCtxSel v).flash = s.flash ∧ (s.setCtxSel v).net = s.net ∧ (s.setCtxSel v).boot = s.boot ∧
    (s.setCtxSel v).fuses = s.fuses ∧ (s.setCtxSel v).side = s.side ∧ (s.setCtxSel v).hiLatch = s.hiLatch ∧
    (s.setCtxSel v).loHeld = s.loHeld :=
  ⟨rfl, rfl, rfl, rfl, rfl, rfl, rfl, rfl, rfl, rfl, rfl, rfl, rfl, rfl, rfl, rfl, rfl, rfl, rfl, rfl,
    rfl, rfl, rfl, rfl, rfl, rfl, rfl, rfl, rfl, rfl, rfl, rfl, rfl, rfl, rfl, rfl⟩

@[simp] theorem State.setCtxWritesDropped_fields (s : State) (v : Word) :
    (s.setCtxWritesDropped v).pending = s.pending ∧ (s.setCtxWritesDropped v).oracle = s.oracle ∧
    (s.setCtxWritesDropped v).outbox = s.outbox ∧ (s.setCtxWritesDropped v).time = s.time ∧
    (s.setCtxWritesDropped v).mem = s.mem ∧ (s.setCtxWritesDropped v).memCond = s.memCond ∧
    (s.setCtxWritesDropped v).split = s.split ∧ (s.setCtxWritesDropped v).splitNext = s.splitNext ∧
    (s.setCtxWritesDropped v).ctls = s.ctls ∧ (s.setCtxWritesDropped v).cores = s.cores ∧
    (s.setCtxWritesDropped v).clusters = s.clusters ∧ (s.setCtxWritesDropped v).regions = s.regions ∧
    (s.setCtxWritesDropped v).dies = s.dies ∧ (s.setCtxWritesDropped v).devq = s.devq ∧
    (s.setCtxWritesDropped v).rail = s.rail ∧ (s.setCtxWritesDropped v).ctxs = s.ctxs ∧
    (s.setCtxWritesDropped v).closes = s.closes ∧ (s.setCtxWritesDropped v).ctxSel = s.ctxSel ∧
    (s.setCtxWritesDropped v).ctxWritesDropped = v ∧ (s.setCtxWritesDropped v).ctxCorrected = s.ctxCorrected ∧
    (s.setCtxWritesDropped v).ctxCond = s.ctxCond ∧ (s.setCtxWritesDropped v).fabric = s.fabric ∧
    (s.setCtxWritesDropped v).power = s.power ∧ (s.setCtxWritesDropped v).thermal = s.thermal ∧
    (s.setCtxWritesDropped v).energy = s.energy ∧ (s.setCtxWritesDropped v).err = s.err ∧
    (s.setCtxWritesDropped v).pages = s.pages ∧ (s.setCtxWritesDropped v).remap = s.remap ∧
    (s.setCtxWritesDropped v).snap = s.snap ∧ (s.setCtxWritesDropped v).flash = s.flash ∧
    (s.setCtxWritesDropped v).net = s.net ∧ (s.setCtxWritesDropped v).boot = s.boot ∧
    (s.setCtxWritesDropped v).fuses = s.fuses ∧ (s.setCtxWritesDropped v).side = s.side ∧
    (s.setCtxWritesDropped v).hiLatch = s.hiLatch ∧ (s.setCtxWritesDropped v).loHeld = s.loHeld :=
  ⟨rfl, rfl, rfl, rfl, rfl, rfl, rfl, rfl, rfl, rfl, rfl, rfl, rfl, rfl, rfl, rfl, rfl, rfl, rfl, rfl,
    rfl, rfl, rfl, rfl, rfl, rfl, rfl, rfl, rfl, rfl, rfl, rfl, rfl, rfl, rfl, rfl⟩

@[simp] theorem State.setCtxCorrected_fields (s : State) (v : Word) :
    (s.setCtxCorrected v).pending = s.pending ∧ (s.setCtxCorrected v).oracle = s.oracle ∧
    (s.setCtxCorrected v).outbox = s.outbox ∧ (s.setCtxCorrected v).time = s.time ∧ (s.setCtxCorrected v).mem = s.mem ∧
    (s.setCtxCorrected v).memCond = s.memCond ∧ (s.setCtxCorrected v).split = s.split ∧
    (s.setCtxCorrected v).splitNext = s.splitNext ∧ (s.setCtxCorrected v).ctls = s.ctls ∧
    (s.setCtxCorrected v).cores = s.cores ∧ (s.setCtxCorrected v).clusters = s.clusters ∧
    (s.setCtxCorrected v).regions = s.regions ∧ (s.setCtxCorrected v).dies = s.dies ∧ (s.setCtxCorrected v).devq = s.devq ∧
    (s.setCtxCorrected v).rail = s.rail ∧ (s.setCtxCorrected v).ctxs = s.ctxs ∧ (s.setCtxCorrected v).closes = s.closes ∧
    (s.setCtxCorrected v).ctxSel = s.ctxSel ∧ (s.setCtxCorrected v).ctxWritesDropped = s.ctxWritesDropped ∧
    (s.setCtxCorrected v).ctxCorrected = v ∧ (s.setCtxCorrected v).ctxCond = s.ctxCond ∧
    (s.setCtxCorrected v).fabric = s.fabric ∧ (s.setCtxCorrected v).power = s.power ∧
    (s.setCtxCorrected v).thermal = s.thermal ∧ (s.setCtxCorrected v).energy = s.energy ∧ (s.setCtxCorrected v).err = s.err ∧
    (s.setCtxCorrected v).pages = s.pages ∧ (s.setCtxCorrected v).remap = s.remap ∧ (s.setCtxCorrected v).snap = s.snap ∧
    (s.setCtxCorrected v).flash = s.flash ∧ (s.setCtxCorrected v).net = s.net ∧ (s.setCtxCorrected v).boot = s.boot ∧
    (s.setCtxCorrected v).fuses = s.fuses ∧ (s.setCtxCorrected v).side = s.side ∧ (s.setCtxCorrected v).hiLatch = s.hiLatch ∧
    (s.setCtxCorrected v).loHeld = s.loHeld :=
  ⟨rfl, rfl, rfl, rfl, rfl, rfl, rfl, rfl, rfl, rfl, rfl, rfl, rfl, rfl, rfl, rfl, rfl, rfl, rfl, rfl,
    rfl, rfl, rfl, rfl, rfl, rfl, rfl, rfl, rfl, rfl, rfl, rfl, rfl, rfl, rfl, rfl⟩

@[simp] theorem State.setCtxCond_fields (s : State) (v : NMap WordCond) :
    (s.setCtxCond v).pending = s.pending ∧ (s.setCtxCond v).oracle = s.oracle ∧ (s.setCtxCond v).outbox = s.outbox ∧
    (s.setCtxCond v).time = s.time ∧ (s.setCtxCond v).mem = s.mem ∧ (s.setCtxCond v).memCond = s.memCond ∧
    (s.setCtxCond v).split = s.split ∧ (s.setCtxCond v).splitNext = s.splitNext ∧ (s.setCtxCond v).ctls = s.ctls ∧
    (s.setCtxCond v).cores = s.cores ∧ (s.setCtxCond v).clusters = s.clusters ∧ (s.setCtxCond v).regions = s.regions ∧
    (s.setCtxCond v).dies = s.dies ∧ (s.setCtxCond v).devq = s.devq ∧ (s.setCtxCond v).rail = s.rail ∧
    (s.setCtxCond v).ctxs = s.ctxs ∧ (s.setCtxCond v).closes = s.closes ∧ (s.setCtxCond v).ctxSel = s.ctxSel ∧
    (s.setCtxCond v).ctxWritesDropped = s.ctxWritesDropped ∧ (s.setCtxCond v).ctxCorrected = s.ctxCorrected ∧
    (s.setCtxCond v).ctxCond = v ∧ (s.setCtxCond v).fabric = s.fabric ∧ (s.setCtxCond v).power = s.power ∧
    (s.setCtxCond v).thermal = s.thermal ∧ (s.setCtxCond v).energy = s.energy ∧ (s.setCtxCond v).err = s.err ∧
    (s.setCtxCond v).pages = s.pages ∧ (s.setCtxCond v).remap = s.remap ∧ (s.setCtxCond v).snap = s.snap ∧
    (s.setCtxCond v).flash = s.flash ∧ (s.setCtxCond v).net = s.net ∧ (s.setCtxCond v).boot = s.boot ∧
    (s.setCtxCond v).fuses = s.fuses ∧ (s.setCtxCond v).side = s.side ∧ (s.setCtxCond v).hiLatch = s.hiLatch ∧
    (s.setCtxCond v).loHeld = s.loHeld :=
  ⟨rfl, rfl, rfl, rfl, rfl, rfl, rfl, rfl, rfl, rfl, rfl, rfl, rfl, rfl, rfl, rfl, rfl, rfl, rfl, rfl,
    rfl, rfl, rfl, rfl, rfl, rfl, rfl, rfl, rfl, rfl, rfl, rfl, rfl, rfl, rfl, rfl⟩

@[simp] theorem State.setFabric_fields (s : State) (v : List Signal) :
    (s.setFabric v).pending = s.pending ∧ (s.setFabric v).oracle = s.oracle ∧ (s.setFabric v).outbox = s.outbox ∧
    (s.setFabric v).time = s.time ∧ (s.setFabric v).mem = s.mem ∧ (s.setFabric v).memCond = s.memCond ∧
    (s.setFabric v).split = s.split ∧ (s.setFabric v).splitNext = s.splitNext ∧ (s.setFabric v).ctls = s.ctls ∧
    (s.setFabric v).cores = s.cores ∧ (s.setFabric v).clusters = s.clusters ∧ (s.setFabric v).regions = s.regions ∧
    (s.setFabric v).dies = s.dies ∧ (s.setFabric v).devq = s.devq ∧ (s.setFabric v).rail = s.rail ∧
    (s.setFabric v).ctxs = s.ctxs ∧ (s.setFabric v).closes = s.closes ∧ (s.setFabric v).ctxSel = s.ctxSel ∧
    (s.setFabric v).ctxWritesDropped = s.ctxWritesDropped ∧ (s.setFabric v).ctxCorrected = s.ctxCorrected ∧
    (s.setFabric v).ctxCond = s.ctxCond ∧ (s.setFabric v).fabric = v ∧ (s.setFabric v).power = s.power ∧
    (s.setFabric v).thermal = s.thermal ∧ (s.setFabric v).energy = s.energy ∧ (s.setFabric v).err = s.err ∧
    (s.setFabric v).pages = s.pages ∧ (s.setFabric v).remap = s.remap ∧ (s.setFabric v).snap = s.snap ∧
    (s.setFabric v).flash = s.flash ∧ (s.setFabric v).net = s.net ∧ (s.setFabric v).boot = s.boot ∧
    (s.setFabric v).fuses = s.fuses ∧ (s.setFabric v).side = s.side ∧ (s.setFabric v).hiLatch = s.hiLatch ∧
    (s.setFabric v).loHeld = s.loHeld :=
  ⟨rfl, rfl, rfl, rfl, rfl, rfl, rfl, rfl, rfl, rfl, rfl, rfl, rfl, rfl, rfl, rfl, rfl, rfl, rfl, rfl,
    rfl, rfl, rfl, rfl, rfl, rfl, rfl, rfl, rfl, rfl, rfl, rfl, rfl, rfl, rfl, rfl⟩

@[simp] theorem State.setPower_fields (s : State) (v : Power) :
    (s.setPower v).pending = s.pending ∧ (s.setPower v).oracle = s.oracle ∧ (s.setPower v).outbox = s.outbox ∧
    (s.setPower v).time = s.time ∧ (s.setPower v).mem = s.mem ∧ (s.setPower v).memCond = s.memCond ∧
    (s.setPower v).split = s.split ∧ (s.setPower v).splitNext = s.splitNext ∧ (s.setPower v).ctls = s.ctls ∧
    (s.setPower v).cores = s.cores ∧ (s.setPower v).clusters = s.clusters ∧ (s.setPower v).regions = s.regions ∧
    (s.setPower v).dies = s.dies ∧ (s.setPower v).devq = s.devq ∧ (s.setPower v).rail = s.rail ∧ (s.setPower v).ctxs = s.ctxs ∧
    (s.setPower v).closes = s.closes ∧ (s.setPower v).ctxSel = s.ctxSel ∧
    (s.setPower v).ctxWritesDropped = s.ctxWritesDropped ∧ (s.setPower v).ctxCorrected = s.ctxCorrected ∧
    (s.setPower v).ctxCond = s.ctxCond ∧ (s.setPower v).fabric = s.fabric ∧ (s.setPower v).power = v ∧
    (s.setPower v).thermal = s.thermal ∧ (s.setPower v).energy = s.energy ∧ (s.setPower v).err = s.err ∧
    (s.setPower v).pages = s.pages ∧ (s.setPower v).remap = s.remap ∧ (s.setPower v).snap = s.snap ∧
    (s.setPower v).flash = s.flash ∧ (s.setPower v).net = s.net ∧ (s.setPower v).boot = s.boot ∧
    (s.setPower v).fuses = s.fuses ∧ (s.setPower v).side = s.side ∧ (s.setPower v).hiLatch = s.hiLatch ∧
    (s.setPower v).loHeld = s.loHeld :=
  ⟨rfl, rfl, rfl, rfl, rfl, rfl, rfl, rfl, rfl, rfl, rfl, rfl, rfl, rfl, rfl, rfl, rfl, rfl, rfl, rfl,
    rfl, rfl, rfl, rfl, rfl, rfl, rfl, rfl, rfl, rfl, rfl, rfl, rfl, rfl, rfl, rfl⟩

@[simp] theorem State.setThermal_fields (s : State) (v : Thermal) :
    (s.setThermal v).pending = s.pending ∧ (s.setThermal v).oracle = s.oracle ∧ (s.setThermal v).outbox = s.outbox ∧
    (s.setThermal v).time = s.time ∧ (s.setThermal v).mem = s.mem ∧ (s.setThermal v).memCond = s.memCond ∧
    (s.setThermal v).split = s.split ∧ (s.setThermal v).splitNext = s.splitNext ∧ (s.setThermal v).ctls = s.ctls ∧
    (s.setThermal v).cores = s.cores ∧ (s.setThermal v).clusters = s.clusters ∧ (s.setThermal v).regions = s.regions ∧
    (s.setThermal v).dies = s.dies ∧ (s.setThermal v).devq = s.devq ∧ (s.setThermal v).rail = s.rail ∧
    (s.setThermal v).ctxs = s.ctxs ∧ (s.setThermal v).closes = s.closes ∧ (s.setThermal v).ctxSel = s.ctxSel ∧
    (s.setThermal v).ctxWritesDropped = s.ctxWritesDropped ∧ (s.setThermal v).ctxCorrected = s.ctxCorrected ∧
    (s.setThermal v).ctxCond = s.ctxCond ∧ (s.setThermal v).fabric = s.fabric ∧ (s.setThermal v).power = s.power ∧
    (s.setThermal v).thermal = v ∧ (s.setThermal v).energy = s.energy ∧ (s.setThermal v).err = s.err ∧
    (s.setThermal v).pages = s.pages ∧ (s.setThermal v).remap = s.remap ∧ (s.setThermal v).snap = s.snap ∧
    (s.setThermal v).flash = s.flash ∧ (s.setThermal v).net = s.net ∧ (s.setThermal v).boot = s.boot ∧
    (s.setThermal v).fuses = s.fuses ∧ (s.setThermal v).side = s.side ∧ (s.setThermal v).hiLatch = s.hiLatch ∧
    (s.setThermal v).loHeld = s.loHeld :=
  ⟨rfl, rfl, rfl, rfl, rfl, rfl, rfl, rfl, rfl, rfl, rfl, rfl, rfl, rfl, rfl, rfl, rfl, rfl, rfl, rfl,
    rfl, rfl, rfl, rfl, rfl, rfl, rfl, rfl, rfl, rfl, rfl, rfl, rfl, rfl, rfl, rfl⟩

@[simp] theorem State.setEnergy_fields (s : State) (v : Energy) :
    (s.setEnergy v).pending = s.pending ∧ (s.setEnergy v).oracle = s.oracle ∧ (s.setEnergy v).outbox = s.outbox ∧
    (s.setEnergy v).time = s.time ∧ (s.setEnergy v).mem = s.mem ∧ (s.setEnergy v).memCond = s.memCond ∧
    (s.setEnergy v).split = s.split ∧ (s.setEnergy v).splitNext = s.splitNext ∧ (s.setEnergy v).ctls = s.ctls ∧
    (s.setEnergy v).cores = s.cores ∧ (s.setEnergy v).clusters = s.clusters ∧ (s.setEnergy v).regions = s.regions ∧
    (s.setEnergy v).dies = s.dies ∧ (s.setEnergy v).devq = s.devq ∧ (s.setEnergy v).rail = s.rail ∧
    (s.setEnergy v).ctxs = s.ctxs ∧ (s.setEnergy v).closes = s.closes ∧ (s.setEnergy v).ctxSel = s.ctxSel ∧
    (s.setEnergy v).ctxWritesDropped = s.ctxWritesDropped ∧ (s.setEnergy v).ctxCorrected = s.ctxCorrected ∧
    (s.setEnergy v).ctxCond = s.ctxCond ∧ (s.setEnergy v).fabric = s.fabric ∧ (s.setEnergy v).power = s.power ∧
    (s.setEnergy v).thermal = s.thermal ∧ (s.setEnergy v).energy = v ∧ (s.setEnergy v).err = s.err ∧
    (s.setEnergy v).pages = s.pages ∧ (s.setEnergy v).remap = s.remap ∧ (s.setEnergy v).snap = s.snap ∧
    (s.setEnergy v).flash = s.flash ∧ (s.setEnergy v).net = s.net ∧ (s.setEnergy v).boot = s.boot ∧
    (s.setEnergy v).fuses = s.fuses ∧ (s.setEnergy v).side = s.side ∧ (s.setEnergy v).hiLatch = s.hiLatch ∧
    (s.setEnergy v).loHeld = s.loHeld :=
  ⟨rfl, rfl, rfl, rfl, rfl, rfl, rfl, rfl, rfl, rfl, rfl, rfl, rfl, rfl, rfl, rfl, rfl, rfl, rfl, rfl,
    rfl, rfl, rfl, rfl, rfl, rfl, rfl, rfl, rfl, rfl, rfl, rfl, rfl, rfl, rfl, rfl⟩

@[simp] theorem State.setErr_fields (s : State) (v : ErrAgg) :
    (s.setErr v).pending = s.pending ∧ (s.setErr v).oracle = s.oracle ∧ (s.setErr v).outbox = s.outbox ∧
    (s.setErr v).time = s.time ∧ (s.setErr v).mem = s.mem ∧ (s.setErr v).memCond = s.memCond ∧ (s.setErr v).split = s.split ∧
    (s.setErr v).splitNext = s.splitNext ∧ (s.setErr v).ctls = s.ctls ∧ (s.setErr v).cores = s.cores ∧
    (s.setErr v).clusters = s.clusters ∧ (s.setErr v).regions = s.regions ∧ (s.setErr v).dies = s.dies ∧
    (s.setErr v).devq = s.devq ∧ (s.setErr v).rail = s.rail ∧ (s.setErr v).ctxs = s.ctxs ∧ (s.setErr v).closes = s.closes ∧
    (s.setErr v).ctxSel = s.ctxSel ∧ (s.setErr v).ctxWritesDropped = s.ctxWritesDropped ∧
    (s.setErr v).ctxCorrected = s.ctxCorrected ∧ (s.setErr v).ctxCond = s.ctxCond ∧ (s.setErr v).fabric = s.fabric ∧
    (s.setErr v).power = s.power ∧ (s.setErr v).thermal = s.thermal ∧ (s.setErr v).energy = s.energy ∧ (s.setErr v).err = v ∧
    (s.setErr v).pages = s.pages ∧ (s.setErr v).remap = s.remap ∧ (s.setErr v).snap = s.snap ∧ (s.setErr v).flash = s.flash ∧
    (s.setErr v).net = s.net ∧ (s.setErr v).boot = s.boot ∧ (s.setErr v).fuses = s.fuses ∧ (s.setErr v).side = s.side ∧
    (s.setErr v).hiLatch = s.hiLatch ∧ (s.setErr v).loHeld = s.loHeld :=
  ⟨rfl, rfl, rfl, rfl, rfl, rfl, rfl, rfl, rfl, rfl, rfl, rfl, rfl, rfl, rfl, rfl, rfl, rfl, rfl, rfl,
    rfl, rfl, rfl, rfl, rfl, rfl, rfl, rfl, rfl, rfl, rfl, rfl, rfl, rfl, rfl, rfl⟩

@[simp] theorem State.setPages_fields (s : State) (v : NMap PageHdr) :
    (s.setPages v).pending = s.pending ∧ (s.setPages v).oracle = s.oracle ∧ (s.setPages v).outbox = s.outbox ∧
    (s.setPages v).time = s.time ∧ (s.setPages v).mem = s.mem ∧ (s.setPages v).memCond = s.memCond ∧
    (s.setPages v).split = s.split ∧ (s.setPages v).splitNext = s.splitNext ∧ (s.setPages v).ctls = s.ctls ∧
    (s.setPages v).cores = s.cores ∧ (s.setPages v).clusters = s.clusters ∧ (s.setPages v).regions = s.regions ∧
    (s.setPages v).dies = s.dies ∧ (s.setPages v).devq = s.devq ∧ (s.setPages v).rail = s.rail ∧ (s.setPages v).ctxs = s.ctxs ∧
    (s.setPages v).closes = s.closes ∧ (s.setPages v).ctxSel = s.ctxSel ∧
    (s.setPages v).ctxWritesDropped = s.ctxWritesDropped ∧ (s.setPages v).ctxCorrected = s.ctxCorrected ∧
    (s.setPages v).ctxCond = s.ctxCond ∧ (s.setPages v).fabric = s.fabric ∧ (s.setPages v).power = s.power ∧
    (s.setPages v).thermal = s.thermal ∧ (s.setPages v).energy = s.energy ∧ (s.setPages v).err = s.err ∧
    (s.setPages v).pages = v ∧ (s.setPages v).remap = s.remap ∧ (s.setPages v).snap = s.snap ∧ (s.setPages v).flash = s.flash ∧
    (s.setPages v).net = s.net ∧ (s.setPages v).boot = s.boot ∧ (s.setPages v).fuses = s.fuses ∧ (s.setPages v).side = s.side ∧
    (s.setPages v).hiLatch = s.hiLatch ∧ (s.setPages v).loHeld = s.loHeld :=
  ⟨rfl, rfl, rfl, rfl, rfl, rfl, rfl, rfl, rfl, rfl, rfl, rfl, rfl, rfl, rfl, rfl, rfl, rfl, rfl, rfl,
    rfl, rfl, rfl, rfl, rfl, rfl, rfl, rfl, rfl, rfl, rfl, rfl, rfl, rfl, rfl, rfl⟩

@[simp] theorem State.setRemap_fields (s : State) (v : Remap) :
    (s.setRemap v).pending = s.pending ∧ (s.setRemap v).oracle = s.oracle ∧ (s.setRemap v).outbox = s.outbox ∧
    (s.setRemap v).time = s.time ∧ (s.setRemap v).mem = s.mem ∧ (s.setRemap v).memCond = s.memCond ∧
    (s.setRemap v).split = s.split ∧ (s.setRemap v).splitNext = s.splitNext ∧ (s.setRemap v).ctls = s.ctls ∧
    (s.setRemap v).cores = s.cores ∧ (s.setRemap v).clusters = s.clusters ∧ (s.setRemap v).regions = s.regions ∧
    (s.setRemap v).dies = s.dies ∧ (s.setRemap v).devq = s.devq ∧ (s.setRemap v).rail = s.rail ∧ (s.setRemap v).ctxs = s.ctxs ∧
    (s.setRemap v).closes = s.closes ∧ (s.setRemap v).ctxSel = s.ctxSel ∧
    (s.setRemap v).ctxWritesDropped = s.ctxWritesDropped ∧ (s.setRemap v).ctxCorrected = s.ctxCorrected ∧
    (s.setRemap v).ctxCond = s.ctxCond ∧ (s.setRemap v).fabric = s.fabric ∧ (s.setRemap v).power = s.power ∧
    (s.setRemap v).thermal = s.thermal ∧ (s.setRemap v).energy = s.energy ∧ (s.setRemap v).err = s.err ∧
    (s.setRemap v).pages = s.pages ∧ (s.setRemap v).remap = v ∧ (s.setRemap v).snap = s.snap ∧ (s.setRemap v).flash = s.flash ∧
    (s.setRemap v).net = s.net ∧ (s.setRemap v).boot = s.boot ∧ (s.setRemap v).fuses = s.fuses ∧ (s.setRemap v).side = s.side ∧
    (s.setRemap v).hiLatch = s.hiLatch ∧ (s.setRemap v).loHeld = s.loHeld :=
  ⟨rfl, rfl, rfl, rfl, rfl, rfl, rfl, rfl, rfl, rfl, rfl, rfl, rfl, rfl, rfl, rfl, rfl, rfl, rfl, rfl,
    rfl, rfl, rfl, rfl, rfl, rfl, rfl, rfl, rfl, rfl, rfl, rfl, rfl, rfl, rfl, rfl⟩

@[simp] theorem State.setSnap_fields (s : State) (v : Snap) :
    (s.setSnap v).pending = s.pending ∧ (s.setSnap v).oracle = s.oracle ∧ (s.setSnap v).outbox = s.outbox ∧
    (s.setSnap v).time = s.time ∧ (s.setSnap v).mem = s.mem ∧ (s.setSnap v).memCond = s.memCond ∧
    (s.setSnap v).split = s.split ∧ (s.setSnap v).splitNext = s.splitNext ∧ (s.setSnap v).ctls = s.ctls ∧
    (s.setSnap v).cores = s.cores ∧ (s.setSnap v).clusters = s.clusters ∧ (s.setSnap v).regions = s.regions ∧
    (s.setSnap v).dies = s.dies ∧ (s.setSnap v).devq = s.devq ∧ (s.setSnap v).rail = s.rail ∧ (s.setSnap v).ctxs = s.ctxs ∧
    (s.setSnap v).closes = s.closes ∧ (s.setSnap v).ctxSel = s.ctxSel ∧ (s.setSnap v).ctxWritesDropped = s.ctxWritesDropped ∧
    (s.setSnap v).ctxCorrected = s.ctxCorrected ∧ (s.setSnap v).ctxCond = s.ctxCond ∧ (s.setSnap v).fabric = s.fabric ∧
    (s.setSnap v).power = s.power ∧ (s.setSnap v).thermal = s.thermal ∧ (s.setSnap v).energy = s.energy ∧
    (s.setSnap v).err = s.err ∧ (s.setSnap v).pages = s.pages ∧ (s.setSnap v).remap = s.remap ∧ (s.setSnap v).snap = v ∧
    (s.setSnap v).flash = s.flash ∧ (s.setSnap v).net = s.net ∧ (s.setSnap v).boot = s.boot ∧ (s.setSnap v).fuses = s.fuses ∧
    (s.setSnap v).side = s.side ∧ (s.setSnap v).hiLatch = s.hiLatch ∧ (s.setSnap v).loHeld = s.loHeld :=
  ⟨rfl, rfl, rfl, rfl, rfl, rfl, rfl, rfl, rfl, rfl, rfl, rfl, rfl, rfl, rfl, rfl, rfl, rfl, rfl, rfl,
    rfl, rfl, rfl, rfl, rfl, rfl, rfl, rfl, rfl, rfl, rfl, rfl, rfl, rfl, rfl, rfl⟩

@[simp] theorem State.setFlash_fields (s : State) (v : Flash) :
    (s.setFlash v).pending = s.pending ∧ (s.setFlash v).oracle = s.oracle ∧ (s.setFlash v).outbox = s.outbox ∧
    (s.setFlash v).time = s.time ∧ (s.setFlash v).mem = s.mem ∧ (s.setFlash v).memCond = s.memCond ∧
    (s.setFlash v).split = s.split ∧ (s.setFlash v).splitNext = s.splitNext ∧ (s.setFlash v).ctls = s.ctls ∧
    (s.setFlash v).cores = s.cores ∧ (s.setFlash v).clusters = s.clusters ∧ (s.setFlash v).regions = s.regions ∧
    (s.setFlash v).dies = s.dies ∧ (s.setFlash v).devq = s.devq ∧ (s.setFlash v).rail = s.rail ∧ (s.setFlash v).ctxs = s.ctxs ∧
    (s.setFlash v).closes = s.closes ∧ (s.setFlash v).ctxSel = s.ctxSel ∧
    (s.setFlash v).ctxWritesDropped = s.ctxWritesDropped ∧ (s.setFlash v).ctxCorrected = s.ctxCorrected ∧
    (s.setFlash v).ctxCond = s.ctxCond ∧ (s.setFlash v).fabric = s.fabric ∧ (s.setFlash v).power = s.power ∧
    (s.setFlash v).thermal = s.thermal ∧ (s.setFlash v).energy = s.energy ∧ (s.setFlash v).err = s.err ∧
    (s.setFlash v).pages = s.pages ∧ (s.setFlash v).remap = s.remap ∧ (s.setFlash v).snap = s.snap ∧ (s.setFlash v).flash = v ∧
    (s.setFlash v).net = s.net ∧ (s.setFlash v).boot = s.boot ∧ (s.setFlash v).fuses = s.fuses ∧ (s.setFlash v).side = s.side ∧
    (s.setFlash v).hiLatch = s.hiLatch ∧ (s.setFlash v).loHeld = s.loHeld :=
  ⟨rfl, rfl, rfl, rfl, rfl, rfl, rfl, rfl, rfl, rfl, rfl, rfl, rfl, rfl, rfl, rfl, rfl, rfl, rfl, rfl,
    rfl, rfl, rfl, rfl, rfl, rfl, rfl, rfl, rfl, rfl, rfl, rfl, rfl, rfl, rfl, rfl⟩

@[simp] theorem State.setNet_fields (s : State) (v : Transport) :
    (s.setNet v).pending = s.pending ∧ (s.setNet v).oracle = s.oracle ∧ (s.setNet v).outbox = s.outbox ∧
    (s.setNet v).time = s.time ∧ (s.setNet v).mem = s.mem ∧ (s.setNet v).memCond = s.memCond ∧ (s.setNet v).split = s.split ∧
    (s.setNet v).splitNext = s.splitNext ∧ (s.setNet v).ctls = s.ctls ∧ (s.setNet v).cores = s.cores ∧
    (s.setNet v).clusters = s.clusters ∧ (s.setNet v).regions = s.regions ∧ (s.setNet v).dies = s.dies ∧
    (s.setNet v).devq = s.devq ∧ (s.setNet v).rail = s.rail ∧ (s.setNet v).ctxs = s.ctxs ∧ (s.setNet v).closes = s.closes ∧
    (s.setNet v).ctxSel = s.ctxSel ∧ (s.setNet v).ctxWritesDropped = s.ctxWritesDropped ∧
    (s.setNet v).ctxCorrected = s.ctxCorrected ∧ (s.setNet v).ctxCond = s.ctxCond ∧ (s.setNet v).fabric = s.fabric ∧
    (s.setNet v).power = s.power ∧ (s.setNet v).thermal = s.thermal ∧ (s.setNet v).energy = s.energy ∧
    (s.setNet v).err = s.err ∧ (s.setNet v).pages = s.pages ∧ (s.setNet v).remap = s.remap ∧ (s.setNet v).snap = s.snap ∧
    (s.setNet v).flash = s.flash ∧ (s.setNet v).net = v ∧ (s.setNet v).boot = s.boot ∧ (s.setNet v).fuses = s.fuses ∧
    (s.setNet v).side = s.side ∧ (s.setNet v).hiLatch = s.hiLatch ∧ (s.setNet v).loHeld = s.loHeld :=
  ⟨rfl, rfl, rfl, rfl, rfl, rfl, rfl, rfl, rfl, rfl, rfl, rfl, rfl, rfl, rfl, rfl, rfl, rfl, rfl, rfl,
    rfl, rfl, rfl, rfl, rfl, rfl, rfl, rfl, rfl, rfl, rfl, rfl, rfl, rfl, rfl, rfl⟩

@[simp] theorem State.setBoot_fields (s : State) (v : Boot) :
    (s.setBoot v).pending = s.pending ∧ (s.setBoot v).oracle = s.oracle ∧ (s.setBoot v).outbox = s.outbox ∧
    (s.setBoot v).time = s.time ∧ (s.setBoot v).mem = s.mem ∧ (s.setBoot v).memCond = s.memCond ∧
    (s.setBoot v).split = s.split ∧ (s.setBoot v).splitNext = s.splitNext ∧ (s.setBoot v).ctls = s.ctls ∧
    (s.setBoot v).cores = s.cores ∧ (s.setBoot v).clusters = s.clusters ∧ (s.setBoot v).regions = s.regions ∧
    (s.setBoot v).dies = s.dies ∧ (s.setBoot v).devq = s.devq ∧ (s.setBoot v).rail = s.rail ∧ (s.setBoot v).ctxs = s.ctxs ∧
    (s.setBoot v).closes = s.closes ∧ (s.setBoot v).ctxSel = s.ctxSel ∧ (s.setBoot v).ctxWritesDropped = s.ctxWritesDropped ∧
    (s.setBoot v).ctxCorrected = s.ctxCorrected ∧ (s.setBoot v).ctxCond = s.ctxCond ∧ (s.setBoot v).fabric = s.fabric ∧
    (s.setBoot v).power = s.power ∧ (s.setBoot v).thermal = s.thermal ∧ (s.setBoot v).energy = s.energy ∧
    (s.setBoot v).err = s.err ∧ (s.setBoot v).pages = s.pages ∧ (s.setBoot v).remap = s.remap ∧ (s.setBoot v).snap = s.snap ∧
    (s.setBoot v).flash = s.flash ∧ (s.setBoot v).net = s.net ∧ (s.setBoot v).boot = v ∧ (s.setBoot v).fuses = s.fuses ∧
    (s.setBoot v).side = s.side ∧ (s.setBoot v).hiLatch = s.hiLatch ∧ (s.setBoot v).loHeld = s.loHeld :=
  ⟨rfl, rfl, rfl, rfl, rfl, rfl, rfl, rfl, rfl, rfl, rfl, rfl, rfl, rfl, rfl, rfl, rfl, rfl, rfl, rfl,
    rfl, rfl, rfl, rfl, rfl, rfl, rfl, rfl, rfl, rfl, rfl, rfl, rfl, rfl, rfl, rfl⟩

@[simp] theorem State.setFuses_fields (s : State) (v : Fuses) :
    (s.setFuses v).pending = s.pending ∧ (s.setFuses v).oracle = s.oracle ∧ (s.setFuses v).outbox = s.outbox ∧
    (s.setFuses v).time = s.time ∧ (s.setFuses v).mem = s.mem ∧ (s.setFuses v).memCond = s.memCond ∧
    (s.setFuses v).split = s.split ∧ (s.setFuses v).splitNext = s.splitNext ∧ (s.setFuses v).ctls = s.ctls ∧
    (s.setFuses v).cores = s.cores ∧ (s.setFuses v).clusters = s.clusters ∧ (s.setFuses v).regions = s.regions ∧
    (s.setFuses v).dies = s.dies ∧ (s.setFuses v).devq = s.devq ∧ (s.setFuses v).rail = s.rail ∧ (s.setFuses v).ctxs = s.ctxs ∧
    (s.setFuses v).closes = s.closes ∧ (s.setFuses v).ctxSel = s.ctxSel ∧
    (s.setFuses v).ctxWritesDropped = s.ctxWritesDropped ∧ (s.setFuses v).ctxCorrected = s.ctxCorrected ∧
    (s.setFuses v).ctxCond = s.ctxCond ∧ (s.setFuses v).fabric = s.fabric ∧ (s.setFuses v).power = s.power ∧
    (s.setFuses v).thermal = s.thermal ∧ (s.setFuses v).energy = s.energy ∧ (s.setFuses v).err = s.err ∧
    (s.setFuses v).pages = s.pages ∧ (s.setFuses v).remap = s.remap ∧ (s.setFuses v).snap = s.snap ∧
    (s.setFuses v).flash = s.flash ∧ (s.setFuses v).net = s.net ∧ (s.setFuses v).boot = s.boot ∧ (s.setFuses v).fuses = v ∧
    (s.setFuses v).side = s.side ∧ (s.setFuses v).hiLatch = s.hiLatch ∧ (s.setFuses v).loHeld = s.loHeld :=
  ⟨rfl, rfl, rfl, rfl, rfl, rfl, rfl, rfl, rfl, rfl, rfl, rfl, rfl, rfl, rfl, rfl, rfl, rfl, rfl, rfl,
    rfl, rfl, rfl, rfl, rfl, rfl, rfl, rfl, rfl, rfl, rfl, rfl, rfl, rfl, rfl, rfl⟩

@[simp] theorem State.setSide_fields (s : State) (v : Sideband) :
    (s.setSide v).pending = s.pending ∧ (s.setSide v).oracle = s.oracle ∧ (s.setSide v).outbox = s.outbox ∧
    (s.setSide v).time = s.time ∧ (s.setSide v).mem = s.mem ∧ (s.setSide v).memCond = s.memCond ∧
    (s.setSide v).split = s.split ∧ (s.setSide v).splitNext = s.splitNext ∧ (s.setSide v).ctls = s.ctls ∧
    (s.setSide v).cores = s.cores ∧ (s.setSide v).clusters = s.clusters ∧ (s.setSide v).regions = s.regions ∧
    (s.setSide v).dies = s.dies ∧ (s.setSide v).devq = s.devq ∧ (s.setSide v).rail = s.rail ∧ (s.setSide v).ctxs = s.ctxs ∧
    (s.setSide v).closes = s.closes ∧ (s.setSide v).ctxSel = s.ctxSel ∧ (s.setSide v).ctxWritesDropped = s.ctxWritesDropped ∧
    (s.setSide v).ctxCorrected = s.ctxCorrected ∧ (s.setSide v).ctxCond = s.ctxCond ∧ (s.setSide v).fabric = s.fabric ∧
    (s.setSide v).power = s.power ∧ (s.setSide v).thermal = s.thermal ∧ (s.setSide v).energy = s.energy ∧
    (s.setSide v).err = s.err ∧ (s.setSide v).pages = s.pages ∧ (s.setSide v).remap = s.remap ∧ (s.setSide v).snap = s.snap ∧
    (s.setSide v).flash = s.flash ∧ (s.setSide v).net = s.net ∧ (s.setSide v).boot = s.boot ∧ (s.setSide v).fuses = s.fuses ∧
    (s.setSide v).side = v ∧ (s.setSide v).hiLatch = s.hiLatch ∧ (s.setSide v).loHeld = s.loHeld :=
  ⟨rfl, rfl, rfl, rfl, rfl, rfl, rfl, rfl, rfl, rfl, rfl, rfl, rfl, rfl, rfl, rfl, rfl, rfl, rfl, rfl,
    rfl, rfl, rfl, rfl, rfl, rfl, rfl, rfl, rfl, rfl, rfl, rfl, rfl, rfl, rfl, rfl⟩

@[simp] theorem State.setHiLatch_fields (s : State) (v : List Latch) :
    (s.setHiLatch v).pending = s.pending ∧ (s.setHiLatch v).oracle = s.oracle ∧ (s.setHiLatch v).outbox = s.outbox ∧
    (s.setHiLatch v).time = s.time ∧ (s.setHiLatch v).mem = s.mem ∧ (s.setHiLatch v).memCond = s.memCond ∧
    (s.setHiLatch v).split = s.split ∧ (s.setHiLatch v).splitNext = s.splitNext ∧ (s.setHiLatch v).ctls = s.ctls ∧
    (s.setHiLatch v).cores = s.cores ∧ (s.setHiLatch v).clusters = s.clusters ∧ (s.setHiLatch v).regions = s.regions ∧
    (s.setHiLatch v).dies = s.dies ∧ (s.setHiLatch v).devq = s.devq ∧ (s.setHiLatch v).rail = s.rail ∧
    (s.setHiLatch v).ctxs = s.ctxs ∧ (s.setHiLatch v).closes = s.closes ∧ (s.setHiLatch v).ctxSel = s.ctxSel ∧
    (s.setHiLatch v).ctxWritesDropped = s.ctxWritesDropped ∧ (s.setHiLatch v).ctxCorrected = s.ctxCorrected ∧
    (s.setHiLatch v).ctxCond = s.ctxCond ∧ (s.setHiLatch v).fabric = s.fabric ∧ (s.setHiLatch v).power = s.power ∧
    (s.setHiLatch v).thermal = s.thermal ∧ (s.setHiLatch v).energy = s.energy ∧ (s.setHiLatch v).err = s.err ∧
    (s.setHiLatch v).pages = s.pages ∧ (s.setHiLatch v).remap = s.remap ∧ (s.setHiLatch v).snap = s.snap ∧
    (s.setHiLatch v).flash = s.flash ∧ (s.setHiLatch v).net = s.net ∧ (s.setHiLatch v).boot = s.boot ∧
    (s.setHiLatch v).fuses = s.fuses ∧ (s.setHiLatch v).side = s.side ∧ (s.setHiLatch v).hiLatch = v ∧
    (s.setHiLatch v).loHeld = s.loHeld :=
  ⟨rfl, rfl, rfl, rfl, rfl, rfl, rfl, rfl, rfl, rfl, rfl, rfl, rfl, rfl, rfl, rfl, rfl, rfl, rfl, rfl,
    rfl, rfl, rfl, rfl, rfl, rfl, rfl, rfl, rfl, rfl, rfl, rfl, rfl, rfl, rfl, rfl⟩

@[simp] theorem State.setLoHeld_fields (s : State) (v : List Latch) :
    (s.setLoHeld v).pending = s.pending ∧ (s.setLoHeld v).oracle = s.oracle ∧ (s.setLoHeld v).outbox = s.outbox ∧
    (s.setLoHeld v).time = s.time ∧ (s.setLoHeld v).mem = s.mem ∧ (s.setLoHeld v).memCond = s.memCond ∧
    (s.setLoHeld v).split = s.split ∧ (s.setLoHeld v).splitNext = s.splitNext ∧ (s.setLoHeld v).ctls = s.ctls ∧
    (s.setLoHeld v).cores = s.cores ∧ (s.setLoHeld v).clusters = s.clusters ∧ (s.setLoHeld v).regions = s.regions ∧
    (s.setLoHeld v).dies = s.dies ∧ (s.setLoHeld v).devq = s.devq ∧ (s.setLoHeld v).rail = s.rail ∧
    (s.setLoHeld v).ctxs = s.ctxs ∧ (s.setLoHeld v).closes = s.closes ∧ (s.setLoHeld v).ctxSel = s.ctxSel ∧
    (s.setLoHeld v).ctxWritesDropped = s.ctxWritesDropped ∧ (s.setLoHeld v).ctxCorrected = s.ctxCorrected ∧
    (s.setLoHeld v).ctxCond = s.ctxCond ∧ (s.setLoHeld v).fabric = s.fabric ∧ (s.setLoHeld v).power = s.power ∧
    (s.setLoHeld v).thermal = s.thermal ∧ (s.setLoHeld v).energy = s.energy ∧ (s.setLoHeld v).err = s.err ∧
    (s.setLoHeld v).pages = s.pages ∧ (s.setLoHeld v).remap = s.remap ∧ (s.setLoHeld v).snap = s.snap ∧
    (s.setLoHeld v).flash = s.flash ∧ (s.setLoHeld v).net = s.net ∧ (s.setLoHeld v).boot = s.boot ∧
    (s.setLoHeld v).fuses = s.fuses ∧ (s.setLoHeld v).side = s.side ∧ (s.setLoHeld v).hiLatch = s.hiLatch ∧
    (s.setLoHeld v).loHeld = v :=
  ⟨rfl, rfl, rfl, rfl, rfl, rfl, rfl, rfl, rfl, rfl, rfl, rfl, rfl, rfl, rfl, rfl, rfl, rfl, rfl, rfl,
    rfl, rfl, rfl, rfl, rfl, rfl, rfl, rfl, rfl, rfl, rfl, rfl, rfl, rfl, rfl, rfl⟩

/-! ### The accessors after a change of one part -/

@[simp] theorem State.modCore_same (s : State) (k : Nat) (f : Core → Core) : (s.modCore k f).core k = f (s.core k) := by
  simp [State.modCore, State.core, State.setCore]

theorem State.modCore_other (s : State) (f : Core → Core) {k k' : Nat} (h : k' ≠ k) : (s.modCore k f).core k' = s.core k' := by
  simp [State.modCore, State.core, State.setCore, nget_nset_other _ _ _ h]

@[simp] theorem State.modCore_fields (s : State) (k : Nat) (f : Core → Core) :
    (s.modCore k f).cluster = s.cluster ∧ (s.modCore k f).region = s.region ∧ (s.modCore k f).die = s.die ∧
    (s.modCore k f).ctl = s.ctl ∧ (s.modCore k f).ctx = s.ctx ∧ (s.modCore k f).conn = s.conn ∧ (s.modCore k f).port = s.port ∧
    (s.modCore k f).page = s.page ∧ (s.modCore k f).stream = s.stream ∧ (s.modCore k f).pending = s.pending ∧
    (s.modCore k f).oracle = s.oracle ∧ (s.modCore k f).outbox = s.outbox ∧ (s.modCore k f).time = s.time ∧
    (s.modCore k f).mem = s.mem ∧ (s.modCore k f).memCond = s.memCond ∧ (s.modCore k f).split = s.split ∧
    (s.modCore k f).splitNext = s.splitNext ∧ (s.modCore k f).ctls = s.ctls ∧ (s.modCore k f).clusters = s.clusters ∧
    (s.modCore k f).regions = s.regions ∧ (s.modCore k f).dies = s.dies ∧ (s.modCore k f).devq = s.devq ∧
    (s.modCore k f).rail = s.rail ∧ (s.modCore k f).ctxs = s.ctxs ∧ (s.modCore k f).closes = s.closes ∧
    (s.modCore k f).ctxSel = s.ctxSel ∧ (s.modCore k f).ctxWritesDropped = s.ctxWritesDropped ∧
    (s.modCore k f).ctxCorrected = s.ctxCorrected ∧ (s.modCore k f).ctxCond = s.ctxCond ∧ (s.modCore k f).fabric = s.fabric ∧
    (s.modCore k f).power = s.power ∧ (s.modCore k f).thermal = s.thermal ∧ (s.modCore k f).energy = s.energy ∧
    (s.modCore k f).err = s.err ∧ (s.modCore k f).pages = s.pages ∧ (s.modCore k f).remap = s.remap ∧
    (s.modCore k f).snap = s.snap ∧ (s.modCore k f).flash = s.flash ∧ (s.modCore k f).net = s.net ∧
    (s.modCore k f).boot = s.boot ∧ (s.modCore k f).fuses = s.fuses ∧ (s.modCore k f).side = s.side ∧
    (s.modCore k f).hiLatch = s.hiLatch ∧ (s.modCore k f).loHeld = s.loHeld :=
  ⟨rfl, rfl, rfl, rfl, rfl, rfl, rfl, rfl, rfl, rfl, rfl, rfl, rfl, rfl, rfl, rfl, rfl, rfl, rfl, rfl,
    rfl, rfl, rfl, rfl, rfl, rfl, rfl, rfl, rfl, rfl, rfl, rfl, rfl, rfl, rfl, rfl, rfl, rfl, rfl, rfl,
    rfl, rfl, rfl, rfl⟩

@[simp] theorem State.modCluster_same (s : State) (k : Nat) (f : Cluster → Cluster) : (s.modCluster k f).cluster k = f (s.cluster k) := by
  simp [State.modCluster, State.cluster]

theorem State.modCluster_other (s : State) (f : Cluster → Cluster) {k k' : Nat} (h : k' ≠ k) : (s.modCluster k f).cluster k' = s.cluster k' := by
  simp [State.modCluster, State.cluster, nget_nmod_other _ _ _ h]

@[simp] theorem State.modCluster_fields (s : State) (k : Nat) (f : Cluster → Cluster) :
    (s.modCluster k f).core = s.core ∧ (s.modCluster k f).region = s.region ∧ (s.modCluster k f).die = s.die ∧
    (s.modCluster k f).ctl = s.ctl ∧ (s.modCluster k f).ctx = s.ctx ∧ (s.modCluster k f).conn = s.conn ∧
    (s.modCluster k f).port = s.port ∧ (s.modCluster k f).page = s.page ∧ (s.modCluster k f).stream = s.stream ∧
    (s.modCluster k f).pending = s.pending ∧ (s.modCluster k f).oracle = s.oracle ∧ (s.modCluster k f).outbox = s.outbox ∧
    (s.modCluster k f).time = s.time ∧ (s.modCluster k f).mem = s.mem ∧ (s.modCluster k f).memCond = s.memCond ∧
    (s.modCluster k f).split = s.split ∧ (s.modCluster k f).splitNext = s.splitNext ∧ (s.modCluster k f).ctls = s.ctls ∧
    (s.modCluster k f).cores = s.cores ∧ (s.modCluster k f).regions = s.regions ∧ (s.modCluster k f).dies = s.dies ∧
    (s.modCluster k f).devq = s.devq ∧ (s.modCluster k f).rail = s.rail ∧ (s.modCluster k f).ctxs = s.ctxs ∧
    (s.modCluster k f).closes = s.closes ∧ (s.modCluster k f).ctxSel = s.ctxSel ∧
    (s.modCluster k f).ctxWritesDropped = s.ctxWritesDropped ∧ (s.modCluster k f).ctxCorrected = s.ctxCorrected ∧
    (s.modCluster k f).ctxCond = s.ctxCond ∧ (s.modCluster k f).fabric = s.fabric ∧ (s.modCluster k f).power = s.power ∧
    (s.modCluster k f).thermal = s.thermal ∧ (s.modCluster k f).energy = s.energy ∧ (s.modCluster k f).err = s.err ∧
    (s.modCluster k f).pages = s.pages ∧ (s.modCluster k f).remap = s.remap ∧ (s.modCluster k f).snap = s.snap ∧
    (s.modCluster k f).flash = s.flash ∧ (s.modCluster k f).net = s.net ∧ (s.modCluster k f).boot = s.boot ∧
    (s.modCluster k f).fuses = s.fuses ∧ (s.modCluster k f).side = s.side ∧ (s.modCluster k f).hiLatch = s.hiLatch ∧
    (s.modCluster k f).loHeld = s.loHeld :=
  ⟨rfl, rfl, rfl, rfl, rfl, rfl, rfl, rfl, rfl, rfl, rfl, rfl, rfl, rfl, rfl, rfl, rfl, rfl, rfl, rfl,
    rfl, rfl, rfl, rfl, rfl, rfl, rfl, rfl, rfl, rfl, rfl, rfl, rfl, rfl, rfl, rfl, rfl, rfl, rfl, rfl,
    rfl, rfl, rfl, rfl⟩

@[simp] theorem State.modRegion_same (s : State) (k : Nat) (f : Region → Region) : (s.modRegion k f).region k = f (s.region k) := by
  simp [State.modRegion, State.region]

theorem State.modRegion_other (s : State) (f : Region → Region) {k k' : Nat} (h : k' ≠ k) : (s.modRegion k f).region k' = s.region k' := by
  simp [State.modRegion, State.region, nget_nmod_other _ _ _ h]

@[simp] theorem State.modRegion_fields (s : State) (k : Nat) (f : Region → Region) :
    (s.modRegion k f).core = s.core ∧ (s.modRegion k f).cluster = s.cluster ∧ (s.modRegion k f).die = s.die ∧
    (s.modRegion k f).ctl = s.ctl ∧ (s.modRegion k f).ctx = s.ctx ∧ (s.modRegion k f).conn = s.conn ∧
    (s.modRegion k f).port = s.port ∧ (s.modRegion k f).page = s.page ∧ (s.modRegion k f).stream = s.stream ∧
    (s.modRegion k f).pending = s.pending ∧ (s.modRegion k f).oracle = s.oracle ∧ (s.modRegion k f).outbox = s.outbox ∧
    (s.modRegion k f).time = s.time ∧ (s.modRegion k f).mem = s.mem ∧ (s.modRegion k f).memCond = s.memCond ∧
    (s.modRegion k f).split = s.split ∧ (s.modRegion k f).splitNext = s.splitNext ∧ (s.modRegion k f).ctls = s.ctls ∧
    (s.modRegion k f).cores = s.cores ∧ (s.modRegion k f).clusters = s.clusters ∧ (s.modRegion k f).dies = s.dies ∧
    (s.modRegion k f).devq = s.devq ∧ (s.modRegion k f).rail = s.rail ∧ (s.modRegion k f).ctxs = s.ctxs ∧
    (s.modRegion k f).closes = s.closes ∧ (s.modRegion k f).ctxSel = s.ctxSel ∧
    (s.modRegion k f).ctxWritesDropped = s.ctxWritesDropped ∧ (s.modRegion k f).ctxCorrected = s.ctxCorrected ∧
    (s.modRegion k f).ctxCond = s.ctxCond ∧ (s.modRegion k f).fabric = s.fabric ∧ (s.modRegion k f).power = s.power ∧
    (s.modRegion k f).thermal = s.thermal ∧ (s.modRegion k f).energy = s.energy ∧ (s.modRegion k f).err = s.err ∧
    (s.modRegion k f).pages = s.pages ∧ (s.modRegion k f).remap = s.remap ∧ (s.modRegion k f).snap = s.snap ∧
    (s.modRegion k f).flash = s.flash ∧ (s.modRegion k f).net = s.net ∧ (s.modRegion k f).boot = s.boot ∧
    (s.modRegion k f).fuses = s.fuses ∧ (s.modRegion k f).side = s.side ∧ (s.modRegion k f).hiLatch = s.hiLatch ∧
    (s.modRegion k f).loHeld = s.loHeld :=
  ⟨rfl, rfl, rfl, rfl, rfl, rfl, rfl, rfl, rfl, rfl, rfl, rfl, rfl, rfl, rfl, rfl, rfl, rfl, rfl, rfl,
    rfl, rfl, rfl, rfl, rfl, rfl, rfl, rfl, rfl, rfl, rfl, rfl, rfl, rfl, rfl, rfl, rfl, rfl, rfl, rfl,
    rfl, rfl, rfl, rfl⟩

@[simp] theorem State.modDie_same (s : State) (k : Nat) (f : Die → Die) : (s.modDie k f).die k = f (s.die k) := by
  simp [State.modDie, State.die]

theorem State.modDie_other (s : State) (f : Die → Die) {k k' : Nat} (h : k' ≠ k) : (s.modDie k f).die k' = s.die k' := by
  simp [State.modDie, State.die, nget_nmod_other _ _ _ h]

@[simp] theorem State.modDie_fields (s : State) (k : Nat) (f : Die → Die) :
    (s.modDie k f).core = s.core ∧ (s.modDie k f).cluster = s.cluster ∧ (s.modDie k f).region = s.region ∧
    (s.modDie k f).ctl = s.ctl ∧ (s.modDie k f).ctx = s.ctx ∧ (s.modDie k f).conn = s.conn ∧ (s.modDie k f).port = s.port ∧
    (s.modDie k f).page = s.page ∧ (s.modDie k f).stream = s.stream ∧ (s.modDie k f).pending = s.pending ∧
    (s.modDie k f).oracle = s.oracle ∧ (s.modDie k f).outbox = s.outbox ∧ (s.modDie k f).time = s.time ∧
    (s.modDie k f).mem = s.mem ∧ (s.modDie k f).memCond = s.memCond ∧ (s.modDie k f).split = s.split ∧
    (s.modDie k f).splitNext = s.splitNext ∧ (s.modDie k f).ctls = s.ctls ∧ (s.modDie k f).cores = s.cores ∧
    (s.modDie k f).clusters = s.clusters ∧ (s.modDie k f).regions = s.regions ∧ (s.modDie k f).devq = s.devq ∧
    (s.modDie k f).rail = s.rail ∧ (s.modDie k f).ctxs = s.ctxs ∧ (s.modDie k f).closes = s.closes ∧
    (s.modDie k f).ctxSel = s.ctxSel ∧ (s.modDie k f).ctxWritesDropped = s.ctxWritesDropped ∧
    (s.modDie k f).ctxCorrected = s.ctxCorrected ∧ (s.modDie k f).ctxCond = s.ctxCond ∧ (s.modDie k f).fabric = s.fabric ∧
    (s.modDie k f).power = s.power ∧ (s.modDie k f).thermal = s.thermal ∧ (s.modDie k f).energy = s.energy ∧
    (s.modDie k f).err = s.err ∧ (s.modDie k f).pages = s.pages ∧ (s.modDie k f).remap = s.remap ∧
    (s.modDie k f).snap = s.snap ∧ (s.modDie k f).flash = s.flash ∧ (s.modDie k f).net = s.net ∧ (s.modDie k f).boot = s.boot ∧
    (s.modDie k f).fuses = s.fuses ∧ (s.modDie k f).side = s.side ∧ (s.modDie k f).hiLatch = s.hiLatch ∧
    (s.modDie k f).loHeld = s.loHeld :=
  ⟨rfl, rfl, rfl, rfl, rfl, rfl, rfl, rfl, rfl, rfl, rfl, rfl, rfl, rfl, rfl, rfl, rfl, rfl, rfl, rfl,
    rfl, rfl, rfl, rfl, rfl, rfl, rfl, rfl, rfl, rfl, rfl, rfl, rfl, rfl, rfl, rfl, rfl, rfl, rfl, rfl,
    rfl, rfl, rfl, rfl⟩

@[simp] theorem State.modCtl_same (s : State) (k : Nat) (f : Ctl → Ctl) : (s.modCtl k f).ctl k = f (s.ctl k) := by
  simp [State.modCtl, State.ctl]

theorem State.modCtl_other (s : State) (f : Ctl → Ctl) {k k' : Nat} (h : k' ≠ k) : (s.modCtl k f).ctl k' = s.ctl k' := by
  simp [State.modCtl, State.ctl, nget_nmod_other _ _ _ h]

@[simp] theorem State.modCtl_fields (s : State) (k : Nat) (f : Ctl → Ctl) :
    (s.modCtl k f).core = s.core ∧ (s.modCtl k f).cluster = s.cluster ∧ (s.modCtl k f).region = s.region ∧
    (s.modCtl k f).die = s.die ∧ (s.modCtl k f).ctx = s.ctx ∧ (s.modCtl k f).conn = s.conn ∧ (s.modCtl k f).port = s.port ∧
    (s.modCtl k f).page = s.page ∧ (s.modCtl k f).stream = s.stream ∧ (s.modCtl k f).pending = s.pending ∧
    (s.modCtl k f).oracle = s.oracle ∧ (s.modCtl k f).outbox = s.outbox ∧ (s.modCtl k f).time = s.time ∧
    (s.modCtl k f).mem = s.mem ∧ (s.modCtl k f).memCond = s.memCond ∧ (s.modCtl k f).split = s.split ∧
    (s.modCtl k f).splitNext = s.splitNext ∧ (s.modCtl k f).cores = s.cores ∧ (s.modCtl k f).clusters = s.clusters ∧
    (s.modCtl k f).regions = s.regions ∧ (s.modCtl k f).dies = s.dies ∧ (s.modCtl k f).devq = s.devq ∧
    (s.modCtl k f).rail = s.rail ∧ (s.modCtl k f).ctxs = s.ctxs ∧ (s.modCtl k f).closes = s.closes ∧
    (s.modCtl k f).ctxSel = s.ctxSel ∧ (s.modCtl k f).ctxWritesDropped = s.ctxWritesDropped ∧
    (s.modCtl k f).ctxCorrected = s.ctxCorrected ∧ (s.modCtl k f).ctxCond = s.ctxCond ∧ (s.modCtl k f).fabric = s.fabric ∧
    (s.modCtl k f).power = s.power ∧ (s.modCtl k f).thermal = s.thermal ∧ (s.modCtl k f).energy = s.energy ∧
    (s.modCtl k f).err = s.err ∧ (s.modCtl k f).pages = s.pages ∧ (s.modCtl k f).remap = s.remap ∧
    (s.modCtl k f).snap = s.snap ∧ (s.modCtl k f).flash = s.flash ∧ (s.modCtl k f).net = s.net ∧ (s.modCtl k f).boot = s.boot ∧
    (s.modCtl k f).fuses = s.fuses ∧ (s.modCtl k f).side = s.side ∧ (s.modCtl k f).hiLatch = s.hiLatch ∧
    (s.modCtl k f).loHeld = s.loHeld :=
  ⟨rfl, rfl, rfl, rfl, rfl, rfl, rfl, rfl, rfl, rfl, rfl, rfl, rfl, rfl, rfl, rfl, rfl, rfl, rfl, rfl,
    rfl, rfl, rfl, rfl, rfl, rfl, rfl, rfl, rfl, rfl, rfl, rfl, rfl, rfl, rfl, rfl, rfl, rfl, rfl, rfl,
    rfl, rfl, rfl, rfl⟩

@[simp] theorem State.modCtx_same (s : State) (k : Nat) (f : Ctx → Ctx) : (s.modCtx k f).ctx k = f (s.ctx k) := by
  simp [State.modCtx, State.ctx]

theorem State.modCtx_other (s : State) (f : Ctx → Ctx) {k k' : Nat} (h : k' ≠ k) : (s.modCtx k f).ctx k' = s.ctx k' := by
  simp [State.modCtx, State.ctx, nget_nmod_other _ _ _ h]

@[simp] theorem State.modCtx_fields (s : State) (k : Nat) (f : Ctx → Ctx) :
    (s.modCtx k f).core = s.core ∧ (s.modCtx k f).cluster = s.cluster ∧ (s.modCtx k f).region = s.region ∧
    (s.modCtx k f).die = s.die ∧ (s.modCtx k f).ctl = s.ctl ∧ (s.modCtx k f).conn = s.conn ∧ (s.modCtx k f).port = s.port ∧
    (s.modCtx k f).page = s.page ∧ (s.modCtx k f).stream = s.stream ∧ (s.modCtx k f).pending = s.pending ∧
    (s.modCtx k f).oracle = s.oracle ∧ (s.modCtx k f).outbox = s.outbox ∧ (s.modCtx k f).time = s.time ∧
    (s.modCtx k f).mem = s.mem ∧ (s.modCtx k f).memCond = s.memCond ∧ (s.modCtx k f).split = s.split ∧
    (s.modCtx k f).splitNext = s.splitNext ∧ (s.modCtx k f).ctls = s.ctls ∧ (s.modCtx k f).cores = s.cores ∧
    (s.modCtx k f).clusters = s.clusters ∧ (s.modCtx k f).regions = s.regions ∧ (s.modCtx k f).dies = s.dies ∧
    (s.modCtx k f).devq = s.devq ∧ (s.modCtx k f).rail = s.rail ∧ (s.modCtx k f).closes = s.closes ∧
    (s.modCtx k f).ctxSel = s.ctxSel ∧ (s.modCtx k f).ctxWritesDropped = s.ctxWritesDropped ∧
    (s.modCtx k f).ctxCorrected = s.ctxCorrected ∧ (s.modCtx k f).ctxCond = s.ctxCond ∧ (s.modCtx k f).fabric = s.fabric ∧
    (s.modCtx k f).power = s.power ∧ (s.modCtx k f).thermal = s.thermal ∧ (s.modCtx k f).energy = s.energy ∧
    (s.modCtx k f).err = s.err ∧ (s.modCtx k f).pages = s.pages ∧ (s.modCtx k f).remap = s.remap ∧
    (s.modCtx k f).snap = s.snap ∧ (s.modCtx k f).flash = s.flash ∧ (s.modCtx k f).net = s.net ∧ (s.modCtx k f).boot = s.boot ∧
    (s.modCtx k f).fuses = s.fuses ∧ (s.modCtx k f).side = s.side ∧ (s.modCtx k f).hiLatch = s.hiLatch ∧
    (s.modCtx k f).loHeld = s.loHeld :=
  ⟨rfl, rfl, rfl, rfl, rfl, rfl, rfl, rfl, rfl, rfl, rfl, rfl, rfl, rfl, rfl, rfl, rfl, rfl, rfl, rfl,
    rfl, rfl, rfl, rfl, rfl, rfl, rfl, rfl, rfl, rfl, rfl, rfl, rfl, rfl, rfl, rfl, rfl, rfl, rfl, rfl,
    rfl, rfl, rfl, rfl⟩

@[simp] theorem State.modConn_same (s : State) (k : Nat) (f : Conn → Conn) : (s.modConn k f).conn k = f (s.conn k) := by
  simp [State.modConn, State.conn]

theorem State.modConn_other (s : State) (f : Conn → Conn) {k k' : Nat} (h : k' ≠ k) : (s.modConn k f).conn k' = s.conn k' := by
  simp [State.modConn, State.conn, nget_nmod_other _ _ _ h]

@[simp] theorem State.modConn_fields (s : State) (k : Nat) (f : Conn → Conn) :
    (s.modConn k f).core = s.core ∧ (s.modConn k f).cluster = s.cluster ∧ (s.modConn k f).region = s.region ∧
    (s.modConn k f).die = s.die ∧ (s.modConn k f).ctl = s.ctl ∧ (s.modConn k f).ctx = s.ctx ∧ (s.modConn k f).port = s.port ∧
    (s.modConn k f).page = s.page ∧ (s.modConn k f).stream = s.stream ∧ (s.modConn k f).pending = s.pending ∧
    (s.modConn k f).oracle = s.oracle ∧ (s.modConn k f).outbox = s.outbox ∧ (s.modConn k f).time = s.time ∧
    (s.modConn k f).mem = s.mem ∧ (s.modConn k f).memCond = s.memCond ∧ (s.modConn k f).split = s.split ∧
    (s.modConn k f).splitNext = s.splitNext ∧ (s.modConn k f).ctls = s.ctls ∧ (s.modConn k f).cores = s.cores ∧
    (s.modConn k f).clusters = s.clusters ∧ (s.modConn k f).regions = s.regions ∧ (s.modConn k f).dies = s.dies ∧
    (s.modConn k f).devq = s.devq ∧ (s.modConn k f).rail = s.rail ∧ (s.modConn k f).ctxs = s.ctxs ∧
    (s.modConn k f).closes = s.closes ∧ (s.modConn k f).ctxSel = s.ctxSel ∧
    (s.modConn k f).ctxWritesDropped = s.ctxWritesDropped ∧ (s.modConn k f).ctxCorrected = s.ctxCorrected ∧
    (s.modConn k f).ctxCond = s.ctxCond ∧ (s.modConn k f).fabric = s.fabric ∧ (s.modConn k f).power = s.power ∧
    (s.modConn k f).thermal = s.thermal ∧ (s.modConn k f).energy = s.energy ∧ (s.modConn k f).err = s.err ∧
    (s.modConn k f).pages = s.pages ∧ (s.modConn k f).remap = s.remap ∧ (s.modConn k f).snap = s.snap ∧
    (s.modConn k f).flash = s.flash ∧ (s.modConn k f).boot = s.boot ∧ (s.modConn k f).fuses = s.fuses ∧
    (s.modConn k f).side = s.side ∧ (s.modConn k f).hiLatch = s.hiLatch ∧ (s.modConn k f).loHeld = s.loHeld :=
  ⟨rfl, rfl, rfl, rfl, rfl, rfl, rfl, rfl, rfl, rfl, rfl, rfl, rfl, rfl, rfl, rfl, rfl, rfl, rfl, rfl,
    rfl, rfl, rfl, rfl, rfl, rfl, rfl, rfl, rfl, rfl, rfl, rfl, rfl, rfl, rfl, rfl, rfl, rfl, rfl, rfl,
    rfl, rfl, rfl, rfl⟩

@[simp] theorem State.modPort_same (s : State) (k : Nat) (f : Port → Port) : (s.modPort k f).port k = f (s.port k) := by
  simp [State.modPort, State.port]

theorem State.modPort_other (s : State) (f : Port → Port) {k k' : Nat} (h : k' ≠ k) : (s.modPort k f).port k' = s.port k' := by
  simp [State.modPort, State.port, nget_nmod_other _ _ _ h]

@[simp] theorem State.modPort_fields (s : State) (k : Nat) (f : Port → Port) :
    (s.modPort k f).core = s.core ∧ (s.modPort k f).cluster = s.cluster ∧ (s.modPort k f).region = s.region ∧
    (s.modPort k f).die = s.die ∧ (s.modPort k f).ctl = s.ctl ∧ (s.modPort k f).ctx = s.ctx ∧ (s.modPort k f).conn = s.conn ∧
    (s.modPort k f).page = s.page ∧ (s.modPort k f).stream = s.stream ∧ (s.modPort k f).pending = s.pending ∧
    (s.modPort k f).oracle = s.oracle ∧ (s.modPort k f).outbox = s.outbox ∧ (s.modPort k f).time = s.time ∧
    (s.modPort k f).mem = s.mem ∧ (s.modPort k f).memCond = s.memCond ∧ (s.modPort k f).split = s.split ∧
    (s.modPort k f).splitNext = s.splitNext ∧ (s.modPort k f).ctls = s.ctls ∧ (s.modPort k f).cores = s.cores ∧
    (s.modPort k f).clusters = s.clusters ∧ (s.modPort k f).regions = s.regions ∧ (s.modPort k f).dies = s.dies ∧
    (s.modPort k f).devq = s.devq ∧ (s.modPort k f).rail = s.rail ∧ (s.modPort k f).ctxs = s.ctxs ∧
    (s.modPort k f).closes = s.closes ∧ (s.modPort k f).ctxSel = s.ctxSel ∧
    (s.modPort k f).ctxWritesDropped = s.ctxWritesDropped ∧ (s.modPort k f).ctxCorrected = s.ctxCorrected ∧
    (s.modPort k f).ctxCond = s.ctxCond ∧ (s.modPort k f).fabric = s.fabric ∧ (s.modPort k f).power = s.power ∧
    (s.modPort k f).thermal = s.thermal ∧ (s.modPort k f).energy = s.energy ∧ (s.modPort k f).err = s.err ∧
    (s.modPort k f).pages = s.pages ∧ (s.modPort k f).remap = s.remap ∧ (s.modPort k f).snap = s.snap ∧
    (s.modPort k f).flash = s.flash ∧ (s.modPort k f).boot = s.boot ∧ (s.modPort k f).fuses = s.fuses ∧
    (s.modPort k f).side = s.side ∧ (s.modPort k f).hiLatch = s.hiLatch ∧ (s.modPort k f).loHeld = s.loHeld :=
  ⟨rfl, rfl, rfl, rfl, rfl, rfl, rfl, rfl, rfl, rfl, rfl, rfl, rfl, rfl, rfl, rfl, rfl, rfl, rfl, rfl,
    rfl, rfl, rfl, rfl, rfl, rfl, rfl, rfl, rfl, rfl, rfl, rfl, rfl, rfl, rfl, rfl, rfl, rfl, rfl, rfl,
    rfl, rfl, rfl, rfl⟩

@[simp] theorem State.modPage_same (s : State) (k : Nat) (f : PageHdr → PageHdr) : (s.modPage k f).page k = f (s.page k) := by
  simp [State.modPage, State.page]

theorem State.modPage_other (s : State) (f : PageHdr → PageHdr) {k k' : Nat} (h : k' ≠ k) : (s.modPage k f).page k' = s.page k' := by
  simp [State.modPage, State.page, nget_nmod_other _ _ _ h]

@[simp] theorem State.modPage_fields (s : State) (k : Nat) (f : PageHdr → PageHdr) :
    (s.modPage k f).core = s.core ∧ (s.modPage k f).cluster = s.cluster ∧ (s.modPage k f).region = s.region ∧
    (s.modPage k f).die = s.die ∧ (s.modPage k f).ctl = s.ctl ∧ (s.modPage k f).ctx = s.ctx ∧ (s.modPage k f).conn = s.conn ∧
    (s.modPage k f).port = s.port ∧ (s.modPage k f).stream = s.stream ∧ (s.modPage k f).pending = s.pending ∧
    (s.modPage k f).oracle = s.oracle ∧ (s.modPage k f).outbox = s.outbox ∧ (s.modPage k f).time = s.time ∧
    (s.modPage k f).mem = s.mem ∧ (s.modPage k f).memCond = s.memCond ∧ (s.modPage k f).split = s.split ∧
    (s.modPage k f).splitNext = s.splitNext ∧ (s.modPage k f).ctls = s.ctls ∧ (s.modPage k f).cores = s.cores ∧
    (s.modPage k f).clusters = s.clusters ∧ (s.modPage k f).regions = s.regions ∧ (s.modPage k f).dies = s.dies ∧
    (s.modPage k f).devq = s.devq ∧ (s.modPage k f).rail = s.rail ∧ (s.modPage k f).ctxs = s.ctxs ∧
    (s.modPage k f).closes = s.closes ∧ (s.modPage k f).ctxSel = s.ctxSel ∧
    (s.modPage k f).ctxWritesDropped = s.ctxWritesDropped ∧ (s.modPage k f).ctxCorrected = s.ctxCorrected ∧
    (s.modPage k f).ctxCond = s.ctxCond ∧ (s.modPage k f).fabric = s.fabric ∧ (s.modPage k f).power = s.power ∧
    (s.modPage k f).thermal = s.thermal ∧ (s.modPage k f).energy = s.energy ∧ (s.modPage k f).err = s.err ∧
    (s.modPage k f).remap = s.remap ∧ (s.modPage k f).snap = s.snap ∧ (s.modPage k f).flash = s.flash ∧
    (s.modPage k f).net = s.net ∧ (s.modPage k f).boot = s.boot ∧ (s.modPage k f).fuses = s.fuses ∧
    (s.modPage k f).side = s.side ∧ (s.modPage k f).hiLatch = s.hiLatch ∧ (s.modPage k f).loHeld = s.loHeld :=
  ⟨rfl, rfl, rfl, rfl, rfl, rfl, rfl, rfl, rfl, rfl, rfl, rfl, rfl, rfl, rfl, rfl, rfl, rfl, rfl, rfl,
    rfl, rfl, rfl, rfl, rfl, rfl, rfl, rfl, rfl, rfl, rfl, rfl, rfl, rfl, rfl, rfl, rfl, rfl, rfl, rfl,
    rfl, rfl, rfl, rfl⟩

@[simp] theorem State.modStream_same (s : State) (k : Nat) (f : RailStream → RailStream) : (s.modStream k f).stream k = f (s.stream k) := by
  simp [State.modStream, State.stream]

theorem State.modStream_other (s : State) (f : RailStream → RailStream) {k k' : Nat} (h : k' ≠ k) : (s.modStream k f).stream k' = s.stream k' := by
  simp [State.modStream, State.stream, nget_nmod_other _ _ _ h]

@[simp] theorem State.modStream_fields (s : State) (k : Nat) (f : RailStream → RailStream) :
    (s.modStream k f).core = s.core ∧ (s.modStream k f).cluster = s.cluster ∧ (s.modStream k f).region = s.region ∧
    (s.modStream k f).die = s.die ∧ (s.modStream k f).ctl = s.ctl ∧ (s.modStream k f).ctx = s.ctx ∧
    (s.modStream k f).conn = s.conn ∧ (s.modStream k f).port = s.port ∧ (s.modStream k f).page = s.page ∧
    (s.modStream k f).pending = s.pending ∧ (s.modStream k f).oracle = s.oracle ∧ (s.modStream k f).outbox = s.outbox ∧
    (s.modStream k f).time = s.time ∧ (s.modStream k f).mem = s.mem ∧ (s.modStream k f).memCond = s.memCond ∧
    (s.modStream k f).split = s.split ∧ (s.modStream k f).splitNext = s.splitNext ∧ (s.modStream k f).ctls = s.ctls ∧
    (s.modStream k f).cores = s.cores ∧ (s.modStream k f).clusters = s.clusters ∧ (s.modStream k f).regions = s.regions ∧
    (s.modStream k f).dies = s.dies ∧ (s.modStream k f).devq = s.devq ∧ (s.modStream k f).ctxs = s.ctxs ∧
    (s.modStream k f).closes = s.closes ∧ (s.modStream k f).ctxSel = s.ctxSel ∧
    (s.modStream k f).ctxWritesDropped = s.ctxWritesDropped ∧ (s.modStream k f).ctxCorrected = s.ctxCorrected ∧
    (s.modStream k f).ctxCond = s.ctxCond ∧ (s.modStream k f).fabric = s.fabric ∧ (s.modStream k f).power = s.power ∧
    (s.modStream k f).thermal = s.thermal ∧ (s.modStream k f).energy = s.energy ∧ (s.modStream k f).err = s.err ∧
    (s.modStream k f).pages = s.pages ∧ (s.modStream k f).remap = s.remap ∧ (s.modStream k f).snap = s.snap ∧
    (s.modStream k f).flash = s.flash ∧ (s.modStream k f).net = s.net ∧ (s.modStream k f).boot = s.boot ∧
    (s.modStream k f).fuses = s.fuses ∧ (s.modStream k f).side = s.side ∧ (s.modStream k f).hiLatch = s.hiLatch ∧
    (s.modStream k f).loHeld = s.loHeld :=
  ⟨rfl, rfl, rfl, rfl, rfl, rfl, rfl, rfl, rfl, rfl, rfl, rfl, rfl, rfl, rfl, rfl, rfl, rfl, rfl, rfl,
    rfl, rfl, rfl, rfl, rfl, rfl, rfl, rfl, rfl, rfl, rfl, rfl, rfl, rfl, rfl, rfl, rfl, rfl, rfl, rfl,
    rfl, rfl, rfl, rfl⟩

end Sys2Proof.Machine
end

