-- ==== Sys2Proof/Laws/Events.lean ====
section
/-! SUPPORT. Events.lean: what raising an event may change, and what it leaves alone. -/

namespace Sys2Proof.Machine

/-! ### What raising an event touches -/

/-- What raising an event may do: draw open information, record, log, queue for sending, and lose. -/
inductive Told (s : State) : State → Prop
  | refl : Told s s
  | opened {t : State} : Told s t → Told s t.open_.2
  | recorded {t : State} (pg : Nat) (f : PageHdr → PageHdr) : Told s t → Told s (t.modPage pg f)
  | logged {t : State} (x : LogEntry) : Told s t → Told s (t.setErr (t.err.enter x))
  | queued {t : State} (d : Nat) (r : List EventRec) :
      Told s t → Told s (t.modDie d fun x => { x with events := r, evSeq := x.evSeq + 1 })
  | lost {t : State} (n : Word) : Told s t → Told s (t.setNet { t.net with eventsLost := n })
  | lostAt {t : State} (n : Option Nat) : Told s t → Told s (t.setNet { t.net with eventsLostAt := n })

theorem Told.ite {s a b : State} {c : Prop} [Decidable c] (ha : Told s a) (hb : Told s b) : Told s (if c then a else b) := by
  split
  · exact ha
  · exact hb

theorem Told.raiseOne {s t : State} (h : Told s t) (pg : Nat) (code : BitVec 16) (sev info extra : Nat) (emit inj : Bool) :
    Told s (t.raiseOne pg code sev info extra emit inj) := by
  unfold State.raiseOne
  dsimp only
  generalize hu : (if sev ≥ contained ∨ (t.page pg).route.getLsbD 1 = true then _ else _ : State) = u
  have h5 : Told s u := hu ▸ .ite (.logged _ (.recorded _ _ h)) (.recorded _ _ h)
  exact .ite (.ite (.lost _ (.queued _ _ h5)) (.queued _ _ h5)) h5

theorem Told.raiseFull {s t : State} (h : Told s t) (pg : Nat) (code : BitVec 16) (sev info extra : Nat) (emit inj : Bool) :
    Told s (t.raiseFull pg code sev info extra emit inj) := by
  unfold State.raiseFull
  dsimp only
  generalize hi : t.infoOf code info = i
  have h0 : Told s i.2 := by
    rw [← hi]
    unfold State.infoOf
    repeat' split
    all_goals first | exact .opened h | exact h
  have h1 := h0.raiseOne pg code sev i.1 extra emit inj
  generalize i.2.raiseOne pg code sev i.1 extra emit inj = u at h1
  exact .ite h1 (.ite (.raiseOne (.lostAt _ h1) _ _ _ _ _ _ _) (.raiseOne h1 _ _ _ _ _ _ _))

theorem Told.raiseEach {s t : State} (h : Told s t) (pg : Nat) (code : BitVec 16) (info : Nat) (emit : Bool) (n : Nat) :
    Told s (t.raiseEach pg code info emit n) := by
  induction n generalizing t emit with
  | zero => exact h
  | succ n ih => exact ih (h.raiseFull _ _ _ _ _ _ _) _

theorem State.raiseFull_told (s : State) (pg : Nat) (code : BitVec 16) (sev info extra : Nat) (emit inj : Bool) :
    Told s (s.raiseFull pg code sev info extra emit inj) := Told.refl.raiseFull _ _ _ _ _ _ _

theorem State.raise_told (s : State) (pg : Nat) (code : BitVec 16) (sev info : Nat) : Told s (s.raise pg code sev info) :=
  s.raiseFull_told _ _ _ _ _ _ _

theorem State.raiseRare_told (s : State) (pg : Nat) (code : BitVec 16) (info : Nat) (w : Word) : Told s
    (s.raiseRare pg code info w) :=
  s.raiseFull_told _ _ _ _ _ _ _

theorem State.raiseEach_told (s : State) (pg : Nat) (code : BitVec 16) (info : Nat) (emit : Bool) (n : Nat) :
    Told s (s.raiseEach pg code info emit n) := Told.refl.raiseEach _ _ _ _ _

theorem Told.fields {s t : State} (h : Told s t) :
    t.pending = s.pending ∧ t.outbox = s.outbox ∧ t.time = s.time ∧ t.mem = s.mem ∧ t.memCond = s.memCond ∧ t.split = s.split ∧
    t.splitNext = s.splitNext ∧ t.ctls = s.ctls ∧ t.cores = s.cores ∧ t.clusters = s.clusters ∧ t.regions = s.regions ∧
    t.devq = s.devq ∧ t.rail = s.rail ∧ t.ctxs = s.ctxs ∧ t.closes = s.closes ∧ t.ctxSel = s.ctxSel ∧
    t.ctxWritesDropped = s.ctxWritesDropped ∧ t.ctxCorrected = s.ctxCorrected ∧ t.ctxCond = s.ctxCond ∧ t.fabric = s.fabric ∧
    t.power = s.power ∧ t.thermal = s.thermal ∧ t.energy = s.energy ∧ t.remap = s.remap ∧ t.snap = s.snap ∧ t.flash = s.flash ∧
    t.boot = s.boot ∧ t.fuses = s.fuses ∧ t.side = s.side ∧ t.hiLatch = s.hiLatch ∧ t.loHeld = s.loHeld := by
  induction h with
  | refl => simp
  | opened _ ih => simpa [State.open_] using ih
  | recorded _ _ _ ih => simpa using ih
  | logged _ _ ih => simpa using ih
  | queued _ _ _ ih => simpa using ih
  | lost _ _ ih => simpa using ih
  | lostAt _ _ ih => simpa using ih

theorem Told.more {s t : State} (h : Told s t) : t.err.deviceStopped = s.err.deviceStopped ∧ t.err.stopCode = s.err.stopCode ∧
    (∀ n, t.conn n = s.conn n) ∧ (∀ n, t.port n = s.port n) ∧
    ∀ d, ∃ x y, t.die d = { s.die d with events := x, evSeq := y } := by
  induction h with
  | refl => exact ⟨rfl, rfl, fun _ => rfl, fun _ => rfl, fun _ => ⟨_, _, rfl⟩⟩
  | opened _ ih => exact ih
  | recorded _ _ _ ih => exact ih
  | logged _ _ ih => exact ih
  | queued d r _ ih =>
    refine ⟨ih.1, ih.2.1, ih.2.2.1, ih.2.2.2.1, fun k => ?_⟩
    obtain ⟨x, y, e⟩ := ih.2.2.2.2 k
    by_cases hk : k = d
    · subst hk
      rw [State.modDie_same, e]
      exact ⟨_, _, rfl⟩
    · rw [State.modDie_other _ _ hk, e]
      exact ⟨_, _, rfl⟩
  | lost _ _ ih => exact ih
  | lostAt _ _ ih => exact ih

@[simp] theorem State.raiseFull_fields (s : State) (pg : Nat) (code : BitVec 16) (sev info extra : Nat) (emit inj : Bool) :
    (s.raiseFull pg code sev info extra emit inj).pending = s.pending ∧
    (s.raiseFull pg code sev info extra emit inj).outbox = s.outbox ∧
    (s.raiseFull pg code sev info extra emit inj).time = s.time ∧ (s.raiseFull pg code sev info extra emit inj).mem = s.mem ∧
    (s.raiseFull pg code sev info extra emit inj).memCond = s.memCond ∧
    (s.raiseFull pg code sev info extra emit inj).split = s.split ∧
    (s.raiseFull pg code sev info extra emit inj).splitNext = s.splitNext ∧
    (s.raiseFull pg code sev info extra emit inj).ctls = s.ctls ∧
    (s.raiseFull pg code sev info extra emit inj).cores = s.cores ∧
    (s.raiseFull pg code sev info extra emit inj).clusters = s.clusters ∧
    (s.raiseFull pg code sev info extra emit inj).regions = s.regions ∧
    (s.raiseFull pg code sev info extra emit inj).devq = s.devq ∧ (s.raiseFull pg code sev info extra emit inj).rail = s.rail ∧
    (s.raiseFull pg code sev info extra emit inj).ctxs = s.ctxs ∧
    (s.raiseFull pg code sev info extra emit inj).closes = s.closes ∧
    (s.raiseFull pg code sev info extra emit inj).ctxSel = s.ctxSel ∧
    (s.raiseFull pg code sev info extra emit inj).ctxWritesDropped = s.ctxWritesDropped ∧
    (s.raiseFull pg code sev info extra emit inj).ctxCorrected = s.ctxCorrected ∧
    (s.raiseFull pg code sev info extra emit inj).ctxCond = s.ctxCond ∧
    (s.raiseFull pg code sev info extra emit inj).fabric = s.fabric ∧
    (s.raiseFull pg code sev info extra emit inj).power = s.power ∧
    (s.raiseFull pg code sev info extra emit inj).thermal = s.thermal ∧
    (s.raiseFull pg code sev info extra emit inj).energy = s.energy ∧
    (s.raiseFull pg code sev info extra emit inj).remap = s.remap ∧
    (s.raiseFull pg code sev info extra emit inj).snap = s.snap ∧
    (s.raiseFull pg code sev info extra emit inj).flash = s.flash ∧
    (s.raiseFull pg code sev info extra emit inj).boot = s.boot ∧
    (s.raiseFull pg code sev info extra emit inj).fuses = s.fuses ∧
    (s.raiseFull pg code sev info extra emit inj).side = s.side ∧
    (s.raiseFull pg code sev info extra emit inj).hiLatch = s.hiLatch ∧
    (s.raiseFull pg code sev info extra emit inj).loHeld = s.loHeld :=
  (s.raiseFull_told pg code sev info extra emit inj).fields

@[simp] theorem State.raise_fields (s : State) (pg : Nat) (code : BitVec 16) (sev info : Nat) :
    (s.raise pg code sev info).pending = s.pending ∧ (s.raise pg code sev info).outbox = s.outbox ∧
    (s.raise pg code sev info).time = s.time ∧ (s.raise pg code sev info).mem = s.mem ∧
    (s.raise pg code sev info).memCond = s.memCond ∧ (s.raise pg code sev info).split = s.split ∧
    (s.raise pg code sev info).splitNext = s.splitNext ∧ (s.raise pg code sev info).ctls = s.ctls ∧
    (s.raise pg code sev info).cores = s.cores ∧ (s.raise pg code sev info).clusters = s.clusters ∧
    (s.raise pg code sev info).regions = s.regions ∧ (s.raise pg code sev info).devq = s.devq ∧
    (s.raise pg code sev info).rail = s.rail ∧ (s.raise pg code sev info).ctxs = s.ctxs ∧
    (s.raise pg code sev info).closes = s.closes ∧ (s.raise pg code sev info).ctxSel = s.ctxSel ∧
    (s.raise pg code sev info).ctxWritesDropped = s.ctxWritesDropped ∧
    (s.raise pg code sev info).ctxCorrected = s.ctxCorrected ∧ (s.raise pg code sev info).ctxCond = s.ctxCond ∧
    (s.raise pg code sev info).fabric = s.fabric ∧ (s.raise pg code sev info).power = s.power ∧
    (s.raise pg code sev info).thermal = s.thermal ∧ (s.raise pg code sev info).energy = s.energy ∧
    (s.raise pg code sev info).remap = s.remap ∧ (s.raise pg code sev info).snap = s.snap ∧
    (s.raise pg code sev info).flash = s.flash ∧ (s.raise pg code sev info).boot = s.boot ∧
    (s.raise pg code sev info).fuses = s.fuses ∧ (s.raise pg code sev info).side = s.side ∧
    (s.raise pg code sev info).hiLatch = s.hiLatch ∧ (s.raise pg code sev info).loHeld = s.loHeld :=
  (s.raise_told pg code sev info).fields

@[simp] theorem State.raiseRare_fields (s : State) (pg : Nat) (code : BitVec 16) (info : Nat) (w : Word) :
    (s.raiseRare pg code info w).pending = s.pending ∧ (s.raiseRare pg code info w).outbox = s.outbox ∧
    (s.raiseRare pg code info w).time = s.time ∧ (s.raiseRare pg code info w).mem = s.mem ∧
    (s.raiseRare pg code info w).memCond = s.memCond ∧ (s.raiseRare pg code info w).split = s.split ∧
    (s.raiseRare pg code info w).splitNext = s.splitNext ∧ (s.raiseRare pg code info w).ctls = s.ctls ∧
    (s.raiseRare pg code info w).cores = s.cores ∧ (s.raiseRare pg code info w).clusters = s.clusters ∧
    (s.raiseRare pg code info w).regions = s.regions ∧ (s.raiseRare pg code info w).devq = s.devq ∧
    (s.raiseRare pg code info w).rail = s.rail ∧ (s.raiseRare pg code info w).ctxs = s.ctxs ∧
    (s.raiseRare pg code info w).closes = s.closes ∧ (s.raiseRare pg code info w).ctxSel = s.ctxSel ∧
    (s.raiseRare pg code info w).ctxWritesDropped = s.ctxWritesDropped ∧
    (s.raiseRare pg code info w).ctxCorrected = s.ctxCorrected ∧ (s.raiseRare pg code info w).ctxCond = s.ctxCond ∧
    (s.raiseRare pg code info w).fabric = s.fabric ∧ (s.raiseRare pg code info w).power = s.power ∧
    (s.raiseRare pg code info w).thermal = s.thermal ∧ (s.raiseRare pg code info w).energy = s.energy ∧
    (s.raiseRare pg code info w).remap = s.remap ∧ (s.raiseRare pg code info w).snap = s.snap ∧
    (s.raiseRare pg code info w).flash = s.flash ∧ (s.raiseRare pg code info w).boot = s.boot ∧
    (s.raiseRare pg code info w).fuses = s.fuses ∧ (s.raiseRare pg code info w).side = s.side ∧
    (s.raiseRare pg code info w).hiLatch = s.hiLatch ∧ (s.raiseRare pg code info w).loHeld = s.loHeld :=
  (s.raiseRare_told pg code info w).fields

@[simp] theorem State.raiseEach_fields (s : State) (pg : Nat) (code : BitVec 16) (info : Nat) (emit : Bool) (n : Nat) :
    (s.raiseEach pg code info emit n).pending = s.pending ∧ (s.raiseEach pg code info emit n).outbox = s.outbox ∧
    (s.raiseEach pg code info emit n).time = s.time ∧ (s.raiseEach pg code info emit n).mem = s.mem ∧
    (s.raiseEach pg code info emit n).memCond = s.memCond ∧ (s.raiseEach pg code info emit n).split = s.split ∧
    (s.raiseEach pg code info emit n).splitNext = s.splitNext ∧ (s.raiseEach pg code info emit n).ctls = s.ctls ∧
    (s.raiseEach pg code info emit n).cores = s.cores ∧ (s.raiseEach pg code info emit n).clusters = s.clusters ∧
    (s.raiseEach pg code info emit n).regions = s.regions ∧ (s.raiseEach pg code info emit n).devq = s.devq ∧
    (s.raiseEach pg code info emit n).rail = s.rail ∧ (s.raiseEach pg code info emit n).ctxs = s.ctxs ∧
    (s.raiseEach pg code info emit n).closes = s.closes ∧ (s.raiseEach pg code info emit n).ctxSel = s.ctxSel ∧
    (s.raiseEach pg code info emit n).ctxWritesDropped = s.ctxWritesDropped ∧
    (s.raiseEach pg code info emit n).ctxCorrected = s.ctxCorrected ∧ (s.raiseEach pg code info emit n).ctxCond = s.ctxCond ∧
    (s.raiseEach pg code info emit n).fabric = s.fabric ∧ (s.raiseEach pg code info emit n).power = s.power ∧
    (s.raiseEach pg code info emit n).thermal = s.thermal ∧ (s.raiseEach pg code info emit n).energy = s.energy ∧
    (s.raiseEach pg code info emit n).remap = s.remap ∧ (s.raiseEach pg code info emit n).snap = s.snap ∧
    (s.raiseEach pg code info emit n).flash = s.flash ∧ (s.raiseEach pg code info emit n).boot = s.boot ∧
    (s.raiseEach pg code info emit n).fuses = s.fuses ∧ (s.raiseEach pg code info emit n).side = s.side ∧
    (s.raiseEach pg code info emit n).hiLatch = s.hiLatch ∧ (s.raiseEach pg code info emit n).loHeld = s.loHeld :=
  (s.raiseEach_told pg code info emit n).fields

end Sys2Proof.Machine
end

