-- ==== Sys2Proof/Laws/Kept.lean ====
section
/-! SUPPORT. Kept.lean: what every run of the module keeps (`State.Follows`), and the queue of commands with it, for the setters of
the state. -/

namespace Sys2Proof.Machine

/-- `s` follows `s0` with the queue of commands as it was: what every shared operation of the machine keeps. -/
structure Kept (s0 s : State) : Prop where
  pending : s.pending = s0.pending
  follows : s0.Follows s

theorem Fuses.Burned.refl (f : Fuses) : f.Burned f :=
  ⟨.inl rfl, BitVec.and_self, BitVec.and_self, le_refl _, le_refl _, ⟨rfl, rfl⟩, ⟨rfl, rfl⟩, ⟨rfl, rfl, rfl, rfl, rfl⟩⟩

theorem and_or_self {n : Nat} (a b : BitVec n) : a &&& (a ||| b) = a := by
  ext i hi
  simp
  tauto

theorem and_trans_self {n : Nat} {a b c : BitVec n} (h1 : a &&& b = a) (h2 : b &&& c = b) : a &&& c = a := by
  rw [← h1, BitVec.and_assoc, h2]

theorem lifecycleOrder.trans {a b c : BitVec 3} (h1 : lifecycleOrder a b) (h2 : lifecycleOrder b c) : lifecycleOrder a c := by
  revert h1 h2
  unfold lifecycleOrder
  revert a b c
  decide

theorem Fuses.Burned.trans {a b c : Fuses} (h1 : a.Burned b) (h2 : b.Burned c) : a.Burned c :=
  ⟨h1.1.trans h2.1, and_trans_self h1.2 h2.2, and_trans_self h1.3 h2.3, le_trans h1.4 h2.4, le_trans h1.5 h2.5,
    ⟨h2.6.1.trans h1.6.1, h2.6.2.trans h1.6.2⟩, ⟨h2.7.1.trans h1.7.1, h2.7.2.trans h1.7.2⟩,
    ⟨h2.8.1.trans h1.8.1, h2.8.2.1.trans h1.8.2.1, h2.8.2.2.1.trans h1.8.2.2.1, h2.8.2.2.2.1.trans h1.8.2.2.2.1,
      h2.8.2.2.2.2.trans h1.8.2.2.2.2⟩⟩

/-- Fuses burn under a state whose epoch count stays. -/

theorem setFuses_kept {s0 s : State} (h : Kept s0 s) (f : Fuses) (hb : s.fuses.Burned f) (he : f.lmsEpochs = s.fuses.lmsEpochs)
    :
    Kept s0 (s.setFuses f) := by
  refine ⟨h.1, ⟨h.2.1.trans hb, fun w => ?_, h.2.3, h.2.4⟩⟩
  have hh : (s.setFuses f).recordHeld = s.recordHeld := by
    show (decide (0 < f.lmsEpochs.toNat) && decide (s.flash.lmsEpoch = some (f.lmsEpochs.toNat - 1))) = s.recordHeld
    rw [he]
    rfl
  have := h.2.2 w
  unfold State.recordOk State.nextIndex at this ⊢
  rw [hh]
  simpa only [State.setFuses, he] using this

def KeptRes (s0 : State) : Res → Prop
  | .next t => Kept s0 t
  | _ => True
def KeptOpt (s0 : State) : Option State → Prop
  | some t => Kept s0 t
  | none => True
def KeptTurn (s0 : State) : Turn → Prop
  | .wait s _ _ => Kept s0 s
  | .moved s _ => Kept s0 s
  | .ended s _ => Kept s0 s

theorem Kept.refl (s : State) : Kept s s := ⟨rfl, ⟨.refl _, fun h => ⟨h, le_refl _⟩, id, id⟩⟩
@[simp] theorem KeptRes_next (s0 s : State) : KeptRes s0 (.next s) ↔ Kept s0 s := Iff.rfl
@[simp] theorem KeptOpt_some (s0 s : State) : KeptOpt s0 (some s) ↔ Kept s0 s := Iff.rfl
@[simp] theorem KeptOpt_none (s0 : State) : KeptOpt s0 none ↔ True := Iff.rfl
@[simp] theorem KeptTurn_wait (s0 s : State) (d k) : KeptTurn s0 (.wait s d k) ↔ Kept s0 s := Iff.rfl
@[simp] theorem KeptTurn_moved (s0 s : State) (k) : KeptTurn s0 (.moved s k) ↔ Kept s0 s := Iff.rfl
@[simp] theorem KeptTurn_ended (s0 s : State) (k) : KeptTurn s0 (.ended s k) ↔ Kept s0 s := Iff.rfl

theorem kept_ite {s0 a b : State} {c : Prop} [Decidable c] (ha : Kept s0 a) (hb : Kept s0 b) :
    Kept s0 (if c then a else b) := by split <;> assumption

theorem kept_ite1 {α : Type} {s0 : State} {a b : State × α} {c : Prop} [Decidable c] (ha : Kept s0 a.1) (hb : Kept s0 b.1) :
    Kept s0 (if c then a else b).1 := by split <;> assumption

theorem kept_ite2 {α : Type} {s0 : State} {a b : α × State} {c : Prop} [Decidable c] (ha : Kept s0 a.2) (hb : Kept s0 b.2) :
    Kept s0 (if c then a else b).2 := by split <;> assumption

theorem kept_foldl {α : Type} {s0 s : State} {f : State → α → State} (hf : ∀ s a, Kept s0 s → Kept s0 (f s a)) (l : List α)
    (h : Kept s0 s) : Kept s0 (l.foldl f s) := by
  induction l generalizing s with
  | nil => exact h
  | cons a l ih => exact ih (hf s a h)

theorem kept_foldl1 {α β : Type} {s0 : State} {x : State × β} {f : State × β → α → State × β}
    (hf : ∀ x a, Kept s0 x.1 → Kept s0 (f x a).1) (l : List α) (h : Kept s0 x.1) : Kept s0 (l.foldl f x).1 := by
  induction l generalizing x with
  | nil => exact h
  | cons a l ih => exact ih (hf x a h)

theorem setMem_wf_kept {s0 s : State} (h : Kept s0 s) (v) (hv : Memory.wf s.mem = true → Memory.wf v = true) :
    Kept s0 (s.setMem v) :=
  ⟨h.1, ⟨h.2.1, h.2.2, fun w => hv (h.2.3 w), h.2.4⟩⟩

theorem kept_clear {s0 s : State} (h : Kept s0 s) (a n) :
    Kept s0 (s.setMem (nclear s.mem a n)) := setMem_wf_kept h _ (nclear_wf a n)

theorem kept_put {s0 s : State} (h : Kept s0 s) (a n b) :
    Kept s0 (s.setMem (putMem s.mem a n b)) := setMem_wf_kept h _ (putMem_wf a n b)

theorem kept_nil {s0 s : State} (h : Kept s0 s) : Kept s0 (s.setMem []) := setMem_wf_kept h _ fun _ => rfl

theorem setFlash_lms_kept {s0 s : State} (h : Kept s0 s) (v) (h1 : v.lmsEpoch = s.flash.lmsEpoch)
    (h2 : v.lmsNext = s.flash.lmsNext) :
    Kept s0 (s.setFlash v) := by
  refine ⟨h.1, ⟨h.2.1, fun w => ?_, h.2.3, h.2.4⟩⟩
  have hh : (s.setFlash v).recordHeld = s.recordHeld := by
    show (decide (0 < s.fuses.lmsEpochs.toNat) && decide (v.lmsEpoch = some (s.fuses.lmsEpochs.toNat - 1))) = s.recordHeld
    rw [h1]
    rfl
  have := h.2.2 w
  unfold State.recordOk State.nextIndex at this ⊢
  rw [hh]
  simpa only [State.setFlash, h2] using this
/-- A state built anew that takes over the queue, the fuses and the flash. -/

theorem kept_anew {s0 s t : State} (h : Kept s0 s) (hp : t.pending = s.pending) (hf : t.fuses = s.fuses)
    (h1 : t.flash.lmsEpoch = s.flash.lmsEpoch) (h2 : t.flash.lmsNext = s.flash.lmsNext) (hm : t.mem = [])
        (hr : t.remap = .reset) :
    Kept s0 t := by
  refine ⟨hp.trans h.1, ⟨hf ▸ h.2.1, fun w => ?_, fun _ => by rw [hm]; rfl, fun _ => by rw [hr]; intro l n e; cases e⟩⟩
  have hh : t.recordHeld = s.recordHeld := by
    unfold State.recordHeld
    rw [hf, h1]
  have := h.2.2 w
  unfold State.recordOk State.nextIndex at this ⊢
  rw [hh, hf, h2]
  exact this

theorem setOracle_kept {s0 s : State} (h : Kept s0 s) (v) : Kept s0 (s.setOracle v) :=
  ⟨h.1, ⟨h.2.1, h.2.2, h.2.3, h.2.4⟩⟩

theorem setOutbox_kept {s0 s : State} (h : Kept s0 s) (v) : Kept s0 (s.setOutbox v) :=
  ⟨h.1, ⟨h.2.1, h.2.2, h.2.3, h.2.4⟩⟩

theorem setTime_kept {s0 s : State} (h : Kept s0 s) (v) : Kept s0 (s.setTime v) :=
  ⟨h.1, ⟨h.2.1, h.2.2, h.2.3, h.2.4⟩⟩

theorem setMemCond_kept {s0 s : State} (h : Kept s0 s) (v) : Kept s0 (s.setMemCond v) :=
  ⟨h.1, ⟨h.2.1, h.2.2, h.2.3, h.2.4⟩⟩

theorem setSplit_kept {s0 s : State} (h : Kept s0 s) (v) : Kept s0 (s.setSplit v) :=
  ⟨h.1, ⟨h.2.1, h.2.2, h.2.3, h.2.4⟩⟩

theorem setSplitNext_kept {s0 s : State} (h : Kept s0 s) (v) : Kept s0 (s.setSplitNext v) :=
  ⟨h.1, ⟨h.2.1, h.2.2, h.2.3, h.2.4⟩⟩

theorem setCtls_kept {s0 s : State} (h : Kept s0 s) (v) : Kept s0 (s.setCtls v) :=
  ⟨h.1, ⟨h.2.1, h.2.2, h.2.3, h.2.4⟩⟩

theorem setCores_kept {s0 s : State} (h : Kept s0 s) (v) : Kept s0 (s.setCores v) :=
  ⟨h.1, ⟨h.2.1, h.2.2, h.2.3, h.2.4⟩⟩

theorem setClusters_kept {s0 s : State} (h : Kept s0 s) (v) : Kept s0 (s.setClusters v) :=
  ⟨h.1, ⟨h.2.1, h.2.2, h.2.3, h.2.4⟩⟩

theorem setRegions_kept {s0 s : State} (h : Kept s0 s) (v) : Kept s0 (s.setRegions v) :=
  ⟨h.1, ⟨h.2.1, h.2.2, h.2.3, h.2.4⟩⟩

theorem setDies_kept {s0 s : State} (h : Kept s0 s) (v) : Kept s0 (s.setDies v) :=
  ⟨h.1, ⟨h.2.1, h.2.2, h.2.3, h.2.4⟩⟩

theorem setDevq_kept {s0 s : State} (h : Kept s0 s) (v) : Kept s0 (s.setDevq v) :=
  ⟨h.1, ⟨h.2.1, h.2.2, h.2.3, h.2.4⟩⟩

theorem setRail_kept {s0 s : State} (h : Kept s0 s) (v) : Kept s0 (s.setRail v) :=
  ⟨h.1, ⟨h.2.1, h.2.2, h.2.3, h.2.4⟩⟩

theorem setCtxs_kept {s0 s : State} (h : Kept s0 s) (v) : Kept s0 (s.setCtxs v) :=
  ⟨h.1, ⟨h.2.1, h.2.2, h.2.3, h.2.4⟩⟩

theorem setCloses_kept {s0 s : State} (h : Kept s0 s) (v) : Kept s0 (s.setCloses v) :=
  ⟨h.1, ⟨h.2.1, h.2.2, h.2.3, h.2.4⟩⟩

theorem setCtxSel_kept {s0 s : State} (h : Kept s0 s) (v) : Kept s0 (s.setCtxSel v) :=
  ⟨h.1, ⟨h.2.1, h.2.2, h.2.3, h.2.4⟩⟩

theorem setCtxWritesDropped_kept {s0 s : State} (h : Kept s0 s) (v) : Kept s0 (s.setCtxWritesDropped v) :=
  ⟨h.1, ⟨h.2.1, h.2.2, h.2.3, h.2.4⟩⟩

theorem setCtxCorrected_kept {s0 s : State} (h : Kept s0 s) (v) : Kept s0 (s.setCtxCorrected v) :=
  ⟨h.1, ⟨h.2.1, h.2.2, h.2.3, h.2.4⟩⟩

theorem setCtxCond_kept {s0 s : State} (h : Kept s0 s) (v) : Kept s0 (s.setCtxCond v) :=
  ⟨h.1, ⟨h.2.1, h.2.2, h.2.3, h.2.4⟩⟩

theorem setFabric_kept {s0 s : State} (h : Kept s0 s) (v) : Kept s0 (s.setFabric v) :=
  ⟨h.1, ⟨h.2.1, h.2.2, h.2.3, h.2.4⟩⟩

theorem setPower_kept {s0 s : State} (h : Kept s0 s) (v) : Kept s0 (s.setPower v) :=
  ⟨h.1, ⟨h.2.1, h.2.2, h.2.3, h.2.4⟩⟩

theorem setThermal_kept {s0 s : State} (h : Kept s0 s) (v) : Kept s0 (s.setThermal v) :=
  ⟨h.1, ⟨h.2.1, h.2.2, h.2.3, h.2.4⟩⟩

theorem setEnergy_kept {s0 s : State} (h : Kept s0 s) (v) : Kept s0 (s.setEnergy v) :=
  ⟨h.1, ⟨h.2.1, h.2.2, h.2.3, h.2.4⟩⟩

theorem setErr_kept {s0 s : State} (h : Kept s0 s) (v) : Kept s0 (s.setErr v) :=
  ⟨h.1, ⟨h.2.1, h.2.2, h.2.3, h.2.4⟩⟩

theorem setPages_kept {s0 s : State} (h : Kept s0 s) (v) : Kept s0 (s.setPages v) :=
  ⟨h.1, ⟨h.2.1, h.2.2, h.2.3, h.2.4⟩⟩

theorem setRemap_kept {s0 s : State} (h : Kept s0 s) (v) (hv : s.remap.ok → v.ok) : Kept s0 (s.setRemap v) :=
  ⟨h.1, ⟨h.2.1, h.2.2, h.2.3, fun w => hv (h.2.4 w)⟩⟩

theorem Remap.put_ok {m : Remap} (h : m.ok) {n : Nat} (x : Spare) (hs : (nget .reset m.spares n).starting = true ∨
    (nget .reset m.spares n).logical = none) : (m.put n x).ok := by
  intro l k e
  have hk := h l k e
  have hn : k ≠ n := by
    rintro rfl
    rw [hk] at hs
    simp at hs
  rw [← hk]
  exact nget_nset_other _ _ _ hn

theorem Remap.serve_ok {m : Remap} (h : m.ok) {n l : Nat} (hs : (nget .reset m.spares n).starting = true) : (m.serve n l).ok :=
    by
  intro a k e
  simp only [Remap.serve] at e ⊢
  by_cases ha : a = l
  · subst ha
    rw [nget_nset_same] at e
    cases e
    rw [nget_nset_same]
  · rw [nget_nset_other _ _ _ ha] at e
    have hk := h a k e
    have hn : k ≠ n := by
      rintro rfl
      rw [hk] at hs
      cases hs
    rw [nget_nset_other _ _ _ hn]
    cases he : nget none m.map l with
    | none => exact hk
    | some j =>
      have hj := h l j he
      have : k ≠ j := by
        rintro rfl
        rw [hk] at hj
        exact ha (by simpa using congrArg Spare.logical hj)
      rw [← hk]
      exact nget_nset_other _ _ _ this

theorem Remap.free_ok {m : Remap} (h : m.ok) {n l : Nat} (hs : nget .reset m.spares n = ⟨some l, false⟩) : (m.free n l).ok := by
  intro a k e
  simp only [Remap.free] at e ⊢
  by_cases ha : a = l
  · subst ha
    rw [nget_nset_same] at e
    cases e
  · rw [nget_nset_other _ _ _ ha] at e
    have hk := h a k e
    have hn : k ≠ n := by
      rintro rfl
      rw [hk] at hs
      exact ha (by simpa using congrArg Spare.logical hs)
    rw [nget_nset_other _ _ _ hn]
    exact hk

theorem setSnap_kept {s0 s : State} (h : Kept s0 s) (v) : Kept s0 (s.setSnap v) :=
  ⟨h.1, ⟨h.2.1, h.2.2, h.2.3, h.2.4⟩⟩

theorem setNet_kept {s0 s : State} (h : Kept s0 s) (v) : Kept s0 (s.setNet v) :=
  ⟨h.1, ⟨h.2.1, h.2.2, h.2.3, h.2.4⟩⟩

theorem setBoot_kept {s0 s : State} (h : Kept s0 s) (v) : Kept s0 (s.setBoot v) :=
  ⟨h.1, ⟨h.2.1, h.2.2, h.2.3, h.2.4⟩⟩

theorem setSide_kept {s0 s : State} (h : Kept s0 s) (v) : Kept s0 (s.setSide v) :=
  ⟨h.1, ⟨h.2.1, h.2.2, h.2.3, h.2.4⟩⟩

theorem setHiLatch_kept {s0 s : State} (h : Kept s0 s) (v) : Kept s0 (s.setHiLatch v) :=
  ⟨h.1, ⟨h.2.1, h.2.2, h.2.3, h.2.4⟩⟩

theorem setLoHeld_kept {s0 s : State} (h : Kept s0 s) (v) : Kept s0 (s.setLoHeld v) :=
  ⟨h.1, ⟨h.2.1, h.2.2, h.2.3, h.2.4⟩⟩

theorem kept_next {s0 s : State} (h : Kept s0 s) : KeptRes s0 (.next s) := (KeptRes_next s0 s).2 h

theorem kept_some {s0 s : State} (h : Kept s0 s) : KeptOpt s0 (some s) := (KeptOpt_some s0 s).2 h

theorem kept_none {s0 : State} : KeptOpt s0 none := (KeptOpt_none s0).2 trivial

theorem kept_wait {s0 s : State} {d k} (h : Kept s0 s) : KeptTurn s0 (.wait s d k) := h

theorem kept_moved {s0 s : State} {d} (h : Kept s0 s) : KeptTurn s0 (.moved s d) := h

theorem kept_ended {s0 s : State} {d} (h : Kept s0 s) : KeptTurn s0 (.ended s d) := h

theorem kept_pair1 {α : Type} {s0 s : State} {a : α} {p : State × α} (e : p = (s, a)) (h : Kept s0 p.1) :
    Kept s0 s := by subst e; exact h

theorem kept_pair2 {α : Type} {s0 s : State} {a : α} {p : α × State} (e : p = (a, s)) (h : Kept s0 p.2) :
    Kept s0 s := by subst e; exact h

theorem kept_opt {s0 s : State} {o : Option State} (e : o = some s) (h : KeptOpt s0 o) : Kept s0 s := by subst e; exact h

theorem kept_turnM {s0 s : State} {d} {o : Turn} (e : o = .moved s d) (h : KeptTurn s0 o) : Kept s0 s := by subst e; exact h

theorem kept_turnW {s0 s : State} {d k} {o : Turn} (e : o = .wait s d k) (h : KeptTurn s0 o) : Kept s0 s := by subst e; exact h

theorem kept_turnE {s0 s : State} {d} {o : Turn} (e : o = .ended s d) (h : KeptTurn s0 o) : Kept s0 s := by subst e; exact h

theorem kept_res {s0 s : State} {o : Res} (e : o = .next s) (h : KeptRes s0 o) : Kept s0 s := by subst e; exact h

theorem kept_forEach {s0 s : State} {f : State → Nat → State} (hf : ∀ s a, Kept s0 s → Kept s0 (f s a)) (l : List Nat)
    (h : Kept s0 s) : Kept s0 (s.forEach l f) := kept_foldl hf l h

theorem kept_optite {s0 : State} {a b : Option State} {c : Prop} [Decidable c] (ha : KeptOpt s0 a) (hb : KeptOpt s0 b) :
    KeptOpt s0 (if c then a else b) := by split <;> assumption

theorem kept_turnite {s0 : State} {a b : Turn} {c : Prop} [Decidable c] (ha : KeptTurn s0 a) (hb : KeptTurn s0 b) :
    KeptTurn s0 (if c then a else b) := by split <;> assumption

theorem kept_getD {s0 s : State} {o : Option State} (ho : KeptOpt s0 o) (h : Kept s0 s) : Kept s0 (o.getD s) := by
  cases o with
  | none => exact h
  | some t => exact ho
/-- The same for an accumulator that carries the state. -/

theorem kept_foldlBy {α β : Type} {s0 : State} {p : β → State} {f : β → α → β} (hf : ∀ x a, Kept s0 (p x) → Kept s0 (p (f x a)))
    (l : List α)
    {x : β} (h : Kept s0 (p x)) : Kept s0 (p (l.foldl f x)) := by
  induction l generalizing x with
  | nil => exact h
  | cons a l ih => exact ih (hf x a h)

theorem kept_iteBy {β : Type} {s0 : State} {p : β → State} {a b : β} {c : Prop} [Decidable c] (ha : Kept s0 (p a))
    (hb : Kept s0 (p b)) :
    Kept s0 (p (if c then a else b)) := by
  split
  · exact ha
  · exact hb

end Sys2Proof.Machine
end

