-- ==== Sys2Proof/Laws/KeptOps.lean ====
section
/-! SUPPORT. KeptOps.lean: what every run keeps (`Kept`), for the shared operations over memory, queues, events, fences and control commands. -/

namespace Sys2Proof.Machine

/-! ### Access.lean -/

theorem State.setCore_kept {s0 s : State} (a1 : Nat) (a2 : Core) (h : Kept s0 s) : Kept s0 (s.setCore a1 a2) := by
  unfold State.setCore
  repeat' with_reducible first | assumption | apply setCores_kept

theorem State.modCore_kept {s0 s : State} (a1 : Nat) (a2 : Core → Core) (h : Kept s0 s) : Kept s0 (s.modCore a1 a2) := by
  unfold State.modCore
  repeat' with_reducible first | assumption | apply State.setCore_kept

theorem State.modCluster_kept {s0 s : State} (a1 : Nat) (a2 : Cluster → Cluster) (h : Kept s0 s) :
    Kept s0 (s.modCluster a1 a2) := by
  unfold State.modCluster
  repeat' with_reducible first | assumption | apply setClusters_kept

theorem State.modRegion_kept {s0 s : State} (a1 : Nat) (a2 : Region → Region) (h : Kept s0 s) :
    Kept s0 (s.modRegion a1 a2) := by
  unfold State.modRegion
  repeat' with_reducible first | assumption | apply setRegions_kept

theorem State.modDie_kept {s0 s : State} (a1 : Nat) (a2 : Die → Die) (h : Kept s0 s) : Kept s0 (s.modDie a1 a2) := by
  unfold State.modDie
  repeat' with_reducible first | assumption | apply setDies_kept

theorem State.modCtl_kept {s0 s : State} (a1 : Nat) (a2 : Ctl → Ctl) (h : Kept s0 s) : Kept s0 (s.modCtl a1 a2) := by
  unfold State.modCtl
  repeat' with_reducible first | assumption | apply setCtls_kept

theorem State.modCtx_kept {s0 s : State} (a1 : Nat) (a2 : Ctx → Ctx) (h : Kept s0 s) : Kept s0 (s.modCtx a1 a2) := by
  unfold State.modCtx
  repeat' with_reducible first | assumption | apply setCtxs_kept

theorem State.modConn_kept {s0 s : State} (a1 : Nat) (a2 : Conn → Conn) (h : Kept s0 s) : Kept s0 (s.modConn a1 a2) := by
  unfold State.modConn
  repeat' with_reducible first | assumption | apply setNet_kept

theorem State.modPort_kept {s0 s : State} (a1 : Nat) (a2 : Port → Port) (h : Kept s0 s) : Kept s0 (s.modPort a1 a2) := by
  unfold State.modPort
  repeat' with_reducible first | assumption | apply setNet_kept

theorem State.modPage_kept {s0 s : State} (a1 : Nat) (a2 : PageHdr → PageHdr) (h : Kept s0 s) : Kept s0 (s.modPage a1 a2) := by
  unfold State.modPage
  repeat' with_reducible first | assumption | apply setPages_kept

theorem State.modStream_kept {s0 s : State} (a1 : Nat) (a2 : RailStream → RailStream) (h : Kept s0 s) :
    Kept s0 (s.modStream a1 a2) := by
  unfold State.modStream
  repeat' with_reducible first | assumption | apply setRail_kept

theorem State.forEach_kept {s0 s : State} (a1 : List Nat) (a2 : State → Nat → State)
    (h2 : ∀ t b1, Kept s0 t → Kept s0 (a2 t b1)) (h : Kept s0 s) : Kept s0 (s.forEach a1 a2) := by
  unfold State.forEach
  repeat' with_reducible first | assumption | apply kept_foldl

theorem State.openValue_kept {s0 s : State} (h : Kept s0 s) : Kept s0 (s.open_).2 := by
  unfold State.open_
  repeat' with_reducible first | assumption | apply setOracle_kept

theorem State.modLcore_kept {s0 s : State} (a1 : Nat) (a2 : Core → Core) (h : Kept s0 s) : Kept s0 (s.modLcore a1 a2) := by
  unfold State.modLcore
  repeat' with_reducible first | assumption | apply State.modCore_kept

theorem State.modQueue_kept {s0 s : State} (a1 : Nat) (a2 : QState → QState) (h : Kept s0 s) : Kept s0 (s.modQueue a1 a2) := by
  unfold State.modQueue
  repeat' first | (with_reducible first | assumption | apply State.modLcore_kept | apply setDevq_kept) | split

/-! ### Events.lean -/

theorem State.infoOf_kept {s0 s : State} (a1 : BitVec 16) (a2 : Nat) (h : Kept s0 s) : Kept s0 (s.infoOf a1 a2).2 := by
  unfold State.infoOf
  repeat' first
    | intro _
    | (with_reducible first
        | exact h | exact trivial | assumption | apply State.openValue_kept | apply kept_next | apply kept_some | apply kept_none
        | apply kept_moved | apply kept_ended | apply kept_ite | apply kept_ite1 | apply kept_ite2)

theorem State.raiseOne_kept {s0 s : State} (a1 : Nat) (a2 : BitVec 16) (a3 : Nat) (a4 : Nat) (a5 : Nat) (a6 : Bool) (a7 : Bool)
    (h : Kept s0 s) : Kept s0 (s.raiseOne a1 a2 a3 a4 a5 a6 a7) := by
  unfold State.raiseOne
  repeat' first
    | intro _
    | (with_reducible first
        | exact h | exact trivial | assumption | apply State.modPage_kept | apply setErr_kept | apply State.modDie_kept
        | apply setNet_kept | apply kept_next | apply kept_some | apply kept_none | apply kept_moved | apply kept_ended
        | apply kept_ite)

theorem State.raiseFull_kept {s0 s : State} (a1 : Nat) (a2 : BitVec 16) (a3 : Nat) (a4 : Nat) (a5 : Nat) (a6 : Bool) (a7 : Bool)
    (h : Kept s0 s) : Kept s0 (s.raiseFull a1 a2 a3 a4 a5 a6 a7) := by
  unfold State.raiseFull
  repeat' first
    | intro _
    | (with_reducible first
        | exact h | exact trivial | assumption | apply State.infoOf_kept | apply State.raiseOne_kept | apply setNet_kept
        | apply kept_next | apply kept_some | apply kept_none | apply kept_moved | apply kept_ended | apply kept_ite)

theorem State.raise_kept {s0 s : State} (a1 : Nat) (a2 : BitVec 16) (a3 : Nat) (a4 : Nat) (h : Kept s0 s) :
    Kept s0 (s.raise a1 a2 a3 a4) := by
  unfold State.raise
  repeat' first | intro _ | (with_reducible first | exact h | exact trivial | assumption | apply State.raiseFull_kept)

theorem State.raiseRare_kept {s0 s : State} (a1 : Nat) (a2 : BitVec 16) (a3 : Nat) (a4 : Sys2Proof.Word) (h : Kept s0 s) :
    Kept s0 (s.raiseRare a1 a2 a3 a4) := by
  unfold State.raiseRare
  repeat' first | intro _ | (with_reducible first | exact h | exact trivial | assumption | apply State.raiseFull_kept)

theorem State.raiseEach_kept {s0 s : State} (a1 : Nat) (a2 : BitVec 16) (a3 : Nat) (a4 : Bool) (a5 : Nat) (h : Kept s0 s) :
    Kept s0 (s.raiseEach a1 a2 a3 a4 a5) := by
  induction a5 generalizing s a4 with
  | zero => exact h
  | succ n ih => exact ih _ (State.raiseFull_kept _ _ _ _ _ _ _ h)

theorem State.countBad_kept {s0 s : State} (a1 : Nat) (h : Kept s0 s) : Kept s0 (s.countBad a1) := by
  unfold State.countBad
  repeat' first | intro _ | (with_reducible first | exact h | exact trivial | assumption | apply State.modPage_kept)

/-! ### Stops.lean -/

theorem State.endTakes_kept {s0 s : State} (a1 : Nat) (a2 : Nat) (h : Kept s0 s) : Kept s0 (s.endTakes a1 a2) := by
  unfold State.endTakes
  repeat' with_reducible first | assumption | apply State.modLcore_kept

theorem State.leaveStream_kept {s0 s : State} (a1 : Nat) (a2 : Nat) (a3 : Bool) (h : Kept s0 s) :
    Kept s0 (s.leaveStream a1 a2 a3) := by
  unfold State.leaveStream
  repeat' first
    | (with_reducible first
        | assumption | apply State.modStream_kept | apply State.endTakes_kept | apply setRail_kept | apply State.raise_kept)
    | split

theorem putSpare_kept {s0 s : State} (n : Nat) (h : Kept s0 s) :
    Kept s0 (if (s.spare n).starting = true then s.setRemap (s.remap.put n .reset) else s) := by
  split
  · rename_i hc
    exact setRemap_kept h _ fun w => Remap.put_ok w _ (.inl hc)
  · exact h

theorem State.stopEverything_kept {s0 s : State} (a1 : BitVec 16) (a2 : Bool) (h : Kept s0 s) :
    Kept s0 (s.stopEverything a1 a2) := by
  unfold State.stopEverything
  repeat' first
    | intro _
    | (with_reducible first
        | exact h | exact trivial | assumption | apply putSpare_kept | apply kept_forEach | apply State.modCore_kept
        | apply kept_foldl | apply kept_foldl1 | apply setDevq_kept | apply setRail_kept | apply setCloses_kept
        | apply State.modCluster_kept | apply kept_next | apply kept_some | apply kept_none | apply kept_moved
        | apply kept_ended | apply kept_ite)

theorem State.voidStaging_kept {s0 s : State} (h : Kept s0 s) :
    Kept s0 (State.voidStaging s) := by
  unfold State.voidStaging
  repeat' first
    | intro _
    | (with_reducible first
        | exact h | exact trivial | assumption | apply kept_foldl | apply kept_foldl1 | apply kept_forEach | apply
        eachUntil_kept | apply kept_next | apply kept_some | apply kept_none | apply kept_wait | apply kept_moved |
        apply kept_ended | apply kept_ite | apply kept_ite1 | apply kept_ite2 | apply kept_optite | apply kept_turnite |
        apply kept_clear | apply kept_put)
    | dsimp only | split
    | with_reducible refine kept_pair1 (by assumption) ?_
    | with_reducible refine kept_pair2 (by assumption) ?_

theorem State.abandonSnap_kept {s0 s : State} (h : Kept s0 s) : Kept s0 (s.abandonSnap) := by
  unfold State.abandonSnap
  repeat' first
    | intro _
    | (with_reducible first
        | exact h | exact trivial | assumption | apply State.raise_kept | apply State.voidStaging_kept | apply
        setSnap_kept | apply kept_foldl | apply kept_foldl1 | apply kept_forEach | apply eachUntil_kept | apply
        kept_next | apply kept_some | apply kept_none | apply kept_wait | apply kept_moved | apply kept_ended | apply
        kept_ite | apply kept_ite1 | apply kept_ite2 | apply kept_optite | apply kept_turnite | apply setMem_wf_kept |
        apply kept_clear | apply kept_put)
    | dsimp only | split
    | with_reducible refine kept_pair1 (by assumption) ?_
    | with_reducible refine kept_pair2 (by assumption) ?_

theorem State.deviceStop_kept {s0 s : State} (a1 : BitVec 16) (h : Kept s0 s) : Kept s0 (s.deviceStop a1) := by
  unfold State.deviceStop
  repeat' first
    | intro _
    | (with_reducible first
        | exact h | exact trivial | assumption | apply State.stopEverything_kept | apply State.abandonSnap_kept
        | apply setErr_kept | apply State.raiseFull_kept | apply kept_next | apply kept_some | apply kept_none
        | apply kept_moved | apply kept_ended | apply kept_ite)

theorem State.powerStop_kept {s0 s : State} (a1 : StopCause) (a2 : BitVec 16) (h : Kept s0 s) : Kept s0 (State.powerStop s a1
    a2) := by
  unfold State.powerStop
  repeat' first
    | intro _
    | (with_reducible first
        | exact h | exact trivial | assumption | apply State.stopEverything_kept | apply State.abandonSnap_kept
        | apply State.forEach_kept | apply State.modRegion_kept | apply setPower_kept | apply kept_next | apply kept_some
        | apply kept_none | apply kept_wait | apply kept_moved | apply kept_ended | apply kept_ite | apply kept_ite1
        | apply kept_ite2 | apply kept_optite | apply kept_turnite | apply kept_foldl | apply kept_foldl1
        | apply kept_forEach | apply kept_getD)
    | dsimp only | split
    | (with_reducible first
        | refine kept_pair1 (by assumption) ?_ | refine kept_pair2 (by assumption) ?_ | refine kept_opt (by assumption) ?_
        | refine kept_turnM (by assumption) ?_ | refine kept_turnE (by assumption) ?_ | refine kept_res (by assumption) ?_)

theorem State.raiseStop_kept {s0 s : State} (a1 : Nat) (a2 : BitVec 16) (a3 : Nat) (h : Kept s0 s) :
    Kept s0 (s.raiseStop a1 a2 a3) := by
  unfold State.raiseStop
  repeat' first
    | intro _
    | (with_reducible first | exact h | exact trivial | assumption | apply State.deviceStop_kept | apply State.raise_kept)

/-! ### Ops.lean -/

theorem State.tierEvent_kept {s0 s : State} (a1 : Nat) (a2 : BitVec 16) (a3 : Nat) (h : Kept s0 s) :
    Kept s0 (s.tierEvent a1 a2 a3) := by
  unfold State.tierEvent
  repeat' with_reducible first | assumption | apply State.raise_kept

theorem State.failPage_kept {s0 s : State} (a1 : Nat) (h : Kept s0 s) : Kept s0 (s.failPage a1) := by
  unfold State.failPage
  repeat' with_reducible first | assumption | apply State.modCtl_kept

theorem State.takeInjection_kept {s0 s : State} (a1 : Nat) (h : Kept s0 s) : Kept s0 (s.takeInjection a1).1 := by
  unfold State.takeInjection
  repeat' with_reducible first | assumption | apply State.modPage_kept | apply kept_ite | apply kept_ite1

theorem State.takeCheckFault_kept {s0 s : State} (a1 : Nat) (h : Kept s0 s) : Kept s0 (s.takeCheckFault a1).1 := by
  unfold State.takeCheckFault
  repeat' with_reducible first | assumption | apply State.modPage_kept | apply kept_ite | apply kept_ite1

theorem State.noteScratchWord_kept {s0 s : State} (a1 : Nat) (a2 : Who) (a3 : Nat) (a4 : WordCond) (h : Kept s0 s) :
    Kept s0 (s.noteScratchWord a1 a2 a3 a4) := by
  unfold State.noteScratchWord
  repeat' first
    | (with_reducible first | assumption | apply State.raise_kept | apply State.modLcore_kept | apply State.raiseRare_kept)
    | split

theorem State.writeBackTier_kept {s0 s : State} (a1 : Nat) (h : Kept s0 s) : Kept s0 (State.writeBackTier s a1) := by
  unfold State.writeBackTier
  repeat' first
    | intro _
    | (with_reducible first
        | exact h | exact trivial | assumption | apply State.takeInjection_kept | apply setMemCond_kept
        | apply State.failPage_kept | apply kept_next | apply kept_some | apply kept_none | apply kept_wait
        | apply kept_moved | apply kept_ended | apply kept_ite | apply kept_ite1 | apply kept_ite2 | apply kept_optite
        | apply kept_turnite | apply kept_foldl | apply kept_foldl1 | apply kept_forEach | apply kept_getD)
    | dsimp only | split
    | (with_reducible first
        | refine kept_pair1 (by assumption) ?_ | refine kept_pair2 (by assumption) ?_ | refine kept_opt (by assumption) ?_
        | refine kept_turnM (by assumption) ?_ | refine kept_turnE (by assumption) ?_ | refine kept_res (by assumption) ?_)

theorem State.noteTierWord_kept {s0 s : State} (a1 : Nat) (a2 : WordCond) (h : Kept s0 s) : Kept s0 (State.noteTierWord s a1
    a2) := by
  unfold State.noteTierWord
  repeat' first
    | intro _
    | (with_reducible first
        | exact h | exact trivial | assumption | apply State.modCtl_kept | apply State.writeBackTier_kept
        | apply State.raiseRare_kept | apply State.failPage_kept | apply State.tierEvent_kept | apply kept_next
        | apply kept_some | apply kept_none | apply kept_wait | apply kept_moved | apply kept_ended | apply kept_ite
        | apply kept_ite1 | apply kept_ite2 | apply kept_optite | apply kept_turnite | apply kept_foldl | apply kept_foldl1
        | apply kept_forEach | apply kept_getD)
    | dsimp only | split
    | (with_reducible first
        | refine kept_pair1 (by assumption) ?_ | refine kept_pair2 (by assumption) ?_ | refine kept_opt (by assumption) ?_
        | refine kept_turnM (by assumption) ?_ | refine kept_turnE (by assumption) ?_ | refine kept_res (by assumption) ?_)

theorem State.noteLedgerWord_kept {s0 s : State} (a1 : Nat) (a2 : Who) (a3 : Nat × Nat × Nat) (a4 : WordCond) (h : Kept s0 s)
    : Kept s0 (State.noteLedgerWord s a1 a2 a3 a4) := by
  unfold State.noteLedgerWord
  repeat' first
    | intro _
    | (with_reducible first
        | exact h | exact trivial | assumption | apply State.raise_kept | apply State.modLcore_kept | apply kept_next
        | apply kept_some | apply kept_none | apply kept_wait | apply kept_moved | apply kept_ended | apply kept_ite
        | apply kept_ite1 | apply kept_ite2 | apply kept_optite | apply kept_turnite | apply kept_foldl | apply kept_foldl1
        | apply kept_forEach | apply kept_getD)
    | dsimp only | split
    | (with_reducible first
        | refine kept_pair1 (by assumption) ?_ | refine kept_pair2 (by assumption) ?_ | refine kept_opt (by assumption) ?_
        | refine kept_turnM (by assumption) ?_ | refine kept_turnE (by assumption) ?_ | refine kept_res (by assumption) ?_)

theorem State.noteStale_kept {s0 s : State} (a1 : Nat) (a2 : Nat) (a3 : Nat) (h : Kept s0 s) :
    Kept s0 (s.noteStale a1 a2 a3) := by
  unfold State.noteStale
  repeat' with_reducible first | assumption | apply State.modLcore_kept

theorem State.checkLine_kept {s0 s : State} (a1 : Nat) (h : Kept s0 s) : Kept s0 (s.checkLine a1) := by
  unfold State.checkLine
  repeat' first
    | (with_reducible first | assumption | apply State.modRegion_kept | apply State.modCtl_kept | apply State.openValue_kept)
    | dsimp only | split

theorem State.checkAccess_kept {s0 s : State} (a1 : Nat) (a2 : Nat) (h : Kept s0 s) : Kept s0 (s.checkAccess a1 a2) := by
  unfold State.checkAccess
  repeat' first | (with_reducible first | assumption | apply kept_forEach | apply State.checkLine_kept) | split

theorem State.countPart_kept {s0 s : State} (a1 : Bool) (a2 : Nat × Nat) (h : Kept s0 s) : Kept s0 (s.countPart a1 a2) := by
  unfold State.countPart
  repeat' with_reducible first | assumption | apply State.modRegion_kept

theorem State.countTier_kept {s0 s : State} (a1 : Nat) (a2 : Nat) (a3 : Bool) (h : Kept s0 s) :
    Kept s0 (s.countTier a1 a2 a3) := by
  unfold State.countTier
  exact kept_foldl (fun _ _ h => State.countPart_kept _ _ h) _ (State.checkAccess_kept _ _ h)

theorem State.noteTier_kept {s0 s : State} (a1 a2 : Nat) (h : Kept s0 s) : Kept s0 (s.noteTier a1 a2) :=
  State.countTier_kept _ _ _ (kept_foldl (fun _ _ h => State.noteTierWord_kept _ _ h) _ h)

theorem State.countWork_kept {s0 s : State} (a1 : Nat) (a2 : Nat) (a3 : Nat) (h : Kept s0 s) : Kept s0 (State.countWork s a1
    a2 a3) := by
  unfold State.countWork
  repeat' first
    | intro _
    | (with_reducible first
        | exact h | exact trivial | assumption | apply setEnergy_kept | apply kept_next | apply kept_some | apply kept_none
        | apply kept_wait | apply kept_moved | apply kept_ended | apply kept_ite | apply kept_ite1 | apply kept_ite2
        | apply kept_optite | apply kept_turnite | apply kept_foldl | apply kept_foldl1 | apply kept_forEach
        | apply kept_getD)
    | dsimp only | split
    | (with_reducible first
        | refine kept_pair1 (by assumption) ?_ | refine kept_pair2 (by assumption) ?_ | refine kept_opt (by assumption) ?_
        | refine kept_turnM (by assumption) ?_ | refine kept_turnE (by assumption) ?_ | refine kept_res (by assumption) ?_)

theorem State.countBytes_kept {s0 s : State} (a1 : Who) (a2 : Nat) (a3 : Nat) (h : Kept s0 s) : Kept s0 (State.countBytes s
    a1 a2 a3) := by
  unfold State.countBytes
  repeat' first
    | intro _
    | (with_reducible first
        | exact h | exact trivial | assumption | apply State.countWork_kept | apply kept_next | apply kept_some
        | apply kept_none | apply kept_wait | apply kept_moved | apply kept_ended | apply kept_ite | apply kept_ite1
        | apply kept_ite2 | apply kept_optite | apply kept_turnite | apply kept_foldl | apply kept_foldl1
        | apply kept_forEach | apply kept_getD)
    | dsimp only | split
    | (with_reducible first
        | refine kept_pair1 (by assumption) ?_ | refine kept_pair2 (by assumption) ?_ | refine kept_opt (by assumption) ?_
        | refine kept_turnM (by assumption) ?_ | refine kept_turnE (by assumption) ?_ | refine kept_res (by assumption) ?_)

theorem State.fabricWord_kept {s0 s : State} (a1 : Nat) (h : Kept s0 s) : Kept s0 (State.fabricWord s a1) := by
  unfold State.fabricWord
  repeat' first
    | intro _
    | (with_reducible first
        | exact h | exact trivial | assumption | apply State.takeInjection_kept | apply State.raiseRare_kept
        | apply State.modDie_kept | apply State.raiseStop_kept | apply kept_next | apply kept_some | apply kept_none
        | apply kept_wait | apply kept_moved | apply kept_ended | apply kept_ite | apply kept_ite1 | apply kept_ite2
        | apply kept_optite | apply kept_turnite | apply kept_foldl | apply kept_foldl1 | apply kept_forEach
        | apply kept_getD)
    | dsimp only | split
    | (with_reducible first
        | refine kept_pair1 (by assumption) ?_ | refine kept_pair2 (by assumption) ?_ | refine kept_opt (by assumption) ?_
        | refine kept_turnM (by assumption) ?_ | refine kept_turnE (by assumption) ?_ | refine kept_res (by assumption) ?_)

theorem State.countFabric_kept {s0 s : State} (a1 : Nat) (h : Kept s0 s) : Kept s0 (State.countFabric s a1) := by
  unfold State.countFabric
  repeat' first
    | intro _
    | (with_reducible first
        | exact h | exact trivial | assumption | apply State.fabricWord_kept | apply State.modDie_kept | apply kept_next
        | apply kept_some | apply kept_none | apply kept_wait | apply kept_moved | apply kept_ended | apply kept_ite
        | apply kept_ite1 | apply kept_ite2 | apply kept_optite | apply kept_turnite | apply kept_foldl | apply kept_foldl1
        | apply kept_forEach | apply kept_getD)
    | dsimp only | split
    | (with_reducible first
        | refine kept_pair1 (by assumption) ?_ | refine kept_pair2 (by assumption) ?_ | refine kept_opt (by assumption) ?_
        | refine kept_turnM (by assumption) ?_ | refine kept_turnE (by assumption) ?_ | refine kept_res (by assumption) ?_)

theorem State.countInbound_kept {s0 s : State} (a1 : Nat) (a2 : Nat) (a3 : Who) (h : Kept s0 s) :
    Kept s0 (s.countInbound a1 a2 a3) := by
  unfold State.countInbound
  repeat' first | (with_reducible first | assumption | apply State.countFabric_kept | apply State.modLcore_kept) | split

theorem State.noteRemote_kept {s0 s : State} (a1 : Nat) (a2 : Who) (h : Kept s0 s) : Kept s0 (s.noteRemote a1 a2) := by
  unfold State.noteRemote
  repeat' first | (with_reducible first | assumption | apply State.countFabric_kept) | split

theorem State.countBridge_kept {s0 s : State} (a1 : Who) (a2 : Nat) (a3 : Nat) (a4 : Bool) (h : Kept s0 s) : Kept s0
    (State.countBridge s a1 a2 a3 a4) := by
  unfold State.countBridge
  repeat' first
    | intro _
    | (with_reducible first
        | exact h | exact trivial | assumption | apply State.modDie_kept | apply kept_next | apply kept_some
        | apply kept_none | apply kept_wait | apply kept_moved | apply kept_ended | apply kept_ite | apply kept_ite1
        | apply kept_ite2 | apply kept_optite | apply kept_turnite | apply kept_foldl | apply kept_foldl1
        | apply kept_forEach | apply kept_getD)
    | dsimp only | split
    | (with_reducible first
        | refine kept_pair1 (by assumption) ?_ | refine kept_pair2 (by assumption) ?_ | refine kept_opt (by assumption) ?_
        | refine kept_turnM (by assumption) ?_ | refine kept_turnE (by assumption) ?_ | refine kept_res (by assumption) ?_)

theorem State.noteWords_kept {s0 s : State} (a1 : Who) (a2 : Nat) (a3 : Nat) (h : Kept s0 s) : Kept s0 (State.noteWords s a1
    a2 a3) := by
  unfold State.noteWords
  repeat' first
    | intro _
    | (with_reducible first
        | exact h | exact trivial | assumption | apply State.noteTier_kept
        | apply State.countInbound_kept | apply State.noteScratchWord_kept | apply State.noteLedgerWord_kept
        | apply State.noteRemote_kept | apply State.noteStale_kept | apply kept_next | apply kept_some | apply kept_none
        | apply kept_wait | apply kept_moved | apply kept_ended | apply kept_ite | apply kept_ite1 | apply kept_ite2
        | apply kept_optite | apply kept_turnite | apply kept_foldl | apply kept_foldl1 | apply kept_forEach
        | apply kept_getD)
    | dsimp only | split
    | (with_reducible first
        | refine kept_pair1 (by assumption) ?_ | refine kept_pair2 (by assumption) ?_ | refine kept_opt (by assumption) ?_
        | refine kept_turnM (by assumption) ?_ | refine kept_turnE (by assumption) ?_ | refine kept_res (by assumption) ?_)

theorem State.noteRead_kept {s0 s : State} (a1 : Who) (a2 : Nat) (a3 : Nat) (h : Kept s0 s) : Kept s0 (State.noteRead s a1 a2
    a3) := by
  unfold State.noteRead
  repeat' first
    | intro _
    | (with_reducible first
        | exact h | exact trivial | assumption | apply State.countBytes_kept | apply State.countBridge_kept
        | apply State.noteWords_kept | apply kept_next | apply kept_some | apply kept_none | apply kept_wait
        | apply kept_moved | apply kept_ended | apply kept_ite | apply kept_ite1 | apply kept_ite2 | apply kept_optite
        | apply kept_turnite | apply kept_foldl | apply kept_foldl1 | apply kept_forEach | apply kept_getD)
    | dsimp only | split
    | (with_reducible first
        | refine kept_pair1 (by assumption) ?_ | refine kept_pair2 (by assumption) ?_ | refine kept_opt (by assumption) ?_
        | refine kept_turnM (by assumption) ?_ | refine kept_turnE (by assumption) ?_ | refine kept_res (by assumption) ?_)

theorem State.read_kept {s0 s : State} (a1 : Who) (a2 : Nat) (a3 : Nat) (h : Kept s0 s) : Kept s0 (s.read a1 a2 a3).2 := by
  unfold State.read
  repeat' with_reducible first | assumption | apply State.noteRead_kept

theorem putBytes_wf {m : List Host.Cell} (conds : NMap WordCond) (a len : Nat) (blk : NMap Byte) (h : Memory.wf m = true) :
    Memory.wf (putBytes m conds a len blk) = true := by
  unfold putBytes
  have H : ∀ (ks : List Nat) (m' : List Host.Cell), Memory.wf m' = true →
      Memory.wf (ks.foldl (fun m' k => putMem m' (k * 32) 32 (nblock m (k * 32) 32)) m') = true := by
    intro ks
    induction ks with
    | nil => exact fun _ h => h
    | cons k ks ih => exact fun m' h => ih _ (putMem_wf _ _ _ h)
  exact H _ _ (putMem_wf _ _ _ h)

theorem State.writeTier_kept {s0 s : State} (a1 a2 : Nat) (a3 : NMap Byte) (h : Kept s0 s) :
    Kept s0 (s.writeTier a1 a2 a3).1 := by
  unfold State.writeTier
  dsimp only
  repeat' first
    | with_reducible exact h
    | intro _
    | (with_reducible first
        | assumption | apply State.countTier_kept | apply State.takeInjection_kept | apply setMemCond_kept | apply kept_foldl
        | apply State.noteTierWord_kept | apply kept_ite)
    | (with_reducible refine setMem_wf_kept ?_ _ (putBytes_wf _ _ _ _))

theorem State.writeScratch_kept {s0 s : State} (a1 : Who) (a2 : Nat) (a3 : Nat) (a4 : Nat) (a5 : Sys2Proof.NMap Sys2Proof.Byte)
    (h : Kept s0 s) : Kept s0 (s.writeScratch a1 a2 a3 a4 a5).1 := by
  unfold State.writeScratch
  repeat' first
    | intro _
    | (with_reducible first
        | assumption | apply kept_foldl | apply State.noteScratchWord_kept | apply State.modLcore_kept
        | apply State.takeInjection_kept | apply State.countInbound_kept | apply kept_ite)

theorem State.write_kept {s0 s : State} (a1 : Who) (a2 : Nat) (a3 : Nat) (a4 : Sys2Proof.NMap Sys2Proof.Byte) (h : Kept s0 s)
    : Kept s0 (State.write s a1 a2 a3 a4).1 := by
  unfold State.write
  repeat' first
    | intro _
    | (with_reducible first
        | exact h | exact trivial | assumption | apply State.countBytes_kept | apply State.countBridge_kept
        | apply State.writeTier_kept | apply State.writeScratch_kept | apply State.modLcore_kept | apply kept_next
        | apply kept_some | apply kept_none | apply kept_wait | apply kept_moved | apply kept_ended | apply kept_ite
        | apply kept_ite1 | apply kept_ite2 | apply kept_optite | apply kept_turnite | apply kept_foldl | apply kept_foldl1
        | apply kept_forEach | apply kept_getD)
    | dsimp only | split
    | (with_reducible first
        | refine kept_pair1 (by assumption) ?_ | refine kept_pair2 (by assumption) ?_ | refine kept_opt (by assumption) ?_
        | refine kept_turnM (by assumption) ?_ | refine kept_turnE (by assumption) ?_ | refine kept_res (by assumption) ?_)

theorem State.writeBytes_kept {s0 s : State} (a1 : Who) (a2 : Nat) (a3 : List Sys2Proof.Byte) (h : Kept s0 s) :
    Kept s0 (s.writeBytes a1 a2 a3).1 := by
  unfold State.writeBytes
  repeat' with_reducible first | assumption | apply State.write_kept

theorem State.setTags_kept {s0 s : State} (a1 : Nat) (a2 : List Nat) (a3 : Bool) (h : Kept s0 s) :
    Kept s0 (s.setTags a1 a2 a3) := by
  unfold State.setTags
  repeat' with_reducible first | assumption | apply State.modLcore_kept

theorem State.fillSlots_kept {s0 s : State} (a1 : Nat) (a2 : List Nat) (h : Kept s0 s) : Kept s0 (s.fillSlots a1 a2) := by
  unfold State.fillSlots
  repeat' first | (with_reducible first | assumption | apply State.setTags_kept) | split

theorem State.charge_kept {s0 s : State} (a1 : Job) (a2 : Nat) (a3 : Nat) (h : Kept s0 s) : Kept s0 (s.charge a1 a2 a3) := by
  unfold State.charge
  repeat' first | (with_reducible first | assumption | apply setEnergy_kept) | split

/-! ### Queue.lean -/

theorem State.fetchMarks_kept {s0 s : State} (a1 : Nat) (h : Kept s0 s) : Kept s0 (s.fetchMarks a1) := by
  unfold State.fetchMarks
  repeat' first | (with_reducible first | assumption | apply State.read_kept) | split

theorem State.enterFront_kept {s0 s : State} (a1 : Nat) (h : Kept s0 s) : Kept s0 (State.enterFront s a1) := by
  unfold State.enterFront
  repeat' first
    | intro _
    | (with_reducible first
        | exact h | exact trivial | assumption | apply State.modQueue_kept | apply State.fetchMarks_kept | apply kept_next
        | apply kept_some | apply kept_none | apply kept_wait | apply kept_moved | apply kept_ended | apply kept_ite
        | apply kept_ite1 | apply kept_ite2 | apply kept_optite | apply kept_turnite | apply kept_foldl | apply kept_foldl1
        | apply kept_forEach | apply kept_getD)
    | dsimp only | split
    | (with_reducible first
        | refine kept_pair1 (by assumption) ?_ | refine kept_pair2 (by assumption) ?_ | refine kept_opt (by assumption) ?_
        | refine kept_turnM (by assumption) ?_ | refine kept_turnE (by assumption) ?_ | refine kept_res (by assumption) ?_)

theorem State.stopOne_kept {s0 s : State} (a1 : Nat) (a2 : BitVec 16) (a3 : Bool) (h : Kept s0 s) : Kept s0 (State.stopOne s
    a1 a2 a3) := by
  unfold State.stopOne
  repeat' first
    | intro _
    | (with_reducible first
        | exact h | exact trivial | assumption | apply State.modQueue_kept | apply State.modLcore_kept
        | apply State.leaveStream_kept | apply kept_next | apply kept_some | apply kept_none | apply kept_wait
        | apply kept_moved | apply kept_ended | apply kept_ite | apply kept_ite1 | apply kept_ite2 | apply kept_optite
        | apply kept_turnite | apply kept_foldl | apply kept_foldl1 | apply kept_forEach | apply kept_getD)
    | dsimp only | split
    | (with_reducible first
        | refine kept_pair1 (by assumption) ?_ | refine kept_pair2 (by assumption) ?_ | refine kept_opt (by assumption) ?_
        | refine kept_turnM (by assumption) ?_ | refine kept_turnE (by assumption) ?_ | refine kept_res (by assumption) ?_)

theorem State.sweepSwaps_kept {s0 s : State} (l n : Nat) (h : Kept s0 s) : Kept s0 (s.sweepSwaps l n) := by
  induction n generalizing s with
  | zero => exact h
  | succ n ih =>
    unfold State.sweepSwaps
    split
    · exact h
    · exact ih (State.stopOne_kept _ _ _ (State.raiseFull_kept _ _ _ _ _ _ _ h))

theorem State.stopQueue_kept {s0 s : State} (a1 : Nat) (a2 : BitVec 16) (a3 : Bool) (h : Kept s0 s) : Kept s0
    (State.stopQueue s a1 a2 a3) := by
  unfold State.stopQueue
  repeat' first
    | intro _
    | (with_reducible first
        | exact h | exact trivial | assumption | apply State.sweepSwaps_kept | apply State.stopOne_kept | apply kept_next
        | apply kept_some | apply kept_none | apply kept_wait | apply kept_moved | apply kept_ended | apply kept_ite
        | apply kept_ite1 | apply kept_ite2 | apply kept_optite | apply kept_turnite | apply kept_foldl | apply kept_foldl1
        | apply kept_forEach | apply kept_getD)
    | dsimp only | split
    | (with_reducible first
        | refine kept_pair1 (by assumption) ?_ | refine kept_pair2 (by assumption) ?_ | refine kept_opt (by assumption) ?_
        | refine kept_turnM (by assumption) ?_ | refine kept_turnE (by assumption) ?_ | refine kept_res (by assumption) ?_)

theorem State.stopWith_kept {s0 s : State} (a1 : Nat) (a2 : Stop) (h : Kept s0 s) : Kept s0 (s.stopWith a1 a2) := by
  unfold State.stopWith
  repeat' with_reducible first | assumption | apply State.stopQueue_kept | apply State.raiseFull_kept

theorem State.enterJob_kept {s0 s : State} (a1 : Job) (a2 : List Access) (h : Kept s0 s) : Kept s0 (s.enterJob a1 a2) := by
  unfold State.enterJob
  repeat' with_reducible first | assumption | apply State.modLcore_kept

theorem State.releaseJob_kept {s0 s : State} (a1 : Job) (h : Kept s0 s) : Kept s0 (s.releaseJob a1) := by
  unfold State.releaseJob
  repeat' with_reducible first | assumption | apply State.modLcore_kept

theorem State.releaseReads_kept {s0 s : State} (a1 : Job) (h : Kept s0 s) : Kept s0 (State.releaseReads s a1) := by
  unfold State.releaseReads
  repeat' first
    | intro _
    | (with_reducible first
        | exact h | exact trivial | assumption | apply State.modLcore_kept | apply kept_next | apply kept_some
        | apply kept_none | apply kept_wait | apply kept_moved | apply kept_ended | apply kept_ite | apply kept_ite1
        | apply kept_ite2 | apply kept_optite | apply kept_turnite | apply kept_foldl | apply kept_foldl1
        | apply kept_forEach | apply kept_getD)
    | dsimp only | split
    | (with_reducible first
        | refine kept_pair1 (by assumption) ?_ | refine kept_pair2 (by assumption) ?_ | refine kept_opt (by assumption) ?_
        | refine kept_turnM (by assumption) ?_ | refine kept_turnE (by assumption) ?_ | refine kept_res (by assumption) ?_)

theorem State.dropJob_kept {s0 s : State} (a1 : Job) (a2 : BitVec 16) (h : Kept s0 s) : Kept s0 (s.dropJob a1 a2) := by
  unfold State.dropJob
  repeat' with_reducible first
    | assumption | apply State.stopQueue_kept | apply State.modQueue_kept | apply State.releaseJob_kept

theorem State.endJob_kept {s0 s : State} (a1 : Job) (a2 : Stop) (h : Kept s0 s) : Kept s0 (s.endJob a1 a2) := by
  unfold State.endJob
  repeat' with_reducible first | assumption | apply State.dropJob_kept | apply State.raiseFull_kept

/-! ### FenceOps.lean -/

theorem State.endShared_kept {s0 s : State} (a1 : Nat) (a2 : Nat) (h : Kept s0 s) : Kept s0 (s.endShared a1 a2) := by
  unfold State.endShared
  repeat' first
    | intro _
    | (with_reducible first
        | exact h | exact trivial | assumption | apply State.modLcore_kept | apply kept_foldl | apply kept_foldl1
        | apply kept_forEach | apply State.stopWith_kept | apply State.endJob_kept | apply kept_next | apply kept_some
        | apply kept_none | apply kept_moved | apply kept_ended | apply kept_ite | apply kept_ite1 | apply kept_ite2
        | apply kept_optite | apply kept_turnite)
    | dsimp only | split

theorem State.startFence_kept {s0 s : State} (a1 : Nat) (a2 : BitVec 16) (h : Kept s0 s) : Kept s0 (s.startFence a1 a2) := by
  unfold State.startFence
  repeat' first
    | intro _
    | (with_reducible first
        | exact h | exact trivial | assumption | apply setErr_kept | apply State.raiseFull_kept | apply State.modCore_kept
        | apply kept_forEach | apply State.leaveStream_kept | apply State.modStream_kept | apply State.modCluster_kept
        | apply State.endShared_kept | apply kept_next | apply kept_some | apply kept_none | apply kept_moved | apply kept_ended
        | apply kept_ite | apply kept_ite1 | apply kept_ite2 | apply kept_optite | apply kept_turnite)
    | dsimp only | split

theorem State.endFence_kept {s0 s : State} (a1 : Nat) (h : Kept s0 s) : Kept s0 (s.endFence a1) := by
  unfold State.endFence
  repeat' first
    | intro _
    | (with_reducible first
        | exact h | exact trivial | assumption | apply State.modCore_kept | apply kept_foldl | apply kept_foldl1
        | apply kept_next | apply kept_some | apply kept_none | apply kept_moved | apply kept_ended | apply kept_ite)

theorem State.fenceEngine_kept {s0 s : State} (a1 : Nat) (h : Kept s0 s) : Kept s0 (s.fenceEngine a1) := by
  unfold State.fenceEngine
  repeat' first
    | intro _
    | (with_reducible first
        | exact h | exact trivial | assumption | apply State.modCluster_kept | apply kept_foldl | apply kept_foldl1
        | apply State.endJob_kept | apply kept_next | apply kept_some | apply kept_none | apply kept_moved | apply kept_ended
        | apply kept_ite)

theorem State.unfenceEngine_kept {s0 s : State} (a1 : Nat) (h : Kept s0 s) : Kept s0 (s.unfenceEngine a1) := by
  unfold State.unfenceEngine
  repeat' first
    | intro _
    | (with_reducible first
        | exact h | exact trivial | assumption | apply State.modCluster_kept | apply kept_foldl | apply kept_foldl1
        | apply State.modQueue_kept | apply State.releaseJob_kept | apply kept_next | apply kept_some | apply kept_none
        | apply kept_moved | apply kept_ended | apply kept_ite)

theorem State.fenceCluster_kept {s0 s : State} (a1 : Nat) (a2 : BitVec 16) (h : Kept s0 s) :
    Kept s0 (s.fenceCluster a1 a2) := by
  unfold State.fenceCluster
  repeat' first
    | intro _
    | (with_reducible first
        | exact h | exact trivial | assumption | apply State.raiseFull_kept | apply kept_forEach | apply State.startFence_kept
        | apply State.fenceEngine_kept)

theorem State.fenceRegion_kept {s0 s : State} (a1 : Nat) (a2 : BitVec 16) (h : Kept s0 s) : Kept s0 (State.fenceRegion s a1
    a2) := by
  unfold State.fenceRegion
  repeat' first
    | intro _
    | (with_reducible first
        | exact h | exact trivial | assumption | apply State.raiseFull_kept | apply State.modRegion_kept
        | apply State.forEach_kept | apply State.startFence_kept | apply State.fenceEngine_kept | apply kept_next
        | apply kept_some | apply kept_none | apply kept_wait | apply kept_moved | apply kept_ended | apply kept_ite
        | apply kept_ite1 | apply kept_ite2 | apply kept_optite | apply kept_turnite | apply kept_foldl | apply kept_foldl1
        | apply kept_forEach | apply kept_getD)
    | dsimp only | split
    | (with_reducible first
        | refine kept_pair1 (by assumption) ?_ | refine kept_pair2 (by assumption) ?_ | refine kept_opt (by assumption) ?_
        | refine kept_turnM (by assumption) ?_ | refine kept_turnE (by assumption) ?_ | refine kept_res (by assumption) ?_)

theorem State.startUnfence_kept {s0 s : State} (a1 : Nat) (a2 : Nat) (h : Kept s0 s) : Kept s0 (s.startUnfence a1 a2) := by
  unfold State.startUnfence
  repeat' first
    | intro _
    | (with_reducible first
        | exact h | exact trivial | assumption | apply State.countBad_kept | apply State.modCore_kept | apply kept_next
        | apply kept_some | apply kept_none | apply kept_moved | apply kept_ended | apply kept_ite | apply kept_ite1
        | apply kept_ite2 | apply kept_optite | apply kept_turnite)
    | dsimp only | split

theorem State.endUnfence_kept {s0 s : State} (a1 : Nat) (h : Kept s0 s) : Kept s0 (s.endUnfence a1) := by
  unfold State.endUnfence
  repeat' first
    | intro _
    | (with_reducible first
        | exact h | exact trivial | assumption | apply State.raise_kept | apply State.modCore_kept | apply kept_next
        | apply kept_some | apply kept_none | apply kept_moved | apply kept_ended | apply kept_ite)

theorem State.raiseFence_kept {s0 s : State} (a1 : Nat) (a2 : Nat) (a3 : BitVec 16) (a4 : Nat) (a5 : Bool) (h : Kept s0 s) :
    Kept s0 (s.raiseFence a1 a2 a3 a4 a5) := by
  unfold State.raiseFence
  repeat' first
    | intro _
    | (with_reducible first | exact h | exact trivial | assumption | apply State.startFence_kept | apply State.raiseFull_kept)

/-! ### Issue.lean -/

theorem State.strikeAt_kept {s0 s : State} (a1 : Nat) (a2 : Nat) (h : Kept s0 s) : Kept s0 (State.strikeAt s a1 a2) := by
  unfold State.strikeAt
  repeat' first
    | intro _
    | (with_reducible first
        | exact h | exact trivial | assumption | apply State.takeInjection_kept | apply State.openValue_kept
        | apply State.startFence_kept | apply kept_next | apply kept_some | apply kept_none | apply kept_wait
        | apply kept_moved | apply kept_ended | apply kept_ite | apply kept_ite1 | apply kept_ite2 | apply kept_optite
        | apply kept_turnite | apply kept_foldl | apply kept_foldl1 | apply kept_forEach | apply kept_getD)
    | dsimp only | split
    | (with_reducible first
        | refine kept_pair1 (by assumption) ?_ | refine kept_pair2 (by assumption) ?_ | refine kept_opt (by assumption) ?_
        | refine kept_turnM (by assumption) ?_ | refine kept_turnE (by assumption) ?_ | refine kept_res (by assumption) ?_)

theorem State.strike_kept {s0 s : State} (a1 : Nat) (a2 : Nat) (h : Kept s0 s) : Kept s0 (State.strike s a1 a2) := by
  unfold State.strike
  repeat' first
    | intro _
    | (with_reducible first
        | exact h | exact trivial | assumption | apply State.strikeAt_kept | apply kept_next | apply kept_some
        | apply kept_none | apply kept_wait | apply kept_moved | apply kept_ended | apply kept_ite | apply kept_ite1
        | apply kept_ite2 | apply kept_optite | apply kept_turnite | apply kept_foldl | apply kept_foldl1
        | apply kept_forEach | apply kept_getD)
    | dsimp only | split
    | (with_reducible first
        | refine kept_pair1 (by assumption) ?_ | refine kept_pair2 (by assumption) ?_ | refine kept_opt (by assumption) ?_
        | refine kept_turnM (by assumption) ?_ | refine kept_turnE (by assumption) ?_ | refine kept_res (by assumption) ?_)

theorem State.strikeSeq_kept {s0 s : State} (a1 : Nat) (h : Kept s0 s) : Kept s0 (State.strikeSeq s a1) := by
  unfold State.strikeSeq
  repeat' first
    | intro _
    | (with_reducible first
        | exact h | exact trivial | assumption | apply State.takeInjection_kept | apply State.strike_kept | apply
        kept_foldl | apply kept_foldl1 | apply kept_forEach | apply eachUntil_kept | apply kept_next | apply kept_some |
        apply kept_none | apply kept_wait | apply kept_moved | apply kept_ended | apply kept_ite | apply kept_ite1 |
        apply kept_ite2 | apply kept_optite | apply kept_turnite | apply setMem_wf_kept | apply kept_clear | apply
        kept_put)
    | dsimp only | split
    | with_reducible refine kept_pair1 (by assumption) ?_
    | with_reducible refine kept_pair2 (by assumption) ?_

theorem State.applySignals_kept {s0 s : State} (a1 : Nat) (a2 : Nat) (a3 : Int) (a4 : List Nat) (h : Kept s0 s) :
    Kept s0 (State.applySignals s a1 a2 a3 a4) := by
  unfold State.applySignals
  repeat' first
    | intro _
    | (with_reducible first
        | exact h | exact trivial | assumption | apply State.modLcore_kept | apply State.raise_kept | apply
        State.strike_kept | apply kept_foldl | apply kept_foldl1 | apply kept_forEach | apply eachUntil_kept | apply
        kept_next | apply kept_some | apply kept_none | apply kept_wait | apply kept_moved | apply kept_ended | apply
        kept_ite | apply kept_ite1 | apply kept_ite2 | apply kept_optite | apply kept_turnite | apply setMem_wf_kept |
        apply kept_clear | apply kept_put)
    | dsimp only | split
    | with_reducible refine kept_pair1 (by assumption) ?_
    | with_reducible refine kept_pair2 (by assumption) ?_

theorem State.applySignal_kept {s0 s : State} (a1 : Nat) (a2 : Nat) (a3 : Int) (a4 : Nat) (h : Kept s0 s) :
    Kept s0 (State.applySignal s a1 a2 a3 a4) := by
  unfold State.applySignal
  repeat' first
    | intro _
    | (with_reducible first
        | exact h | exact trivial | assumption | apply State.applySignals_kept | apply kept_foldl | apply kept_foldl1 |
        apply kept_forEach | apply eachUntil_kept | apply kept_next | apply kept_some | apply kept_none | apply
        kept_wait | apply kept_moved | apply kept_ended | apply kept_ite | apply kept_ite1 | apply kept_ite2 | apply
        kept_optite | apply kept_turnite | apply setMem_wf_kept | apply kept_clear | apply kept_put)
    | dsimp only | split
    | with_reducible refine kept_pair1 (by assumption) ?_
    | with_reducible refine kept_pair2 (by assumption) ?_

theorem State.sameCycle_kept {s0 s : State} (a1 : Nat) (a2 : BitVec 16) (h : Kept s0 s) : Kept s0 (State.sameCycle s a1 a2).2
    := by
  unfold State.sameCycle
  repeat' first
    | intro _
    | (with_reducible first
        | exact h | exact trivial | assumption | apply State.openValue_kept | apply kept_next | apply kept_some
        | apply kept_none | apply kept_wait | apply kept_moved | apply kept_ended | apply kept_ite | apply kept_ite1
        | apply kept_ite2 | apply kept_optite | apply kept_turnite | apply kept_foldl | apply kept_foldl1
        | apply kept_forEach | apply kept_getD)
    | dsimp only | split
    | (with_reducible first
        | refine kept_pair1 (by assumption) ?_ | refine kept_pair2 (by assumption) ?_ | refine kept_opt (by assumption) ?_
        | refine kept_turnM (by assumption) ?_ | refine kept_turnE (by assumption) ?_ | refine kept_res (by assumption) ?_)

theorem State.takeSignal_kept {s0 s : State} (a1 : Nat) (a2 : BitVec 16) (h : Kept s0 s) : Kept s0 (State.takeSignal s a1
    a2).2 := by
  unfold State.takeSignal
  repeat' first
    | intro _
    | (with_reducible first
        | exact h | exact trivial | assumption | apply setFabric_kept | apply kept_next | apply kept_some | apply kept_none
        | apply kept_wait | apply kept_moved | apply kept_ended | apply kept_ite | apply kept_ite1 | apply kept_ite2
        | apply kept_optite | apply kept_turnite | apply kept_foldl | apply kept_foldl1 | apply kept_forEach
        | apply kept_getD)
    | dsimp only | split
    | (with_reducible first
        | refine kept_pair1 (by assumption) ?_ | refine kept_pair2 (by assumption) ?_ | refine kept_opt (by assumption) ?_
        | refine kept_turnM (by assumption) ?_ | refine kept_turnE (by assumption) ?_ | refine kept_res (by assumption) ?_)

theorem State.takeSignals_kept {s0 s : State} (a1 : List Nat) (a2 : BitVec 16) (h : Kept s0 s) :
    Kept s0 (s.takeSignals a1 a2).2 :=
  kept_foldlBy (p := Prod.snd) (f := fun (a : Int × State) src => let r := a.2.takeSignal src a2; (a.1 + r.1, r.2))
    (fun _ _ ha => State.takeSignal_kept _ _ ha) a1 (x := (0, s)) h

theorem State.landSignal_kept {s0 s : State} (a1 : Nat) (a2 : BitVec 16) (a3 : Int) (h : Kept s0 s) :
    Kept s0 (State.landSignal s a1 a2 a3) := by
  unfold State.landSignal
  repeat' first
    | intro _
    | (with_reducible first
        | exact h | exact trivial | assumption | apply State.applySignals_kept | apply State.sameCycle_kept | apply
        State.takeSignals_kept | apply kept_foldl | apply kept_foldl1 | apply kept_forEach | apply eachUntil_kept |
        apply kept_next | apply kept_some | apply kept_none | apply kept_wait | apply kept_moved | apply kept_ended |
        apply kept_ite | apply kept_ite1 | apply kept_ite2 | apply kept_optite | apply kept_turnite | apply
        setMem_wf_kept | apply kept_clear | apply kept_put)
    | dsimp only | split
    | with_reducible refine kept_pair1 (by assumption) ?_
    | with_reducible refine kept_pair2 (by assumption) ?_

theorem State.awaitsOthers_kept {s0 s : State} (a1 : Nat) (a2 : BitVec 16) (a3 : Int) (h : Kept s0 s) :
    Kept s0 (State.awaitsOthers s a1 a2 a3).2 := by
  unfold State.awaitsOthers
  repeat' first
    | intro _
    | (with_reducible first
        | exact h | exact trivial | assumption | apply State.openValue_kept | apply kept_foldl | apply kept_foldl1 |
        apply kept_forEach | apply eachUntil_kept | apply kept_next | apply kept_some | apply kept_none | apply
        kept_wait | apply kept_moved | apply kept_ended | apply kept_ite | apply kept_ite1 | apply kept_ite2 | apply
        kept_optite | apply kept_turnite | apply setMem_wf_kept | apply kept_clear | apply kept_put)
    | dsimp only | split
    | with_reducible refine kept_pair1 (by assumption) ?_
    | with_reducible refine kept_pair2 (by assumption) ?_

theorem State.reachTally_kept {s0 s : State} (a1 : Nat) (a2 : BitVec 16) (a3 : BitVec 16) (a4 : Nat) (h : Kept s0 s) :
    Kept s0 (State.reachTally s a1 a2 a3 a4) := by
  unfold State.reachTally
  repeat' first
    | intro _
    | (with_reducible first
        | exact h | exact trivial | assumption | apply setFabric_kept | apply State.landSignal_kept | apply
        State.awaitsOthers_kept | apply kept_foldl | apply kept_foldl1 | apply kept_forEach | apply eachUntil_kept |
        apply kept_next | apply kept_some | apply kept_none | apply kept_wait | apply kept_moved | apply kept_ended |
        apply kept_ite | apply kept_ite1 | apply kept_ite2 | apply kept_optite | apply kept_turnite | apply
        setMem_wf_kept | apply kept_clear | apply kept_put)
    | dsimp only | split
    | with_reducible refine kept_pair1 (by assumption) ?_
    | with_reducible refine kept_pair2 (by assumption) ?_

theorem State.performSignal_kept {s0 s : State} (a1 : Nat) (a2 : Nat) (a3 : Nat) (a4 : Nat) (h : Kept s0 s) :
    Kept s0 (s.performSignal a1 a2 a3 a4) := by
  unfold State.performSignal
  repeat' first
    | intro _
    | (with_reducible first
        | exact h | exact trivial | assumption | apply State.modLcore_kept | apply State.countFabric_kept | apply
        State.reachTally_kept | apply setFabric_kept | apply kept_foldl | apply kept_foldl1 | apply kept_forEach | apply
        eachUntil_kept | apply kept_next | apply kept_some | apply kept_none | apply kept_wait | apply kept_moved |
        apply kept_ended | apply kept_ite | apply kept_ite1 | apply kept_ite2 | apply kept_optite | apply kept_turnite |
        apply setMem_wf_kept | apply kept_clear | apply kept_put)
    | dsimp only | split
    | with_reducible refine kept_pair1 (by assumption) ?_
    | with_reducible refine kept_pair2 (by assumption) ?_

theorem State.headerSignal_kept {s0 s : State} (a1 : Nat) (a2 : Sys2Proof.Entry) (h : Kept s0 s) :
    Kept s0 (s.headerSignal a1 a2) := by
  unfold State.headerSignal
  repeat' first | (with_reducible first | assumption | apply State.performSignal_kept) | split

theorem State.hold_kept {s0 s : State} (a1 : Nat) (a2 : Nat) (a3 : Sys2Proof.Entry) (h : Kept s0 s) :
    Kept s0 (s.hold a1 a2 a3) := by
  unfold State.hold
  repeat' with_reducible first | assumption | apply State.modQueue_kept

theorem State.skip_kept {s0 s : State} (a1 : Nat) (a2 : Sys2Proof.Entry) (h : Kept s0 s) : Kept s0 (s.skip a1 a2) := by
  unfold State.skip
  repeat' with_reducible first | assumption | apply State.headerSignal_kept | apply State.modQueue_kept

theorem State.issue_kept {s0 s : State} (a1 : Nat) (h : Kept s0 s) : Kept s0 (s.issue a1) := by
  unfold State.issue
  repeat' with_reducible first | assumption | apply State.modQueue_kept

theorem State.finish_kept {s0 s : State} (a1 : Job) (h : Kept s0 s) : Kept s0 (s.finish a1) := by
  unfold State.finish
  repeat' with_reducible first | assumption | apply State.headerSignal_kept | apply State.modQueue_kept

theorem State.issueFinish_kept {s0 s : State} (a1 : Nat) (a2 : Sys2Proof.Entry) (h : Kept s0 s) :
    Kept s0 (s.issueFinish a1 a2) := by
  unfold State.issueFinish
  repeat' with_reducible first | assumption | apply State.headerSignal_kept | apply State.modQueue_kept

theorem State.tryIssue_kept {s0 s : State} (a1 : Nat) (a2 : Sys2Proof.Entry → Bool) (a3 : State → Sys2Proof.Entry → Gate)
    (a4 : State → Sys2Proof.Entry → State) (h4 : ∀ t b1, Kept s0 t → Kept s0 (a4 t b1)) (h : Kept s0 s) : Kept s0
    (s.tryIssue a1 a2 a3 a4) := by
  unfold State.tryIssue
  repeat' first
    | (with_reducible first
        | assumption | apply h4 | apply State.stopQueue_kept | apply State.fetchMarks_kept | apply State.stopWith_kept
        | apply State.hold_kept | apply State.skip_kept)
    | dsimp only | split

theorem State.finishJob_kept {s0 s : State} (a1 : Job) (a2 : List Nat) (h : Kept s0 s) : Kept s0 (s.finishJob a1 a2) := by
  unfold State.finishJob
  repeat' with_reducible first | assumption | apply State.finish_kept | apply State.releaseJob_kept | apply State.fillSlots_kept

/-! ### Control.lean -/

theorem State.beat_kept {s0 s : State} (a1 : Nat) (h : Kept s0 s) : Kept s0 (s.beat a1) := by
  unfold State.beat
  repeat' first | (with_reducible first | assumption | apply State.modDie_kept) | split

theorem State.tick_kept {s0 s : State} (h : Kept s0 s) : Kept s0 (s.tick) := by
  unfold State.tick
  repeat' first | (with_reducible first | assumption | apply setTime_kept | apply State.beat_kept) | dsimp only | split

theorem execNop_kept {s0 s : State} (a0 : Nat) (h : Kept s0 s) : KeptRes s0 (execNop a0 s) := by
  unfold execNop
  repeat' first
    | intro _
    | (with_reducible first | assumption | apply State.tryIssue_kept | apply State.issueFinish_kept | apply kept_next)

theorem execWait_kept {s0 s : State} (a0 : Nat) (h : Kept s0 s) : KeptRes s0 (execWait a0 s) := by
  unfold execWait
  repeat' first
    | intro _
    | (with_reducible first | assumption | apply State.tryIssue_kept | apply State.issueFinish_kept | apply kept_next)

theorem execStop_kept {s0 s : State} (a0 : Nat) (h : Kept s0 s) : KeptRes s0 (execStop a0 s) := by
  unfold execStop
  repeat' first
    | intro _
    | (with_reducible first
        | assumption | apply State.tryIssue_kept | apply State.stopWith_kept | apply State.headerSignal_kept | apply kept_next)

theorem execForecast_kept {s0 s : State} (a0 : Nat) (h : Kept s0 s) : KeptRes s0 (execForecast a0 s) := by
  unfold execForecast
  repeat' first
    | intro _
    | (with_reducible first
        | assumption | apply State.tryIssue_kept | apply State.issueFinish_kept | apply State.modQueue_kept | apply kept_next)

theorem execVersionFence_kept {s0 s : State} (a0 : Nat) (h : Kept s0 s) : KeptRes s0 (execVersionFence a0 s) := by
  unfold execVersionFence
  repeat' first
    | intro _
    | (with_reducible first | assumption | apply State.tryIssue_kept | apply State.issueFinish_kept | apply kept_next)

theorem execVersionFenceTimeout_kept {s0 s : State} (a0 : Nat) (h : Kept s0 s) : KeptRes s0 (execVersionFenceTimeout a0 s) := by
  unfold execVersionFenceTimeout
  repeat' first | (with_reducible first | assumption | apply State.stopWith_kept | apply kept_next) | split

theorem execSignal_kept {s0 s : State} (a0 : Nat) (h : Kept s0 s) : KeptRes s0 (execSignal a0 s) := by
  unfold execSignal
  repeat' first
    | intro _
    | (with_reducible first
        | assumption | apply State.tryIssue_kept | apply State.setTags_kept | apply State.issueFinish_kept | apply kept_next)
    | split

theorem execSegmentEntry_kept {s0 s : State} (a1 : Nat) (h : Kept s0 s) : KeptRes s0 (execSegmentEntry a1 s) := by
  unfold execSegmentEntry
  repeat' first
    | intro _
    | (with_reducible first
        | exact h | exact trivial | assumption | apply State.strikeSeq_kept | apply State.modQueue_kept
        | apply State.fetchMarks_kept | apply State.stopWith_kept | apply kept_next | apply kept_some | apply kept_none
        | apply kept_wait | apply kept_moved | apply kept_ended | apply kept_ite | apply kept_ite1 | apply kept_ite2
        | apply kept_optite | apply kept_turnite | apply kept_foldl | apply kept_foldl1 | apply kept_forEach
        | apply kept_getD)
    | dsimp only | split
    | (with_reducible first
        | refine kept_pair1 (by assumption) ?_ | refine kept_pair2 (by assumption) ?_ | refine kept_opt (by assumption) ?_
        | refine kept_turnM (by assumption) ?_ | refine kept_turnE (by assumption) ?_ | refine kept_res (by assumption) ?_)

theorem State.dropSignal_kept {s0 s : State} (a1 : Nat) (a2 : BitVec 16) (a3 : Nat) (h : Kept s0 s) :
    Kept s0 (s.dropSignal a1 a2 a3) := by
  unfold State.dropSignal
  repeat' first
    | (with_reducible first
        | assumption | apply State.modLcore_kept | apply State.raiseRare_kept | apply State.stopQueue_kept
        | apply State.raise_kept)
    | split

theorem execRemoteSignal_kept {s0 s : State} (a1 : Nat) (a2 : BitVec 16) (h : Kept s0 s) : KeptRes s0 (execRemoteSignal a1 a2
    s) := by
  unfold execRemoteSignal
  repeat' first
    | intro _
    | (with_reducible first
        | exact h | exact trivial | assumption | apply State.takeSignal_kept | apply State.landSignal_kept | apply
        State.dropSignal_kept | apply kept_foldl | apply kept_foldl1 | apply kept_forEach | apply eachUntil_kept | apply
        kept_next | apply kept_some | apply kept_none | apply kept_wait | apply kept_moved | apply kept_ended | apply
        kept_ite | apply kept_ite1 | apply kept_ite2 | apply kept_optite | apply kept_turnite | apply kept_clear | apply
        kept_put)
    | dsimp only | split
    | with_reducible refine kept_pair1 (by assumption) ?_
    | with_reducible refine kept_pair2 (by assumption) ?_

theorem execDeviceQueueWake_kept {s0 s : State} (a0 : Nat) (h : Kept s0 s) : KeptRes s0 (execDeviceQueueWake a0 s) := by
  unfold execDeviceQueueWake
  repeat' first | (with_reducible first | assumption | apply State.modQueue_kept | apply kept_next) | split

theorem State.requestStop_kept {s0 s : State} (a1 : Nat) (h : Kept s0 s) : Kept s0 (s.requestStop a1) := by
  unfold State.requestStop
  repeat' first | (with_reducible first | assumption | apply State.stopQueue_kept | apply State.raise_kept) | split

theorem State.queueAction_kept {s0 s : State} (a1 : Nat) (a2 : Nat) (h : Kept s0 s) : Kept s0 (State.queueAction s a1 a2) :=
    by
  unfold State.queueAction
  repeat' first
    | intro _
    | (with_reducible first
        | exact h | exact trivial | assumption | apply State.modQueue_kept | apply State.enterFront_kept | apply kept_next
        | apply kept_some | apply kept_none | apply kept_wait | apply kept_moved | apply kept_ended | apply kept_ite
        | apply kept_ite1 | apply kept_ite2 | apply kept_optite | apply kept_turnite | apply kept_foldl | apply kept_foldl1
        | apply kept_forEach | apply kept_getD)
    | dsimp only | split
    | (with_reducible first
        | refine kept_pair1 (by assumption) ?_ | refine kept_pair2 (by assumption) ?_ | refine kept_opt (by assumption) ?_
        | refine kept_turnM (by assumption) ?_ | refine kept_turnE (by assumption) ?_ | refine kept_res (by assumption) ?_)

theorem State.setRing_kept {s0 s : State} (a1 : Nat) (a2 : BitVec 48) (a3 : Nat) (h : Kept s0 s) : Kept s0 (State.setRing s
    a1 a2 a3) := by
  unfold State.setRing
  repeat' first
    | intro _
    | (with_reducible first
        | exact h | exact trivial | assumption | apply State.strikeSeq_kept | apply State.modQueue_kept
        | apply State.countBad_kept | apply kept_next | apply kept_some | apply kept_none | apply kept_wait
        | apply kept_moved | apply kept_ended | apply kept_ite | apply kept_ite1 | apply kept_ite2 | apply kept_optite
        | apply kept_turnite | apply kept_foldl | apply kept_foldl1 | apply kept_forEach | apply kept_getD)
    | dsimp only | split
    | (with_reducible first
        | refine kept_pair1 (by assumption) ?_ | refine kept_pair2 (by assumption) ?_ | refine kept_opt (by assumption) ?_
        | refine kept_turnM (by assumption) ?_ | refine kept_turnE (by assumption) ?_ | refine kept_res (by assumption) ?_)

theorem State.regRow_kept {s0 s : State} (a1 : Nat) (a2 : Nat) (a3 : Bool) (a4 : State → State)
    (h4 : ∀ t, Kept s0 t → Kept s0 (a4 t )) (h : Kept s0 s) : KeptRes s0 (s.regRow a1 a2 a3 a4) := by
  unfold State.regRow
  repeat' first | (with_reducible first | assumption | apply h4 | apply kept_next) | split

end Sys2Proof.Machine
end

