-- ==== Sys2Proof/Laws/KeptCores.lean ====
section
/-! SUPPORT. KeptCores.lean: what every run keeps (`Kept`), for the units of the cores and the commands that use them. -/

namespace Sys2Proof.Machine

/-! ### CtxTable.lean -/

theorem State.ctxRead_kept {s0 s : State} (a1 : Nat) (h : Kept s0 s) : Kept s0 (s.ctxRead a1).1 := by
  unfold State.ctxRead
  repeat' first
    | intro _
    | (with_reducible first
        | exact h | exact trivial | assumption | apply kept_foldl | apply kept_foldl1 | apply State.raiseRare_kept
        | apply setCtxCond_kept | apply setCtxCorrected_kept | apply State.raiseStop_kept | apply kept_next | apply kept_some
        | apply kept_none | apply kept_moved | apply kept_ended | apply kept_ite | apply kept_ite1 | apply kept_ite2
        | apply kept_optite | apply kept_turnite)
    | dsimp only | split

theorem State.ctxWrite_kept {s0 s : State} (a1 : Nat) (a2 : Ctx → Ctx) (h : Kept s0 s) : Kept s0 (s.ctxWrite a1 a2) := by
  unfold State.ctxWrite
  repeat' first
    | intro _
    | (with_reducible first
        | exact h | exact trivial | assumption | apply State.modCtx_kept | apply setCtxCond_kept
        | apply State.takeInjection_kept | apply kept_next | apply kept_some | apply kept_none | apply kept_moved
        | apply kept_ended | apply kept_ite)

/-! ### Ledger.lean -/

theorem State.modLedger_kept {s0 s : State} (a1 : Nat) (a2 : Ledger → Ledger) (h : Kept s0 s) :
    Kept s0 (s.modLedger a1 a2) := by
  unfold State.modLedger
  repeat' with_reducible first | assumption | apply State.modLcore_kept

theorem State.ledgerRead_kept {s0 s : State} (a1 : Nat) (a2 : Nat) (a3 : Nat) (a4 : Nat) (a5 : Nat) (h : Kept s0 s) :
    Kept s0 (s.ledgerRead a1 a2 a3 a4 a5) := by
  unfold State.ledgerRead
  repeat' first
    | intro _
    | (with_reducible first | assumption | apply kept_foldl | apply State.raise_kept | apply State.modLedger_kept)
    | split

theorem State.ledgerClamps_kept {s0 s : State} (a1 : Nat) (a2 : Nat) (a3 : Nat) (h : Kept s0 s) :
    Kept s0 (s.ledgerClamps a1 a2 a3) := by
  unfold State.ledgerClamps
  repeat' first | (with_reducible first | assumption | apply State.modLedger_kept | apply State.raise_kept) | dsimp only | split

theorem State.ledgerInject_kept {s0 s : State} (a1 : Nat) (a2 : Nat) (a3 : Nat) (a4 : Nat) (h : Kept s0 s) :
    Kept s0 (s.ledgerInject a1 a2 a3 a4) := by
  unfold State.ledgerInject
  repeat' first
    | (with_reducible first | assumption | apply State.takeInjection_kept | apply State.modLedger_kept)
    | dsimp only | split

theorem State.ledgerAdd_kept {s0 s : State} (a1 : Nat) (a2 : Nat) (a3 : Nat) (a4 : Nat) (a5 : Nat) (a6 : Nat → Int)
    (h : Kept s0 s) : Kept s0 (s.ledgerAdd a1 a2 a3 a4 a5 a6) := by
  unfold State.ledgerAdd
  repeat' with_reducible first
    | assumption | apply State.ledgerRead_kept | apply State.ledgerClamps_kept | apply State.ledgerInject_kept
    | apply State.modLedger_kept

theorem State.ledgerPut_kept {s0 s : State} (a1 : Nat) (a2 : Nat) (a3 : Nat) (a4 : Nat) (a5 : Nat) (a6 : Nat → Int)
    (h : Kept s0 s) : Kept s0 (s.ledgerPut a1 a2 a3 a4 a5 a6) := by
  unfold State.ledgerPut
  repeat' with_reducible first
    | assumption | apply State.ledgerClamps_kept | apply State.ledgerInject_kept | apply State.modLedger_kept

theorem State.countWindow_kept {s0 s : State} (before : State) (q : Nat) (h : Kept s0 s) :
    Kept s0 (State.countWindow before s q) := by
  unfold State.countWindow
  exact kept_ite (State.modLedger_kept _ _ h) h

theorem eachUntil_kept {α : Type} {s0 s : State} {f : State → α → Ended} (hf : ∀ t x, Kept s0 t → Kept s0 (f t x).1)
    (xs : List α) (h : Kept s0 s) :
    Kept s0 (eachUntil s f xs).1 := by
  induction xs generalizing s with
  | nil => exact h
  | cons x xs ih =>
    have hx := hf s x h
    unfold eachUntil
    split
    · rename_i e
      rw [e] at hx
      exact hx
    · rename_i e
      rw [e] at hx
      exact ih hx

theorem State.ledgerClear_kept {s0 s : State} (a1 : Nat) (a2 : Nat) (h : Kept s0 s) :
    Kept s0 (State.ledgerClear s a1 a2) := by
  unfold State.ledgerClear
  repeat' first
    | intro _
    | (with_reducible first
        | exact h | exact trivial | assumption | apply State.modLedger_kept | apply State.ledgerInject_kept
        | apply kept_foldl | apply kept_foldl1 | apply kept_forEach | apply eachUntil_kept | apply kept_next
        | apply kept_some | apply kept_none | apply kept_wait | apply kept_moved | apply kept_ended | apply kept_ite
        | apply kept_ite1 | apply kept_ite2 | apply kept_optite | apply kept_turnite | apply kept_clear
        | apply kept_put)
    | dsimp only | split
    | (with_reducible first
        | refine kept_pair1 (by assumption) ?_
        | refine kept_pair2 (by assumption) ?_)

theorem State.drainTile_kept {s0 s : State} (a1 : Job) (a2 : Nat) (h : Kept s0 s) : Kept s0 (s.drainTile a1 a2).1 := by
  unfold State.drainTile
  repeat' first
    | intro _
    | (with_reducible first
        | exact h | exact trivial | assumption | apply State.ledgerRead_kept | apply eachUntil_kept
        | apply State.ledgerClear_kept | apply SEng.row_kept | apply SAcc.row_kept | apply State.write_kept
        | apply kept_foldl | apply kept_foldl1 | apply kept_forEach | apply eachUntil_kept | apply kept_next
        | apply kept_some | apply kept_none | apply kept_wait | apply kept_moved | apply kept_ended | apply kept_ite
        | apply kept_ite1 | apply kept_ite2 | apply kept_optite | apply kept_turnite | apply kept_clear
        | apply kept_put)
    | dsimp only | split
    | (with_reducible first
        | refine kept_pair1 (by assumption) ?_
        | refine kept_pair2 (by assumption) ?_
        | refine kept_opt (by assumption) ?_)

theorem State.loadRow_kept {s0 s : State} (j : Job) (i : Nat) (r : Nat × Nat) (h : Kept s0 s) :
    Kept s0 (s.loadRow j i r).1 := by
  rw [State.loadRow]
  have hr := State.read_kept (portWho j.q) (scratchAddr (j.q / 4) (ledOffset j.cmd + i * ledStride j.cmd + r.2))
      (8 * ledLanes j.cmd) h
  generalize s.read _ _ _ = d at hr ⊢
  obtain ⟨d, t⟩ := d
  dsimp only at hr ⊢
  split
  · exact hr
  · exact kept_ite (State.ledgerAdd_kept _ _ _ _ _ _ hr) (State.ledgerPut_kept _ _ _ _ _ _ hr)

theorem State.loadTile_kept {s0 s : State} (j : Job) (i : Nat) (h : Kept s0 s) : Kept s0 (s.loadTile j i).1 := by
  rw [State.loadTile]
  exact eachUntil_kept (fun _ r ht => State.loadRow_kept j i r ht) _ h

theorem State.clearFlags_kept {s0 s : State} (a1 : Job) (h : Kept s0 s) : Kept s0 (s.clearFlags a1) := by
  unfold State.clearFlags
  repeat' first | (with_reducible first | assumption | apply State.modLedger_kept) | split

theorem State.ledgerEffect_kept {s0 s : State} (a1 : Job) (h : Kept s0 s) : Kept s0 (s.ledgerEffect a1).1 := by
  unfold State.ledgerEffect
  repeat' first
    | intro _
    | (with_reducible first
        | exact h | exact trivial | assumption | apply eachUntil_kept | apply State.ledgerClear_kept
        | apply State.drainTile_kept | apply State.loadTile_kept | apply State.clearFlags_kept | apply kept_foldl
        | apply kept_foldl1 | apply kept_forEach | apply eachUntil_kept | apply kept_next | apply kept_some
        | apply kept_none | apply kept_wait | apply kept_moved | apply kept_ended | apply kept_ite | apply kept_ite1
        | apply kept_ite2 | apply kept_optite | apply kept_turnite | apply kept_clear | apply kept_put)
    | dsimp only | split
    | (with_reducible first
        | refine kept_pair1 (by assumption) ?_
        | refine kept_pair2 (by assumption) ?_)

theorem State.endWith_kept {s0 s : State} (a1 : Job) (a2 : Stop) (h : Kept s0 s) : Kept s0 (s.endWith a1 a2) := by
  unfold State.endWith
  repeat' first | (with_reducible first | assumption | apply State.dropJob_kept | apply State.endJob_kept) | split

theorem State.portAdvance_kept {s0 s : State} (a1 : Nat) (h : Kept s0 s) : Kept s0 (State.portAdvance s a1) := by
  unfold State.portAdvance
  repeat' first
    | intro _
    | (with_reducible first
        | exact h | exact trivial | assumption | apply State.modLedger_kept | apply State.ledgerEffect_kept
        | apply State.endWith_kept | apply State.releaseJob_kept | apply kept_foldl | apply kept_foldl1
        | apply kept_forEach | apply eachUntil_kept | apply kept_next | apply kept_some | apply kept_none
        | apply kept_wait | apply kept_moved | apply kept_ended | apply kept_ite | apply kept_ite1 | apply kept_ite2
        | apply kept_optite | apply kept_turnite | apply kept_clear | apply kept_put)
    | dsimp only | split
    | (with_reducible first
        | refine kept_pair1 (by assumption) ?_
        | refine kept_pair2 (by assumption) ?_
        | refine kept_opt (by assumption) ?_)

theorem State.ledgerIssue_kept {s0 s : State} (a1 : Nat) (a2 : Sys2Proof.Entry) (h : Kept s0 s) :
    Kept s0 (s.ledgerIssue a1 a2) := by
  unfold State.ledgerIssue
  repeat' with_reducible first
    | assumption | apply State.enterJob_kept | apply State.issue_kept | apply State.portAdvance_kept
    | apply State.modLedger_kept

theorem State.ledgerTry_kept {s0 s : State} (a1 : Nat) (a2 : Nat) (h : Kept s0 s) : Kept s0 (s.ledgerTry a1 a2) := by
  unfold State.ledgerTry
  repeat' first
    | intro _
    | (with_reducible first
        | assumption | apply State.countWindow_kept | apply State.tryIssue_kept | apply State.ledgerIssue_kept)

theorem execLedgerClear_kept {s0 s : State} (a0 : Nat) (h : Kept s0 s) : KeptRes s0 (execLedgerClear a0 s) := by
  unfold execLedgerClear
  repeat' with_reducible first | assumption | apply State.ledgerTry_kept | apply kept_next

theorem execLedgerDrain_kept {s0 s : State} (a0 : Nat) (h : Kept s0 s) : KeptRes s0 (execLedgerDrain a0 s) := by
  unfold execLedgerDrain
  repeat' with_reducible first | assumption | apply State.ledgerTry_kept | apply kept_next

theorem execLedgerLoad_kept {s0 s : State} (a0 : Nat) (h : Kept s0 s) : KeptRes s0 (execLedgerLoad a0 s) := by
  unfold execLedgerLoad
  repeat' with_reducible first | assumption | apply State.ledgerTry_kept | apply kept_next

theorem execLedgerCommandComplete_kept {s0 s : State} (a0 : Nat) (h : Kept s0 s) :
    KeptRes s0 (execLedgerCommandComplete a0 s) := by
  unfold execLedgerCommandComplete
  repeat' first
    | (with_reducible first
        | assumption | apply State.portAdvance_kept | apply State.finishJob_kept | apply State.modLedger_kept | apply kept_next)
    | split

/-! ### Contexts.lean -/

theorem execCtxOpen_kept {s0 s : State} (a1 : Nat) (h : Kept s0 s) : KeptRes s0 (execCtxOpen a1 s) := by
  unfold execCtxOpen
  repeat' first
    | intro _
    | (with_reducible first
        | exact h | exact trivial | assumption | apply State.tryIssue_kept | apply State.issueFinish_kept
        | apply State.ctxWrite_kept | apply kept_next | apply kept_some | apply kept_none | apply kept_wait
        | apply kept_moved | apply kept_ended | apply kept_ite | apply kept_ite1 | apply kept_ite2 | apply kept_optite
        | apply kept_turnite | apply kept_foldl | apply kept_foldl1 | apply kept_forEach | apply kept_getD)
    | dsimp only | split
    | (with_reducible first
        | refine kept_pair1 (by assumption) ?_ | refine kept_pair2 (by assumption) ?_ | refine kept_opt (by assumption) ?_
        | refine kept_turnM (by assumption) ?_ | refine kept_turnE (by assumption) ?_ | refine kept_res (by assumption) ?_)

def KeptCommit (s0 : State) : Commit → Prop
  | .on s => Kept s0 s
  | .waits => True
  | .stopped s _ => Kept s0 s
  | .quiet s _ => Kept s0 s

theorem State.commitEntry_kept {s0 s : State} (q : Nat) (e : Sys2Proof.Entry) (i : Nat) (h : Kept s0 s) :
    KeptCommit s0 (s.commitEntry q e i) := by
  rw [State.commitEntry]
  dsimp only
  have hr := State.read_kept (unitWho q 6) (scratchAddr (q / 4) (cOffset e + i * cStride e)) 4 h
  generalize s.read (unitWho q 6) (scratchAddr (q / 4) (cOffset e + i * cStride e)) 4 = r at hr ⊢
  split
  · trivial
  split
  · exact hr
  have hd : Kept s0 (if entryCtx (blkNat r.1.blk 0 4) < ctxCount then r.2.ctxRead (entryCtx (blkNat r.1.blk 0 4))
      else (r.2, true)).1 := kept_ite1 (State.ctxRead_kept _ hr) hr
  generalize (if entryCtx (blkNat r.1.blk 0 4) < ctxCount then r.2.ctxRead (entryCtx (blkNat r.1.blk 0 4))
      else (r.2, true)) = rd at hd ⊢
  split
  · exact hd
  split
  · exact hd
  · exact State.ctxWrite_kept _ _ hd

theorem State.commitGo_kept {s0 s : State} (c : CommitJob) (n : Nat) (h : Kept s0 s) : Kept s0 (s.commitGo c n).1 := by
  induction n generalizing s c with
  | zero => exact h
  | succ n ih =>
    rw [State.commitGo]
    have hm := State.commitEntry_kept c.job.q c.job.cmd c.pos h
    revert hm
    cases s.commitEntry c.job.q c.job.cmd c.pos with
    | on t => exact fun hm => ih _ hm
    | waits => exact fun _ => h
    | stopped t st => exact fun hm => hm
    | quiet t code => exact fun hm => hm

theorem State.commitAdvance_kept {s0 s : State} (a1 : CommitJob) (h : Kept s0 s) : Kept s0 (State.commitAdvance s a1) := by
  unfold State.commitAdvance
  repeat' first
    | intro _
    | (with_reducible first
        | exact h | exact trivial | assumption | apply State.endWith_kept | apply State.commitGo_kept
        | apply State.modLcore_kept | apply State.releaseReads_kept | apply kept_foldl | apply kept_foldl1
        | apply kept_forEach | apply eachUntil_kept | apply kept_next | apply kept_some | apply kept_none
        | apply kept_wait | apply kept_moved | apply kept_ended | apply kept_ite | apply kept_ite1 | apply kept_ite2
        | apply kept_optite | apply kept_turnite | apply kept_clear | apply kept_put)
    | dsimp only | split
    | (with_reducible first
        | refine kept_pair1 (by assumption) ?_
        | refine kept_pair2 (by assumption) ?_
        | refine kept_opt (by assumption) ?_)

theorem execCtxCommit_kept {s0 s : State} (a1 : Nat) (h : Kept s0 s) : KeptRes s0 (execCtxCommit a1 s) := by
  unfold execCtxCommit
  repeat' first
    | intro _
    | (with_reducible first
        | exact h | exact trivial | assumption | apply State.tryIssue_kept | apply State.enterJob_kept
        | apply State.issue_kept | apply State.commitAdvance_kept | apply State.modLcore_kept | apply kept_next
        | apply kept_some | apply kept_none | apply kept_wait | apply kept_moved | apply kept_ended | apply kept_ite
        | apply kept_ite1 | apply kept_ite2 | apply kept_optite | apply kept_turnite | apply kept_foldl | apply kept_foldl1
        | apply kept_forEach | apply kept_getD)
    | dsimp only | split
    | (with_reducible first
        | refine kept_pair1 (by assumption) ?_ | refine kept_pair2 (by assumption) ?_ | refine kept_opt (by assumption) ?_
        | refine kept_turnM (by assumption) ?_ | refine kept_turnE (by assumption) ?_ | refine kept_res (by assumption) ?_)

theorem execCtxCommitComplete_kept {s0 s : State} (a1 : Nat) (h : Kept s0 s) : KeptRes s0 (execCtxCommitComplete a1 s) := by
  unfold execCtxCommitComplete
  repeat' first
    | intro _
    | (with_reducible first
        | exact h | exact trivial | assumption | apply State.commitAdvance_kept | apply State.finishJob_kept
        | apply State.modLcore_kept | apply kept_next | apply kept_some | apply kept_none | apply kept_wait
        | apply kept_moved | apply kept_ended | apply kept_ite | apply kept_ite1 | apply kept_ite2 | apply kept_optite
        | apply kept_turnite | apply kept_foldl | apply kept_foldl1 | apply kept_forEach | apply kept_getD)
    | dsimp only | split
    | (with_reducible first
        | refine kept_pair1 (by assumption) ?_ | refine kept_pair2 (by assumption) ?_ | refine kept_opt (by assumption) ?_
        | refine kept_turnM (by assumption) ?_ | refine kept_turnE (by assumption) ?_ | refine kept_res (by assumption) ?_)

theorem execCtxClose_kept {s0 s : State} (a0 : Nat) (h : Kept s0 s) : KeptRes s0 (execCtxClose a0 s) := by
  unfold execCtxClose
  repeat' first
    | intro _
    | (with_reducible first
        | exact h | exact trivial | assumption | apply State.tryIssue_kept | apply State.ctxWrite_kept | apply State.issue_kept
        | apply setCloses_kept | apply kept_next)

theorem State.closeRelease_kept {s0 s : State} (a1 : Nat) (h : Kept s0 s) : Kept s0 (State.closeRelease s a1) := by
  unfold State.closeRelease
  repeat' first
    | intro _
    | (with_reducible first
        | exact h | exact trivial | assumption | apply State.ctxRead_kept | apply setCloses_kept
        | apply State.modQueue_kept | apply State.stopQueue_kept | apply State.raise_kept | apply State.writeBytes_kept
        | apply kept_next | apply kept_some | apply kept_none | apply kept_wait | apply kept_moved | apply kept_ended
        | apply kept_ite | apply kept_ite1 | apply kept_ite2 | apply kept_optite | apply kept_turnite | apply kept_foldl
        | apply kept_foldl1 | apply kept_forEach | apply kept_getD)
    | dsimp only | split
    | (with_reducible first
        | refine kept_pair1 (by assumption) ?_ | refine kept_pair2 (by assumption) ?_ | refine kept_opt (by assumption) ?_
        | refine kept_turnM (by assumption) ?_ | refine kept_turnE (by assumption) ?_ | refine kept_res (by assumption) ?_)

theorem execCloseHoldersReleased_kept {s0 s : State} (a1 : Nat) (h : Kept s0 s) : KeptRes s0 (execCloseHoldersReleased a1 s)
    := by
  unfold execCloseHoldersReleased
  repeat' first
    | intro _
    | (with_reducible first
        | exact h | exact trivial | assumption | apply State.closeRelease_kept | apply kept_next | apply kept_some
        | apply kept_none | apply kept_wait | apply kept_moved | apply kept_ended | apply kept_ite | apply kept_ite1
        | apply kept_ite2 | apply kept_optite | apply kept_turnite | apply kept_foldl | apply kept_foldl1
        | apply kept_forEach | apply kept_getD)
    | dsimp only | split
    | (with_reducible first
        | refine kept_pair1 (by assumption) ?_ | refine kept_pair2 (by assumption) ?_ | refine kept_opt (by assumption) ?_
        | refine kept_turnM (by assumption) ?_ | refine kept_turnE (by assumption) ?_ | refine kept_res (by assumption) ?_)

theorem State.zeroTier_kept {s0 s : State} (a1 a2 : Nat) (h : Kept s0 s) : Kept s0 (s.zeroTier a1 a2) :=
  setMemCond_kept (kept_clear h _ _) _

theorem State.closeZero_kept {s0 s : State} (a1 : Nat) (h : Kept s0 s) : Kept s0 (State.closeZero s a1) := by
  unfold State.closeZero
  repeat' first
    | intro _
    | (with_reducible first
        | exact h | exact trivial | assumption | apply State.ctxWrite_kept | apply State.zeroTier_kept
        | apply State.countTier_kept | apply State.countBytes_kept | apply State.finish_kept | apply setCloses_kept
        | apply kept_foldl | apply kept_foldl1 | apply kept_forEach | apply eachUntil_kept | apply kept_next
        | apply kept_some | apply kept_none | apply kept_wait | apply kept_moved | apply kept_ended | apply kept_ite
        | apply kept_ite1 | apply kept_ite2 | apply kept_optite | apply kept_turnite | apply kept_clear
        | apply kept_put)
    | dsimp only | split
    | (with_reducible first
        | refine kept_pair1 (by assumption) ?_
        | refine kept_pair2 (by assumption) ?_
        | refine kept_opt (by assumption) ?_)

theorem execKvAreaZeroed_kept {s0 s : State} (a1 : Nat) (h : Kept s0 s) : KeptRes s0 (execKvAreaZeroed a1 s) := by
  unfold execKvAreaZeroed
  repeat' first
    | intro _
    | (with_reducible first
        | exact h | exact trivial | assumption | apply State.closeZero_kept | apply kept_next | apply kept_some
        | apply kept_none | apply kept_wait | apply kept_moved | apply kept_ended | apply kept_ite | apply kept_ite1
        | apply kept_ite2 | apply kept_optite | apply kept_turnite | apply kept_foldl | apply kept_foldl1
        | apply kept_forEach | apply kept_getD)
    | dsimp only | split
    | (with_reducible first
        | refine kept_pair1 (by assumption) ?_ | refine kept_pair2 (by assumption) ?_ | refine kept_opt (by assumption) ?_
        | refine kept_turnM (by assumption) ?_ | refine kept_turnE (by assumption) ?_ | refine kept_res (by assumption) ?_)

/-! ### Planes.lean -/

theorem State.loadRows_kept {s0 s : State} (a1 : Nat) (a2 : Nat) (a3 : Nat) (a4 : Nat) (a5 : Sys2Proof.NMap Sys2Proof.Byte)
    (h : Kept s0 s) : Kept s0 (s.loadRows a1 a2 a3 a4 a5) := by
  unfold State.loadRows
  repeat' first
    | (with_reducible first | assumption | apply State.takeInjection_kept | apply State.modLcore_kept | apply setOracle_kept)
    | dsimp only | split

theorem State.loadBad_kept {s0 s : State} (a1 : Nat) (a2 : Nat) (h : Kept s0 s) : Kept s0 (s.loadBad a1 a2) := by
  unfold State.loadBad
  repeat' with_reducible first | assumption | apply State.modLcore_kept

theorem State.loadCorrected_kept {s0 s : State} (a1 : Nat) (a2 : Nat) (a3 : Nat) (h : Kept s0 s) :
    Kept s0 (s.loadCorrected a1 a2 a3) := by
  unfold State.loadCorrected
  repeat' first
    | intro _
    | (with_reducible first | assumption | apply kept_foldl | apply State.raise_kept | apply State.modLcore_kept)

theorem execPlaneLoadComplete_kept {s0 s : State} (a1 : Nat) (a2 : Nat) (h : Kept s0 s) : KeptRes s0 (execPlaneLoadComplete
    a1 a2 s) := by
  unfold execPlaneLoadComplete
  repeat' first
    | intro _
    | (with_reducible first
        | exact h | exact trivial | assumption | apply State.sweepSwaps_kept | apply State.modLcore_kept | apply kept_next
        | apply kept_some | apply kept_none | apply kept_wait | apply kept_moved | apply kept_ended | apply kept_ite
        | apply kept_ite1 | apply kept_ite2 | apply kept_optite | apply kept_turnite | apply kept_foldl | apply kept_foldl1
        | apply kept_forEach | apply kept_getD)
    | dsimp only | split
    | (with_reducible first
        | refine kept_pair1 (by assumption) ?_ | refine kept_pair2 (by assumption) ?_ | refine kept_opt (by assumption) ?_
        | refine kept_turnM (by assumption) ?_ | refine kept_turnE (by assumption) ?_ | refine kept_res (by assumption) ?_)

theorem execFrameMode_kept {s0 s : State} (a0 : Nat) (h : Kept s0 s) : KeptRes s0 (execFrameMode a0 s) := by
  unfold execFrameMode
  repeat' first
    | intro _
    | (with_reducible first
        | assumption | apply State.tryIssue_kept | apply State.issueFinish_kept | apply State.modLcore_kept | apply kept_next)

theorem execPlaneSwap_kept {s0 s : State} (a0 : Nat) (h : Kept s0 s) : KeptRes s0 (execPlaneSwap a0 s) := by
  unfold execPlaneSwap
  repeat' first
    | intro _
    | (with_reducible first
        | assumption | apply State.tryIssue_kept | apply State.modLcore_kept | apply State.issue_kept | apply kept_next)

theorem execPlaneExchange_kept {s0 s : State} (a0 : Nat) (a1 : Nat) (h : Kept s0 s) :
    KeptRes s0 (execPlaneExchange a0 a1 s) := by
  unfold execPlaneExchange
  repeat' first
    | (with_reducible first | assumption | apply State.modLcore_kept | apply State.finish_kept | apply kept_next)
    | dsimp only | split

/-! ### DmaMoves.lean -/

theorem State.countDma_kept {s0 s : State} (a1 : Nat) (a2 : Nat) (h : Kept s0 s) : Kept s0 (s.countDma a1 a2) := by
  unfold State.countDma
  repeat' first | intro _ | (with_reducible first | exact h | exact trivial | assumption | apply State.modLcore_kept)

theorem State.rowBytes_kept {s0 s : State} (a1 : DmaJob) (a2 : Nat) (a3 : Nat) (a4 : Nat) (a5 : Sys2Proof.NMap
    Sys2Proof.Byte) (h : Kept s0 s) : Kept s0 (State.rowBytes s a1 a2 a3 a4 a5).2 := by
  unfold State.rowBytes
  repeat' first
    | intro _
    | (with_reducible first
        | exact h | exact trivial | assumption | apply setOracle_kept | apply kept_next | apply kept_some | apply kept_none
        | apply kept_wait | apply kept_moved | apply kept_ended | apply kept_ite | apply kept_ite1 | apply kept_ite2
        | apply kept_optite | apply kept_turnite | apply kept_foldl | apply kept_foldl1 | apply kept_forEach
        | apply kept_getD)
    | dsimp only | split
    | (with_reducible first
        | refine kept_pair1 (by assumption) ?_ | refine kept_pair2 (by assumption) ?_ | refine kept_opt (by assumption) ?_
        | refine kept_turnM (by assumption) ?_ | refine kept_turnE (by assumption) ?_ | refine kept_res (by assumption) ?_)

theorem State.moveBytes_kept {s0 s : State} (a1 : DmaJob) (a2 : Nat) (a3 : Nat) (a4 : Nat) (h : Kept s0 s) :
    KeptTurn s0 (State.moveBytes s a1 a2 a3 a4) := by
  unfold State.moveBytes
  repeat' first
    | intro _
    | (with_reducible first
        | exact h | exact trivial | assumption | apply State.countDma_kept | apply State.rowBytes_kept
        | apply State.read_kept | apply State.write_kept | apply kept_foldl | apply kept_foldl1 | apply kept_forEach
        | apply eachUntil_kept | apply kept_next | apply kept_some | apply kept_none | apply kept_wait
        | apply kept_moved | apply kept_ended | apply kept_ite | apply kept_ite1 | apply kept_ite2
        | apply kept_optite | apply kept_turnite | apply kept_clear | apply kept_put)
    | dsimp only | split
    | (with_reducible first
        | refine kept_pair1 (by assumption) ?_
        | refine kept_pair2 (by assumption) ?_
        | refine kept_turnM (by assumption) ?_
        | refine kept_turnE (by assumption) ?_
        | refine kept_turnW (by assumption) ?_)

theorem State.moveRow_kept {s0 s : State} (a1 : DmaJob) (a2 : Nat) (a3 : Nat) (a4 : Nat) (a5 : Nat) (a6 : Nat × Nat → Bool)
    (h : Kept s0 s) : KeptTurn s0 (s.moveRow a1 a2 a3 a4 a5 a6) := by
  unfold State.moveRow
  repeat' first
    | intro _
    | (with_reducible first
        | exact h | exact trivial | assumption | apply State.moveBytes_kept | apply kept_foldl | apply kept_foldl1
        | apply kept_forEach | apply eachUntil_kept | apply kept_next | apply kept_some | apply kept_none
        | apply kept_wait | apply kept_moved | apply kept_ended | apply kept_ite | apply kept_ite1 | apply kept_ite2
        | apply kept_optite | apply kept_turnite | apply kept_clear | apply kept_put)
    | dsimp only | split
    | (with_reducible first
        | refine kept_pair1 (by assumption) ?_
        | refine kept_pair2 (by assumption) ?_
        | refine kept_turnM (by assumption) ?_
        | refine kept_turnE (by assumption) ?_
        | refine kept_turnW (by assumption) ?_
        | refine kept_opt (by assumption) ?_)

theorem State.copyTurn_kept {s0 s : State} (a1 : DmaJob) (h : Kept s0 s) : KeptTurn s0 (s.copyTurn a1) := by
  unfold State.copyTurn
  repeat' first | intro _ | (with_reducible first | exact h | exact trivial | assumption | apply State.moveRow_kept)

theorem State.planeTurn_kept {s0 s : State} (a1 : DmaJob) (h : Kept s0 s) : KeptTurn s0 (s.planeTurn a1) := by
  unfold State.planeTurn
  repeat' first
    | intro _
    | (with_reducible first
        | exact h | exact trivial | assumption | apply State.modLcore_kept | apply State.loadRows_kept
        | apply State.noteRead_kept | apply State.loadBad_kept | apply State.countDma_kept | apply kept_next | apply kept_some
        | apply kept_none | apply kept_wait | apply kept_moved | apply kept_ended | apply kept_ite | apply kept_ite1
        | apply kept_ite2 | apply kept_optite | apply kept_turnite)
    | dsimp only | split

theorem State.scaleBytes_kept {s0 s : State} (a1 : DmaJob) (a2 : Nat) (a3 : Nat) (h : Kept s0 s) :
    KeptTurn s0 (State.scaleBytes s a1 a2 a3) := by
  unfold State.scaleBytes
  repeat' first
    | intro _
    | (with_reducible first
        | exact h | exact trivial | assumption | apply State.countDma_kept | apply State.modLcore_kept
        | apply State.read_kept | apply kept_foldl | apply kept_foldl1 | apply kept_forEach | apply eachUntil_kept
        | apply kept_next | apply kept_some | apply kept_none | apply kept_wait | apply kept_moved | apply kept_ended
        | apply kept_ite | apply kept_ite1 | apply kept_ite2 | apply kept_optite | apply kept_turnite
        | apply kept_clear | apply kept_put)
    | dsimp only | split
    | (with_reducible first
        | refine kept_pair1 (by assumption) ?_
        | refine kept_pair2 (by assumption) ?_
        | refine kept_turnM (by assumption) ?_
        | refine kept_turnE (by assumption) ?_
        | refine kept_turnW (by assumption) ?_)

theorem State.scaleTurn_kept {s0 s : State} (a1 : DmaJob) (h : Kept s0 s) : KeptTurn s0 (s.scaleTurn a1) := by
  unfold State.scaleTurn
  repeat' first
    | intro _
    | (with_reducible first
        | exact h | exact trivial | assumption | apply State.scaleBytes_kept | apply kept_foldl | apply kept_foldl1
        | apply kept_forEach | apply eachUntil_kept | apply kept_next | apply kept_some | apply kept_none
        | apply kept_wait | apply kept_moved | apply kept_ended | apply kept_ite | apply kept_ite1 | apply kept_ite2
        | apply kept_optite | apply kept_turnite | apply kept_clear | apply kept_put)
    | dsimp only | split
    | (with_reducible first
        | refine kept_pair1 (by assumption) ?_
        | refine kept_pair2 (by assumption) ?_
        | refine kept_turnM (by assumption) ?_
        | refine kept_turnE (by assumption) ?_
        | refine kept_turnW (by assumption) ?_
        | refine kept_opt (by assumption) ?_)

theorem State.listEntry_kept {s0 s : State} (a1 : Who) (a2 : Nat) (h : Kept s0 s) : Kept s0 (s.listEntry a1 a2).1 := by
  unfold State.listEntry
  repeat' first | intro _ | (with_reducible first | exact h | exact trivial | assumption | apply State.read_kept)

theorem State.gatherStart_kept {s0 s : State} (d : DmaJob) (i : Nat) (h : Kept s0 s) : KeptTurn s0 (s.gatherStart d i) := by
  rw [State.gatherStart]
  have hl : Kept s0 (s.listEntry (dmaWho (d.job.q / 4) d.job.q (listAddr (d.job.q / 4) d.job.cmd i))
      (listAddr (d.job.q / 4) d.job.cmd i)).1 := State.listEntry_kept _ _ h
  dsimp only
  split
  · exact h
  generalize s.listEntry _ _ = le at hl ⊢
  exact kept_turnite hl (kept_turnite (State.modLcore_kept _ _ hl) (kept_turnite hl hl))

theorem State.gatherRow_kept {s0 s : State} (a1 : DmaJob) (a2 : Nat) (a3 : DmaSpot) (h : Kept s0 s) :
    KeptTurn s0 (State.gatherRow s a1 a2 a3) := by
  unfold State.gatherRow
  repeat' first
    | intro _
    | (with_reducible first
        | exact h | exact trivial | assumption | apply State.moveRow_kept | apply kept_foldl | apply kept_foldl1
        | apply kept_forEach | apply eachUntil_kept | apply kept_next | apply kept_some | apply kept_none
        | apply kept_wait | apply kept_moved | apply kept_ended | apply kept_ite | apply kept_ite1 | apply kept_ite2
        | apply kept_optite | apply kept_turnite | apply kept_clear | apply kept_put)
    | dsimp only | split
    | (with_reducible first
        | refine kept_pair1 (by assumption) ?_
        | refine kept_pair2 (by assumption) ?_
        | refine kept_turnM (by assumption) ?_
        | refine kept_turnE (by assumption) ?_
        | refine kept_turnW (by assumption) ?_)

theorem State.gatherTurn_kept {s0 s : State} (d : DmaJob) (h : Kept s0 s) : KeptTurn s0 (s.gatherTurn d) := by
  unfold State.gatherTurn
  repeat' first
    | intro _
    | (with_reducible first
        | exact h | exact trivial | assumption | apply State.gatherStart_kept | apply State.gatherRow_kept
        | apply kept_foldl | apply kept_foldl1 | apply kept_forEach | apply eachUntil_kept | apply kept_next
        | apply kept_some | apply kept_none | apply kept_wait | apply kept_moved | apply kept_ended | apply kept_ite
        | apply kept_ite1 | apply kept_ite2 | apply kept_optite | apply kept_turnite | apply kept_clear
        | apply kept_put)
    | dsimp only | split
    | (with_reducible first
        | refine kept_pair1 (by assumption) ?_
        | refine kept_pair2 (by assumption) ?_
        | refine kept_turnM (by assumption) ?_
        | refine kept_turnE (by assumption) ?_
        | refine kept_turnW (by assumption) ?_
        | refine kept_opt (by assumption) ?_)

theorem State.kvStart_kept {s0 s : State} (d : DmaJob) (i : Nat) (h : Kept s0 s) : KeptTurn s0 (State.kvStart s d i) := by
  rw [State.kvStart]
  dsimp only
  split
  · trivial
  have hl := State.listEntry_kept (dmaWho (d.job.q / 4) d.job.q (listAddr (d.job.q / 4) d.job.cmd i))
    (listAddr (d.job.q / 4) d.job.cmd i) h
  generalize s.listEntry (dmaWho (d.job.q / 4) d.job.q (listAddr (d.job.q / 4) d.job.cmd i))
    (listAddr (d.job.q / 4) d.job.cmd i) = le at hl ⊢
  have hd := State.ctxRead_kept (le.2.1 % 65536) hl
  generalize le.1.ctxRead (le.2.1 % 65536) = rd at hd ⊢
  repeat' refine kept_turnite ?_ ?_
  · exact hl
  all_goals exact hd

theorem State.kvRow_kept {s0 s : State} (a1 : DmaJob) (a2 : Nat) (a3 : DmaSpot) (h : Kept s0 s) : KeptTurn s0 (State.kvRow s
    a1 a2 a3) := by
  unfold State.kvRow
  repeat' first
    | intro _
    | (with_reducible first
        | exact h | exact trivial | assumption | apply State.moveRow_kept | apply State.modLcore_kept
        | apply State.ctxWrite_kept | apply kept_next | apply kept_some | apply kept_none | apply kept_wait
        | apply kept_moved | apply kept_ended | apply kept_ite | apply kept_ite1 | apply kept_ite2 | apply kept_optite
        | apply kept_turnite | apply kept_foldl | apply kept_foldl1 | apply kept_forEach | apply kept_getD)
    | dsimp only | split
    | (with_reducible first
        | refine kept_pair1 (by assumption) ?_ | refine kept_pair2 (by assumption) ?_ | refine kept_opt (by assumption) ?_
        | refine kept_turnM (by assumption) ?_ | refine kept_turnE (by assumption) ?_ | refine kept_res (by assumption) ?_)

theorem State.kvTurn_kept {s0 s : State} (a1 : DmaJob) (h : Kept s0 s) : KeptTurn s0 (State.kvTurn s a1) := by
  unfold State.kvTurn
  repeat' first
    | intro _
    | (with_reducible first
        | exact h | exact trivial | assumption | apply State.kvStart_kept | apply State.kvRow_kept | apply kept_next
        | apply kept_some | apply kept_none | apply kept_wait | apply kept_moved | apply kept_ended | apply kept_ite
        | apply kept_ite1 | apply kept_ite2 | apply kept_optite | apply kept_turnite | apply kept_foldl | apply kept_foldl1
        | apply kept_forEach | apply kept_getD)
    | dsimp only | split
    | (with_reducible first
        | refine kept_pair1 (by assumption) ?_ | refine kept_pair2 (by assumption) ?_ | refine kept_opt (by assumption) ?_
        | refine kept_turnM (by assumption) ?_ | refine kept_turnE (by assumption) ?_ | refine kept_res (by assumption) ?_)

/-! ### Stash.lean -/

theorem State.stashPut_kept {s0 s : State} (a1 : DmaJob) (a2 : Nat) (a3 : List Sys2Proof.Byte) (h : Kept s0 s) : KeptTurn s0
    (State.stashPut s a1 a2 a3) := by
  unfold State.stashPut
  repeat' first
    | intro _
    | (with_reducible first
        | exact h | exact trivial | assumption | apply State.writeBytes_kept | apply State.countDma_kept | apply kept_next
        | apply kept_some | apply kept_none | apply kept_wait | apply kept_moved | apply kept_ended | apply kept_ite
        | apply kept_ite1 | apply kept_ite2 | apply kept_optite | apply kept_turnite | apply kept_foldl | apply kept_foldl1
        | apply kept_forEach | apply kept_getD)
    | dsimp only | split
    | (with_reducible first
        | refine kept_pair1 (by assumption) ?_ | refine kept_pair2 (by assumption) ?_ | refine kept_opt (by assumption) ?_
        | refine kept_turnM (by assumption) ?_ | refine kept_turnE (by assumption) ?_ | refine kept_res (by assumption) ?_)

theorem State.stashGet_kept {s0 s : State} (d : DmaJob) (a len : Nat) (f : State → DmaJob → Sys2Proof.NMap Sys2Proof.Byte → Turn)
    (hf : ∀ t b1 b2, Kept s0 t → KeptTurn s0 (f t b1 b2)) (h : Kept s0 s) : KeptTurn s0 (State.stashGet s d a len f) := by
  rw [State.stashGet]
  have hr := State.read_kept (dmaWho (d.job.q / 4) d.job.q a) a len h
  refine kept_turnite h (kept_turnite h ?_)
  split
  · trivial
  · exact kept_turnite hr (hf _ _ _ hr)

theorem Turn.andThen_kept {s0 : State} (t : Turn) (f : State → DmaJob → Turn) (hf : ∀ s d, Kept s0 s → KeptTurn s0 (f s d))
    (h : KeptTurn s0 t) : KeptTurn s0 (t.andThen f) := by
  cases t with
  | wait k => trivial
  | moved s d => exact hf _ _ h
  | ended s st => exact h

theorem State.saveStart_kept {s0 s : State} (a1 : DmaJob) (h : Kept s0 s) : KeptTurn s0 (State.saveStart s a1) := by
  unfold State.saveStart
  repeat' first
    | intro _
    | (with_reducible first
        | exact h | exact trivial | assumption | apply State.stashGet_kept | apply Turn.andThen_kept
        | apply State.stashPut_kept | apply kept_next | apply kept_some | apply kept_none | apply kept_wait
        | apply kept_moved | apply kept_ended | apply kept_ite | apply kept_ite1 | apply kept_ite2 | apply kept_optite
        | apply kept_turnite | apply kept_foldl | apply kept_foldl1 | apply kept_forEach | apply kept_getD)
    | dsimp only | split
    | (with_reducible first
        | refine kept_pair1 (by assumption) ?_ | refine kept_pair2 (by assumption) ?_ | refine kept_opt (by assumption) ?_
        | refine kept_turnM (by assumption) ?_ | refine kept_turnE (by assumption) ?_ | refine kept_res (by assumption) ?_)

theorem State.saveHeader_kept {s0 s : State} (a1 : DmaJob) (a2 : Nat) (h : Kept s0 s) : KeptTurn s0 (State.saveHeader s a1
    a2) := by
  unfold State.saveHeader
  repeat' first
    | intro _
    | (with_reducible first
        | exact h | exact trivial | assumption | apply State.stashGet_kept | apply State.stashPut_kept | apply kept_next
        | apply kept_some | apply kept_none | apply kept_wait | apply kept_moved | apply kept_ended | apply kept_ite
        | apply kept_ite1 | apply kept_ite2 | apply kept_optite | apply kept_turnite | apply kept_foldl | apply kept_foldl1
        | apply kept_forEach | apply kept_getD)
    | dsimp only | split
    | (with_reducible first
        | refine kept_pair1 (by assumption) ?_ | refine kept_pair2 (by assumption) ?_ | refine kept_opt (by assumption) ?_
        | refine kept_turnM (by assumption) ?_ | refine kept_turnE (by assumption) ?_ | refine kept_res (by assumption) ?_)

theorem State.stashCount_kept {s0 s : State} (a1 : DmaJob) (a2 : Nat) (h : Kept s0 s) : KeptTurn s0 (State.stashCount s a1
    a2) := by
  unfold State.stashCount
  repeat' first
    | intro _
    | (with_reducible first
        | exact h | exact trivial | assumption | apply State.stashGet_kept | apply State.stashPut_kept | apply kept_next
        | apply kept_some | apply kept_none | apply kept_wait | apply kept_moved | apply kept_ended | apply kept_ite
        | apply kept_ite1 | apply kept_ite2 | apply kept_optite | apply kept_turnite | apply kept_foldl | apply kept_foldl1
        | apply kept_forEach | apply kept_getD)
    | dsimp only | split
    | (with_reducible first
        | refine kept_pair1 (by assumption) ?_ | refine kept_pair2 (by assumption) ?_ | refine kept_opt (by assumption) ?_
        | refine kept_turnM (by assumption) ?_ | refine kept_turnE (by assumption) ?_ | refine kept_res (by assumption) ?_)

theorem State.saveEnd_kept {s0 s : State} (a1 : DmaJob) (h : Kept s0 s) : KeptTurn s0 (State.saveEnd s a1) := by
  unfold State.saveEnd
  repeat' first
    | intro _
    | (with_reducible first
        | exact h | exact trivial | assumption | apply Turn.andThen_kept | apply State.stashPut_kept
        | apply State.stashCount_kept | apply State.performSignal_kept | apply State.raise_kept | apply kept_next
        | apply kept_some | apply kept_none | apply kept_wait | apply kept_moved | apply kept_ended | apply kept_ite
        | apply kept_ite1 | apply kept_ite2 | apply kept_optite | apply kept_turnite | apply kept_foldl | apply kept_foldl1
        | apply kept_forEach | apply kept_getD)
    | dsimp only | split
    | (with_reducible first
        | refine kept_pair1 (by assumption) ?_ | refine kept_pair2 (by assumption) ?_ | refine kept_opt (by assumption) ?_
        | refine kept_turnM (by assumption) ?_ | refine kept_turnE (by assumption) ?_ | refine kept_res (by assumption) ?_)

theorem State.saveTurn_kept {s0 s : State} (a1 : DmaJob) (h : Kept s0 s) : KeptTurn s0 (State.saveTurn s a1) := by
  unfold State.saveTurn
  repeat' first
    | intro _
    | (with_reducible first
        | exact h | exact trivial | assumption | apply State.saveStart_kept | apply State.saveEnd_kept
        | apply State.saveHeader_kept | apply State.moveRow_kept | apply kept_next | apply kept_some | apply kept_none
        | apply kept_wait | apply kept_moved | apply kept_ended | apply kept_ite | apply kept_ite1 | apply kept_ite2
        | apply kept_optite | apply kept_turnite | apply kept_foldl | apply kept_foldl1 | apply kept_forEach
        | apply kept_getD)
    | dsimp only | split
    | (with_reducible first
        | refine kept_pair1 (by assumption) ?_ | refine kept_pair2 (by assumption) ?_ | refine kept_opt (by assumption) ?_
        | refine kept_turnM (by assumption) ?_ | refine kept_turnE (by assumption) ?_ | refine kept_res (by assumption) ?_)

theorem State.loadHeader_kept {s0 s : State} (d : DmaJob) (a : Nat) (h : Kept s0 s) : KeptTurn s0 (State.loadHeader s d a) := by
  rw [State.loadHeader]
  exact State.stashGet_kept _ _ _ _ (fun t d ix ht => kept_turnite ht ht) h

theorem State.loadEntry_kept {s0 s : State} (d : DmaJob) (a : Nat) (h : Kept s0 s) : KeptTurn s0 (State.loadEntry s d a) := by
  rw [State.loadEntry]
  exact kept_turnite h h

theorem State.loadVia_kept {s0 s : State} (n k : Nat) (d : DmaJob) (g : Sys2Proof.NMap Sys2Proof.Byte → Nat) (h : Kept s0 s) :
    KeptTurn s0 (State.stashGet s d n k fun s d ix => State.loadEntry s d (g ix)) :=
  State.stashGet_kept d n k _ (fun _ d ix ht => State.loadEntry_kept d (g ix) ht) h

theorem State.loadStart_kept {s0 s : State} (d : DmaJob) (h : Kept s0 s) : KeptTurn s0 (State.loadStart s d) := by
  rw [State.loadStart]
  generalize stashIndex d.job.cmd = n
  generalize 8 = k
  apply State.loadVia_kept
  exact h

theorem State.loadTurn_kept {s0 s : State} (a1 : DmaJob) (h : Kept s0 s) : KeptTurn s0 (State.loadTurn s a1) := by
  unfold State.loadTurn
  repeat' first
    | intro _
    | (with_reducible first
        | exact h | exact trivial | assumption | apply State.moveRow_kept | apply State.stashPut_kept
        | apply State.loadHeader_kept | apply State.loadStart_kept | apply kept_foldl | apply kept_foldl1
        | apply kept_forEach | apply eachUntil_kept | apply kept_next | apply kept_some | apply kept_none
        | apply kept_wait | apply kept_moved | apply kept_ended | apply kept_ite | apply kept_ite1 | apply kept_ite2
        | apply kept_optite | apply kept_turnite | apply kept_clear | apply kept_put)
    | dsimp only | split
    | (with_reducible first
        | refine kept_pair1 (by assumption) ?_
        | refine kept_pair2 (by assumption) ?_
        | refine kept_turnM (by assumption) ?_
        | refine kept_turnE (by assumption) ?_
        | refine kept_turnW (by assumption) ?_
        | refine kept_opt (by assumption) ?_)

theorem State.stashTurn_kept {s0 s : State} (a1 : DmaJob) (h : Kept s0 s) : KeptTurn s0 (State.stashTurn s a1) := by
  unfold State.stashTurn
  repeat' first
    | intro _
    | (with_reducible first
        | exact h | exact trivial | assumption | apply State.saveTurn_kept | apply State.loadTurn_kept | apply kept_next
        | apply kept_some | apply kept_none | apply kept_wait | apply kept_moved | apply kept_ended | apply kept_ite
        | apply kept_ite1 | apply kept_ite2 | apply kept_optite | apply kept_turnite | apply kept_foldl | apply kept_foldl1
        | apply kept_forEach | apply kept_getD)
    | dsimp only | split
    | (with_reducible first
        | refine kept_pair1 (by assumption) ?_ | refine kept_pair2 (by assumption) ?_ | refine kept_opt (by assumption) ?_
        | refine kept_turnM (by assumption) ?_ | refine kept_turnE (by assumption) ?_ | refine kept_res (by assumption) ?_)

/-! ### Dma.lean -/

theorem State.dmaTurn_kept {s0 s : State} (a1 : DmaJob) (h : Kept s0 s) : KeptTurn s0 (s.dmaTurn a1) := by
  unfold State.dmaTurn
  repeat' first
    | intro _
    | (with_reducible first
        | exact h | exact trivial | assumption | apply State.copyTurn_kept | apply State.planeTurn_kept
        | apply State.scaleTurn_kept | apply State.kvTurn_kept | apply State.gatherTurn_kept | apply State.stashTurn_kept
        | apply kept_next | apply kept_some | apply kept_none | apply kept_wait | apply kept_moved | apply kept_ended
        | apply kept_ite | apply kept_ite1 | apply kept_ite2 | apply kept_optite | apply kept_turnite)
    | dsimp only | split

theorem State.countCommand_kept {s0 s : State} (a1 : Job) (a2 : Energy) (h : Kept s0 s) :
    Kept s0 (State.countCommand s a1 a2) := by
  unfold State.countCommand
  repeat' first
    | intro _
    | (with_reducible first
        | exact h | exact trivial | assumption | apply setEnergy_kept | apply kept_foldl | apply kept_foldl1
        | apply kept_forEach | apply eachUntil_kept | apply kept_next | apply kept_some | apply kept_none
        | apply kept_wait | apply kept_moved | apply kept_ended | apply kept_ite | apply kept_ite1 | apply kept_ite2
        | apply kept_optite | apply kept_turnite | apply kept_clear | apply kept_put)
    | dsimp only | split
    | (with_reducible first
        | refine kept_pair1 (by assumption) ?_
        | refine kept_pair2 (by assumption) ?_)

theorem State.releasePast_kept {s0 s : State} (a1 : Job) (a2 : List (List Rng × Bool)) (h : Kept s0 s) :
    Kept s0 (State.releasePast s a1 a2) := by
  unfold State.releasePast
  repeat' first
    | intro _
    | (with_reducible first
        | exact h | exact trivial | assumption | apply State.modLcore_kept | apply State.write_kept
        | apply kept_foldl | apply kept_foldl1 | apply kept_forEach | apply eachUntil_kept | apply kept_next
        | apply kept_some | apply kept_none | apply kept_wait | apply kept_moved | apply kept_ended | apply kept_ite
        | apply kept_ite1 | apply kept_ite2 | apply kept_optite | apply kept_turnite | apply kept_clear
        | apply kept_put)
    | dsimp only | split
    | (with_reducible first
        | refine kept_pair1 (by assumption) ?_
        | refine kept_pair2 (by assumption) ?_)

theorem State.dmaGo_kept {s0 s : State} (d : DmaJob) (n : Nat) (h : Kept s0 s) : Kept s0 (s.dmaGo d n).1 := by
  induction n generalizing s d with
  | zero => exact h
  | succ n ih =>
    rw [State.dmaGo]
    refine kept_ite1 h ?_
    have hm := State.dmaTurn_kept d h
    revert hm
    cases s.dmaTurn d with
    | wait t d k => exact fun hm => hm
    | moved t d => exact fun hm => ih _ hm
    | ended t st => exact fun hm => hm

theorem State.dmaAdvance_kept {s0 s : State} (a1 : Nat) (h : Kept s0 s) : Kept s0 (State.dmaAdvance s a1) := by
  unfold State.dmaAdvance
  repeat' first
    | intro _
    | (with_reducible first
        | exact h | exact trivial | assumption | apply State.endWith_kept | apply State.releasePast_kept
        | apply State.dmaGo_kept | apply StreamJob.go_kept | apply State.modLcore_kept | apply State.releaseJob_kept
        | apply kept_foldl | apply kept_foldl1 | apply kept_forEach | apply eachUntil_kept | apply kept_next
        | apply kept_some | apply kept_none | apply kept_wait | apply kept_moved | apply kept_ended | apply kept_ite
        | apply kept_ite1 | apply kept_ite2 | apply kept_optite | apply kept_turnite | apply kept_clear
        | apply kept_put)
    | dsimp only | split
    | (with_reducible first
        | refine kept_pair1 (by assumption) ?_
        | refine kept_pair2 (by assumption) ?_
        | refine kept_turnM (by assumption) ?_
        | refine kept_turnE (by assumption) ?_
        | refine kept_turnW (by assumption) ?_
        | refine kept_opt (by assumption) ?_)

theorem State.dmaStart_kept {s0 s : State} (a1 : Job) (a2 : RunAhead) (h : Kept s0 s) : Kept s0 (s.dmaStart a1 a2) := by
  unfold State.dmaStart
  repeat' first
    | intro _
    | (with_reducible first | exact h | exact trivial | assumption | apply State.dmaAdvance_kept | apply State.modLcore_kept)

theorem State.dmaTry_kept {s0 s : State} (a1 : Nat) (a2 : Sys2Proof.Entry → Bool) (h : Kept s0 s) :
    Kept s0 (s.dmaTry a1 a2) := by
  unfold State.dmaTry
  repeat' first
    | intro _
    | (with_reducible first
        | exact h | exact trivial | assumption | apply State.tryIssue_kept | apply State.dmaStart_kept
        | apply State.enterJob_kept | apply State.issue_kept)

theorem execDmaCopy_kept {s0 s : State} (a0 : Nat) (h : Kept s0 s) : KeptRes s0 (execDmaCopy a0 s) := by
  unfold execDmaCopy
  repeat' first
    | intro _
    | (with_reducible first | exact h | exact trivial | assumption | apply State.dmaTry_kept | apply kept_next)

theorem execPlaneCopy_kept {s0 s : State} (a0 : Nat) (h : Kept s0 s) : KeptRes s0 (execPlaneCopy a0 s) := by
  unfold execPlaneCopy
  repeat' first
    | intro _
    | (with_reducible first | exact h | exact trivial | assumption | apply State.dmaTry_kept | apply kept_next)

theorem execScaleCopy_kept {s0 s : State} (a0 : Nat) (h : Kept s0 s) : KeptRes s0 (execScaleCopy a0 s) := by
  unfold execScaleCopy
  repeat' first
    | intro _
    | (with_reducible first | exact h | exact trivial | assumption | apply State.dmaTry_kept | apply kept_next)

theorem execTableGather_kept {s0 s : State} (a0 : Nat) (h : Kept s0 s) : KeptRes s0 (execTableGather a0 s) := by
  unfold execTableGather
  repeat' first
    | intro _
    | (with_reducible first | exact h | exact trivial | assumption | apply State.dmaTry_kept | apply kept_next)

theorem execKvWrite_kept {s0 s : State} (a0 : Nat) (h : Kept s0 s) : KeptRes s0 (execKvWrite a0 s) := by
  unfold execKvWrite
  repeat' first
    | intro _
    | (with_reducible first | exact h | exact trivial | assumption | apply State.dmaTry_kept | apply kept_next)

theorem execStashSave_kept {s0 s : State} (a0 : Nat) (h : Kept s0 s) : KeptRes s0 (execStashSave a0 s) := by
  unfold execStashSave
  repeat' first
    | intro _
    | (with_reducible first | exact h | exact trivial | assumption | apply State.dmaTry_kept | apply kept_next)

theorem execStashLoad_kept {s0 s : State} (a0 : Nat) (h : Kept s0 s) : KeptRes s0 (execStashLoad a0 s) := by
  unfold execStashLoad
  repeat' first
    | intro _
    | (with_reducible first | exact h | exact trivial | assumption | apply State.dmaTry_kept | apply kept_next)

theorem State.fillPairs_kept {s0 s : State} (a1 : List (Nat × Nat)) (h : Kept s0 s) : Kept s0 (s.fillPairs a1) := by
  unfold State.fillPairs
  repeat' first
    | intro _
    | (with_reducible first
        | exact h | exact trivial | assumption | apply kept_foldl | apply kept_foldl1 | apply State.fillSlots_kept)

theorem execDmaComplete_kept {s0 s : State} (a0 : Nat) (h : Kept s0 s) : KeptRes s0 (execDmaComplete a0 s) := by
  unfold execDmaComplete
  repeat' first
    | intro _
    | (with_reducible first
        | exact h | exact trivial | assumption | apply State.dmaAdvance_kept | apply State.finishJob_kept
        | apply State.fillPairs_kept | apply State.modLcore_kept | apply kept_next | apply kept_some | apply kept_none
        | apply kept_wait | apply kept_moved | apply kept_ended | apply kept_ite | apply kept_ite1 | apply kept_ite2
        | apply kept_optite | apply kept_turnite)
    | dsimp only | split

/-! ### Frames.lean -/

theorem State.startRun_kept {s0 s : State} (a1 : List StreamSrc) (a2 : Nat × Nat) (a3 : Nat) (a4 : Sys2Proof.Entry)
    (h : Kept s0 s) : Kept s0 (s.startRun a1 a2 a3 a4) := by
  unfold State.startRun
  repeat' first
    | intro _
    | (with_reducible first
        | exact h | exact trivial | assumption | apply State.modLcore_kept | apply State.enterJob_kept | apply State.issue_kept)

theorem State.runTry_kept {s0 s : State} (a1 : Nat) (a2 : Nat) (h : Kept s0 s) : Kept s0 (s.runTry a1 a2) := by
  unfold State.runTry
  repeat' first
    | intro _
    | (with_reducible first
        | exact h | exact trivial | assumption | apply State.countWindow_kept | apply State.tryIssue_kept
        | apply State.startRun_kept)

theorem execFrameRun_kept {s0 s : State} (a0 : Nat) (h : Kept s0 s) : KeptRes s0 (execFrameRun a0 s) := by
  unfold execFrameRun
  repeat' first
    | intro _
    | (with_reducible first | exact h | exact trivial | assumption | apply State.runTry_kept | apply kept_next)

theorem execFrameRunT_kept {s0 s : State} (a0 : Nat) (h : Kept s0 s) : KeptRes s0 (execFrameRunT a0 s) := by
  unfold execFrameRunT
  repeat' first
    | intro _
    | (with_reducible first | exact h | exact trivial | assumption | apply State.runTry_kept | apply kept_next)

theorem execJoinedRunStart_kept {s0 s : State} (a0 : Nat) (a1 : Nat) (a2 : Nat) (h : Kept s0 s) :
    KeptRes s0 (execJoinedRunStart a0 a1 a2 s) := by
  unfold execJoinedRunStart
  repeat' first
    | intro _
    | (with_reducible first
        | exact h | exact trivial | assumption | apply kept_foldl | apply kept_foldl1 | apply State.startRun_kept
        | apply State.fetchMarks_kept | apply State.stopWith_kept | apply kept_next | apply kept_some | apply kept_none
        | apply kept_getD | apply kept_wait | apply kept_moved | apply kept_ended | apply kept_ite)

theorem execSliceJoinTimeout_kept {s0 s : State} (a0 : Nat) (h : Kept s0 s) : KeptRes s0 (execSliceJoinTimeout a0 s) := by
  unfold execSliceJoinTimeout
  repeat' first
    | intro _
    | (with_reducible first
        | exact h | exact trivial | assumption | apply State.stopWith_kept | apply State.modCluster_kept | apply kept_next
        | apply kept_some | apply kept_none | apply kept_getD | apply kept_wait | apply kept_moved | apply kept_ended
        | apply kept_ite | apply kept_ite1 | apply kept_ite2 | apply kept_optite | apply kept_turnite)
    | dsimp only | split

theorem State.modRun_kept {s0 s : State} (a1 : Nat) (a2 : Job) (a3 : Run → Run) (h : Kept s0 s) : Kept s0 (State.modRun s a1
    a2 a3) := by
  unfold State.modRun
  repeat' first
    | intro _
    | (with_reducible first
        | exact h | exact trivial | assumption | apply State.modLcore_kept | apply kept_next | apply kept_some
        | apply kept_none | apply kept_wait | apply kept_moved | apply kept_ended | apply kept_ite | apply kept_ite1
        | apply kept_ite2 | apply kept_optite | apply kept_turnite | apply kept_foldl | apply kept_foldl1
        | apply kept_forEach | apply kept_getD)
    | dsimp only | split
    | (with_reducible first
        | refine kept_pair1 (by assumption) ?_ | refine kept_pair2 (by assumption) ?_ | refine kept_opt (by assumption) ?_
        | refine kept_turnM (by assumption) ?_ | refine kept_turnE (by assumption) ?_ | refine kept_res (by assumption) ?_)

theorem State.feedSlice_kept {s0 s : State} (a1 : Nat) (a2 : Run) (a3 : StreamSrc) (a4 : Nat) (h : Kept s0 s) : Kept s0
    (State.feedSlice s a1 a2 a3 a4).1 := by
  unfold State.feedSlice
  repeat' first
    | intro _
    | (with_reducible first
        | exact h | exact trivial | assumption | apply State.read_kept | apply State.modRun_kept | apply kept_next
        | apply kept_some | apply kept_none | apply kept_wait | apply kept_moved | apply kept_ended | apply kept_ite
        | apply kept_ite1 | apply kept_ite2 | apply kept_optite | apply kept_turnite | apply kept_foldl | apply kept_foldl1
        | apply kept_forEach | apply kept_getD)
    | dsimp only | split
    | (with_reducible first
        | refine kept_pair1 (by assumption) ?_ | refine kept_pair2 (by assumption) ?_ | refine kept_opt (by assumption) ?_
        | refine kept_turnM (by assumption) ?_ | refine kept_turnE (by assumption) ?_ | refine kept_res (by assumption) ?_)

theorem State.feedEnds_kept {s0 s : State} (a1 : Nat) (a2 : Run) (h : Kept s0 s) : Kept s0 (State.feedEnds s a1 a2) := by
  unfold State.feedEnds
  repeat' first
    | intro _
    | (with_reducible first
        | exact h | exact trivial | assumption | apply State.releaseReads_kept | apply kept_next | apply kept_some
        | apply kept_none | apply kept_wait | apply kept_moved | apply kept_ended | apply kept_ite | apply kept_ite1
        | apply kept_ite2 | apply kept_optite | apply kept_turnite | apply kept_foldl | apply kept_foldl1
        | apply kept_forEach | apply kept_getD)
    | dsimp only | split
    | (with_reducible first
        | refine kept_pair1 (by assumption) ?_ | refine kept_pair2 (by assumption) ?_ | refine kept_opt (by assumption) ?_
        | refine kept_turnM (by assumption) ?_ | refine kept_turnE (by assumption) ?_ | refine kept_res (by assumption) ?_)

theorem State.feedTo_kept {s0 s : State} (a1 : Nat) (a2 : Run) (a3 : StreamSrc) (a4 : Nat) (h : Kept s0 s) : Kept s0
    (State.feedTo s a1 a2 a3 a4).1 := by
  unfold State.feedTo
  repeat' first
    | intro _
    | (with_reducible first
        | exact h | exact trivial | assumption | apply State.feedSlice_kept | apply State.feedEnds_kept | apply kept_next
        | apply kept_some | apply kept_none | apply kept_wait | apply kept_moved | apply kept_ended | apply kept_ite
        | apply kept_ite1 | apply kept_ite2 | apply kept_optite | apply kept_turnite | apply kept_foldl | apply kept_foldl1
        | apply kept_forEach | apply kept_getD)
    | dsimp only | split
    | (with_reducible first
        | refine kept_pair1 (by assumption) ?_ | refine kept_pair2 (by assumption) ?_ | refine kept_opt (by assumption) ?_
        | refine kept_turnM (by assumption) ?_ | refine kept_turnE (by assumption) ?_ | refine kept_res (by assumption) ?_)

theorem State.endJoined_kept {s0 s : State} (a1 : Nat) (a2 : Run) (a3 : BitVec 16) (h : Kept s0 s) :
    Kept s0 (s.endJoined a1 a2 a3) := by
  unfold State.endJoined
  repeat' first
    | intro _
    | (with_reducible first
        | exact h | exact trivial | assumption | apply kept_foldl | apply kept_foldl1 | apply State.modLcore_kept
        | apply State.dropJob_kept)

theorem State.land_kept {s0 s : State} (a1 : Nat) (a2 : List Landing) (h : Kept s0 s) : Kept s0 (State.land s a1 a2) := by
  unfold State.land
  repeat' first
    | intro _
    | (with_reducible first
        | exact h | exact trivial | assumption | apply State.ledgerAdd_kept | apply kept_next | apply kept_some
        | apply kept_none | apply kept_wait | apply kept_moved | apply kept_ended | apply kept_ite | apply kept_ite1
        | apply kept_ite2 | apply kept_optite | apply kept_turnite | apply kept_foldl | apply kept_foldl1
        | apply kept_forEach | apply kept_getD)
    | dsimp only | split
    | (with_reducible first
        | refine kept_pair1 (by assumption) ?_ | refine kept_pair2 (by assumption) ?_ | refine kept_opt (by assumption) ?_
        | refine kept_turnM (by assumption) ?_ | refine kept_turnE (by assumption) ?_ | refine kept_res (by assumption) ?_)

theorem State.failCompare_kept {s0 s : State} (a1 : Nat) (a2 : Run) (a3 : Nat) (a4 : Nat) (a5 : Bool) (h : Kept s0 s) : Kept
    s0 (State.failCompare s a1 a2 a3 a4 a5) := by
  unfold State.failCompare
  repeat' first
    | intro _
    | (with_reducible first
        | exact h | exact trivial | assumption | apply State.raiseFence_kept | apply State.modLcore_kept | apply kept_next
        | apply kept_some | apply kept_none | apply kept_wait | apply kept_moved | apply kept_ended | apply kept_ite
        | apply kept_ite1 | apply kept_ite2 | apply kept_optite | apply kept_turnite | apply kept_foldl | apply kept_foldl1
        | apply kept_forEach | apply kept_getD)
    | dsimp only | split
    | (with_reducible first
        | refine kept_pair1 (by assumption) ?_ | refine kept_pair2 (by assumption) ?_ | refine kept_opt (by assumption) ?_
        | refine kept_turnM (by assumption) ?_ | refine kept_turnE (by assumption) ?_ | refine kept_res (by assumption) ?_)

theorem State.runGoesOn_kept {s0 s : State} (a1 : Nat) (a2 : Job) (a3 : List Nat) (h : Kept s0 s) : Kept s0 (State.runGoesOn
    s a1 a2 a3) := by
  unfold State.runGoesOn
  repeat' first
    | intro _
    | (with_reducible first
        | exact h | exact trivial | assumption | apply State.modRun_kept | apply State.finishJob_kept
        | apply State.modLcore_kept | apply kept_next | apply kept_some | apply kept_none | apply kept_wait
        | apply kept_moved | apply kept_ended | apply kept_ite | apply kept_ite1 | apply kept_ite2 | apply kept_optite
        | apply kept_turnite | apply kept_foldl | apply kept_foldl1 | apply kept_forEach | apply kept_getD)
    | dsimp only | split
    | (with_reducible first
        | refine kept_pair1 (by assumption) ?_ | refine kept_pair2 (by assumption) ?_ | refine kept_opt (by assumption) ?_
        | refine kept_turnM (by assumption) ?_ | refine kept_turnE (by assumption) ?_ | refine kept_res (by assumption) ?_)

theorem State.together_kept {s0 s : State} (a1 : Nat) (a2 : Nat) (h : Kept s0 s) :
    Kept s0 (State.together s a1 a2).2 := by
  unfold State.together
  repeat' first
    | intro _
    | (with_reducible first
        | exact h | exact trivial | assumption | apply State.openValue_kept | apply kept_foldl | apply kept_foldl1
        | apply kept_forEach | apply eachUntil_kept | apply kept_next | apply kept_some | apply kept_none
        | apply kept_wait | apply kept_moved | apply kept_ended | apply kept_ite | apply kept_ite1 | apply kept_ite2
        | apply kept_optite | apply kept_turnite | apply kept_clear | apply kept_put)
    | dsimp only | split
    | (with_reducible first
        | refine kept_pair1 (by assumption) ?_
        | refine kept_pair2 (by assumption) ?_)

theorem State.feedGang_kept {s0 s : State} (a1 : Nat) (a2 : Nat) (h : Kept s0 s) :
    Kept s0 (State.feedGang s a1 a2).1 := by
  unfold State.feedGang
  repeat' first
    | intro _
    | (with_reducible first
        | exact h | exact trivial | assumption | apply State.feedTo_kept | apply VAcc.group_kept | apply kept_foldl
        | apply kept_foldl1 | apply kept_forEach | apply eachUntil_kept | apply kept_next | apply kept_some
        | apply kept_none | apply kept_wait | apply kept_moved | apply kept_ended | apply kept_ite | apply kept_ite1
        | apply kept_ite2 | apply kept_optite | apply kept_turnite | apply kept_clear | apply kept_put)
    | dsimp only | split
    | (with_reducible first
        | refine kept_pair1 (by assumption) ?_
        | refine kept_pair2 (by assumption) ?_
        | refine kept_opt (by assumption) ?_)

theorem State.feedGangs_kept {s0 s : State} (a1 : Nat) (a2 : List Nat) (h : Kept s0 s) :
    Kept s0 (State.feedGangs s a1 a2).1 := by
  unfold State.feedGangs
  repeat' first
    | intro _
    | (with_reducible first
        | exact h | exact trivial | assumption | apply State.endJoined_kept | apply State.feedGang_kept
        | apply kept_foldl | apply kept_foldl1 | apply kept_forEach | apply eachUntil_kept | apply kept_next
        | apply kept_some | apply kept_none | apply kept_wait | apply kept_moved | apply kept_ended | apply kept_ite
        | apply kept_ite1 | apply kept_ite2 | apply kept_optite | apply kept_turnite | apply kept_clear
        | apply kept_put)
    | dsimp only | split
    | (with_reducible first
        | refine kept_pair1 (by assumption) ?_
        | refine kept_pair2 (by assumption) ?_
        | refine kept_opt (by assumption) ?_)

theorem State.countSlices_kept {s0 s : State} (a1 : Nat) (a2 : List GangOut) (h : Kept s0 s) :
    Kept s0 (State.countSlices s a1 a2) := by
  unfold State.countSlices
  repeat' first
    | intro _
    | (with_reducible first
        | exact h | exact trivial | assumption | apply SEng.run_kept | apply State.modLcore_kept
        | apply State.countWork_kept | apply kept_foldl | apply kept_foldl1 | apply kept_forEach
        | apply eachUntil_kept | apply kept_next | apply kept_some | apply kept_none | apply kept_wait
        | apply kept_moved | apply kept_ended | apply kept_ite | apply kept_ite1 | apply kept_ite2
        | apply kept_optite | apply kept_turnite | apply kept_clear | apply kept_put)
    | dsimp only | split
    | (with_reducible first
        | refine kept_pair1 (by assumption) ?_
        | refine kept_pair2 (by assumption) ?_)

theorem State.promote_kept {s0 s : State} (a1 : Nat) (a2 : List Nat) (h : Kept s0 s) :
    Kept s0 (State.promote s a1 a2) := by
  unfold State.promote
  repeat' first
    | intro _
    | (with_reducible first
        | exact h | exact trivial | assumption | apply State.land_kept | apply State.failCompare_kept
        | apply State.runGoesOn_kept | apply SEng.run_kept | apply State.modLcore_kept
        | apply State.takeCheckFault_kept | apply State.feedGangs_kept | apply State.countSlices_kept
        | apply kept_foldl | apply kept_foldl1 | apply kept_forEach | apply eachUntil_kept | apply kept_next
        | apply kept_some | apply kept_none | apply kept_wait | apply kept_moved | apply kept_ended | apply kept_ite
        | apply kept_ite1 | apply kept_ite2 | apply kept_optite | apply kept_turnite | apply kept_clear
        | apply kept_put)
    | dsimp only | split
    | (with_reducible first
        | refine kept_pair1 (by assumption) ?_
        | refine kept_pair2 (by assumption) ?_)

theorem execPromotion_kept {s0 s : State} (a1 : Nat) (a2 : Nat) (h : Kept s0 s) : KeptRes s0 (execPromotion a1 a2 s) := by
  unfold execPromotion
  repeat' first
    | intro _
    | (with_reducible first
        | exact h | exact trivial | assumption | apply State.together_kept | apply State.promote_kept
        | apply kept_foldl | apply kept_foldl1 | apply kept_forEach | apply eachUntil_kept | apply kept_next
        | apply kept_some | apply kept_none | apply kept_wait | apply kept_moved | apply kept_ended | apply kept_ite
        | apply kept_ite1 | apply kept_ite2 | apply kept_optite | apply kept_turnite | apply kept_clear
        | apply kept_put)
    | dsimp only | split
    | (with_reducible first
        | refine kept_pair1 (by assumption) ?_
        | refine kept_pair2 (by assumption) ?_
        | refine kept_opt (by assumption) ?_
        | refine kept_res (by assumption) ?_)

/-! ### Quant.lean -/

theorem State.modQuant_kept {s0 s : State} (a1 : Nat) (a2 : Quant → Quant) (h : Kept s0 s) : Kept s0 (s.modQuant a1 a2) := by
  unfold State.modQuant
  repeat' with_reducible first | assumption | apply State.modLcore_kept

theorem State.quantSource_kept {s0 s : State} (a1 : Job) (a2 : Nat) (a3 : Nat) (h : Kept s0 s) :
    Kept s0 (s.quantSource a1 a2 a3).1 := by
  unfold State.quantSource
  repeat' with_reducible first | assumption | apply State.read_kept

theorem State.quantWrite_kept {s0 s : State} (a1 : Job) (a2 : Nat) (a3 : Nat) (a4 : QScale) (a5 : List Coded) (h : Kept s0 s) :
    Kept s0 (s.quantWrite a1 a2 a3 a4 a5).1 := by
  unfold State.quantWrite
  repeat' with_reducible first | assumption | apply State.write_kept

theorem QAcc.step_kept {s0 : State} (j : Job) (sc : Nat → QScale) (r : Nat) (a : QAcc) (x : Nat × Nat) (h : Kept s0 a.s) :
    Kept s0 (QAcc.step j sc r a x).s := by
  rw [QAcc.step]
  dsimp only
  have h1 := State.quantSource_kept j x.1 x.2 h
  split
  · exact h
  split
  · exact h1
  · exact State.quantWrite_kept _ _ _ _ _ h1

theorem State.quantAll_kept {s0 s : State} (j : Job) (sc : Nat → QScale) (r : Nat) (t : Stats) (h : Kept s0 s) :
    Kept s0 (s.quantAll j sc r t).s := by
  rw [State.quantAll]
  exact kept_foldlBy (fun a x ha => QAcc.step_kept j sc r a x ha) _ h

theorem QAcc.writeStats_kept {s0 : State} (a : QAcc) (j : Job) (h : Kept s0 a.s) : Kept s0 (a.writeStats j).s := by
  rw [QAcc.writeStats]
  dsimp only
  have h1 := fun w a bs => State.writeBytes_kept (s0 := s0) w a bs h
  split
  · exact h
  split
  · exact h1 _ _ _
  split
  · exact State.writeBytes_kept _ _ _ (h1 _ _ _)
  · exact h1 _ _ _

theorem State.dynamicRead_kept {s0 s : State} (a1 : Job) (h : Kept s0 s) : Kept s0 (s.dynamicRead a1).1 := by
  unfold State.dynamicRead
  repeat' first
    | intro _
    | (with_reducible first | assumption | apply kept_foldl1 | apply State.quantSource_kept | apply State.modQuant_kept)
    | dsimp only | split

theorem State.quantEnd_kept {s0 s : State} (a1 : Job) (a2 : BitVec 16) (h : Kept s0 s) : Kept s0 (s.quantEnd a1 a2) := by
  unfold State.quantEnd
  repeat' with_reducible first | assumption | apply State.dropJob_kept | apply State.modQuant_kept

theorem State.quantLeave_kept {s0 s : State} (a1 : Job) (a2 : BitVec 16) (h : Kept s0 s) : Kept s0 (s.quantLeave a1 a2) := by
  unfold State.quantLeave
  repeat' with_reducible first
    | assumption | apply State.modQuant_kept | apply State.endJob_kept | apply kept_foldl | apply State.releaseJob_kept

theorem State.releasePart_kept {s0 s : State} (a1 : Job) (h : Kept s0 s) : Kept s0 (s.releasePart a1) := by
  unfold State.releasePart
  repeat' with_reducible first | assumption | apply State.modLcore_kept

theorem State.quantServe_kept {s0 s : State} (j : Job) (h : Kept s0 s) : Kept s0 (s.quantServe j) := by
  rw [State.quantServe]
  dsimp only
  generalize hr : (if qDynamic j.cmd = true then _ else _ : State × BitVec 16) = r
  have h1 : Kept s0 r.1 := by
    rw [← hr]
    split
    · exact State.dynamicRead_kept _ h
    · with_reducible refine @State.modQuant_kept s0 _ _ _ ?_
      exact QAcc.writeStats_kept _ _ (State.quantAll_kept _ _ _ _ h)
  exact kept_ite (State.quantEnd_kept _ _ h1)
    (kept_ite (State.quantLeave_kept _ _ h1) (kept_ite (State.releasePart_kept _ h1) h1))

theorem execQuantise_kept {s0 s : State} (a0 : Nat) (h : Kept s0 s) : KeptRes s0 (execQuantise a0 s) := by
  unfold execQuantise
  repeat' first
    | intro _
    | (with_reducible first
        | assumption | apply State.tryIssue_kept | apply State.enterJob_kept | apply State.issue_kept
        | apply State.modQuant_kept | apply State.quantServe_kept | apply kept_next)

theorem execQuantiseCommandComplete_kept {s0 s : State} (a0 : Nat) (h : Kept s0 s) :
    KeptRes s0 (execQuantiseCommandComplete a0 s) := by
  unfold execQuantiseCommandComplete
  repeat' first
    | (with_reducible first
        | assumption | apply State.modQuant_kept | apply State.fillSlots_kept | apply State.finish_kept
        | apply State.releasePart_kept | apply kept_next)
    | split

theorem State.quantEvent_kept {s0 s : State} (a1 : Job) (a2 : Nat) (a3 : BitVec 16) (h : Kept s0 s) :
    Kept s0 (s.quantEvent a1 a2 a3) := by
  unfold State.quantEvent
  repeat' first | (with_reducible first | assumption | apply State.raise_kept) | dsimp only | split

theorem State.countFlat_kept {s0 s : State} (a1 : Job) (a2 : Option Sys2Proof.Word) (h : Kept s0 s) :
    Kept s0 (s.countFlat a1 a2) := by
  unfold State.countFlat
  repeat' first | (with_reducible first | assumption | apply State.quantEvent_kept | apply State.modQuant_kept) | split

theorem State.requantise_kept {s0 s : State} (j : Job) (sc : Nat → QScale) (r : Nat) (t : Stats) (f : Bool) (h : Kept s0 s) :
    Kept s0 (s.requantise j sc r t f).1 := by
  rw [State.requantise]
  refine kept_foldl1 (fun a c ha => ?_) _ h
  dsimp only
  have h1 := State.quantAll_kept c sc r a.2.1 ha
  split
  · exact ha
  · exact kept_iteBy (p := QAcc.s) (QAcc.writeStats_kept _ _ h1) h1

theorem State.setVerdict_kept {s0 s : State} (a1 : Job) (a2 : Stats) (a3 : Nat) (a4 : QScale) (a5 : Nat) (h : Kept s0 s) :
    Kept s0 (s.setVerdict a1 a2 a3 a4 a5) := by
  unfold State.setVerdict
  repeat' with_reducible first | assumption | apply State.modQuant_kept

theorem State.exchanged_kept {s0 s : State} (a1 : Job) (a2 : BitVec 16) (h : Kept s0 s) : Kept s0 (s.exchanged a1 a2) := by
  unfold State.exchanged
  repeat' first | (with_reducible first | assumption | apply State.quantEnd_kept | apply State.modQuant_kept) | split

theorem State.judge_kept {s0 s : State} (a1 : Bool) (a2 : Stats) (a3 : Job) (h : Kept s0 s) : Kept s0 (s.judge a1 a2 a3) := by
  unfold State.judge
  repeat' first
    | (with_reducible first
        | assumption | apply State.modQuant_kept | apply State.quantEvent_kept | apply State.exchanged_kept
        | apply State.setVerdict_kept | apply State.countFlat_kept | apply State.requantise_kept | apply kept_ite)
    | split

theorem State.exchangeDynamic_kept {s0 s : State} (a1 : List Job) (a2 : Job) (h : Kept s0 s) :
    Kept s0 (s.exchangeDynamic a1 a2) := by
  unfold State.exchangeDynamic
  repeat' first
    | intro _
    | (with_reducible first
        | assumption | apply kept_foldl | apply kept_foldl1 | apply State.countFlat_kept | apply State.requantise_kept
        | apply State.modQuant_kept | apply State.quantEvent_kept | apply State.exchanged_kept)
    | split

theorem execQuantExchange_kept {s0 s : State} (a0 : Nat) (a1 : Nat) (h : Kept s0 s) :
    KeptRes s0 (execQuantExchange a0 a1 s) := by
  unfold execQuantExchange
  repeat' first
    | intro _
    | (with_reducible first
        | assumption | apply kept_foldl | apply State.quantLeave_kept | apply State.exchangeDynamic_kept
        | apply State.judge_kept | apply kept_next)
    | split

theorem execQuantExchangeTimeout_kept {s0 s : State} (a0 : Nat) (h : Kept s0 s) :
    KeptRes s0 (execQuantExchangeTimeout a0 s) := by
  unfold execQuantExchangeTimeout
  repeat' first
    | (with_reducible first | assumption | apply State.quantLeave_kept | apply State.modQuant_kept | apply kept_next)
    | split

theorem State.settle_kept {s0 s : State} (a1 : Nat) (a2 : Job) (h : Kept s0 s) : Kept s0 (s.settle a1 a2) := by
  unfold State.settle
  repeat' first
    | intro _
    | (with_reducible first
        | exact h | exact trivial | assumption | apply State.modQuant_kept | apply State.countFlat_kept
        | apply State.writeBytes_kept | apply State.fillSlots_kept | apply State.releaseJob_kept
        | apply State.dropJob_kept | apply State.strike_kept | apply State.finish_kept | apply kept_foldl
        | apply kept_foldl1 | apply kept_forEach | apply eachUntil_kept | apply kept_next | apply kept_some
        | apply kept_none | apply kept_wait | apply kept_moved | apply kept_ended | apply kept_ite | apply kept_ite1
        | apply kept_ite2 | apply kept_optite | apply kept_turnite | apply kept_clear | apply kept_put)
    | dsimp only | split
    | (with_reducible first
        | refine kept_pair1 (by assumption) ?_
        | refine kept_pair2 (by assumption) ?_
        | refine kept_opt (by assumption) ?_)

theorem execQuantSettle_kept {s0 s : State} (a0 : Nat) (h : Kept s0 s) : KeptRes s0 (execQuantSettle a0 s) := by
  unfold execQuantSettle
  repeat' first | (with_reducible first | assumption | apply State.settle_kept | apply kept_next) | split

theorem execScaleLoad_kept {s0 s : State} (a1 : Nat) (h : Kept s0 s) : KeptRes s0 (execScaleLoad a1 s) := by
  unfold execScaleLoad
  repeat' first
    | intro _
    | (with_reducible first
        | exact h | exact trivial | assumption | apply State.tryIssue_kept | apply State.enterJob_kept
        | apply State.issue_kept | apply State.read_kept | apply State.dropJob_kept | apply State.endJob_kept
        | apply State.strike_kept | apply State.modQuant_kept | apply State.releaseReads_kept | apply kept_next
        | apply kept_some | apply kept_none | apply kept_wait | apply kept_moved | apply kept_ended | apply kept_ite
        | apply kept_ite1 | apply kept_ite2 | apply kept_optite | apply kept_turnite | apply kept_foldl | apply kept_foldl1
        | apply kept_forEach | apply kept_getD)
    | dsimp only | split
    | (with_reducible first
        | refine kept_pair1 (by assumption) ?_ | refine kept_pair2 (by assumption) ?_ | refine kept_opt (by assumption) ?_
        | refine kept_turnM (by assumption) ?_ | refine kept_turnE (by assumption) ?_ | refine kept_res (by assumption) ?_)

theorem execStatsRead_kept {s0 s : State} (a0 : Nat) (h : Kept s0 s) : KeptRes s0 (execStatsRead a0 s) := by
  unfold execStatsRead
  repeat' first
    | intro _
    | (with_reducible first
        | exact h | exact trivial | assumption | apply State.modQuant_kept | apply State.openValue_kept
        | apply State.writeBytes_kept | apply State.enterJob_kept | apply State.releaseJob_kept
        | apply State.dropJob_kept | apply State.issue_kept | apply State.tryIssue_kept | apply kept_foldl
        | apply kept_foldl1 | apply kept_forEach | apply eachUntil_kept | apply kept_next | apply kept_some
        | apply kept_none | apply kept_wait | apply kept_moved | apply kept_ended | apply kept_ite | apply kept_ite1
        | apply kept_ite2 | apply kept_optite | apply kept_turnite | apply kept_clear | apply kept_put)
    | dsimp only | split
    | (with_reducible first
        | refine kept_pair1 (by assumption) ?_
        | refine kept_pair2 (by assumption) ?_
        | refine kept_res (by assumption) ?_)

theorem State.tableComplete_kept {s0 s : State} (a1 : Nat) (a2 : QuantKind) (a3 : Bool) (h : Kept s0 s) :
    Kept s0 (s.tableComplete a1 a2 a3) := by
  unfold State.tableComplete
  repeat' first | (with_reducible first | assumption | apply State.finishJob_kept | apply State.modQuant_kept) | split

theorem execScaleLoadComplete_kept {s0 s : State} (a0 : Nat) (h : Kept s0 s) : KeptRes s0 (execScaleLoadComplete a0 s) := by
  unfold execScaleLoadComplete
  repeat' with_reducible first | assumption | apply State.tableComplete_kept | apply kept_next

theorem execStatsReadComplete_kept {s0 s : State} (a0 : Nat) (h : Kept s0 s) : KeptRes s0 (execStatsReadComplete a0 s) := by
  unfold execStatsReadComplete
  repeat' with_reducible first | assumption | apply State.tableComplete_kept | apply kept_next

/-! ### Rail.lean -/

theorem execRailLaunch_kept {s0 s : State} (a1 : Nat) (h : Kept s0 s) : KeptRes s0 (execRailLaunch a1 s) := by
  unfold execRailLaunch
  repeat' first
    | intro _
    | (with_reducible first
        | exact h | exact trivial | assumption | apply State.tryIssue_kept | apply setRail_kept | apply State.issue_kept
        | apply State.modStream_kept | apply kept_next | apply kept_some | apply kept_none | apply kept_wait
        | apply kept_moved | apply kept_ended | apply kept_ite | apply kept_ite1 | apply kept_ite2 | apply kept_optite
        | apply kept_turnite | apply kept_foldl | apply kept_foldl1 | apply kept_forEach | apply kept_getD)
    | dsimp only | split
    | (with_reducible first
        | refine kept_pair1 (by assumption) ?_ | refine kept_pair2 (by assumption) ?_ | refine kept_opt (by assumption) ?_
        | refine kept_turnM (by assumption) ?_ | refine kept_turnE (by assumption) ?_ | refine kept_res (by assumption) ?_)

theorem State.startTake_kept {s0 s : State} (a1 : Job) (a2 : RunAhead) (h : Kept s0 s) : Kept s0 (State.startTake s a1 a2) :=
    by
  unfold State.startTake
  repeat' first
    | intro _
    | (with_reducible first
        | exact h | exact trivial | assumption | apply State.modLcore_kept | apply kept_next | apply kept_some
        | apply kept_none | apply kept_wait | apply kept_moved | apply kept_ended | apply kept_ite | apply kept_ite1
        | apply kept_ite2 | apply kept_optite | apply kept_turnite | apply kept_foldl | apply kept_foldl1
        | apply kept_forEach | apply kept_getD)
    | dsimp only | split
    | (with_reducible first
        | refine kept_pair1 (by assumption) ?_ | refine kept_pair2 (by assumption) ?_ | refine kept_opt (by assumption) ?_
        | refine kept_turnM (by assumption) ?_ | refine kept_turnE (by assumption) ?_ | refine kept_res (by assumption) ?_)

theorem State.takeTry_kept {s0 s : State} (a1 : Nat) (h : Kept s0 s) : Kept s0 (State.takeTry s a1) := by
  unfold State.takeTry
  repeat' first
    | intro _
    | (with_reducible first
        | exact h | exact trivial | assumption | apply State.tryIssue_kept | apply State.startTake_kept
        | apply State.issue_kept | apply kept_next | apply kept_some | apply kept_none | apply kept_wait | apply kept_moved
        | apply kept_ended | apply kept_ite | apply kept_ite1 | apply kept_ite2 | apply kept_optite | apply kept_turnite
        | apply kept_foldl | apply kept_foldl1 | apply kept_forEach | apply kept_getD)
    | dsimp only | split
    | (with_reducible first
        | refine kept_pair1 (by assumption) ?_ | refine kept_pair2 (by assumption) ?_ | refine kept_opt (by assumption) ?_
        | refine kept_turnM (by assumption) ?_ | refine kept_turnE (by assumption) ?_ | refine kept_res (by assumption) ?_)

theorem execRailTake_kept {s0 s : State} (a1 : Nat) (h : Kept s0 s) : KeptRes s0 (execRailTake a1 s) := by
  unfold execRailTake
  repeat' first
    | intro _
    | (with_reducible first
        | exact h | exact trivial | assumption | apply State.takeTry_kept | apply kept_next | apply kept_some
        | apply kept_none | apply kept_wait | apply kept_moved | apply kept_ended | apply kept_ite | apply kept_ite1
        | apply kept_ite2 | apply kept_optite | apply kept_turnite | apply kept_foldl | apply kept_foldl1
        | apply kept_forEach | apply kept_getD)
    | dsimp only | split
    | (with_reducible first
        | refine kept_pair1 (by assumption) ?_ | refine kept_pair2 (by assumption) ?_ | refine kept_opt (by assumption) ?_
        | refine kept_turnM (by assumption) ?_ | refine kept_turnE (by assumption) ?_ | refine kept_res (by assumption) ?_)

theorem execTakeStart_kept {s0 s : State} (a1 a2 : Nat) (h : Kept s0 s) : KeptRes s0 (execTakeStart a1 a2 s) := by
  unfold execTakeStart
  repeat' first
    | intro _
    | (with_reducible first
        | exact h | exact trivial | assumption | apply State.takeTry_kept | apply kept_next | apply kept_some
        | apply kept_none | apply kept_wait | apply kept_moved | apply kept_ended | apply kept_ite | apply kept_ite1
        | apply kept_ite2 | apply kept_optite | apply kept_turnite | apply kept_foldl | apply kept_foldl1
        | apply kept_forEach | apply kept_getD)
    | dsimp only | split
    | (with_reducible first
        | refine kept_pair1 (by assumption) ?_ | refine kept_pair2 (by assumption) ?_ | refine kept_opt (by assumption) ?_
        | refine kept_turnM (by assumption) ?_ | refine kept_turnE (by assumption) ?_ | refine kept_res (by assumption) ?_)

theorem State.takeBlock_kept {s0 s : State} (a1 : Nat) (a2 : Nat) (a3 : Nat) (a4 : Sys2Proof.NMap Sys2Proof.Byte) (a5 : Bool)
    (a6 : Nat) (h : Kept s0 s) : Kept s0 (s.takeBlock a1 a2 a3 a4 a5 a6) := by
  unfold State.takeBlock
  repeat' first
    | intro _
    | (with_reducible first
        | assumption | apply kept_foldl | apply State.loadCorrected_kept | apply State.loadRows_kept | apply State.loadBad_kept
        | apply State.modLcore_kept)
    | split

theorem execRailBlockSend_kept {s0 s : State} (a1 : Nat) (h : Kept s0 s) : KeptRes s0 (execRailBlockSend a1 s) := by
  unfold execRailBlockSend
  repeat' first
    | intro _
    | (with_reducible first
        | exact h | exact trivial | assumption | apply State.noteRead_kept | apply State.modDie_kept
        | apply State.takeInjection_kept | apply State.modRegion_kept | apply State.takeBlock_kept
        | apply State.modStream_kept | apply kept_next | apply kept_some | apply kept_none | apply kept_wait
        | apply kept_moved | apply kept_ended | apply kept_ite | apply kept_ite1 | apply kept_ite2 | apply kept_optite
        | apply kept_turnite | apply kept_foldl | apply kept_foldl1 | apply kept_forEach | apply kept_getD)
    | dsimp only | split
    | (with_reducible first
        | refine kept_pair1 (by assumption) ?_ | refine kept_pair2 (by assumption) ?_ | refine kept_opt (by assumption) ?_
        | refine kept_turnM (by assumption) ?_ | refine kept_turnE (by assumption) ?_ | refine kept_res (by assumption) ?_)

theorem execRailTakeComplete_kept {s0 s : State} (a1 : Nat) (a2 : Nat) (h : Kept s0 s) : KeptRes s0 (execRailTakeComplete a1
    a2 s) := by
  unfold execRailTakeComplete
  repeat' first
    | intro _
    | (with_reducible first
        | exact h | exact trivial | assumption | apply State.modLcore_kept | apply State.endJob_kept
        | apply State.finishJob_kept | apply State.sweepSwaps_kept | apply State.leaveStream_kept | apply kept_next
        | apply kept_some | apply kept_none | apply kept_wait | apply kept_moved | apply kept_ended | apply kept_ite
        | apply kept_ite1 | apply kept_ite2 | apply kept_optite | apply kept_turnite | apply kept_foldl | apply kept_foldl1
        | apply kept_forEach | apply kept_getD)
    | dsimp only | split
    | (with_reducible first
        | refine kept_pair1 (by assumption) ?_ | refine kept_pair2 (by assumption) ?_ | refine kept_opt (by assumption) ?_
        | refine kept_turnM (by assumption) ?_ | refine kept_turnE (by assumption) ?_ | refine kept_res (by assumption) ?_)

theorem State.dropCancelled_kept {s0 s : State} (a1 : Nat) (a2 : List Nat) (h : Kept s0 s) :
    Kept s0 (s.dropCancelled a1 a2) := by
  unfold State.dropCancelled
  repeat' first | intro _ | (with_reducible first | assumption | apply kept_foldl | apply State.modLcore_kept)

theorem State.closeStream_kept {s0 s : State} (a1 : Nat) (h : Kept s0 s) : Kept s0 (State.closeStream s a1) := by
  unfold State.closeStream
  repeat' first
    | intro _
    | (with_reducible first
        | exact h | exact trivial | assumption | apply State.modStream_kept | apply State.dropCancelled_kept
        | apply kept_next | apply kept_some | apply kept_none | apply kept_wait | apply kept_moved | apply kept_ended
        | apply kept_ite | apply kept_ite1 | apply kept_ite2 | apply kept_optite | apply kept_turnite | apply kept_foldl
        | apply kept_foldl1 | apply kept_forEach | apply kept_getD)
    | dsimp only | split
    | (with_reducible first
        | refine kept_pair1 (by assumption) ?_ | refine kept_pair2 (by assumption) ?_ | refine kept_opt (by assumption) ?_
        | refine kept_turnM (by assumption) ?_ | refine kept_turnE (by assumption) ?_ | refine kept_res (by assumption) ?_)

theorem execRailStreamClose_kept {s0 s : State} (a1 : Nat) (h : Kept s0 s) : KeptRes s0 (execRailStreamClose a1 s) := by
  unfold execRailStreamClose
  repeat' first
    | intro _
    | (with_reducible first
        | exact h | exact trivial | assumption | apply State.finish_kept | apply State.closeStream_kept | apply kept_next
        | apply kept_some | apply kept_none | apply kept_wait | apply kept_moved | apply kept_ended | apply kept_ite
        | apply kept_ite1 | apply kept_ite2 | apply kept_optite | apply kept_turnite | apply kept_foldl | apply kept_foldl1
        | apply kept_forEach | apply kept_getD)
    | dsimp only | split
    | (with_reducible first
        | refine kept_pair1 (by assumption) ?_ | refine kept_pair2 (by assumption) ?_ | refine kept_opt (by assumption) ?_
        | refine kept_turnM (by assumption) ?_ | refine kept_turnE (by assumption) ?_ | refine kept_res (by assumption) ?_)

theorem State.abortQueue_kept {s0 s : State} (a1 : Nat) (a2 : Nat) (h : Kept s0 s) : Kept s0 (State.abortQueue s a1 a2) := by
  unfold State.abortQueue
  repeat' first
    | intro _
    | (with_reducible first
        | exact h | exact trivial | assumption | apply State.stopQueue_kept | apply State.raise_kept | apply kept_next
        | apply kept_some | apply kept_none | apply kept_wait | apply kept_moved | apply kept_ended | apply kept_ite
        | apply kept_ite1 | apply kept_ite2 | apply kept_optite | apply kept_turnite | apply kept_foldl | apply kept_foldl1
        | apply kept_forEach | apply kept_getD)
    | dsimp only | split
    | (with_reducible first
        | refine kept_pair1 (by assumption) ?_ | refine kept_pair2 (by assumption) ?_ | refine kept_opt (by assumption) ?_
        | refine kept_turnM (by assumption) ?_ | refine kept_turnE (by assumption) ?_ | refine kept_res (by assumption) ?_)

theorem execRailStallTimeout_kept {s0 s : State} (a1 : Nat) (h : Kept s0 s) : KeptRes s0 (execRailStallTimeout a1 s) := by
  unfold execRailStallTimeout
  repeat' first
    | intro _
    | (with_reducible first
        | exact h | exact trivial | assumption | apply setRail_kept | apply State.raise_kept | apply State.endTakes_kept
        | apply State.closeStream_kept | apply State.abortQueue_kept | apply State.modQueue_kept
        | apply State.sweepSwaps_kept | apply kept_next | apply kept_some | apply kept_none | apply kept_wait
        | apply kept_moved | apply kept_ended | apply kept_ite | apply kept_ite1 | apply kept_ite2 | apply kept_optite
        | apply kept_turnite | apply kept_foldl | apply kept_foldl1 | apply kept_forEach | apply kept_getD)
    | dsimp only | split
    | (with_reducible first
        | refine kept_pair1 (by assumption) ?_ | refine kept_pair2 (by assumption) ?_ | refine kept_opt (by assumption) ?_
        | refine kept_turnM (by assumption) ?_ | refine kept_turnE (by assumption) ?_ | refine kept_res (by assumption) ?_)

/-! ### Vector.lean -/

theorem State.modVec_kept {s0 s : State} (a1 : Nat) (a2 : Vec → Vec) (h : Kept s0 s) : Kept s0 (s.modVec a1 a2) := by
  unfold State.modVec
  repeat' first | intro _ | (with_reducible first | exact h | exact trivial | assumption | apply State.modLcore_kept)

theorem VAcc.put_kept {s0 : State} (j : Job) (a : VAcc) (w : VWrite) (h : Kept s0 a.s) : Kept s0 (VAcc.put j a w).s := by
  rw [VAcc.put]
  dsimp only
  have hf : Kept s0 (if checkedOp (vOp j.cmd) = true then a.s.takeCheckFault (a.s.pgL (j.q / 4) bVector) else (a.s, false)).1 :=
    kept_ite1 (State.takeCheckFault_kept _ h) h
  generalize (if checkedOp (vOp j.cmd) = true then a.s.takeCheckFault (a.s.pgL (j.q / 4) bVector) else (a.s, false)) = f at hf ⊢
  have hw := kept_foldl1 (s0 := s0) (f := fun (r : State × BitVec 16) (p : Nat × List Byte) =>
      if r.2 ≠ 0 then r else r.1.writeBytes (vecWho j.q) (scratchAddr (j.q / 4) p.1) p.2) (x := (f.1, 0))
    (fun r p hr => kept_ite1 hr (State.writeBytes_kept _ _ _ hr)) w.pieces hf
  refine kept_iteBy h (kept_iteBy (State.raiseFence_kept _ _ _ _ _ (State.modVec_kept _ _ hf)) (kept_iteBy hw ?_))
  exact State.raiseEach_kept _ _ _ _ _ (State.raiseEach_kept _ _ _ _ _ (State.modVec_kept _ _ hw))

theorem VAcc.flush_kept {s0 : State} (j : Job) (k : Nat) (a : VAcc) (h : Kept s0 a.s) : Kept s0 (VAcc.flush j k a).s := by
  rw [VAcc.flush]
  exact kept_foldlBy (p := VAcc.s) (fun x w hx => VAcc.put_kept j x w hx) _ h

theorem VAcc.get_kept {s0 : State} (j : Job) (a : VAcc) (o n z : Nat) (h : Kept s0 a.s) : Kept s0 (VAcc.get j a o n z).1.s := by
  rw [VAcc.get]
  dsimp only
  have hr := State.read_kept (vecWho j.q) (scratchAddr (j.q / 4) o) (n * z) h
  exact kept_iteBy (p := fun x : VAcc × List Nat => x.1.s) h
    (kept_iteBy (p := fun x : VAcc × List Nat => x.1.s) (VAcc.flush_kept j _ { a with s := _ } hr) hr)

theorem VAcc.group_kept {s0 : State} (j : Job) (x : VAux) (v : Nat) (a : VAcc) (g : Nat) (h : Kept s0 a.s) :
    Kept s0 (VAcc.group j x v a g).s := by
  rw [VAcc.group]
  dsimp only
  generalize hra : VAcc.get j (VAcc.flush j (groupsLate j.cmd 0) a) _ _ _ = ra
  have h1 : Kept s0 ra.1.s := hra ▸ VAcc.get_kept _ _ _ _ _ (VAcc.flush_kept _ _ _ h)
  generalize hrb : (if usesB (vOp j.cmd) && vMode j.cmd == 0 then _ else _ : VAcc × List Nat) = rb
  have h2 : Kept s0 rb.1.s := by
    rw [← hrb]
    exact kept_iteBy (p := fun x : VAcc × List Nat => x.1.s) (VAcc.get_kept _ _ _ _ _ h1)
      (kept_iteBy (p := fun x : VAcc × List Nat => x.1.s) h1 h1)
  generalize hrm : (if vOp j.cmd = opAdamw then VAcc.get j rb.1 (x.mOff + _) _ _ else _ : VAcc × List Nat) = rm
  have h3 : Kept s0 rm.1.s := by
    rw [← hrm]
    exact kept_iteBy (p := fun x : VAcc × List Nat => x.1.s) (VAcc.get_kept _ _ _ _ _ h2) h2
  generalize hrv : (if vOp j.cmd = opAdamw then VAcc.get j rm.1 (x.vOff + _) _ _ else _ : VAcc × List Nat) = rv
  have h4 : Kept s0 rv.1.s := by
    rw [← hrv]
    exact kept_iteBy (p := fun x : VAcc × List Nat => x.1.s) (VAcc.get_kept _ _ _ _ _ h3) h3
  exact kept_iteBy h4 (kept_iteBy h4 h4)

theorem VAcc.vector_kept {s0 : State} (j : Job) (x : VAux) (a : VAcc) (v : Nat) (h : Kept s0 a.s) :
    Kept s0 (VAcc.vector j x a v).s := by
  rw [VAcc.vector]
  exact kept_foldlBy (p := VAcc.s) (fun y g hy => VAcc.group_kept j x v y g hy) _ (kept_iteBy (VAcc.get_kept _ _ _ _ _ h) h)

theorem State.vectorRun_kept {s0 s : State} (j : Job) (x : VAux) (h : Kept s0 s) : Kept s0 (s.vectorRun j x).s := by
  rw [State.vectorRun]
  exact VAcc.flush_kept _ _ _ (kept_foldlBy (p := VAcc.s) (fun y v hy => VAcc.vector_kept j x y v hy) _
    (kept_iteBy (VAcc.get_kept _ _ _ _ _ h) h))

theorem State.vectorAux_kept {s0 s : State} (a1 : Job) (h : Kept s0 s) : Kept s0 (s.vectorAux a1).1 := by
  unfold State.vectorAux
  repeat' first
    | intro _
    | (with_reducible first
        | exact h | exact trivial | assumption | apply State.read_kept | apply kept_next | apply kept_some | apply kept_none
        | apply kept_getD | apply kept_wait | apply kept_moved | apply kept_ended | apply kept_ite | apply kept_ite1)

theorem execVector_kept {s0 s : State} (q : Nat) (h : Kept s0 s) : KeptRes s0 (execVector q s) := by
  rw [execVector]
  refine kept_next (State.tryIssue_kept _ _ _ _ ?_ h)
  intro t e ht
  dsimp only
  have hx := State.vectorAux_kept (t.newJob q e) (State.enterJob_kept (t.newJob q e) (t.vectorAccess q e)
      (State.issue_kept q ht))
  have ha := fun ax => State.vectorRun_kept (t.newJob q e) ax hx
  exact kept_ite (State.dropJob_kept _ _ hx) (kept_ite (State.endJob_kept _ _ hx)
      (kept_ite (ha _) (kept_ite (State.dropJob_kept _ _ (ha _))
    (State.modVec_kept _ _ (State.releaseJob_kept _ (ha _))))))

theorem State.vecComplete_kept {s0 s : State} (a1 : Nat) (a2 : VecKind) (h : Kept s0 s) : Kept s0 (s.vecComplete a1 a2) := by
  unfold State.vecComplete
  repeat' first
    | intro _
    | (with_reducible first
        | exact h | exact trivial | assumption | apply State.finishJob_kept | apply State.modVec_kept | apply kept_next
        | apply kept_some | apply kept_none | apply kept_getD | apply kept_wait | apply kept_moved | apply kept_ended
        | apply kept_ite | apply kept_ite1 | apply kept_ite2 | apply kept_optite | apply kept_turnite)
    | dsimp only | split

theorem execVectorCommandComplete_kept {s0 s : State} (a0 : Nat) (h : Kept s0 s) :
    KeptRes s0 (execVectorCommandComplete a0 s) := by
  unfold execVectorCommandComplete
  repeat' first
    | intro _
    | (with_reducible first | exact h | exact trivial | assumption | apply State.vecComplete_kept | apply kept_next)

/-! ### Stream.lean -/

theorem SEng.stop_kept {s0 : State} (x : SEng) (c : BitVec 16) (h : Kept s0 x.s) : Kept s0 (x.stop c).s := kept_iteBy h h

theorem SEng.step_kept {s0 : State} (x : SEng) (f : SEng → SEng × StreamStep) (hf : ∀ y, Kept s0 y.s → Kept s0 (f y).1.s)
    (h : Kept s0 x.s) : Kept s0 (x.step f).1.s := by
  rw [SEng.step]
  split
  · exact h
  split
  · exact h
  · dsimp only
    split
    · exact hf _ h
    · exact hf _ h

theorem SEng.does_kept {s0 : State} (x : SEng) (f : SEng → SEng) (hf : ∀ y, Kept s0 y.s → Kept s0 (f y).s)
    (h : Kept s0 x.s) : Kept s0 (x.does f).s := by
  rw [SEng.does]
  exact SEng.step_kept x _ (fun y hy => hf y hy) h

theorem SEng.see_kept {s0 : State} (x1 : SEng) (a2 : List (Nat × Nat)) (hx1 : Kept s0 x1.s) : Kept s0 (SEng.see x1 a2).s := by
  unfold SEng.see
  repeat' first
    | intro _
    | (with_reducible first
        | assumption | exact trivial | assumption | apply kept_next | apply kept_some | apply kept_none | apply kept_wait
        | apply kept_moved | apply kept_ended | apply kept_ite | apply kept_ite1 | apply kept_ite2 | apply kept_optite
        | apply kept_turnite | apply kept_foldl | apply kept_foldl1 | apply kept_forEach | apply kept_getD)
    | dsimp only | split
    | (with_reducible first
        | refine kept_pair1 (by assumption) ?_ | refine kept_pair2 (by assumption) ?_ | refine kept_opt (by assumption) ?_
        | refine kept_turnM (by assumption) ?_ | refine kept_turnE (by assumption) ?_ | refine kept_res (by assumption) ?_)

theorem SEng.fetch_kept {s0 : State} (x1 : SEng) (a2 : Nat) (a3 : Nat) (hx1 : Kept s0 x1.s) : Kept s0 (SEng.fetch x1 a2
    a3).1.s := by
  unfold SEng.fetch
  repeat' first
    | intro _
    | (with_reducible first
        | assumption | exact trivial | assumption | apply SEng.stop_kept | apply State.read_kept | apply SEng.see_kept
        | apply kept_next | apply kept_some | apply kept_none | apply kept_wait | apply kept_moved | apply kept_ended
        | apply kept_ite | apply kept_ite1 | apply kept_ite2 | apply kept_optite | apply kept_turnite | apply kept_foldl
        | apply kept_foldl1 | apply kept_forEach | apply kept_getD)
    | dsimp only | split
    | (with_reducible first
        | refine kept_pair1 (by assumption) ?_ | refine kept_pair2 (by assumption) ?_ | refine kept_opt (by assumption) ?_
        | refine kept_turnM (by assumption) ?_ | refine kept_turnE (by assumption) ?_ | refine kept_res (by assumption) ?_)

theorem SEng.reach_kept {s0 : State} (x : SEng) (a len : Nat) (h : Kept s0 x.s) : Kept s0 (x.reach a len).s := by
  rw [SEng.reach]
  exact kept_iteBy (SEng.stop_kept _ _ h) (kept_iteBy (SEng.stop_kept _ _ h) h)

theorem SEng.getPart_kept {s0 : State} (x : SEng) (a len : Nat) (h : Kept s0 x.s) : Kept s0 (x.getPart a len).1.s := by
  rw [SEng.getPart]
  have hs := SEng.step_kept x (fun x => if (x.reach a len).ended then (x.reach a len, StreamStep.done) else
      (let r := x.fetch a len; (r.1, .data r.2)))
    (fun y hy => kept_iteBy (p := fun r : SEng × StreamStep => r.1.s) (SEng.reach_kept y a len hy) (SEng.fetch_kept y a len hy)) h
  split
  · rename_i e
    rw [e] at hs
    exact hs
  · rename_i e
    rw [e] at hs
    exact hs

theorem SEng.parts_kept {s0 : State} (f : SEng × NMap Byte → Nat × Nat → NMap Byte) (l : List (Nat × Nat))
    (r : SEng × NMap Byte) (h : Kept s0 r.1.s) :
    Kept s0 (l.foldl (fun r p => ((r.1.getPart p.1 p.2).1, f r p)) r).1.s := by
  induction l generalizing r with
  | nil => exact h
  | cons p l ih => exact ih _ (SEng.getPart_kept _ _ _ h)

theorem SEng.get_kept {s0 : State} (x : SEng) (a len : Nat) (h : Kept s0 x.s) : Kept s0 (x.get a len).1.s := by
  rw [SEng.get]
  refine kept_iteBy (p := fun r : SEng × NMap Byte => r.1.s) h ?_
  exact SEng.parts_kept _ _ (_, []) (kept_iteBy (SEng.reach_kept _ _ _ h) h)

theorem SEng.unordered_kept {s0 : State} (x : SEng) (a : Nat) (bs : List Byte) (h : Kept s0 x.s) :
    Kept s0 (x.unordered a bs).1.s := by
  rw [SEng.unordered]
  exact kept_iteBy (p := fun r : SEng × List Byte => r.1.s) (setOracle_kept h _) h

theorem SEng.store_kept {s0 : State} (x : SEng) (a : Nat) (bs : List Byte) (h : Kept s0 x.s) : Kept s0 (x.store a bs).s := by
  rw [SEng.store]
  have hw : Kept s0 (SEng.see { (x.unordered a bs).1 with
      s := ((x.unordered a bs).1.s.writeBytes ((x.unordered a bs).1.who a) a (x.unordered a bs).2).1
      later := (a, bs.length, true) :: (x.unordered a bs).1.later
      wrote := (x.unordered a bs).1.wrote ++ (slotsOf a bs.length).filter fun k => !(x.unordered a bs).1.wrote.contains k
      puts := if (x.unordered a bs).1.remote a then (x.unordered a bs).1.puts ++ [(a, bs.length)] else (x.unordered a bs).1.puts }
      (slotsOf a bs.length)).s :=
    SEng.see_kept _ _ (State.writeBytes_kept _ _ _ (SEng.unordered_kept x a bs h))
  exact kept_iteBy (SEng.reach_kept _ _ _ h) (kept_iteBy h (kept_iteBy hw hw))

theorem SEng.put_kept {s0 : State} (x : SEng) (a : Nat) (bs : List Byte) (h : Kept s0 x.s) : Kept s0 (x.put a bs).s := by
  rw [SEng.put]
  refine kept_iteBy h (kept_foldlBy (p := SEng.s) (fun y p hy => ?_) _ (kept_iteBy (SEng.reach_kept _ _ _ h) h))
  exact SEng.does_kept _ _ (fun z hz => SEng.store_kept _ _ _ hz) hy

theorem SEng.note_kept {s0 : State} (x : SEng) (n : Nat) (code : BitVec 16) (f : Cluster → Cluster) (h : Kept s0 x.s) :
    Kept s0 (x.note n code f).s := by
  rw [SEng.note]
  exact kept_iteBy h (SEng.does_kept _ _ (fun y hy => State.raiseEach_kept _ _ _ _ _ (State.modCluster_kept _ _ hy)) h)

theorem SEng.checkRow_kept {s0 : State} (x1 : SEng) (hx1 : Kept s0 x1.s) : Kept s0 (SEng.checkRow x1).s := by
  unfold SEng.checkRow
  repeat' first
    | intro _
    | (with_reducible first
        | assumption | exact trivial | assumption | apply SEng.does_kept | apply State.takeCheckFault_kept
        | apply kept_next | apply kept_some | apply kept_none | apply kept_wait | apply kept_moved | apply kept_ended
        | apply kept_ite | apply kept_ite1 | apply kept_ite2 | apply kept_optite | apply kept_turnite | apply kept_foldl
        | apply kept_foldl1 | apply kept_forEach | apply kept_getD)
    | dsimp only | split
    | (with_reducible first
        | refine kept_pair1 (by assumption) ?_ | refine kept_pair2 (by assumption) ?_ | refine kept_opt (by assumption) ?_
        | refine kept_turnM (by assumption) ?_ | refine kept_turnE (by assumption) ?_ | refine kept_res (by assumption) ?_)

theorem SEng.row_kept {s0 : State} (a1 : SPar) (x2 : SEng) (a3 : Nat) (a4 : List (Option (List (Fl × Fl)))) (hx2 : Kept s0
    x2.s) : Kept s0 (SEng.row a1 x2 a3 a4).s := by
  unfold SEng.row
  repeat' first
    | intro _
    | (with_reducible first
        | assumption | exact trivial | assumption | apply SEng.put_kept | apply SEng.note_kept | apply SEng.get_kept
        | apply SEng.checkRow_kept | apply SEng.stop_kept | apply kept_next | apply kept_some | apply kept_none
        | apply kept_wait | apply kept_moved | apply kept_ended | apply kept_ite | apply kept_ite1 | apply kept_ite2
        | apply kept_optite | apply kept_turnite | apply kept_foldl | apply kept_foldl1 | apply kept_forEach
        | apply kept_getD)
    | dsimp only | split
    | (with_reducible first
        | refine kept_pair1 (by assumption) ?_ | refine kept_pair2 (by assumption) ?_ | refine kept_opt (by assumption) ?_
        | refine kept_turnM (by assumption) ?_ | refine kept_turnE (by assumption) ?_ | refine kept_res (by assumption) ?_)

theorem SEng.countMac_kept {s0 : State} (x1 : SEng) (a2 : Nat) (hx1 : Kept s0 x1.s) : Kept s0 (SEng.countMac x1 a2).s := by
  unfold SEng.countMac
  repeat' first
    | intro _
    | (with_reducible first
        | assumption | exact trivial | assumption | apply SEng.does_kept | apply State.countWork_kept
        | apply State.modCluster_kept | apply kept_next | apply kept_some | apply kept_none | apply kept_wait
        | apply kept_moved | apply kept_ended | apply kept_ite | apply kept_ite1 | apply kept_ite2 | apply kept_optite
        | apply kept_turnite | apply kept_foldl | apply kept_foldl1 | apply kept_forEach | apply kept_getD)
    | dsimp only | split
    | (with_reducible first
        | refine kept_pair1 (by assumption) ?_ | refine kept_pair2 (by assumption) ?_ | refine kept_opt (by assumption) ?_
        | refine kept_turnM (by assumption) ?_ | refine kept_turnE (by assumption) ?_ | refine kept_res (by assumption) ?_)

theorem SEng.getTile_kept {s0 : State} (x1 : SEng) (a2 : Nat) (a3 : Nat) (hx1 : Kept s0 x1.s) : Kept s0 (SEng.getTile x1 a2
    a3).1.s := by
  unfold SEng.getTile
  repeat' first
    | intro _
    | (with_reducible first
        | assumption | exact trivial | assumption | apply SEng.stop_kept | apply SEng.get_kept | apply kept_next
        | apply kept_some | apply kept_none | apply kept_wait | apply kept_moved | apply kept_ended | apply kept_ite
        | apply kept_ite1 | apply kept_ite2 | apply kept_optite | apply kept_turnite | apply kept_foldl | apply kept_foldl1
        | apply kept_forEach | apply kept_getD)
    | dsimp only | split
    | (with_reducible first
        | refine kept_pair1 (by assumption) ?_ | refine kept_pair2 (by assumption) ?_ | refine kept_opt (by assumption) ?_
        | refine kept_turnM (by assumption) ?_ | refine kept_turnE (by assumption) ?_ | refine kept_res (by assumption) ?_)

theorem SEng.spendMac_kept {s0 : State} (x : SEng) (n m : Nat) (h : Kept s0 x.s) : Kept s0 (x.spendMac n m).s := by
  rw [SEng.spendMac]
  exact SEng.does_kept _ _ (fun y hy => State.charge_kept _ _ _ hy) (SEng.countMac_kept _ _ h)

theorem SEng.headRows_kept {s0 : State} (e : Sys2Proof.Entry) (g : StreamJob) (n i hd len base : Nat) (x : SEng)
    (h : Kept s0 x.s) : Kept s0 (SEng.headRows e g n i hd len base x).1.s := by
  rw [SEng.headRows]
  dsimp only
  have ht := fun (l : List Nat) (f : SEng × List KvRow → Nat → SEng × List KvRow)
      (hf : ∀ r t, Kept s0 r.1.s → Kept s0 (f r t).1.s) =>
    kept_foldlBy (p := fun r : SEng × List KvRow => r.1.s) hf l (x := (x, [])) h
  refine kept_iteBy (p := fun r : SEng × List KvRow => r.1.s) (ht _ _ fun r t hr => ?_)
    (SEng.spendMac_kept _ _ _ (SEng.get_kept _ _ _ (ht _ _ fun r t hr => ?_)))
  all_goals exact SEng.spendMac_kept _ _ _ (SEng.does_kept _ _ (fun y hy => State.modCluster_kept _ _ hy)
    (SEng.getTile_kept _ _ _ hr))

theorem SEng.probs_kept {s0 : State} (e : Entry) (x : SEng) (a k n : Nat) (h : Kept s0 x.s) :
    Kept s0 (SEng.probs e x a k n).1.s := by
  rw [SEng.probs]
  exact kept_iteBy (p := fun y : SEng × List Fl => y.1.s) (SEng.get_kept _ _ _ (SEng.get_kept _ _ _ h)) (SEng.get_kept _ _ _ h)

theorem SEng.attendRow_kept {s0 : State} (a1 : Sys2Proof.Entry) (a2 : SPar) (a3 : Nat) (a4 : Nat) (a5 : List KvRow) (x6 :
    SEng) (hx6 : Kept s0 x6.s) : Kept s0 (SEng.attendRow a1 a2 a3 a4 a5 x6).s := by
  unfold SEng.attendRow
  repeat' first
    | intro _
    | (with_reducible first
        | assumption | exact trivial | assumption | apply SEng.stop_kept | apply SEng.probs_kept | apply SEng.row_kept
        | apply SEng.get_kept | apply kept_next | apply kept_some | apply kept_none | apply kept_wait | apply kept_moved
        | apply kept_ended | apply kept_ite | apply kept_ite1 | apply kept_ite2 | apply kept_optite | apply kept_turnite
        | apply kept_foldl | apply kept_foldl1 | apply kept_forEach | apply kept_getD)
    | dsimp only | split
    | (with_reducible first
        | refine kept_pair1 (by assumption) ?_ | refine kept_pair2 (by assumption) ?_ | refine kept_opt (by assumption) ?_
        | refine kept_turnM (by assumption) ?_ | refine kept_turnE (by assumption) ?_ | refine kept_res (by assumption) ?_)

theorem SEng.openCtx_kept {s0 : State} (x1 : SEng) (a2 : Nat) (hx1 : Kept s0 x1.s) : Kept s0 (SEng.openCtx x1 a2).1.s := by
  unfold SEng.openCtx
  repeat' first
    | intro _
    | (with_reducible first
        | assumption | exact trivial | assumption | apply SEng.step_kept | apply SEng.stop_kept | apply State.ctxRead_kept
        | apply kept_next | apply kept_some | apply kept_none | apply kept_wait | apply kept_moved | apply kept_ended
        | apply kept_ite | apply kept_ite1 | apply kept_ite2 | apply kept_optite | apply kept_turnite | apply kept_foldl
        | apply kept_foldl1 | apply kept_forEach | apply kept_getD)
    | dsimp only | split
    | (with_reducible first
        | refine kept_pair1 (by assumption) ?_ | refine kept_pair2 (by assumption) ?_ | refine kept_opt (by assumption) ?_
        | refine kept_turnM (by assumption) ?_ | refine kept_turnE (by assumption) ?_ | refine kept_res (by assumption) ?_)

theorem SEng.release_kept {s0 : State} (x1 : SEng) (hx1 : Kept s0 x1.s) : Kept s0 (SEng.release x1).s := by
  unfold SEng.release
  repeat' first
    | intro _
    | (with_reducible first
        | assumption | exact trivial | assumption | apply SEng.does_kept | apply kept_next | apply kept_some
        | apply kept_none | apply kept_wait | apply kept_moved | apply kept_ended | apply kept_ite | apply kept_ite1
        | apply kept_ite2 | apply kept_optite | apply kept_turnite | apply kept_foldl | apply kept_foldl1
        | apply kept_forEach | apply kept_getD)
    | dsimp only | split
    | (with_reducible first
        | refine kept_pair1 (by assumption) ?_ | refine kept_pair2 (by assumption) ?_ | refine kept_opt (by assumption) ?_
        | refine kept_turnM (by assumption) ?_ | refine kept_turnE (by assumption) ?_ | refine kept_res (by assumption) ?_)

theorem SEng.attendCtx_kept {s0 : State} (e : Sys2Proof.Entry) (g : StreamJob) (x : SEng) (i : Nat) (h : Kept s0 x.s) :
    Kept s0 (SEng.attendCtx e g x i).s := by
  rw [SEng.attendCtx]
  split
  · exact h
  dsimp only
  split
  · rename_i x' c he
    have hx : Kept s0 x'.s := by
      rw [show x'.s = _ from (congrArg (fun r : SEng × StreamStep => r.1.s) he).symm]
      exact SEng.openCtx_kept _ _ (SEng.get_kept _ _ _ h)
    generalize blkNat _ 0 2 = n
    refine kept_foldlBy (p := SEng.s) (fun y k hy => ?_) _ hx
    have hr := SEng.headRows_kept e g n i k c.committed.toNat c.kvBase.toNat y hy
    generalize SEng.headRows e g n i k c.committed.toNat c.kvBase.toNat y = kv at hr ⊢
    refine kept_foldlBy (p := SEng.s) (fun z r hz => SEng.attendRow_kept _ _ _ _ _ _ hz) _ ?_
    exact kept_iteBy (p := SEng.s) (SEng.release_kept _ hr) hr
  · rename_i x' st _ he
    rw [show x'.s = _ from (congrArg (fun r : SEng × StreamStep => r.1.s) he).symm]
    exact SEng.openCtx_kept _ _ (SEng.get_kept _ _ _ h)

theorem SEng.striped_kept {s0 : State} (o : WOp) (base blk vec nv b : Nat) (x : SEng) (h : Kept s0 x.s) :
    Kept s0 (SEng.striped o base blk vec nv b x).1.s := by
  rw [SEng.striped]
  exact kept_foldlBy (p := fun y : SEng × List (List Fl) => y.1.s) (fun y v hy =>
    kept_iteBy (p := fun y : SEng × List (List Fl) => y.1.s) (SEng.stop_kept _ _ hy) (SEng.get_kept _ _ _ hy)) _ h

theorem SEng.wBlock_kept {s0 : State} (e : Entry) (p : SPar) (og : WOp) (xs : List (List Fl)) (rb lb : Nat) (x : SEng)
    (h : Kept s0 x.s) :
    Kept s0 (SEng.wBlock e p og xs rb lb x).s := by
  rw [SEng.wBlock]
  exact kept_foldlBy (p := SEng.s) (fun y r hy => SEng.row_kept _ _ _ _ hy) _
      (SEng.countMac_kept _ _ (SEng.striped_kept _ _ _ _ _ _ _ h))

theorem SEng.wgrad_kept {s0 : State} (e : Entry) (x : SEng) (h : Kept s0 x.s) : Kept s0 (SEng.wgrad e x).s := by
  rw [SEng.wgrad]
  dsimp only
  generalize ha : (if wNeedsAux e = true then _ else _ : SEng × NMap Byte) = a
  have h1 : Kept s0 a.1.s := by
    rw [← ha]
    exact kept_iteBy (p := fun x : SEng × NMap Byte => x.1.s) (SEng.get_kept _ _ _ h) h
  refine kept_iteBy h1 (kept_iteBy (SEng.stop_kept _ _ h1) (kept_foldlBy (p := SEng.s) (fun y rb hy => kept_iteBy hy ?_) _ h1))
  exact kept_foldlBy (p := SEng.s) (fun z lb hz => kept_iteBy (SEng.wBlock_kept _ _ _ _ _ _ _ hz) hz) _
    (SEng.striped_kept _ _ _ _ _ _ { y with idx := rb } hy)

theorem SEng.finishRow_kept {s0 : State} (e : Entry) (x : SEng) (m : Nat) (h : Kept s0 x.s) :
    Kept s0 (SEng.finishRow e x m).s := by
  rw [SEng.finishRow]
  have h1 := SEng.get_kept x (gA e + m * gAPitch e) (16 * gN e) h
  exact kept_iteBy h1 (kept_iteBy (SEng.put_kept _ _ _ h1) (SEng.note_kept _ _ _ _ (SEng.put_kept _ _ _ h1)))

theorem SEng.gemmRow_kept {s0 : State} (e : Entry) (x : SEng) (m : Nat) (h : Kept s0 x.s) : Kept s0 (SEng.gemmRow e x m).s := by
  rw [SEng.gemmRow]
  exact SEng.row_kept _ _ _ _ (SEng.countMac_kept _ _ (kept_foldlBy (p := fun y : SEng × List (List Fl) => y.1.s)
    (fun y n hy => SEng.get_kept _ _ _ hy) _ (SEng.get_kept _ _ _ h)))

theorem SEng.run_kept {s0 : State} (g : StreamJob) (x : SEng) (h : Kept s0 x.s) : Kept s0 (SEng.run g x).s := by
  rw [SEng.run]
  split
  · exact SEng.wgrad_kept _ _ h
  · exact kept_foldlBy (p := SEng.s) (fun y m hy => kept_iteBy (SEng.finishRow_kept _ _ _ hy) (SEng.gemmRow_kept _ _ _ hy)) _ h
  · exact kept_foldlBy (p := SEng.s) (fun y i hy => SEng.attendCtx_kept _ _ _ _ hy) _ h

theorem StreamJob.runOn_kept {s0 s : State} (g : StreamJob) (free : Bool) (h : Kept s0 s) : Kept s0 (g.runOn s free).s := by
  rw [StreamJob.runOn]
  exact SEng.run_kept _ _ h

theorem StreamJob.go_kept {s0 s : State} (g : StreamJob) (h : Kept s0 s) : Kept s0 (g.go s).s := by
  rw [StreamJob.go]
  have hx := StreamJob.runOn_kept g false h
  exact kept_iteBy (State.countCommand_kept _ _ hx) hx

theorem State.dropHeld_kept {s0 s : State} (a1 : Nat) (h : Kept s0 s) : Kept s0 (s.dropHeld a1) := by
  unfold State.dropHeld
  repeat' first | intro _ | (with_reducible first | exact h | exact trivial | assumption | apply State.modCluster_kept)

theorem State.setHeldFront_kept {s0 s : State} (a1 : Nat) (a2 : StreamJob) (h : Kept s0 s) : Kept s0 (State.setHeldFront s a1
    a2) := by
  unfold State.setHeldFront
  repeat' first
    | intro _
    | (with_reducible first
        | exact h | exact trivial | assumption | apply State.modCluster_kept | apply kept_next | apply kept_some
        | apply kept_none | apply kept_wait | apply kept_moved | apply kept_ended | apply kept_ite | apply kept_ite1
        | apply kept_ite2 | apply kept_optite | apply kept_turnite | apply kept_foldl | apply kept_foldl1
        | apply kept_forEach | apply kept_getD)
    | dsimp only | split
    | (with_reducible first
        | refine kept_pair1 (by assumption) ?_ | refine kept_pair2 (by assumption) ?_ | refine kept_opt (by assumption) ?_
        | refine kept_turnM (by assumption) ?_ | refine kept_turnE (by assumption) ?_ | refine kept_res (by assumption) ?_)

theorem State.streamMismatch_kept {s0 s : State} (a1 : Nat) (a2 : Nat) (a3 : Nat) (a4 : Bool) (h : Kept s0 s) : Kept s0
    (State.streamMismatch s a1 a2 a3 a4) := by
  unfold State.streamMismatch
  repeat' first
    | intro _
    | (with_reducible first
        | exact h | exact trivial | assumption | apply State.modCluster_kept | apply State.fenceEngine_kept
        | apply State.raiseFull_kept | apply kept_next | apply kept_some | apply kept_none | apply kept_wait
        | apply kept_moved | apply kept_ended | apply kept_ite | apply kept_ite1 | apply kept_ite2 | apply kept_optite
        | apply kept_turnite | apply kept_foldl | apply kept_foldl1 | apply kept_forEach | apply kept_getD)
    | dsimp only | split
    | (with_reducible first
        | refine kept_pair1 (by assumption) ?_ | refine kept_pair2 (by assumption) ?_ | refine kept_opt (by assumption) ?_
        | refine kept_turnM (by assumption) ?_ | refine kept_turnE (by assumption) ?_ | refine kept_res (by assumption) ?_)

theorem State.releaseUnused_kept {s0 s : State} (a1 : Job) (a2 : List (Nat × Nat × Bool)) (h : Kept s0 s) :
    Kept s0 (State.releaseUnused s a1 a2) := by
  unfold State.releaseUnused
  repeat' first
    | intro _
    | (with_reducible first
        | exact h | exact trivial | assumption | apply State.modLcore_kept | apply State.write_kept
        | apply kept_foldl | apply kept_foldl1 | apply kept_forEach | apply eachUntil_kept | apply kept_next
        | apply kept_some | apply kept_none | apply kept_wait | apply kept_moved | apply kept_ended | apply kept_ite
        | apply kept_ite1 | apply kept_ite2 | apply kept_optite | apply kept_turnite | apply kept_clear
        | apply kept_put)
    | dsimp only | split
    | (with_reducible first
        | refine kept_pair1 (by assumption) ?_
        | refine kept_pair2 (by assumption) ?_)

theorem State.streamRelease_kept {s0 s : State} (a1 : StreamJob) (a2 : Bool) (h : Kept s0 s) :
    Kept s0 (State.streamRelease s a1 a2) := by
  unfold State.streamRelease
  repeat' first
    | intro _
    | (with_reducible first
        | exact h | exact trivial | assumption | apply StreamJob.runOn_kept | apply State.releaseJob_kept
        | apply State.releaseUnused_kept | apply kept_foldl | apply kept_foldl1 | apply kept_forEach
        | apply eachUntil_kept | apply kept_next | apply kept_some | apply kept_none | apply kept_wait
        | apply kept_moved | apply kept_ended | apply kept_ite | apply kept_ite1 | apply kept_ite2
        | apply kept_optite | apply kept_turnite | apply kept_clear | apply kept_put)
    | dsimp only | split
    | (with_reducible first
        | refine kept_pair1 (by assumption) ?_
        | refine kept_pair2 (by assumption) ?_)

theorem State.streamAdvance_kept {s0 s : State} (cl n : Nat) (h : Kept s0 s) : Kept s0 (State.streamAdvance s cl n) := by
  induction n generalizing s with
  | zero => exact h
  | succ n ih =>
    rw [State.streamAdvance]
    split
    · exact h
    rename_i g _ _
    have hx := StreamJob.go_kept g h
    refine kept_ite h (kept_ite hx ?_)
    split
    · exact State.streamMismatch_kept _ _ _ _ (State.setHeldFront_kept _ _ hx)
    · have hd := State.modCluster_kept cl (fun c => { c with contextStops := satInc c.contextStops }) (State.dropHeld_kept cl hx)
      refine kept_ite ?_ (State.setHeldFront_kept _ _ (State.streamRelease_kept _ _ hx))
      exact ih (kept_ite (State.dropJob_kept _ _ hd) (State.endJob_kept _ _ hd))

theorem State.streamAccept_kept {s0 s : State} (a1 : Nat) (a2 : Nat) (h : Kept s0 s) : Kept s0 (State.streamAccept s a1 a2)
    := by
  unfold State.streamAccept
  repeat' first
    | intro _
    | (with_reducible first
        | exact h | exact trivial | assumption | apply State.tryIssue_kept | apply State.streamAdvance_kept
        | apply State.modCluster_kept | apply State.enterJob_kept | apply State.issue_kept | apply kept_next
        | apply kept_some | apply kept_none | apply kept_wait | apply kept_moved | apply kept_ended | apply kept_ite
        | apply kept_ite1 | apply kept_ite2 | apply kept_optite | apply kept_turnite | apply kept_foldl | apply kept_foldl1
        | apply kept_forEach | apply kept_getD)
    | dsimp only | split
    | (with_reducible first
        | refine kept_pair1 (by assumption) ?_ | refine kept_pair2 (by assumption) ?_ | refine kept_opt (by assumption) ?_
        | refine kept_turnM (by assumption) ?_ | refine kept_turnE (by assumption) ?_ | refine kept_res (by assumption) ?_)

theorem execStreamScore_kept {s0 s : State} (a0 : Nat) (h : Kept s0 s) : KeptRes s0 (execStreamScore a0 s) := by
  unfold execStreamScore
  repeat' first
    | intro _
    | (with_reducible first | exact h | exact trivial | assumption | apply State.streamAccept_kept | apply kept_next)

theorem execStreamValue_kept {s0 s : State} (a0 : Nat) (h : Kept s0 s) : KeptRes s0 (execStreamValue a0 s) := by
  unfold execStreamValue
  repeat' first
    | intro _
    | (with_reducible first | exact h | exact trivial | assumption | apply State.streamAccept_kept | apply kept_next)

theorem execStreamWgrad_kept {s0 s : State} (a0 : Nat) (h : Kept s0 s) : KeptRes s0 (execStreamWgrad a0 s) := by
  unfold execStreamWgrad
  repeat' first
    | intro _
    | (with_reducible first | exact h | exact trivial | assumption | apply State.streamAccept_kept | apply kept_next)

theorem execStreamGemm_kept {s0 s : State} (a0 : Nat) (h : Kept s0 s) : KeptRes s0 (execStreamGemm a0 s) := by
  unfold execStreamGemm
  repeat' first
    | intro _
    | (with_reducible first | exact h | exact trivial | assumption | apply State.streamAccept_kept | apply kept_next)

theorem State.streamComplete_kept {s0 s : State} (a1 : Nat) (a2 : StreamJob) (h : Kept s0 s) : Kept s0 (State.streamComplete
    s a1 a2) := by
  unfold State.streamComplete
  repeat' first
    | intro _
    | (with_reducible first
        | exact h | exact trivial | assumption | apply State.modCluster_kept | apply State.dropHeld_kept
        | apply State.streamAdvance_kept | apply State.finishJob_kept | apply State.fillPairs_kept | apply kept_next
        | apply kept_some | apply kept_none | apply kept_wait | apply kept_moved | apply kept_ended | apply kept_ite
        | apply kept_ite1 | apply kept_ite2 | apply kept_optite | apply kept_turnite | apply kept_foldl | apply kept_foldl1
        | apply kept_forEach | apply kept_getD)
    | dsimp only | split
    | (with_reducible first
        | refine kept_pair1 (by assumption) ?_ | refine kept_pair2 (by assumption) ?_ | refine kept_opt (by assumption) ?_
        | refine kept_turnM (by assumption) ?_ | refine kept_turnE (by assumption) ?_ | refine kept_res (by assumption) ?_)

theorem execStreamCommandComplete_kept {s0 s : State} (a1 : Nat) (h : Kept s0 s) : KeptRes s0 (execStreamCommandComplete a1
    s) := by
  unfold execStreamCommandComplete
  repeat' first
    | intro _
    | (with_reducible first
        | exact h | exact trivial | assumption | apply State.streamAdvance_kept | apply State.streamComplete_kept
        | apply kept_next | apply kept_some | apply kept_none | apply kept_wait | apply kept_moved | apply kept_ended
        | apply kept_ite | apply kept_ite1 | apply kept_ite2 | apply kept_optite | apply kept_turnite | apply kept_foldl
        | apply kept_foldl1 | apply kept_forEach | apply kept_getD)
    | dsimp only | split
    | (with_reducible first
        | refine kept_pair1 (by assumption) ?_ | refine kept_pair2 (by assumption) ?_ | refine kept_opt (by assumption) ?_
        | refine kept_turnM (by assumption) ?_ | refine kept_turnE (by assumption) ?_ | refine kept_res (by assumption) ?_)

/-! ### Send.lean -/

theorem State.sendMsg_kept {s0 s : State} (a1 : Nat) (a2 : Sys2Proof.Byte) (a3 : List Sys2Proof.Byte) (h : Kept s0 s) :
    Kept s0 (s.sendMsg a1 a2 a3) := by
  unfold State.sendMsg
  repeat' first
    | intro _
    | (with_reducible first
        | exact h | exact trivial | assumption | apply setOutbox_kept | apply State.modConn_kept | apply kept_next
        | apply kept_some | apply kept_none | apply kept_moved | apply kept_ended | apply kept_ite)

theorem State.sendOwn_kept {s0 s : State} (a1 : Nat) (a2 : Sys2Proof.Byte) (a3 : List Sys2Proof.Byte) (h : Kept s0 s) :
    Kept s0 (s.sendOwn a1 a2 a3) := by
  unfold State.sendOwn
  repeat' first
    | intro _
    | (with_reducible first | exact h | exact trivial | assumption | apply State.openValue_kept | apply State.sendMsg_kept)

theorem State.refuseNext_kept {s0 s : State} (a1 n : Nat) (h : Kept s0 s) : Kept s0 (s.refuseNext a1 n) := by
  induction n generalizing s with
  | zero => exact h
  | succ n ih =>
    unfold State.refuseNext
    dsimp only
    repeat' first
      | (with_reducible first | exact h | apply ih | apply State.modConn_kept | apply State.sendMsg_kept | apply kept_ite)
      | split

theorem State.refuseMalformed_kept {s0 s : State} (a1 : Nat) (h : Kept s0 s) : Kept s0 (s.refuseMalformed a1) := by
  unfold State.refuseMalformed
  repeat' first | intro _ | (with_reducible first | exact h | exact trivial | assumption | apply State.refuseNext_kept)

theorem State.respond_kept {s0 s : State} (a1 : Nat) (a2 : Sys2Proof.Byte) (a3 : Sys2Proof.MsgHdr) (a4 : Bool) (a5 : Answer)
    (h : Kept s0 s) : Kept s0 (s.respond a1 a2 a3 a4 a5) := by
  unfold State.respond
  repeat' first | (with_reducible first | assumption | apply State.sendMsg_kept) | split

theorem State.bootAnswer_kept {s0 s : State} (a1 : Nat) (a2 : MsgHdr) (a3 : Nat) (h : Kept s0 s) :
    Kept s0 (State.bootAnswer s a1 a2 a3) := by
  unfold State.bootAnswer
  repeat' first
    | intro _
    | (with_reducible first
        | exact h | exact trivial | assumption | apply State.refuseMalformed_kept | apply State.respond_kept
        | apply kept_foldl | apply kept_foldl1 | apply kept_forEach | apply eachUntil_kept | apply kept_next
        | apply kept_some | apply kept_none | apply kept_wait | apply kept_moved | apply kept_ended | apply kept_ite
        | apply kept_ite1 | apply kept_ite2 | apply kept_optite | apply kept_turnite | apply kept_clear
        | apply kept_put)
    | dsimp only | split
    | (with_reducible first
        | refine kept_pair1 (by assumption) ?_
        | refine kept_pair2 (by assumption) ?_)

/-! ### Sample.lean -/

theorem State.collectRow_kept {s0 s : State} (a1 : Nat) (a2 : Sys2Proof.Entry) (a3 : Nat) (a4 : Nat) (h : Kept s0 s) :
    Kept s0 (s.collectRow a1 a2 a3 a4).1 := by
  unfold State.collectRow
  repeat' first
    | intro _
    | (with_reducible first
        | exact h | exact trivial | assumption | apply State.read_kept | apply State.modVec_kept | apply kept_foldl
        | apply kept_foldl1 | apply kept_next | apply kept_some | apply kept_none | apply kept_getD | apply kept_wait
        | apply kept_moved | apply kept_ended | apply kept_ite | apply kept_ite1)

theorem execSampleCollect_kept {s0 s : State} (a1 : Nat) (h : Kept s0 s) : KeptRes s0 (execSampleCollect a1 s) := by
  unfold execSampleCollect
  repeat' first
    | intro _
    | (with_reducible first
        | exact h | exact trivial | assumption | apply State.modVec_kept | apply State.collectRow_kept
        | apply State.enterJob_kept | apply State.releaseJob_kept | apply State.dropJob_kept
        | apply State.strike_kept | apply State.issue_kept | apply State.tryIssue_kept | apply kept_foldl
        | apply kept_foldl1 | apply kept_forEach | apply eachUntil_kept | apply kept_next | apply kept_some
        | apply kept_none | apply kept_wait | apply kept_moved | apply kept_ended | apply kept_ite | apply kept_ite1
        | apply kept_ite2 | apply kept_optite | apply kept_turnite | apply kept_clear | apply kept_put)
    | dsimp only | split
    | (with_reducible first
        | refine kept_pair1 (by assumption) ?_
        | refine kept_pair2 (by assumption) ?_
        | refine kept_res (by assumption) ?_)

theorem execSampleCollectComplete_kept {s0 s : State} (a0 : Nat) (h : Kept s0 s) :
    KeptRes s0 (execSampleCollectComplete a0 s) := by
  unfold execSampleCollectComplete
  repeat' first
    | intro _
    | (with_reducible first | exact h | exact trivial | assumption | apply State.vecComplete_kept | apply kept_next)

theorem execSampleFinish_kept {s0 s : State} (a0 : Nat) (h : Kept s0 s) : KeptRes s0 (execSampleFinish a0 s) := by
  unfold execSampleFinish
  repeat' first
    | intro _
    | (with_reducible first
        | exact h | exact trivial | assumption | apply State.tryIssue_kept | apply State.enterJob_kept | apply State.issue_kept
        | apply State.endJob_kept | apply State.modVec_kept | apply kept_next | apply kept_some | apply kept_none
        | apply kept_getD | apply kept_wait | apply kept_moved | apply kept_ended | apply kept_ite)

theorem State.finishLeave_kept {s0 s : State} (a1 : Job) (a2 : BitVec 16) (h : Kept s0 s) : Kept s0 (s.finishLeave a1 a2) := by
  unfold State.finishLeave
  repeat' first
    | intro _
    | (with_reducible first | exact h | exact trivial | assumption | apply State.endJob_kept | apply State.modVec_kept)

theorem SAcc.row_kept {s0 : State} (j : Job) (ls : List Nat) (cs : List (Nat × Ctx)) (a : SAcc) (i : Nat) (h : Kept s0 a.s) :
    Kept s0 (SAcc.row j ls cs a i).s := by
  rw [SAcc.row]
  dsimp only
  repeat' with_reducible first
    | exact h | apply kept_ite | apply State.raiseEach_kept | apply State.modVec_kept | apply State.ctxWrite_kept
    | apply State.openValue_kept | apply kept_iteBy | apply State.writeBytes_kept

theorem State.tokenOut_kept {s0 s : State} (a1 : Nat) (a2 : Sys2Proof.Entry) (a3 : List TokenRec) (h : Kept s0 s) : Kept s0
    (State.tokenOut s a1 a2 a3) := by
  unfold State.tokenOut
  repeat' first
    | intro _
    | (with_reducible first
        | exact h | exact trivial | assumption | apply State.countWork_kept | apply State.sendOwn_kept | apply setNet_kept
        | apply kept_next | apply kept_some | apply kept_none | apply kept_wait | apply kept_moved | apply kept_ended
        | apply kept_ite | apply kept_ite1 | apply kept_ite2 | apply kept_optite | apply kept_turnite | apply kept_foldl
        | apply kept_foldl1 | apply kept_forEach | apply kept_getD)
    | dsimp only | split
    | (with_reducible first
        | refine kept_pair1 (by assumption) ?_ | refine kept_pair2 (by assumption) ?_ | refine kept_opt (by assumption) ?_
        | refine kept_turnM (by assumption) ?_ | refine kept_turnE (by assumption) ?_ | refine kept_res (by assumption) ?_)

theorem State.sampleContexts_kept {s0 s : State} (a1 : Nat) (a2 : List Nat) (h : Kept s0 s) :
    Kept s0 (s.sampleContexts a1 a2).1 := by
  unfold State.sampleContexts
  repeat' first
    | intro _
    | (with_reducible first
        | exact h | exact trivial | assumption | apply kept_foldl | apply kept_foldl1 | apply State.ctxRead_kept
        | apply kept_next | apply kept_some | apply kept_none | apply kept_getD | apply kept_wait | apply kept_moved
        | apply kept_ended | apply kept_ite | apply kept_ite1)

theorem State.sampleMember_kept {s0 s : State} (ls : List Nat) (j : Job) (h : Kept s0 s) : Kept s0 (s.sampleMember ls j) := by
  rw [State.sampleMember]
  dsimp only
  have hg : ∀ t : State, Kept s0 t → Kept s0 (t.modVec (j.q / 4) fun v => { v with unit := v.unit.filter fun x =>
      !(x.job.q == j.q && x.job.id == j.id) }) :=
    fun t ht => State.modVec_kept _ _ ht
  have hf := State.takeCheckFault_kept (s.pgL (j.q / 4) bVector) h
  have hr := State.read_kept (vecWho j.q) (scratchAddr (j.q / 4) (sList j.cmd)) (4 * sContexts j.cmd) h
  have hc := fun cl ns => State.sampleContexts_kept cl ns hr
  refine kept_ite h (kept_ite (State.raiseFence_kept _ _ _ _ _ (State.modVec_kept _ _ hf))
      (kept_ite (State.dropJob_kept _ _ (hg _ hr))
    (kept_ite (hc _ _) (kept_ite (State.finishLeave_kept _ _ (hc _ _)) ?_))))
  have ha := fun (ns : List Nat) (l : List Nat) {t : State} (ht : Kept s0 t) => kept_foldl
      (f := fun t i => t.charge j (ns.getD (i / sQ j.cmd) 0) 1)
    (fun t i ht => State.charge_kept _ _ _ ht) l ht
  have hk := fun (cs : List (Nat × Ctx)) (l : List Nat) {t : State} (ht : Kept s0 t) =>
    kept_foldlBy (p := SAcc.s) (f := SAcc.row j ls cs) (x := ⟨t, [], false, 0⟩) (fun x i hx => SAcc.row_kept j ls cs x i hx) l
        ht
  refine kept_ite (State.dropJob_kept _ _ (hg _ (State.countCommand_kept _ _ (State.tokenOut_kept _ _ _ (hk _ _ (ha _ _ (hc _ _)))))))
    (State.finishJob_kept _ _ (State.modVec_kept _ _ (hg _ (State.countCommand_kept _ _ (State.tokenOut_kept _ _ _ (hk _ _ (ha _ _ (hc _ _))))))))

theorem execSampleFinishJoin_kept {s0 s : State} (a0 : Nat) (a1 : Nat) (h : Kept s0 s) :
    KeptRes s0 (execSampleFinishJoin a0 a1 s) := by
  unfold execSampleFinishJoin
  repeat' first
    | intro _
    | (with_reducible first
        | exact h | exact trivial | assumption | apply kept_foldl | apply kept_foldl1 | apply State.finishLeave_kept
        | apply State.sampleMember_kept | apply kept_next | apply kept_some | apply kept_none | apply kept_getD
        | apply kept_wait | apply kept_moved | apply kept_ended | apply kept_ite | apply kept_ite1 | apply kept_ite2
        | apply kept_optite | apply kept_turnite)
    | dsimp only | split

theorem execSampleJoinTimeout_kept {s0 s : State} (a0 : Nat) (h : Kept s0 s) : KeptRes s0 (execSampleJoinTimeout a0 s) := by
  unfold execSampleJoinTimeout
  repeat' first
    | intro _
    | (with_reducible first
        | exact h | exact trivial | assumption | apply State.finishLeave_kept | apply kept_next | apply kept_some
        | apply kept_none | apply kept_getD | apply kept_wait | apply kept_moved | apply kept_ended | apply kept_ite
        | apply kept_ite1 | apply kept_ite2 | apply kept_optite | apply kept_turnite)
    | dsimp only | split

/-! ### RunAhead.lean -/

theorem execRunAheadStart_kept {s0 s : State} (a1 : Nat) (a2 : Nat) (h : Kept s0 s) : KeptRes s0 (execRunAheadStart a1 a2 s)
    := by
  unfold execRunAheadStart
  repeat' first
    | intro _
    | (with_reducible first
        | exact h | exact trivial | assumption | apply State.modQueue_kept | apply State.modLcore_kept
        | apply State.startTake_kept | apply State.dmaStart_kept | apply State.enterJob_kept | apply kept_next
        | apply kept_some | apply kept_none | apply kept_wait | apply kept_moved | apply kept_ended | apply kept_ite
        | apply kept_ite1 | apply kept_ite2 | apply kept_optite | apply kept_turnite | apply kept_foldl | apply kept_foldl1
        | apply kept_forEach | apply kept_getD)
    | dsimp only | split
    | (with_reducible first
        | refine kept_pair1 (by assumption) ?_ | refine kept_pair2 (by assumption) ?_ | refine kept_opt (by assumption) ?_
        | refine kept_turnM (by assumption) ?_ | refine kept_turnE (by assumption) ?_ | refine kept_res (by assumption) ?_)

theorem execRunAheadConfirm_kept {s0 s : State} (a1 : Nat) (h : Kept s0 s) : KeptRes s0 (execRunAheadConfirm a1 s) := by
  unfold execRunAheadConfirm
  repeat' first
    | intro _
    | (with_reducible first
        | exact h | exact trivial | assumption | apply State.fetchMarks_kept | apply State.enterFront_kept
        | apply State.hold_kept | apply State.stopWith_kept | apply State.sweepSwaps_kept | apply State.skip_kept
        | apply State.modLcore_kept | apply State.modQueue_kept | apply kept_next | apply kept_some | apply kept_none
        | apply kept_wait | apply kept_moved | apply kept_ended | apply kept_ite | apply kept_ite1 | apply kept_ite2
        | apply kept_optite | apply kept_turnite | apply kept_foldl | apply kept_foldl1 | apply kept_forEach
        | apply kept_getD)
    | dsimp only | split
    | (with_reducible first
        | refine kept_pair1 (by assumption) ?_ | refine kept_pair2 (by assumption) ?_ | refine kept_opt (by assumption) ?_
        | refine kept_turnM (by assumption) ?_ | refine kept_turnE (by assumption) ?_ | refine kept_res (by assumption) ?_)

theorem State.countGuard_kept {s0 s : State} (a1 : Nat) (h : Kept s0 s) : Kept s0 (s.countGuard a1) := by
  unfold State.countGuard
  repeat' first | intro _ | (with_reducible first | exact h | exact trivial | assumption | apply State.modLcore_kept)

theorem execSlotTagTimeout_kept {s0 s : State} (a1 : Nat) (h : Kept s0 s) : KeptRes s0 (execSlotTagTimeout a1 s) := by
  unfold execSlotTagTimeout
  repeat' first
    | intro _
    | (with_reducible first
        | exact h | exact trivial | assumption | apply State.stopWith_kept | apply State.countGuard_kept
        | apply State.modLcore_kept | apply State.endJob_kept | apply State.streamAdvance_kept | apply State.dropHeld_kept
        | apply kept_next | apply kept_some | apply kept_none | apply kept_wait | apply kept_moved | apply kept_ended
        | apply kept_ite | apply kept_ite1 | apply kept_ite2 | apply kept_optite | apply kept_turnite | apply kept_foldl
        | apply kept_foldl1 | apply kept_forEach | apply kept_getD)
    | dsimp only | split
    | (with_reducible first
        | refine kept_pair1 (by assumption) ?_ | refine kept_pair2 (by assumption) ?_ | refine kept_opt (by assumption) ?_
        | refine kept_turnM (by assumption) ?_ | refine kept_turnE (by assumption) ?_ | refine kept_res (by assumption) ?_)

theorem execScoreboardTimeout_kept {s0 s : State} (a0 : Nat) (h : Kept s0 s) : KeptRes s0 (execScoreboardTimeout a0 s) := by
  unfold execScoreboardTimeout
  repeat' first
    | intro _
    | (with_reducible first
        | exact h | exact trivial | assumption | apply State.stopWith_kept | apply State.countGuard_kept | apply kept_next
        | apply kept_some | apply kept_none | apply kept_getD | apply kept_wait | apply kept_moved | apply kept_ended
        | apply kept_ite | apply kept_ite1 | apply kept_ite2 | apply kept_optite | apply kept_turnite)
    | dsimp only | split

theorem execDisciplineSwitch_kept {s0 s : State} (a0 : Nat) (h : Kept s0 s) : KeptRes s0 (execDisciplineSwitch a0 s) := by
  unfold execDisciplineSwitch
  repeat' first
    | intro _
    | (with_reducible first
        | exact h | exact trivial | assumption | apply State.modLcore_kept | apply kept_next | apply kept_some | apply kept_none
        | apply kept_getD | apply kept_wait | apply kept_moved | apply kept_ended | apply kept_ite)

theorem execCorrectedWriteback_kept {s0 s : State} (a1 : Nat) (h : Kept s0 s) : KeptRes s0 (execCorrectedWriteback a1 s) := by
  unfold execCorrectedWriteback
  repeat' first
    | intro _
    | (with_reducible first
        | exact h | exact trivial | assumption | apply State.modLcore_kept | apply State.takeInjection_kept
        | apply kept_next | apply kept_some | apply kept_none | apply kept_wait | apply kept_moved | apply kept_ended
        | apply kept_ite | apply kept_ite1 | apply kept_ite2 | apply kept_optite | apply kept_turnite | apply kept_foldl
        | apply kept_foldl1 | apply kept_forEach | apply kept_getD)
    | dsimp only | split
    | (with_reducible first
        | refine kept_pair1 (by assumption) ?_ | refine kept_pair2 (by assumption) ?_ | refine kept_opt (by assumption) ?_
        | refine kept_turnM (by assumption) ?_ | refine kept_turnE (by assumption) ?_ | refine kept_res (by assumption) ?_)

end Sys2Proof.Machine
end

