-- ==== Sys2Proof/Laws/KeptDevice.lean ====
section
/-! SUPPORT. KeptDevice.lean: what every run keeps (`Kept`), for resets, boot, network, power, pins, tiers and snapshots. -/

namespace Sys2Proof.Machine

/-! ### Power.lean -/

theorem State.raiseRegion_kept {s0 s : State} (a1 : BitVec 16) (a2 : Option Nat) (h : Kept s0 s) : Kept s0 (State.raiseRegion
    s a1 a2) := by
  unfold State.raiseRegion
  repeat' first
    | intro _
    | (with_reducible first
        | exact h | exact trivial | assumption | apply State.raise_kept | apply State.openValue_kept | apply kept_next
        | apply kept_some | apply kept_none | apply kept_wait | apply kept_moved | apply kept_ended | apply kept_ite
        | apply kept_ite1 | apply kept_ite2 | apply kept_optite | apply kept_turnite | apply kept_foldl | apply kept_foldl1
        | apply kept_forEach | apply kept_getD)
    | dsimp only | split
    | (with_reducible first
        | refine kept_pair1 (by assumption) ?_ | refine kept_pair2 (by assumption) ?_ | refine kept_opt (by assumption) ?_
        | refine kept_turnM (by assumption) ?_ | refine kept_turnE (by assumption) ?_ | refine kept_res (by assumption) ?_)

theorem State.modSupply_kept {s0 s : State} (a1 : Nat) (a2 : Supply → Supply) (h : Kept s0 s) :
    Kept s0 (s.modSupply a1 a2) := by
  unfold State.modSupply
  repeat' with_reducible first | assumption | apply setPower_kept

theorem execAvsbusSample_kept {s0 s : State} (a1 : Nat) (a2 : Nat) (a3 : Nat) (h : Kept s0 s) : KeptRes s0 (execAvsbusSample
    a1 a2 a3 s) := by
  unfold execAvsbusSample
  repeat' first
    | intro _
    | (with_reducible first
        | exact h | exact trivial | assumption | apply State.modSupply_kept | apply State.modRegion_kept | apply kept_next
        | apply kept_some | apply kept_none | apply kept_wait | apply kept_moved | apply kept_ended | apply kept_ite
        | apply kept_ite1 | apply kept_ite2 | apply kept_optite | apply kept_turnite | apply kept_foldl | apply kept_foldl1
        | apply kept_forEach | apply kept_getD)
    | dsimp only | split
    | (with_reducible first
        | refine kept_pair1 (by assumption) ?_ | refine kept_pair2 (by assumption) ?_ | refine kept_opt (by assumption) ?_
        | refine kept_turnM (by assumption) ?_ | refine kept_turnE (by assumption) ?_ | refine kept_res (by assumption) ?_)

theorem execPowerTelemetryLost_kept {s0 s : State} (a1 : Nat) (h : Kept s0 s) : KeptRes s0 (execPowerTelemetryLost a1 s) := by
  unfold execPowerTelemetryLost
  repeat' first
    | intro _
    | (with_reducible first
        | exact h | exact trivial | assumption | apply State.raiseRegion_kept | apply State.modSupply_kept
        | apply setPower_kept | apply State.deviceStop_kept | apply State.modRegion_kept | apply kept_next
        | apply kept_some | apply kept_none | apply kept_wait | apply kept_moved | apply kept_ended | apply kept_ite
        | apply kept_ite1 | apply kept_ite2 | apply kept_optite | apply kept_turnite | apply kept_foldl | apply kept_foldl1
        | apply kept_forEach | apply kept_getD)
    | dsimp only | split
    | (with_reducible first
        | refine kept_pair1 (by assumption) ?_ | refine kept_pair2 (by assumption) ?_ | refine kept_opt (by assumption) ?_
        | refine kept_turnM (by assumption) ?_ | refine kept_turnE (by assumption) ?_ | refine kept_res (by assumption) ?_)

theorem State.startStep_kept {s0 s : State} (a1 : Nat) (h : Kept s0 s) : Kept s0 (s.startStep a1) := by
  unfold State.startStep
  repeat' first | (with_reducible first | assumption | apply State.modRegion_kept) | dsimp only | split

theorem State.setVoltages_kept {s0 s : State} (h : Kept s0 s) : Kept s0 (State.setVoltages s) := by
  unfold State.setVoltages
  repeat' first
    | intro _
    | (with_reducible first
        | exact h | exact trivial | assumption | apply State.forEach_kept | apply State.modRegion_kept | apply kept_next
        | apply kept_some | apply kept_none | apply kept_wait | apply kept_moved | apply kept_ended | apply kept_ite
        | apply kept_ite1 | apply kept_ite2 | apply kept_optite | apply kept_turnite | apply kept_foldl | apply kept_foldl1
        | apply kept_forEach | apply kept_getD)
    | dsimp only | split
    | (with_reducible first
        | refine kept_pair1 (by assumption) ?_ | refine kept_pair2 (by assumption) ?_ | refine kept_opt (by assumption) ?_
        | refine kept_turnM (by assumption) ?_ | refine kept_turnE (by assumption) ?_ | refine kept_res (by assumption) ?_)

theorem State.setTargets_kept {s0 s : State} (a1 : List Nat) (h : Kept s0 s) : Kept s0 (s.setTargets a1) := by
  unfold State.setTargets
  repeat' first
    | intro _
    | (with_reducible first | assumption | apply kept_forEach | apply State.startStep_kept | apply State.modRegion_kept)

theorem State.setDeparted_kept {s0 s : State} (a1 : Bool) (a2 : Option Nat) (h : Kept s0 s) : Kept s0 (State.setDeparted s a1
    a2) := by
  unfold State.setDeparted
  repeat' first
    | intro _
    | (with_reducible first
        | exact h | exact trivial | assumption | apply setPower_kept | apply State.raiseRegion_kept | apply kept_next
        | apply kept_some | apply kept_none | apply kept_wait | apply kept_moved | apply kept_ended | apply kept_ite
        | apply kept_ite1 | apply kept_ite2 | apply kept_optite | apply kept_turnite | apply kept_foldl | apply kept_foldl1
        | apply kept_forEach | apply kept_getD)
    | dsimp only | split
    | (with_reducible first
        | refine kept_pair1 (by assumption) ?_ | refine kept_pair2 (by assumption) ?_ | refine kept_opt (by assumption) ?_
        | refine kept_turnM (by assumption) ?_ | refine kept_turnE (by assumption) ?_ | refine kept_res (by assumption) ?_)

theorem State.fallBack_kept {s0 s : State} (a1 : Nat) (a2 : Nat) (h : Kept s0 s) : Kept s0 (s.fallBack a1 a2) := by
  unfold State.fallBack
  repeat' first
    | intro _
    | (with_reducible first
        | exact h | exact trivial | assumption | apply State.modLcore_kept | apply State.raiseEach_kept
        | apply kept_foldl | apply kept_foldl1 | apply kept_forEach | apply eachUntil_kept | apply kept_next
        | apply kept_some | apply kept_none | apply kept_wait | apply kept_moved | apply kept_ended | apply kept_ite
        | apply kept_ite1 | apply kept_ite2 | apply kept_optite | apply kept_turnite | apply kept_clear
        | apply kept_put)
    | dsimp only | split
    | (with_reducible first
        | refine kept_pair1 (by assumption) ?_
        | refine kept_pair2 (by assumption) ?_)

theorem State.lastStage_kept {s0 s : State} (a1 : Nat) (a2 : PointStep) (h : Kept s0 s) : Kept s0 (State.lastStage s a1 a2)
    := by
  unfold State.lastStage
  repeat' first
    | intro _
    | (with_reducible first
        | exact h | exact trivial | assumption | apply State.modRegion_kept | apply kept_next | apply kept_some
        | apply kept_none | apply kept_wait | apply kept_moved | apply kept_ended | apply kept_ite | apply kept_ite1
        | apply kept_ite2 | apply kept_optite | apply kept_turnite | apply kept_foldl | apply kept_foldl1
        | apply kept_forEach | apply kept_getD)
    | dsimp only | split
    | (with_reducible first
        | refine kept_pair1 (by assumption) ?_ | refine kept_pair2 (by assumption) ?_ | refine kept_opt (by assumption) ?_
        | refine kept_turnM (by assumption) ?_ | refine kept_turnE (by assumption) ?_ | refine kept_res (by assumption) ?_)

theorem State.marginCheck_kept {s0 s : State} (a1 : Nat) (a2 : List Nat) (h : Kept s0 s) :
    Kept s0 (State.marginCheck s a1 a2) := by
  unfold State.marginCheck
  repeat' first
    | intro _
    | (with_reducible first
        | exact h | exact trivial | assumption | apply State.setDeparted_kept | apply State.fallBack_kept
        | apply State.forEach_kept | apply State.modLcore_kept | apply kept_foldl | apply kept_foldl1
        | apply kept_forEach | apply eachUntil_kept | apply kept_next | apply kept_some | apply kept_none
        | apply kept_wait | apply kept_moved | apply kept_ended | apply kept_ite | apply kept_ite1 | apply kept_ite2
        | apply kept_optite | apply kept_turnite | apply kept_clear | apply kept_put)
    | dsimp only | split
    | (with_reducible first
        | refine kept_pair1 (by assumption) ?_
        | refine kept_pair2 (by assumption) ?_
        | refine kept_opt (by assumption) ?_)

theorem execOpPointStep_kept {s0 s : State} (a1 : Nat) (a2 : List Nat) (h : Kept s0 s) : KeptRes s0 (execOpPointStep a1 a2 s)
    := by
  unfold execOpPointStep
  repeat' first
    | intro _
    | (with_reducible first
        | exact h | exact trivial | assumption | apply QAcc.step_kept | apply SEng.step_kept
        | apply State.startStep_kept | apply State.lastStage_kept | apply State.marginCheck_kept | apply kept_foldl
        | apply kept_foldl1 | apply kept_forEach | apply eachUntil_kept | apply kept_next | apply kept_some
        | apply kept_none | apply kept_wait | apply kept_moved | apply kept_ended | apply kept_ite | apply kept_ite1
        | apply kept_ite2 | apply kept_optite | apply kept_turnite | apply kept_clear | apply kept_put)
    | dsimp only | split
    | (with_reducible first
        | refine kept_pair1 (by assumption) ?_
        | refine kept_pair2 (by assumption) ?_
        | refine kept_opt (by assumption) ?_
        | refine kept_res (by assumption) ?_)

theorem State.chargeContexts_kept {s0 s : State} (a1 : Int × Int) (h : Kept s0 s) :
    Kept s0 (State.chargeContexts s a1) := by
  unfold State.chargeContexts
  repeat' first
    | intro _
    | (with_reducible first
        | exact h | exact trivial | assumption | apply State.ctxWrite_kept | apply setEnergy_kept | apply kept_foldl
        | apply kept_foldl1 | apply kept_forEach | apply eachUntil_kept | apply kept_next | apply kept_some
        | apply kept_none | apply kept_wait | apply kept_moved | apply kept_ended | apply kept_ite | apply kept_ite1
        | apply kept_ite2 | apply kept_optite | apply kept_turnite | apply kept_clear | apply kept_put)
    | dsimp only | split
    | (with_reducible first
        | refine kept_pair1 (by assumption) ?_
        | refine kept_pair2 (by assumption) ?_)

theorem State.attribute_kept {s0 s : State} (a1 : Nat) (a2 : Nat) (h : Kept s0 s) : Kept s0 (State.attribute s a1 a2) := by
  unfold State.attribute
  repeat' first
    | intro _
    | (with_reducible first
        | exact h | exact trivial | assumption | apply State.chargeContexts_kept | apply setEnergy_kept
        | apply kept_foldl | apply kept_foldl1 | apply kept_forEach | apply eachUntil_kept | apply kept_next
        | apply kept_some | apply kept_none | apply kept_wait | apply kept_moved | apply kept_ended | apply kept_ite
        | apply kept_ite1 | apply kept_ite2 | apply kept_optite | apply kept_turnite | apply kept_clear
        | apply kept_put)
    | dsimp only | split
    | (with_reducible first
        | refine kept_pair1 (by assumption) ?_
        | refine kept_pair2 (by assumption) ?_)

theorem State.countHolds_kept {s0 s : State} (h : Kept s0 s) : Kept s0 (s.countHolds) := by
  unfold State.countHolds
  repeat' first | intro _ | (with_reducible first | assumption | apply kept_forEach | apply State.modRegion_kept)

theorem State.attainability_kept {s0 s : State} (a1 : Bool) (h : Kept s0 s) : Kept s0 (s.attainability a1) := by
  unfold State.attainability
  repeat' first | (with_reducible first | assumption | apply setPower_kept | apply State.raise_kept) | dsimp only | split

theorem State.planFiller_kept {s0 s : State} (a1 : Basis) (a2 : Nat) (a3 : Nat) (a4 : Setting) (a5 : Bool) (h : Kept s0 s) :
    Kept s0 (State.planFiller s a1 a2 a3 a4 a5) := by
  unfold State.planFiller
  repeat' first
    | intro _
    | (with_reducible first
        | exact h | exact trivial | assumption | apply setPower_kept | apply State.forEach_kept
        | apply State.modRegion_kept | apply State.raise_kept | apply kept_next | apply kept_some | apply kept_none
        | apply kept_wait | apply kept_moved | apply kept_ended | apply kept_ite | apply kept_ite1 | apply kept_ite2
        | apply kept_optite | apply kept_turnite | apply kept_foldl | apply kept_foldl1 | apply kept_forEach
        | apply kept_getD)
    | dsimp only | split
    | (with_reducible first
        | refine kept_pair1 (by assumption) ?_ | refine kept_pair2 (by assumption) ?_ | refine kept_opt (by assumption) ?_
        | refine kept_turnM (by assumption) ?_ | refine kept_turnE (by assumption) ?_ | refine kept_res (by assumption) ?_)

theorem State.manage_kept {s0 s : State} (a1 : Nat) (a2 : Nat) (h : Kept s0 s) : Kept s0 (State.manage s a1 a2) := by
  unfold State.manage
  repeat' first
    | intro _
    | (with_reducible first
        | exact h | exact trivial | assumption | apply State.countHolds_kept | apply State.attainability_kept
        | apply State.setDeparted_kept | apply setPower_kept | apply State.forEach_kept | apply State.modRegion_kept
        | apply State.planFiller_kept | apply State.setTargets_kept | apply kept_next | apply kept_some | apply kept_none
        | apply kept_wait | apply kept_moved | apply kept_ended | apply kept_ite | apply kept_ite1 | apply kept_ite2
        | apply kept_optite | apply kept_turnite | apply kept_foldl | apply kept_foldl1 | apply kept_forEach
        | apply kept_getD)
    | dsimp only | split
    | (with_reducible first
        | refine kept_pair1 (by assumption) ?_ | refine kept_pair2 (by assumption) ?_ | refine kept_opt (by assumption) ?_
        | refine kept_turnM (by assumption) ?_ | refine kept_turnE (by assumption) ?_ | refine kept_res (by assumption) ?_)

theorem State.stopFiller_kept {s0 s : State} (h : Kept s0 s) : Kept s0 (State.stopFiller s) := by
  unfold State.stopFiller
  repeat' first
    | intro _
    | (with_reducible first
        | exact h | exact trivial | assumption | apply State.forEach_kept | apply State.modRegion_kept | apply kept_next
        | apply kept_some | apply kept_none | apply kept_wait | apply kept_moved | apply kept_ended | apply kept_ite
        | apply kept_ite1 | apply kept_ite2 | apply kept_optite | apply kept_turnite | apply kept_foldl | apply kept_foldl1
        | apply kept_forEach | apply kept_getD)
    | dsimp only | split
    | (with_reducible first
        | refine kept_pair1 (by assumption) ?_ | refine kept_pair2 (by assumption) ?_ | refine kept_opt (by assumption) ?_
        | refine kept_turnM (by assumption) ?_ | refine kept_turnE (by assumption) ?_ | refine kept_res (by assumption) ?_)

theorem execPowerPeriod_kept {s0 s : State} (h : Kept s0 s) : KeptRes s0 (execPowerPeriod s) := by
  unfold execPowerPeriod
  repeat' first
    | intro _
    | (with_reducible first
        | exact h | exact trivial | assumption | apply setThermal_kept | apply setPower_kept | apply setOracle_kept
        | apply State.attribute_kept | apply State.stopFiller_kept | apply State.manage_kept | apply kept_next
        | apply kept_some | apply kept_none | apply kept_wait | apply kept_moved | apply kept_ended | apply kept_ite
        | apply kept_ite1 | apply kept_ite2 | apply kept_optite | apply kept_turnite | apply kept_foldl | apply kept_foldl1
        | apply kept_forEach | apply kept_getD)
    | dsimp only | split
    | (with_reducible first
        | refine kept_pair1 (by assumption) ?_ | refine kept_pair2 (by assumption) ?_ | refine kept_opt (by assumption) ?_
        | refine kept_turnM (by assumption) ?_ | refine kept_turnE (by assumption) ?_ | refine kept_res (by assumption) ?_)

theorem execDroopStretch_kept {s0 s : State} (a1 : Nat) (h : Kept s0 s) : KeptRes s0 (execDroopStretch a1 s) := by
  unfold execDroopStretch
  repeat' first
    | intro _
    | (with_reducible first
        | exact h | exact trivial | assumption | apply State.modLcore_kept | apply setPower_kept
        | apply State.modRegion_kept | apply State.raiseFull_kept | apply kept_next | apply kept_some | apply kept_none
        | apply kept_wait | apply kept_moved | apply kept_ended | apply kept_ite | apply kept_ite1 | apply kept_ite2
        | apply kept_optite | apply kept_turnite | apply kept_foldl | apply kept_foldl1 | apply kept_forEach
        | apply kept_getD)
    | dsimp only | split
    | (with_reducible first
        | refine kept_pair1 (by assumption) ?_ | refine kept_pair2 (by assumption) ?_ | refine kept_opt (by assumption) ?_
        | refine kept_turnM (by assumption) ?_ | refine kept_turnE (by assumption) ?_ | refine kept_res (by assumption) ?_)

theorem execStretchEnd_kept {s0 s : State} (a0 : Nat) (h : Kept s0 s) : KeptRes s0 (execStretchEnd a0 s) := by
  unfold execStretchEnd
  repeat' first
    | (with_reducible first | assumption | apply State.modLcore_kept | apply State.modRegion_kept | apply kept_next)
    | dsimp only | split

theorem execClampEnd_kept {s0 s : State} (a0 : Nat) (h : Kept s0 s) : KeptRes s0 (execClampEnd a0 s) := by
  unfold execClampEnd
  repeat' first | (with_reducible first | assumption | apply State.modLcore_kept | apply kept_next) | split

theorem execStepUpResume_kept {s0 s : State} (a0 : Nat) (h : Kept s0 s) : KeptRes s0 (execStepUpResume a0 s) := by
  unfold execStepUpResume
  repeat' first
    | (with_reducible first | assumption | apply State.startStep_kept | apply State.modRegion_kept | apply kept_next)
    | split

theorem execThrottleAsserted_kept {s0 s : State} (h : Kept s0 s) : KeptRes s0 (execThrottleAsserted s) := by
  unfold execThrottleAsserted
  repeat' first
    | intro _
    | (with_reducible first
        | exact h | exact trivial | assumption | apply setPower_kept | apply setSide_kept | apply State.forEach_kept
        | apply State.modRegion_kept | apply State.raise_kept | apply State.setTargets_kept | apply kept_next
        | apply kept_some | apply kept_none | apply kept_wait | apply kept_moved | apply kept_ended | apply kept_ite
        | apply kept_ite1 | apply kept_ite2 | apply kept_optite | apply kept_turnite | apply kept_foldl | apply kept_foldl1
        | apply kept_forEach | apply kept_getD)
    | dsimp only | split
    | (with_reducible first
        | refine kept_pair1 (by assumption) ?_ | refine kept_pair2 (by assumption) ?_ | refine kept_opt (by assumption) ?_
        | refine kept_turnM (by assumption) ?_ | refine kept_turnE (by assumption) ?_ | refine kept_res (by assumption) ?_)

theorem execThrottleReleased_kept {s0 s : State} (h : Kept s0 s) : KeptRes s0 (execThrottleReleased s) := by
  unfold execThrottleReleased
  repeat' first | (with_reducible first | assumption | apply setPower_kept | apply setSide_kept | apply kept_next) | split

theorem State.setZone_kept {s0 s : State} (a1 : Nat) (a2 : Int) (a3 : Nat) (h : Kept s0 s) : Kept s0 (State.setZone s a1 a2
    a3) := by
  unfold State.setZone
  repeat' first
    | intro _
    | (with_reducible first
        | exact h | exact trivial | assumption | apply State.modRegion_kept | apply setThermal_kept
        | apply State.startStep_kept | apply setPower_kept | apply State.raise_kept | apply kept_next | apply kept_some
        | apply kept_none | apply kept_wait | apply kept_moved | apply kept_ended | apply kept_ite | apply kept_ite1
        | apply kept_ite2 | apply kept_optite | apply kept_turnite | apply kept_foldl | apply kept_foldl1
        | apply kept_forEach | apply kept_getD)
    | dsimp only | split
    | (with_reducible first
        | refine kept_pair1 (by assumption) ?_ | refine kept_pair2 (by assumption) ?_ | refine kept_opt (by assumption) ?_
        | refine kept_turnM (by assumption) ?_ | refine kept_turnE (by assumption) ?_ | refine kept_res (by assumption) ?_)

theorem State.sensorFails_kept {s0 s : State} (a1 : Nat) (a2 : Nat) (h : Kept s0 s) : Kept s0 (State.sensorFails s a1 a2) := by
  unfold State.sensorFails
  repeat' first
    | intro _
    | (with_reducible first
        | exact h | exact trivial | assumption | apply State.modRegion_kept | apply State.raiseEach_kept
        | apply kept_foldl | apply kept_foldl1 | apply kept_forEach | apply eachUntil_kept | apply kept_next
        | apply kept_some | apply kept_none | apply kept_wait | apply kept_moved | apply kept_ended | apply kept_ite
        | apply kept_ite1 | apply kept_ite2 | apply kept_optite | apply kept_turnite | apply kept_clear
        | apply kept_put)
    | dsimp only | split
    | (with_reducible first
        | refine kept_pair1 (by assumption) ?_
        | refine kept_pair2 (by assumption) ?_)

theorem State.sensorReads_kept {s0 s : State} (a1 : Nat) (a2 : Nat) (a3 : BitVec 16) (h : Kept s0 s) : Kept s0
    (State.sensorReads s a1 a2 a3) := by
  unfold State.sensorReads
  repeat' first
    | intro _
    | (with_reducible first
        | exact h | exact trivial | assumption | apply State.modRegion_kept | apply State.sensorFails_kept
        | apply kept_next | apply kept_some | apply kept_none | apply kept_wait | apply kept_moved | apply kept_ended
        | apply kept_ite | apply kept_ite1 | apply kept_ite2 | apply kept_optite | apply kept_turnite | apply kept_foldl
        | apply kept_foldl1 | apply kept_forEach | apply kept_getD)
    | dsimp only | split
    | (with_reducible first
        | refine kept_pair1 (by assumption) ?_ | refine kept_pair2 (by assumption) ?_ | refine kept_opt (by assumption) ?_
        | refine kept_turnM (by assumption) ?_ | refine kept_turnE (by assumption) ?_ | refine kept_res (by assumption) ?_)

theorem execThermalSample_kept {s0 s : State} (a1 : Nat) (a2 : List (BitVec 16)) (h : Kept s0 s) : KeptRes s0
    (execThermalSample a1 a2 s) := by
  unfold execThermalSample
  repeat' first
    | intro _
    | (with_reducible first
        | exact h | exact trivial | assumption | apply State.sensorReads_kept | apply State.setZone_kept | apply kept_next
        | apply kept_some | apply kept_none | apply kept_wait | apply kept_moved | apply kept_ended | apply kept_ite
        | apply kept_ite1 | apply kept_ite2 | apply kept_optite | apply kept_turnite | apply kept_foldl | apply kept_foldl1
        | apply kept_forEach | apply kept_getD)
    | dsimp only | split
    | (with_reducible first
        | refine kept_pair1 (by assumption) ?_ | refine kept_pair2 (by assumption) ?_ | refine kept_opt (by assumption) ?_
        | refine kept_turnM (by assumption) ?_ | refine kept_turnE (by assumption) ?_ | refine kept_res (by assumption) ?_)

theorem execCeilingStep_kept {s0 s : State} (a0 : Nat) (h : Kept s0 s) : KeptRes s0 (execCeilingStep a0 s) := by
  unfold execCeilingStep
  repeat' first
    | (with_reducible first
        | assumption | apply State.startStep_kept | apply State.modRegion_kept | apply State.raise_kept | apply kept_next)
    | dsimp only | split

theorem execThermalSensorFault_kept {s0 s : State} (a1 : Nat) (a2 : Nat) (h : Kept s0 s) : KeptRes s0 (execThermalSensorFault
    a1 a2 s) := by
  unfold execThermalSensorFault
  repeat' first
    | intro _
    | (with_reducible first
        | exact h | exact trivial | assumption | apply State.sensorFails_kept | apply State.setZone_kept | apply kept_next
        | apply kept_some | apply kept_none | apply kept_wait | apply kept_moved | apply kept_ended | apply kept_ite
        | apply kept_ite1 | apply kept_ite2 | apply kept_optite | apply kept_turnite | apply kept_foldl | apply kept_foldl1
        | apply kept_forEach | apply kept_getD)
    | dsimp only | split
    | (with_reducible first
        | refine kept_pair1 (by assumption) ?_ | refine kept_pair2 (by assumption) ?_ | refine kept_opt (by assumption) ?_
        | refine kept_turnM (by assumption) ?_ | refine kept_turnE (by assumption) ?_ | refine kept_res (by assumption) ?_)

theorem execThermalTrip_kept {s0 s : State} (a1 : Nat) (a2 : Nat) (h : Kept s0 s) : KeptRes s0 (execThermalTrip a1 a2 s) := by
  unfold execThermalTrip
  repeat' first
    | intro _
    | (with_reducible first
        | exact h | exact trivial | assumption | apply setPower_kept | apply setThermal_kept | apply State.powerStop_kept
        | apply State.raise_kept | apply kept_next | apply kept_some | apply kept_none | apply kept_wait | apply kept_moved
        | apply kept_ended | apply kept_ite | apply kept_ite1 | apply kept_ite2 | apply kept_optite | apply kept_turnite
        | apply kept_foldl | apply kept_foldl1 | apply kept_forEach | apply kept_getD)
    | dsimp only | split
    | (with_reducible first
        | refine kept_pair1 (by assumption) ?_ | refine kept_pair2 (by assumption) ?_ | refine kept_opt (by assumption) ?_
        | refine kept_turnM (by assumption) ?_ | refine kept_turnE (by assumption) ?_ | refine kept_res (by assumption) ?_)

/-! ### Resets.lean -/

theorem execCoreFence_kept {s0 s : State} (a0 : Nat) (a1 : BitVec 16) (h : Kept s0 s) : KeptRes s0 (execCoreFence a0 a1 s) := by
  unfold execCoreFence
  repeat' first
    | intro _
    | (with_reducible first
        | exact h | exact trivial | assumption | apply State.fenceCluster_kept | apply State.fenceRegion_kept
        | apply State.openValue_kept | apply State.raiseFence_kept | apply State.modCore_kept | apply State.startFence_kept
        | apply kept_next | apply kept_some | apply kept_none | apply kept_moved | apply kept_ended | apply kept_ite)

theorem execFenceComplete_kept {s0 s : State} (a0 : Nat) (h : Kept s0 s) : KeptRes s0 (execFenceComplete a0 s) := by
  unfold execFenceComplete
  repeat' first
    | intro _
    | (with_reducible first
        | exact h | exact trivial | assumption | apply State.endFence_kept | apply kept_next | apply kept_some | apply kept_none
        | apply kept_moved | apply kept_ended | apply kept_ite)

theorem execUnfenceComplete_kept {s0 s : State} (a0 : Nat) (h : Kept s0 s) : KeptRes s0 (execUnfenceComplete a0 s) := by
  unfold execUnfenceComplete
  repeat' first
    | intro _
    | (with_reducible first
        | exact h | exact trivial | assumption | apply State.endUnfence_kept | apply kept_next | apply kept_some
        | apply kept_none | apply kept_moved | apply kept_ended | apply kept_ite)

theorem State.writeFence_kept {s0 s : State} (a1 : Nat) (a2 : Bool) (h : Kept s0 s) : Kept s0 (s.writeFence a1 a2) := by
  unfold State.writeFence
  repeat' first
    | intro _
    | (with_reducible first
        | exact h | exact trivial | assumption | apply State.startFence_kept | apply State.startUnfence_kept
        | apply State.fenceEngine_kept | apply State.unfenceEngine_kept | apply kept_next | apply kept_some | apply kept_none
        | apply kept_moved | apply kept_ended | apply kept_ite | apply kept_ite1 | apply kept_ite2 | apply kept_optite
        | apply kept_turnite)
    | dsimp only | split

theorem execHostFence_kept {s0 s : State} (a0 : Nat) (a1 : Nat) (h : Kept s0 s) : KeptRes s0 (execHostFence a0 a1 s) := by
  unfold execHostFence
  repeat' first
    | intro _
    | (with_reducible first | exact h | exact trivial | assumption | apply State.regRow_kept | apply State.writeFence_kept)

theorem execUnfence_kept {s0 s : State} (a0 : Nat) (a1 : Nat) (h : Kept s0 s) : KeptRes s0 (execUnfence a0 a1 s) := by
  unfold execUnfence
  repeat' first
    | intro _
    | (with_reducible first | exact h | exact trivial | assumption | apply State.regRow_kept | apply State.writeFence_kept)

theorem State.writeQuiesce_kept {s0 s : State} (a1 : Nat) (a2 : Bool) (h : Kept s0 s) : Kept s0 (s.writeQuiesce a1 a2) := by
  unfold State.writeQuiesce
  repeat' first
    | intro _
    | (with_reducible first
        | exact h | exact trivial | assumption | apply State.modCore_kept | apply kept_next | apply kept_some | apply kept_none
        | apply kept_moved | apply kept_ended | apply kept_ite | apply kept_ite1 | apply kept_ite2 | apply kept_optite
        | apply kept_turnite)
    | dsimp only | split

theorem execQuiesceSet_kept {s0 s : State} (a0 : Nat) (a1 : Nat) (h : Kept s0 s) : KeptRes s0 (execQuiesceSet a0 a1 s) := by
  unfold execQuiesceSet
  repeat' first
    | intro _
    | (with_reducible first | exact h | exact trivial | assumption | apply State.regRow_kept | apply State.writeQuiesce_kept)

theorem execQuiesceRelease_kept {s0 s : State} (a0 : Nat) (a1 : Nat) (h : Kept s0 s) :
    KeptRes s0 (execQuiesceRelease a0 a1 s) := by
  unfold execQuiesceRelease
  repeat' first
    | intro _
    | (with_reducible first | exact h | exact trivial | assumption | apply State.regRow_kept | apply State.writeQuiesce_kept)

theorem State.writeSpare_kept {s0 s : State} (a1 : Nat) (a2 : Nat) (a3 : Bool) (h : Kept s0 s) :
    Kept s0 (s.writeSpare a1 a2 a3) := by
  unfold State.writeSpare
  dsimp only
  split
  · split
    · rename_i hc
      refine setRemap_kept h _ fun w => Remap.put_ok w _ (.inr ?_)
      have := hc.2.2.1
      unfold State.spare at this
      simp at this
      exact this.1
    · exact State.countBad_kept _ h
  · split
    · exact h
    · rename_i l hl
      split
      · rename_i hc
        refine State.modCore_kept _ _ (State.modCore_kept _ _ (setRemap_kept h _ fun w => Remap.free_ok w ?_))
        unfold State.spare at hl hc
        have h2 := hc.1
        simp at h2
        rw [← hl, ← h2]
      · exact State.countBad_kept _ h

theorem execRemapMap_kept {s0 s : State} (a0 : Nat) (a1 : Nat) (a2 : Nat) (h : Kept s0 s) :
    KeptRes s0 (execRemapMap a0 a1 a2 s) := by
  unfold execRemapMap
  repeat' first
    | intro _
    | (with_reducible first
        | exact h | exact trivial | assumption | apply State.regRow_kept | apply State.writeSpare_kept | apply kept_next
        | apply kept_some | apply kept_none | apply kept_moved | apply kept_ended | apply kept_ite)

theorem execRemapUnmap_kept {s0 s : State} (a0 : Nat) (a1 : Nat) (h : Kept s0 s) : KeptRes s0 (execRemapUnmap a0 a1 s) := by
  unfold execRemapUnmap
  repeat' first
    | intro _
    | (with_reducible first
        | exact h | exact trivial | assumption | apply State.regRow_kept | apply State.writeSpare_kept | apply kept_next
        | apply kept_some | apply kept_none | apply kept_moved | apply kept_ended | apply kept_ite)

theorem execCoreRemapped_kept {s0 s : State} (a0 : Nat) (h : Kept s0 s) : KeptRes s0 (execCoreRemapped a0 s) := by
  unfold execCoreRemapped
  refine kept_next ?_
  split
  · rename_i hc _
    refine State.raise_kept _ _ _ _ (State.modCore_kept _ _ (setRemap_kept h _ fun w => Remap.serve_ok w ?_))
    simp at hc
    exact hc.1.1.2
  · exact h

theorem State.bootHold_kept {s0 s : State} (a1 : Nat) (h : Kept s0 s) : Kept s0 (s.bootHold a1) := by
  unfold State.bootHold
  repeat' first
    | intro _
    | (with_reducible first | exact h | exact trivial | assumption | apply State.raise_kept | apply setBoot_kept)

theorem State.deviceReset_kept {s0 s : State} (a1 : Nat) (a2 : BootPhase) (h : Kept s0 s) : Kept s0 (s.deviceReset a1 a2) := by
  have hk : ∀ t : State, t.pending = s.pending → t.fuses = s.fuses → t.flash = s.flash → t.mem = [] →
      t.remap = .reset → Kept s0 t := fun t h1 h2 h3 h4 h5 => kept_anew h h1 h2 (by rw [h3]) (by rw [h3]) h4 h5
  unfold State.deviceReset
  dsimp only
  split
  · exact State.bootHold_kept _ (hk _ rfl rfl rfl rfl rfl)
  · split
    · exact State.bootHold_kept _ (hk _ rfl rfl rfl rfl rfl)
    · exact hk _ rfl rfl rfl rfl rfl

theorem execColdReset_kept {s0 s : State} (a0 : Bool) (h : Kept s0 s) : KeptRes s0 (execColdReset a0 s) := by
  unfold execColdReset
  repeat' first
    | intro _
    | (with_reducible first
        | exact h | exact trivial | assumption | apply State.deviceReset_kept | apply setSide_kept | apply kept_next
        | apply kept_some | apply kept_none | apply kept_moved | apply kept_ended | apply kept_ite)

theorem execResetLRelease_kept {s0 s : State} (h : Kept s0 s) : KeptRes s0 (execResetLRelease s) := by
  unfold execResetLRelease
  repeat' first
    | intro _
    | (with_reducible first
        | exact h | exact trivial | assumption | apply setSide_kept | apply setBoot_kept | apply kept_next | apply kept_some
        | apply kept_none | apply kept_moved | apply kept_ended | apply kept_ite)

theorem State.partitionReset_kept {s0 s : State} (a1 : Nat) (h : Kept s0 s) : Kept s0 (s.partitionReset a1) := by
  unfold State.partitionReset
  repeat' first
    | intro _
    | (with_reducible first
        | exact h | exact trivial | assumption | apply State.countBad_kept | apply setBoot_kept | apply State.raise_kept
        | apply kept_forEach | apply State.startFence_kept | apply kept_next | apply kept_some | apply kept_none
        | apply kept_moved | apply kept_ended | apply kept_ite)

theorem State.writeResetCtl_kept {s0 s : State} (a1 : Sys2Proof.Word) (h : Kept s0 s) : Kept s0 (s.writeResetCtl a1) := by
  unfold State.writeResetCtl
  repeat' first
    | intro _
    | (with_reducible first
        | exact h | exact trivial | assumption | apply State.deviceReset_kept | apply State.partitionReset_kept
        | apply kept_next | apply kept_some | apply kept_none | apply kept_moved | apply kept_ended | apply kept_ite)

theorem execWarmReset_kept {s0 s : State} (a0 : Nat) (a1 : Sys2Proof.Byte) (h : Kept s0 s) :
    KeptRes s0 (execWarmReset a0 a1 s) := by
  unfold execWarmReset
  repeat' first
    | intro _
    | (with_reducible first | exact h | exact trivial | assumption | apply State.regRow_kept | apply State.writeResetCtl_kept)

theorem execPartitionReset_kept {s0 s : State} (a0 : Nat) (a1 : Nat) (a2 : Sys2Proof.Byte) (h : Kept s0 s) :
    KeptRes s0 (execPartitionReset a0 a1 a2 s) := by
  unfold execPartitionReset
  repeat' first
    | intro _
    | (with_reducible first | exact h | exact trivial | assumption | apply State.regRow_kept | apply State.writeResetCtl_kept)

theorem State.closeNow_kept {s0 s : State} (a1 : Nat) (h : Kept s0 s) : Kept s0 (s.closeNow a1) := by
  unfold State.closeNow
  repeat' first
    | intro _
    | (with_reducible first
        | exact h | exact trivial | assumption | apply State.ctxWrite_kept | apply State.countTier_kept
        | apply State.zeroTier_kept)

theorem State.reinitShared_kept {s0 s : State} (h : Kept s0 s) :
    Kept s0 (State.reinitShared s) := by
  unfold State.reinitShared
  repeat' first
    | intro _
    | (with_reducible first
        | exact h | exact trivial | assumption | apply setSplitNext_kept | apply setRail_kept | apply kept_foldl
        | apply kept_foldl1 | apply kept_forEach | apply eachUntil_kept | apply kept_next | apply kept_some
        | apply kept_none | apply kept_wait | apply kept_moved | apply kept_ended | apply kept_ite | apply kept_ite1
        | apply kept_ite2 | apply kept_optite | apply kept_turnite | apply kept_clear | apply kept_put)
    | dsimp only | split
    | (with_reducible first
        | refine kept_pair1 (by assumption) ?_
        | refine kept_pair2 (by assumption) ?_)

theorem execPartitionResetComplete_kept {s0 s : State} (h : Kept s0 s) : KeptRes s0 (execPartitionResetComplete s) := by
  unfold execPartitionResetComplete
  repeat' first
    | intro _
    | (with_reducible first
        | exact h | exact trivial | assumption | apply State.closeRelease_kept | apply State.zeroTier_kept
        | apply State.closeZero_kept | apply State.closeNow_kept | apply State.reinitShared_kept
        | apply State.modCore_kept | apply State.modCluster_kept | apply State.modRegion_kept
        | apply State.modCtl_kept | apply State.forEach_kept | apply State.raise_kept | apply setPages_kept
        | apply setBoot_kept | apply kept_foldl | apply kept_foldl1 | apply kept_forEach | apply eachUntil_kept
        | apply kept_next | apply kept_some | apply kept_none | apply kept_wait | apply kept_moved | apply kept_ended
        | apply kept_ite | apply kept_ite1 | apply kept_ite2 | apply kept_optite | apply kept_turnite
        | apply kept_clear | apply kept_put)
    | dsimp only | split
    | (with_reducible first
        | refine kept_pair1 (by assumption) ?_
        | refine kept_pair2 (by assumption) ?_
        | refine kept_opt (by assumption) ?_
        | refine kept_res (by assumption) ?_)

theorem State.transition_kept {s0 s : State} (a1 : Nat) (h : Kept s0 s) (ht : lifecycleOrder s.fuses.lifecycle
    (BitVec.ofNat 3 a1)) :
    Kept s0 (s.transition a1) := by
  have h1 : Kept s0 ((s.setFuses { s.fuses with lifecycle := BitVec.ofNat 3 a1, flashKeyGen := s.fuses.flashKeyGen + 1
      }).setFlash
      s.flash.destroyed) := by
    refine ⟨h.1, ⟨h.2.1.trans ⟨ht, BitVec.and_self, BitVec.and_self, le_refl _, le_refl _, ⟨rfl, rfl⟩, ⟨rfl, rfl⟩, ⟨rfl, rfl,
        rfl, rfl, rfl⟩⟩, fun w => ?_, h.2.3, h.2.4⟩⟩
    obtain ⟨⟨g1, g2⟩, g3⟩ := h.2.2 w
    have lost : ((s.setFuses { s.fuses with lifecycle := BitVec.ofNat 3 a1, flashKeyGen := s.fuses.flashKeyGen + 1 }).setFlash
        s.flash.destroyed).recordHeld = false := by
      simp [State.recordHeld, State.setFlash, State.setFuses, Flash.destroyed]
    refine ⟨⟨g1, fun hr => absurd (lost.symm.trans hr) (by decide)⟩, le_trans g3 ?_⟩
    have hn : ((s.setFuses { s.fuses with lifecycle := BitVec.ofNat 3 a1, flashKeyGen := s.fuses.flashKeyGen + 1 }).setFlash
        s.flash.destroyed).nextIndex = 1024 * s.fuses.lmsEpochs.toNat := by
      unfold State.nextIndex
      rw [lost]
      rfl
    rw [hn]
    unfold State.nextIndex
    split
    · rename_i hr
      rcases g2 hr with g2 | g2 <;> omega
    · exact le_refl _
  unfold State.transition
  dsimp only
  exact State.raise_kept _ _ _ _ (State.deviceReset_kept _ _ h1)

theorem State.writeTransition_kept {s0 s : State} (a1 : Nat) (a2 : BitVec 16) (h : Kept s0 s) :
    Kept s0 (s.writeTransition a1 a2) := by
  unfold State.writeTransition
  split
  · rename_i hc
    refine State.transition_kept _ h ?_
    have ht := hc.2.1
    have hlt := s.fuses.lifecycle.isLt
    revert ht
    generalize hu : decide (s.boot.unlockTarget = some a1) = u
    clear hu hc
    generalize s.fuses.lifecycle = x
    intro ht
    have ha : a1 < 8 := by
      unfold transitionOk at ht
      split at ht <;> first | omega | simp at ht
    interval_cases a1 <;> revert u x <;> unfold lifecycleOrder <;> decide
  · exact State.countBad_kept _ h

theorem execLifecycleTransition_kept {s0 s : State} (a0 : Nat) (a1 : Nat) (a2 : BitVec 16) (h : Kept s0 s) :
    KeptRes s0 (execLifecycleTransition a0 a1 a2 s) := by
  unfold execLifecycleTransition
  repeat' first
    | intro _
    | (with_reducible first | exact h | exact trivial | assumption | apply State.regRow_kept | apply State.writeTransition_kept)

theorem execJtagTransition_kept {s0 s : State} (a0 : Nat) (h : Kept s0 s) : KeptRes s0 (execJtagTransition a0 s) := by
  unfold execJtagTransition
  refine kept_next ?_
  split
  · rename_i hc
    refine State.transition_kept _ h ?_
    rw [hc.2.1]
    rcases hc.2.2 with rfl | rfl <;> unfold lifecycleOrder <;> decide
  · exact h

/-! ### Boot.lean -/

theorem State.modBoot_kept {s0 s : State} (a1 : Boot → Boot) (h : Kept s0 s) : Kept s0 (s.modBoot a1) := by
  unfold State.modBoot
  repeat' with_reducible first | assumption | apply setBoot_kept

theorem State.freshScalar_kept {s0 s : State} (h : Kept s0 s) : Kept s0 (s.freshScalar).2 := by
  unfold State.freshScalar
  repeat' with_reducible first | assumption | apply setOracle_kept

theorem State.nextEpoch_kept {s0 s : State} (h : Kept s0 s) : Kept s0 (s.nextEpoch) := by
  unfold State.nextEpoch
  dsimp only
  split
  · rename_i hn
    have e : (BitVec.ofNat 11 (s.fuses.lmsEpochs.toNat + 1)).toNat = s.fuses.lmsEpochs.toNat + 1 := by
      rw [BitVec.toNat_ofNat]
      exact Nat.mod_eq_of_lt (by omega)
    refine ⟨h.1, ⟨⟨h.2.1.1, h.2.1.2, h.2.1.3, h.2.1.4, ?_, h.2.1.6, h.2.1.7, h.2.1.8⟩, fun w => ?_, h.2.3, h.2.4⟩⟩
    · exact le_trans h.2.1.5 (by show _ ≤ (BitVec.ofNat 11 (s.fuses.lmsEpochs.toNat + 1)).toNat; omega)
    · obtain ⟨⟨h1, h2⟩, h3⟩ := h.2.2 w
      have held : (((s.setFuses { s.fuses with lmsEpochs := BitVec.ofNat 11 (s.fuses.lmsEpochs.toNat + 1) }).setFlash
          { s.flash with lmsEpoch := some s.fuses.lmsEpochs.toNat, lmsNext := 1024 * s.fuses.lmsEpochs.toNat }).recordHeld) =
              true := by
        simp [State.recordHeld, State.setFlash, State.setFuses, e]
      have hle : s.nextIndex ≤ 1024 * s.fuses.lmsEpochs.toNat := by
        unfold State.nextIndex
        split
        · rename_i hr
          rcases h2 hr with h2 | h2 <;> omega
        · exact le_refl _
      refine ⟨⟨?_, fun _ => .inl ?_⟩, ?_⟩
      · show (BitVec.ofNat 11 (s.fuses.lmsEpochs.toNat + 1)).toNat ≤ 1024
        omega
      · show 1024 * s.fuses.lmsEpochs.toNat < 1024 * (BitVec.ofNat 11 (s.fuses.lmsEpochs.toNat + 1)).toNat
        omega
      · refine le_trans h3 (le_trans hle ?_)
        unfold State.nextIndex
        rw [if_pos held]
        exact le_refl _
  · exact State.raiseEach_kept _ _ _ _ _ (State.modBoot_kept _ h)

theorem State.readLmsRecord_kept {s0 s : State} (h : Kept s0 s) : Kept s0 (s.readLmsRecord) := by
  unfold State.readLmsRecord
  repeat' first | (with_reducible first | assumption | apply State.nextEpoch_kept | apply State.raise_kept) | dsimp only | split

theorem State.train_kept {s0 s : State} (a1 : Nat) (h : Kept s0 s) : Kept s0 (s.train a1) := by
  unfold State.train
  repeat' with_reducible first | assumption | apply State.modPort_kept

theorem State.readFuses_kept {s0 s : State} (a1 : Nat) (h : Kept s0 s) : Kept s0 (State.readFuses s a1) := by
  unfold State.readFuses
  repeat' first
    | intro _
    | (with_reducible first
        | exact h | exact trivial | assumption | apply State.modDie_kept | apply State.raiseStop_kept | apply kept_next
        | apply kept_some | apply kept_none | apply kept_wait | apply kept_moved | apply kept_ended | apply kept_ite
        | apply kept_ite1 | apply kept_ite2 | apply kept_optite | apply kept_turnite | apply kept_foldl | apply kept_foldl1
        | apply kept_forEach | apply kept_getD)
    | dsimp only | split
    | (with_reducible first
        | refine kept_pair1 (by assumption) ?_ | refine kept_pair2 (by assumption) ?_ | refine kept_opt (by assumption) ?_
        | refine kept_turnM (by assumption) ?_ | refine kept_turnE (by assumption) ?_ | refine kept_res (by assumption) ?_)

theorem State.openSilicon_kept {s0 s : State} (h : Kept s0 s) : Kept s0 (State.openSilicon s) := by
  unfold State.openSilicon
  repeat' first
    | intro _
    | (with_reducible first
        | exact h | exact trivial | assumption | apply State.readLmsRecord_kept | apply State.train_kept
        | apply State.readFuses_kept | apply State.modDie_kept | apply kept_next | apply kept_some | apply kept_none
        | apply kept_wait | apply kept_moved | apply kept_ended | apply kept_ite | apply kept_ite1 | apply kept_ite2
        | apply kept_optite | apply kept_turnite | apply kept_foldl | apply kept_foldl1 | apply kept_forEach
        | apply kept_getD)
    | dsimp only | split
    | (with_reducible first
        | refine kept_pair1 (by assumption) ?_ | refine kept_pair2 (by assumption) ?_ | refine kept_opt (by assumption) ?_
        | refine kept_turnM (by assumption) ?_ | refine kept_turnE (by assumption) ?_ | refine kept_res (by assumption) ?_)

theorem execProvisionRead_kept {s0 s : State} (a0 : List Sys2Proof.Byte) (h : Kept s0 s) :
    KeptRes s0 (execProvisionRead a0 s) := by
  unfold execProvisionRead
  repeat' first
    | intro _
    | (with_reducible first
        | exact h | exact trivial | assumption | apply State.modBoot_kept | apply State.openSilicon_kept
        | apply State.modPort_kept | apply State.raiseEach_kept | apply setNet_kept | apply kept_foldl
        | apply kept_foldl1 | apply kept_forEach | apply eachUntil_kept | apply kept_next | apply kept_some
        | apply kept_none | apply kept_wait | apply kept_moved | apply kept_ended | apply kept_ite | apply kept_ite1
        | apply kept_ite2 | apply kept_optite | apply kept_turnite | apply kept_clear | apply kept_put)
    | dsimp only | split
    | (with_reducible first
        | refine kept_pair1 (by assumption) ?_
        | refine kept_pair2 (by assumption) ?_
        | refine kept_opt (by assumption) ?_
        | refine kept_res (by assumption) ?_)

theorem State.sendBoot_kept {s0 s : State} (a1 : Sys2Proof.Byte) (a2 : List Sys2Proof.Byte) (h : Kept s0 s) :
    Kept s0 (s.sendBoot a1 a2) := by
  unfold State.sendBoot
  repeat' with_reducible first | assumption | apply State.sendOwn_kept

theorem execHello_kept {s0 s : State} (h : Kept s0 s) : KeptRes s0 (execHello s) := by
  unfold execHello
  repeat' first
    | (with_reducible first
        | assumption | apply State.modConn_kept | apply State.freshScalar_kept | apply State.modBoot_kept
        | apply State.sendBoot_kept | apply kept_next)
    | split

theorem State.sendFetch_kept {s0 s : State} (a1 : Nat) (h : Kept s0 s) : Kept s0 (s.sendFetch a1) := by
  unfold State.sendFetch
  repeat' with_reducible first | assumption | apply State.sendBoot_kept

theorem execOffer_kept {s0 s : State} (a1 : MsgHdr) (a2 : ServerKeys) (a3 : List Byte) (a4 : Nat) (h : Kept s0 s) :
    KeptRes s0 (execOffer a1 a2 a3 a4 s) := by
  unfold execOffer
  repeat' first
    | intro _
    | (with_reducible first
        | exact h | exact trivial | assumption | apply State.bootAnswer_kept | apply State.modBoot_kept
        | apply State.sendFetch_kept | apply State.modConn_kept | apply State.forEach_kept | apply State.raise_kept
        | apply kept_foldl | apply kept_foldl1 | apply kept_forEach | apply eachUntil_kept | apply kept_next
        | apply kept_some | apply kept_none | apply kept_wait | apply kept_moved | apply kept_ended | apply kept_ite
        | apply kept_ite1 | apply kept_ite2 | apply kept_optite | apply kept_turnite | apply kept_clear
        | apply kept_put)
    | dsimp only | split
    | (with_reducible first
        | refine kept_pair1 (by assumption) ?_
        | refine kept_pair2 (by assumption) ?_
        | refine kept_opt (by assumption) ?_
        | refine kept_res (by assumption) ?_)

theorem execChunk_kept {s0 s : State} (a1 : MsgHdr) (a2 : ImagePiece) (h : Kept s0 s) :
    KeptRes s0 (execChunk a1 a2 s) := by
  unfold execChunk
  repeat' first
    | intro _
    | (with_reducible first
        | exact h | exact trivial | assumption | apply State.bootAnswer_kept | apply State.modBoot_kept
        | apply State.sendFetch_kept | apply State.modConn_kept | apply kept_foldl | apply kept_foldl1
        | apply kept_forEach | apply eachUntil_kept | apply kept_next | apply kept_some | apply kept_none
        | apply kept_wait | apply kept_moved | apply kept_ended | apply kept_ite | apply kept_ite1 | apply kept_ite2
        | apply kept_optite | apply kept_turnite | apply kept_clear | apply kept_put)
    | dsimp only | split
    | (with_reducible first
        | refine kept_pair1 (by assumption) ?_
        | refine kept_pair2 (by assumption) ?_
        | refine kept_res (by assumption) ?_)

theorem State.burn_kept {s0 s : State} (a1 : List Byte) (h : Kept s0 s) : Kept s0 (s.burn a1) := by
  unfold State.burn
  split
  · exact h
  generalize hgo : (BitVec.getLsbD (a1.getD 6 0) 0 && decide (s.fuses.ecdsaRevoked ||| BitVec.ofNat 4 (a1.getD 19 0).toNat ≠
      0xF) &&
    decide (s.fuses.lmsRevoked ||| BitVec.ofNat 4 ((a1.getD 19 0).toNat / 16) ≠ 0xF)) = go
  dsimp only
  rw [hgo]
  generalize (if go = true then revokeBits s.fuses.ecdsaRevoked (BitVec.ofNat 4 (a1.getD 19 0).toNat) ((a1.getD 18 0).toNat % 4)
      else 0) = be
  generalize (if go = true then revokeBits s.fuses.lmsRevoked (BitVec.ofNat 4 ((a1.getD 19 0).toNat / 16))
      ((a1.getD 18 0).toNat / 16 % 4) else 0) = bl
  have h1 : Kept s0 (s.setFuses { s.fuses with ecdsaRevoked := s.fuses.ecdsaRevoked ||| be, lmsRevoked := s.fuses.lmsRevoked |||
      bl }) :=
    setFuses_kept h _ ⟨.inl rfl, and_or_self _ _, and_or_self _ _, le_refl _, le_refl _, ⟨rfl, rfl⟩, ⟨rfl, rfl⟩, ⟨rfl, rfl, rfl,
        rfl, rfl⟩⟩ rfl
  have h2 := kept_forEach (s0 := s0) (f := fun s _ => s.raise pgSecurity 0x0A05 noted 0)
      (fun _ _ h => State.raise_kept _ _ _ _ h)
    (bitsOf be.toNat 4 ++ bitsOf bl.toNat 4) h1
  split
  · rename_i hlt
    refine State.raise_kept _ _ _ _ (setFuses_kept h2 _ ⟨.inl rfl, BitVec.and_self, BitVec.and_self, ?_, le_refl _, ⟨rfl, rfl⟩,
        ⟨rfl, rfl⟩,
      ⟨rfl, rfl, rfl, rfl, rfl⟩⟩ rfl)
    show _ ≤ (BitVec.ofNat 7 (a1.getD 16 0).toNat).toNat
    rw [BitVec.toNat_ofNat, Nat.mod_eq_of_lt (by have := hlt.2.2; omega)]
    exact Nat.le_of_lt hlt.2.1
  · exact h2

theorem execImageVerify_kept {s0 s : State} (h : Kept s0 s) : KeptRes s0 (execImageVerify s) := by
  unfold execImageVerify
  repeat' first
    | intro _
    | (with_reducible first
        | exact h | exact trivial | assumption | apply State.refuseMalformed_kept | apply State.modBoot_kept
        | apply State.sendBoot_kept | apply State.burn_kept | apply State.raise_kept | apply kept_foldl
        | apply kept_foldl1 | apply kept_forEach | apply eachUntil_kept | apply kept_next | apply kept_some
        | apply kept_none | apply kept_wait | apply kept_moved | apply kept_ended | apply kept_ite | apply kept_ite1
        | apply kept_ite2 | apply kept_optite | apply kept_turnite | apply kept_clear | apply kept_put)
    | dsimp only | split
    | (with_reducible first
        | refine kept_pair1 (by assumption) ?_
        | refine kept_pair2 (by assumption) ?_
        | refine kept_res (by assumption) ?_)

theorem execTierZeroingComplete_kept {s0 s : State} (h : Kept s0 s) : KeptRes s0 (execTierZeroingComplete s) := by
  unfold execTierZeroingComplete
  exact kept_next (kept_ite h (setBoot_kept (setMemCond_kept (kept_nil h) _) _))

theorem State.becomeReady_kept {s0 s : State} (h : Kept s0 s) :
    Kept s0 (State.becomeReady s) := by
  unfold State.becomeReady
  repeat' first
    | intro _
    | (with_reducible first
        | exact h | exact trivial | assumption | apply State.modBoot_kept | apply State.raise_kept | apply kept_foldl
        | apply kept_foldl1 | apply kept_forEach | apply eachUntil_kept | apply kept_next | apply kept_some
        | apply kept_none | apply kept_wait | apply kept_moved | apply kept_ended | apply kept_ite | apply kept_ite1
        | apply kept_ite2 | apply kept_optite | apply kept_turnite | apply kept_clear | apply kept_put)
    | dsimp only | split
    | (with_reducible first
        | refine kept_pair1 (by assumption) ?_
        | refine kept_pair2 (by assumption) ?_)

theorem execImageStart_kept {s0 s : State} (h : Kept s0 s) : KeptRes s0 (execImageStart s) := by
  unfold execImageStart
  repeat' first
    | intro _
    | (with_reducible first
        | exact h | exact trivial | assumption | apply SEng.run_kept | apply State.marginCheck_kept
        | apply State.modBoot_kept | apply State.train_kept | apply State.becomeReady_kept | apply State.modDie_kept
        | apply State.forEach_kept | apply State.openValue_kept | apply kept_foldl | apply kept_foldl1
        | apply kept_forEach | apply eachUntil_kept | apply kept_next | apply kept_some | apply kept_none
        | apply kept_wait | apply kept_moved | apply kept_ended | apply kept_ite | apply kept_ite1 | apply kept_ite2
        | apply kept_optite | apply kept_turnite | apply kept_clear | apply kept_put)
    | dsimp only | split
    | (with_reducible first
        | refine kept_pair1 (by assumption) ?_
        | refine kept_pair2 (by assumption) ?_
        | refine kept_res (by assumption) ?_)

theorem State.below_of_unspent {s : State} (w : s.recordOk) (hs : s.lmsSpent = false) (hh : s.recordHeld = true) :
    s.flash.lmsNext < 1024 * s.fuses.lmsEpochs.toNat := by
  rcases w.2 hh with h | ⟨h1, h2⟩
  · exact h
  · simp [State.lmsSpent, h1, h2] at hs

theorem State.takeIndex_kept {s0 s : State} (h : Kept s0 s) (hs : s.lmsSpent = false) : Kept s0 (s.takeIndex) := by
  have held : ∀ v : Flash, v.lmsEpoch = s.flash.lmsEpoch → (s.setFlash v).recordHeld = s.recordHeld := fun v hv => by
    show (decide (0 < s.fuses.lmsEpochs.toNat) && decide (v.lmsEpoch = some (s.fuses.lmsEpochs.toNat - 1))) = s.recordHeld
    rw [hv]
    rfl
  have hx := held { s.flash with lmsNext := s.flash.lmsNext + 1 } rfl
  unfold State.takeIndex
  dsimp only
  by_cases hb : s.flash.lmsNext + 1 = 1024 * s.fuses.lmsEpochs.toNat
  · have hn : s.fuses.lmsEpochs.toNat ≤ 1024 → ((s.setFlash { s.flash with lmsNext := s.flash.lmsNext + 1 }).nextEpoch =
      s.nextEpoch ∨ s.fuses.lmsEpochs.toNat = 1024) := by
      intro hle
      rcases Nat.lt_or_ge s.fuses.lmsEpochs.toNat 1024 with hl | hl
      · left
        unfold State.nextEpoch
        show (if s.fuses.lmsEpochs.toNat < 1024 then _ else _) = _
        dsimp only
        rw [if_pos hl, if_pos hl]
        rfl
      · exact .inr (le_antisymm hle hl)
    have key : Kept s0 (s.setFlash { s.flash with lmsNext := s.flash.lmsNext + 1 }).nextEpoch := by
      rcases Nat.lt_or_ge s.fuses.lmsEpochs.toNat 1024 with hl | hl
      · rcases hn (le_of_lt hl) with e | e
        · rw [e]
          exact State.nextEpoch_kept h
        · omega
      · have base : Kept s0 (s.setFlash { s.flash with lmsNext := s.flash.lmsNext + 1 }) := by
          refine ⟨h.1, ⟨h.2.1, fun w => ?_, h.2.3, h.2.4⟩⟩
          obtain ⟨⟨g1, g2⟩, g3⟩ := h.2.2 w
          have e : s.fuses.lmsEpochs.toNat = 1024 := le_antisymm g1 hl
          refine ⟨⟨g1, fun _ => .inr ⟨e, ?_⟩⟩, le_trans g3 ?_⟩
          · exact hb.trans (by rw [e])
          · unfold State.nextIndex
            rw [hx]
            show (if _ then _ else _) ≤ (if _ then s.flash.lmsNext + 1 else 1024 * s.fuses.lmsEpochs.toNat)
            split
            · exact Nat.le_succ _
            · exact le_refl _
        exact State.nextEpoch_kept base
    split
    · exact key
    · rename_i hc
      exact absurd hb hc
  · have base : Kept s0 (s.setFlash { s.flash with lmsNext := s.flash.lmsNext + 1 }) := by
      refine ⟨h.1, ⟨h.2.1, fun w => ?_, h.2.3, h.2.4⟩⟩
      obtain ⟨w', g3⟩ := h.2.2 w
      refine ⟨⟨w'.1, fun hh => .inl ?_⟩, le_trans g3 ?_⟩
      · rw [hx] at hh
        have := State.below_of_unspent w' hs hh
        show s.flash.lmsNext + 1 < 1024 * s.fuses.lmsEpochs.toNat
        omega
      · unfold State.nextIndex
        rw [hx]
        show (if _ then _ else _) ≤ (if _ then s.flash.lmsNext + 1 else 1024 * s.fuses.lmsEpochs.toNat)
        split
        · exact Nat.le_succ _
        · exact le_refl _
    split
    · rename_i hc
      exact absurd hc hb
    · exact base

theorem execAttestReq_kept {s0 s : State} (n : Nat) (hdr : MsgHdr) (nonce : List Byte) (h : Kept s0 s) :
    KeptRes s0 (execAttestReq n hdr nonce s) := by
  unfold execAttestReq
  have ht : Kept s0 (s.modConn n Conn.applied) := State.modConn_kept _ _ h
  generalize s.modConn n Conn.applied = t at ht
  refine kept_next (kept_ite h (kept_ite (State.bootAnswer_kept _ _ _ ht) ?_))
  refine State.refuseMalformed_kept _ (State.sendMsg_kept _ _ _ ?_)
  by_cases hs : t.lmsSpent = true
  · simp only [hs, if_true]
    exact State.freshScalar_kept ht
  · simp only [hs]
    have hf : t.lmsSpent = false := by simpa using hs
    exact State.takeIndex_kept (State.freshScalar_kept ht) hf

theorem State.checkToken_kept {s0 s : State} (h : Kept s0 s) : Kept s0 (s.checkToken) := by
  unfold State.checkToken
  repeat' first
    | (with_reducible first | assumption | apply setBoot_kept | apply setOracle_kept | apply State.raise_kept)
    | dsimp only | split

theorem State.writeUnlock_kept {s0 s : State} (a1 : Nat) (a2 : Sys2Proof.Word) (h : Kept s0 s) :
    Kept s0 (s.writeUnlock a1 a2) := by
  unfold State.writeUnlock
  repeat' first | (with_reducible first | assumption | apply State.modBoot_kept | apply State.checkToken_kept) | split

theorem execUnlockToken_kept {s0 s : State} (a0 : Nat) (a1 : Sys2Proof.Word) (h : Kept s0 s) :
    KeptRes s0 (execUnlockToken a0 a1 s) := by
  unfold execUnlockToken
  repeat' first | intro _ | (with_reducible first | assumption | apply State.regRow_kept | apply State.writeUnlock_kept)

/-! ### Ports.lean -/

theorem State.setPlane_kept {s0 s : State} (a1 : Nat) (a2 : Bool) (h : Kept s0 s) : Kept s0 (s.setPlane a1 a2) := by
  unfold State.setPlane
  repeat' first | (with_reducible first | assumption | apply setNet_kept | apply State.raise_kept) | split

theorem State.loseLink_kept {s0 s : State} (a1 : Nat) (h : Kept s0 s) : Kept s0 (s.loseLink a1) := by
  unfold State.loseLink
  repeat' first
    | (with_reducible first | assumption | apply State.modPort_kept | apply State.raise_kept | apply State.setPlane_kept)
    | dsimp only | split

theorem execLinkUp_kept {s0 s : State} (a0 : Nat) (a1 : Bool) (h : Kept s0 s) : KeptRes s0 (execLinkUp a0 a1 s) := by
  unfold execLinkUp
  repeat' first
    | (with_reducible first | assumption | apply State.raise_kept | apply State.modPort_kept | apply kept_next)
    | split

theorem execLinkDown_kept {s0 s : State} (a0 : Nat) (h : Kept s0 s) : KeptRes s0 (execLinkDown a0 s) := by
  unfold execLinkDown
  repeat' first | (with_reducible first | assumption | apply State.loseLink_kept | apply kept_next) | split

theorem execFecDegraded_kept {s0 s : State} (a0 : Nat) (a1 : Nat) (a2 : Nat) (h : Kept s0 s) :
    KeptRes s0 (execFecDegraded a0 a1 a2 s) := by
  unfold execFecDegraded
  repeat' first
    | intro _
    | (with_reducible first
        | exact h | exact trivial | assumption | apply State.modPort_kept | apply State.raiseFull_kept
        | apply kept_foldl | apply kept_foldl1 | apply kept_forEach | apply eachUntil_kept | apply kept_next
        | apply kept_some | apply kept_none | apply kept_wait | apply kept_moved | apply kept_ended | apply kept_ite
        | apply kept_ite1 | apply kept_ite2 | apply kept_optite | apply kept_turnite | apply kept_clear
        | apply kept_put)
    | dsimp only | split
    | (with_reducible first
        | refine kept_pair1 (by assumption) ?_
        | refine kept_pair2 (by assumption) ?_
        | refine kept_opt (by assumption) ?_
        | refine kept_res (by assumption) ?_)

theorem State.writeEnable_kept {s0 s : State} (a1 : Nat) (a2 : Bool) (h : Kept s0 s) : Kept s0 (s.writeEnable a1 a2) := by
  unfold State.writeEnable
  repeat' first | (with_reducible first | assumption | apply State.modPort_kept | apply State.loseLink_kept) | split

theorem execPortEnable_kept {s0 s : State} (a0 : Nat) (a1 : Nat) (a2 : Bool) (h : Kept s0 s) :
    KeptRes s0 (execPortEnable a0 a1 a2 s) := by
  unfold execPortEnable
  repeat' first | intro _ | (with_reducible first | assumption | apply State.regRow_kept | apply State.writeEnable_kept) | split

theorem execFrameReceive_kept {s0 s : State} (a0 : Nat) (a1 : Sys2Proof.EthFrame) (h : Kept s0 s) :
    KeptRes s0 (execFrameReceive a0 a1 s) := by
  unfold execFrameReceive
  repeat' first | (with_reducible first | assumption | apply State.modPort_kept | apply kept_next) | dsimp only | split

theorem execArpRequest_kept {s0 s : State} (a0 : Nat) (a1 : BitVec 48) (a2 : Sys2Proof.Word) (a3 : Sys2Proof.Word)
    (h : Kept s0 s) : KeptRes s0 (execArpRequest a0 a1 a2 a3 s) := by
  unfold execArpRequest
  repeat' first
    | (with_reducible first | assumption | apply State.modPort_kept | apply setOutbox_kept | apply kept_next)
    | dsimp only | split

theorem execArpReply_kept {s0 s : State} (a0 : Nat) (a1 : BitVec 48) (a2 : Sys2Proof.Word) (h : Kept s0 s) :
    KeptRes s0 (execArpReply a0 a1 a2 s) := by
  unfold execArpReply
  repeat' first | (with_reducible first | assumption | apply State.modPort_kept | apply kept_next) | split

theorem execNeighbourSolicitation_kept {s0 s : State} (a0 : Nat) (a1 : BitVec 48) (a2 : BitVec 128) (a3 : BitVec 128)
    (h : Kept s0 s) : KeptRes s0 (execNeighbourSolicitation a0 a1 a2 a3 s) := by
  unfold execNeighbourSolicitation
  repeat' first
    | (with_reducible first | assumption | apply State.modPort_kept | apply setOutbox_kept | apply kept_next)
    | dsimp only | split

theorem execNeighbourAdvertisement_kept {s0 s : State} (a0 : Nat) (a1 : BitVec 48) (a2 : BitVec 128) (h : Kept s0 s) :
    KeptRes s0 (execNeighbourAdvertisement a0 a1 a2 s) := by
  unfold execNeighbourAdvertisement
  repeat' first | (with_reducible first | assumption | apply State.modPort_kept | apply kept_next) | split

theorem execNeighbourExpiry_kept {s0 s : State} (a0 : Nat) (a1 : BitVec 128) (h : Kept s0 s) :
    KeptRes s0 (execNeighbourExpiry a0 a1 s) := by
  unfold execNeighbourExpiry
  repeat' first | (with_reducible first | assumption | apply State.modPort_kept | apply kept_next) | split

theorem State.modTime_kept {s0 s : State} (a1 : TimeSt → TimeSt) (h : Kept s0 s) : Kept s0 (s.modTime a1) := by
  unfold State.modTime
  repeat' with_reducible first | assumption | apply setTime_kept

theorem execPtpSync_kept {s0 s : State} (a0 : Nat) (a1 : Nat) (a2 : Nat) (h : Kept s0 s) :
    KeptRes s0 (execPtpSync a0 a1 a2 s) := by
  unfold execPtpSync
  repeat' first
    | (with_reducible first | assumption | apply State.modTime_kept | apply State.modPort_kept | apply kept_next)
    | split

theorem execPtpFollowUp_kept {s0 s : State} (a0 : Nat) (a1 : Nat) (a2 : Nat) (a3 : Nat) (h : Kept s0 s) :
    KeptRes s0 (execPtpFollowUp a0 a1 a2 a3 s) := by
  unfold execPtpFollowUp
  repeat' first
    | intro _
    | (with_reducible first
        | exact h | exact trivial | assumption | apply State.modPort_kept | apply State.raise_kept
        | apply setTime_kept | apply kept_foldl | apply kept_foldl1 | apply kept_forEach | apply eachUntil_kept
        | apply kept_next | apply kept_some | apply kept_none | apply kept_wait | apply kept_moved | apply kept_ended
        | apply kept_ite | apply kept_ite1 | apply kept_ite2 | apply kept_optite | apply kept_turnite
        | apply kept_clear | apply kept_put)
    | dsimp only | split
    | (with_reducible first
        | refine kept_pair1 (by assumption) ?_
        | refine kept_pair2 (by assumption) ?_
        | refine kept_opt (by assumption) ?_
        | refine kept_res (by assumption) ?_)

theorem execPtpDelayReq_kept {s0 s : State} (h : Kept s0 s) : KeptRes s0 (execPtpDelayReq s) := by
  unfold execPtpDelayReq
  repeat' first
    | (with_reducible first
        | assumption | apply setOutbox_kept | apply State.modPort_kept | apply State.modTime_kept | apply kept_next)
    | split

theorem execPtpDelayResp_kept {s0 s : State} (a0 : Nat) (a1 : Nat) (a2 : Nat) (a3 : Nat) (h : Kept s0 s) :
    KeptRes s0 (execPtpDelayResp a0 a1 a2 a3 s) := by
  unfold execPtpDelayResp
  repeat' first
    | (with_reducible first | assumption | apply State.modTime_kept | apply State.modPort_kept | apply kept_next)
    | split

/-! ### Relsen.lean -/

theorem State.resolve_kept {s0 s : State} (a1 : Nat) (a2 : BitVec 128) (h : Kept s0 s) : Kept s0 (s.resolve a1 a2).2 := by
  unfold State.resolve
  repeat' first
    | intro _
    | (with_reducible first
        | exact h | exact trivial | assumption | apply setOutbox_kept | apply State.modPort_kept | apply kept_next
        | apply kept_some | apply kept_none | apply kept_getD | apply kept_wait | apply kept_moved | apply kept_ended
        | apply kept_ite | apply kept_ite1 | apply kept_ite2)

theorem State.sendPacket_kept {s0 s : State} (a1 : Nat) (a2 : Option Msg) (a3 : Option Nat) (h : Kept s0 s) :
    Kept s0 (s.sendPacket a1 a2 a3).2 := by
  unfold State.sendPacket
  repeat' first
    | intro _
    | (with_reducible first
        | exact h | exact trivial | assumption | apply State.resolve_kept | apply State.modConn_kept
        | apply State.modPort_kept | apply setOutbox_kept | apply kept_foldl | apply kept_foldl1 | apply kept_forEach
        | apply eachUntil_kept | apply kept_next | apply kept_some | apply kept_none | apply kept_wait
        | apply kept_moved | apply kept_ended | apply kept_ite | apply kept_ite1 | apply kept_ite2
        | apply kept_optite | apply kept_turnite | apply kept_clear | apply kept_put)
    | dsimp only | split
    | (with_reducible first
        | refine kept_pair1 (by assumption) ?_
        | refine kept_pair2 (by assumption) ?_
        | refine kept_opt (by assumption) ?_
        | refine kept_res (by assumption) ?_)

theorem State.restartDrain_kept {s0 s : State} (a1 : Nat) (h : Kept s0 s) :
    Kept s0 (State.restartDrain s a1) := by
  unfold State.restartDrain
  repeat' first
    | intro _
    | (with_reducible first
        | exact h | exact trivial | assumption | apply setSnap_kept | apply kept_foldl | apply kept_foldl1
        | apply kept_forEach | apply eachUntil_kept | apply kept_next | apply kept_some | apply kept_none
        | apply kept_wait | apply kept_moved | apply kept_ended | apply kept_ite | apply kept_ite1 | apply kept_ite2
        | apply kept_optite | apply kept_turnite | apply kept_clear | apply kept_put)
    | dsimp only | split
    | (with_reducible first
        | refine kept_pair1 (by assumption) ?_
        | refine kept_pair2 (by assumption) ?_)

theorem State.countLosses_kept {s0 s : State} (a1 : List Sent) (h : Kept s0 s) : Kept s0 (s.countLosses a1) := by
  unfold State.countLosses
  repeat' first
    | intro _
    | (with_reducible first
        | exact h | exact trivial | assumption | apply kept_foldl | apply kept_foldl1 | apply setNet_kept
        | apply State.setPlane_kept | apply kept_next | apply kept_some | apply kept_none | apply kept_getD | apply kept_wait
        | apply kept_moved | apply kept_ended | apply kept_ite)

theorem State.loseSent_kept {s0 s : State} (a1 : Nat) (a2 : List Sent) (h : Kept s0 s) : Kept s0 (s.loseSent a1 a2) := by
  unfold State.loseSent
  repeat' first
    | intro _
    | (with_reducible first | exact h | exact trivial | assumption | apply State.countLosses_kept | apply State.modConn_kept)

theorem State.takeAck_kept {s0 s : State} (a1 : Nat) (a2 : Sys2Proof.Entry) (h : Kept s0 s) : Kept s0 (s.takeAck a1 a2) := by
  unfold State.takeAck
  repeat' first
    | intro _
    | (with_reducible first
        | exact h | exact trivial | assumption | apply State.modConn_kept | apply setNet_kept | apply kept_foldl
        | apply kept_foldl1 | apply State.setPlane_kept | apply State.loseSent_kept | apply kept_next | apply kept_some
        | apply kept_none | apply kept_getD | apply kept_wait | apply kept_moved | apply kept_ended | apply kept_ite)

theorem State.headerAcked_kept {s0 s : State} (a1 : Nat) (h : Kept s0 s) : Kept s0 (s.headerAcked a1) := by
  unfold State.headerAcked
  repeat' first
    | intro _
    | (with_reducible first
        | exact h | exact trivial | assumption | apply setSnap_kept | apply State.raise_kept | apply kept_next | apply kept_some
        | apply kept_none | apply kept_getD | apply kept_wait | apply kept_moved | apply kept_ended | apply kept_ite
        | apply kept_ite1 | apply kept_ite2 | apply kept_optite | apply kept_turnite)
    | dsimp only | split

theorem State.stranger_kept {s0 s : State} (a1 : Nat) (a2 : BitVec 128) (h : Kept s0 s) : Kept s0 (State.stranger s a1 a2) :=
    by
  unfold State.stranger
  repeat' first
    | intro _
    | (with_reducible first
        | exact h | exact trivial | assumption | apply State.modPort_kept | apply State.raiseFull_kept | apply kept_next
        | apply kept_some | apply kept_none | apply kept_wait | apply kept_moved | apply kept_ended | apply kept_ite
        | apply kept_ite1 | apply kept_ite2 | apply kept_optite | apply kept_turnite | apply kept_foldl | apply kept_foldl1
        | apply kept_forEach | apply kept_getD)
    | dsimp only | split
    | (with_reducible first
        | refine kept_pair1 (by assumption) ?_ | refine kept_pair2 (by assumption) ?_ | refine kept_opt (by assumption) ?_
        | refine kept_turnM (by assumption) ?_ | refine kept_turnE (by assumption) ?_ | refine kept_res (by assumption) ?_)

theorem State.acceptPacket_kept {s0 s : State} (a1 : Nat) (a2 : Nat) (a3 : Sys2Proof.RxPacket) (a4 : List Sys2Proof.Byte) (h
    : Kept s0 s) : Kept s0 (State.acceptPacket s a1 a2 a3 a4) := by
  unfold State.acceptPacket
  repeat' first
    | intro _
    | (with_reducible first
        | exact h | exact trivial | assumption | apply State.modConn_kept | apply State.refuseMalformed_kept
        | apply State.headerAcked_kept | apply State.takeAck_kept | apply State.sendPacket_kept | apply kept_next
        | apply kept_some | apply kept_none | apply kept_wait | apply kept_moved | apply kept_ended | apply kept_ite
        | apply kept_ite1 | apply kept_ite2 | apply kept_optite | apply kept_turnite | apply kept_foldl | apply kept_foldl1
        | apply kept_forEach | apply kept_getD)
    | dsimp only | split
    | (with_reducible first
        | refine kept_pair1 (by assumption) ?_ | refine kept_pair2 (by assumption) ?_ | refine kept_opt (by assumption) ?_
        | refine kept_turnM (by assumption) ?_ | refine kept_turnE (by assumption) ?_ | refine kept_res (by assumption) ?_)

theorem execRelsenPacket_kept {s0 s : State} (a1 : Nat) (a2 : Sys2Proof.RxPacket) (h : Kept s0 s) : KeptRes s0
    (execRelsenPacket a1 a2 s) := by
  unfold execRelsenPacket
  repeat' first
    | intro _
    | (with_reducible first
        | exact h | exact trivial | assumption | apply State.modPort_kept | apply State.stranger_kept | apply setNet_kept
        | apply State.acceptPacket_kept | apply kept_next | apply kept_some | apply kept_none | apply kept_wait
        | apply kept_moved | apply kept_ended | apply kept_ite | apply kept_ite1 | apply kept_ite2 | apply kept_optite
        | apply kept_turnite | apply kept_foldl | apply kept_foldl1 | apply kept_forEach | apply kept_getD)
    | dsimp only | split
    | (with_reducible first
        | refine kept_pair1 (by assumption) ?_ | refine kept_pair2 (by assumption) ?_ | refine kept_opt (by assumption) ?_
        | refine kept_turnM (by assumption) ?_ | refine kept_turnE (by assumption) ?_ | refine kept_res (by assumption) ?_)

theorem execAckTimer_kept {s0 s : State} (a0 : Nat) (h : Kept s0 s) : KeptRes s0 (execAckTimer a0 s) := by
  unfold execAckTimer
  repeat' first
    | intro _
    | (with_reducible first
        | exact h | exact trivial | assumption | apply State.sendPacket_kept | apply kept_next | apply kept_some
        | apply kept_none | apply kept_getD | apply kept_wait | apply kept_moved | apply kept_ended | apply kept_ite)

theorem execLossDetectionTimer_kept {s0 s : State} (a0 : Nat) (a1 : Nat) (h : Kept s0 s) :
    KeptRes s0 (execLossDetectionTimer a0 a1 s) := by
  unfold execLossDetectionTimer
  repeat' first
    | intro _
    | (with_reducible first
        | exact h | exact trivial | assumption | apply State.loseSent_kept | apply kept_next | apply kept_some | apply kept_none
        | apply kept_getD | apply kept_wait | apply kept_moved | apply kept_ended | apply kept_ite)

theorem execRetransmissionTimer_kept {s0 s : State} (a0 : Nat) (h : Kept s0 s) : KeptRes s0 (execRetransmissionTimer a0 s) := by
  unfold execRetransmissionTimer
  repeat' first
    | intro _
    | (with_reducible first
        | exact h | exact trivial | assumption | apply State.modConn_kept | apply State.loseSent_kept | apply kept_next
        | apply kept_some | apply kept_none | apply kept_getD | apply kept_wait | apply kept_moved | apply kept_ended
        | apply kept_ite)

theorem execConnectionLost_kept {s0 s : State} (a0 : Nat) (h : Kept s0 s) : KeptRes s0 (execConnectionLost a0 s) := by
  unfold execConnectionLost
  repeat' first
    | intro _
    | (with_reducible first
        | exact h | exact trivial | assumption | apply State.restartDrain_kept | apply State.modConn_kept
        | apply State.raise_kept | apply setSnap_kept | apply kept_foldl | apply kept_foldl1 | apply kept_forEach
        | apply eachUntil_kept | apply kept_next | apply kept_some | apply kept_none | apply kept_wait
        | apply kept_moved | apply kept_ended | apply kept_ite | apply kept_ite1 | apply kept_ite2
        | apply kept_optite | apply kept_turnite | apply kept_clear | apply kept_put)
    | dsimp only | split
    | (with_reducible first
        | refine kept_pair1 (by assumption) ?_
        | refine kept_pair2 (by assumption) ?_
        | refine kept_res (by assumption) ?_)

theorem execPlaneProbe_kept {s0 s : State} (a0 : Nat) (h : Kept s0 s) : KeptRes s0 (execPlaneProbe a0 s) := by
  unfold execPlaneProbe
  repeat' first
    | intro _
    | (with_reducible first
        | exact h | exact trivial | assumption | apply State.sendPacket_kept | apply kept_next | apply kept_some
        | apply kept_none | apply kept_getD | apply kept_wait | apply kept_moved | apply kept_ended | apply kept_ite
        | apply kept_ite1 | apply kept_ite2 | apply kept_optite | apply kept_turnite)
    | dsimp only | split

theorem State.feedDrain_kept {s0 s : State} (a1 : Nat) (h : Kept s0 s) : Kept s0 (s.feedDrain a1) := by
  unfold State.feedDrain
  repeat' first
    | intro _
    | (with_reducible first
        | exact h | exact trivial | assumption | apply State.sendOwn_kept | apply State.noteTier_kept | apply setSnap_kept | apply kept_next
        | apply kept_some | apply kept_none | apply kept_getD | apply kept_wait | apply kept_moved | apply kept_ended
        | apply kept_ite)

theorem execPacketPacing_kept {s0 s : State} (a0 : Nat) (h : Kept s0 s) : KeptRes s0 (execPacketPacing a0 s) := by
  unfold execPacketPacing
  repeat' first
    | intro _
    | (with_reducible first
        | exact h | exact trivial | assumption | apply State.feedDrain_kept | apply State.sendPacket_kept
        | apply State.modConn_kept | apply kept_next | apply kept_some | apply kept_none | apply kept_getD | apply kept_wait
        | apply kept_moved | apply kept_ended | apply kept_ite | apply kept_ite1 | apply kept_ite2 | apply kept_optite
        | apply kept_turnite)
    | dsimp only | split
    | (with_reducible first | refine kept_pair1 (by assumption) ?_ | refine kept_pair2 (by assumption) ?_)

theorem execEventSend_kept {s0 s : State} (a0 : Nat) (h : Kept s0 s) : KeptRes s0 (execEventSend a0 s) := by
  unfold execEventSend
  repeat' first
    | intro _
    | (with_reducible first
        | exact h | exact trivial | assumption | apply State.modDie_kept | apply State.sendOwn_kept | apply kept_next
        | apply kept_some | apply kept_none | apply kept_getD | apply kept_wait | apply kept_moved | apply kept_ended
        | apply kept_ite)

theorem State.openConn_kept {s0 s : State} (h : Kept s0 s) : Kept s0 (s.openConn) := by
  unfold State.openConn
  repeat' first
    | intro _
    | (with_reducible first
        | exact h | exact trivial | assumption | apply State.freshScalar_kept | apply State.restartDrain_kept
        | apply State.modConn_kept | apply State.countBad_kept | apply setNet_kept | apply kept_foldl
        | apply kept_foldl1 | apply kept_forEach | apply eachUntil_kept | apply kept_next | apply kept_some
        | apply kept_none | apply kept_wait | apply kept_moved | apply kept_ended | apply kept_ite | apply kept_ite1
        | apply kept_ite2 | apply kept_optite | apply kept_turnite | apply kept_clear | apply kept_put)
    | dsimp only | split
    | (with_reducible first
        | refine kept_pair1 (by assumption) ?_
        | refine kept_pair2 (by assumption) ?_
        | refine kept_opt (by assumption) ?_)

theorem State.closeConn_kept {s0 s : State} (h : Kept s0 s) : Kept s0 (s.closeConn) := by
  unfold State.closeConn
  repeat' first
    | intro _
    | (with_reducible first
        | exact h | exact trivial | assumption | apply State.restartDrain_kept | apply State.modConn_kept
        | apply kept_foldl | apply kept_foldl1 | apply kept_forEach | apply eachUntil_kept | apply kept_next
        | apply kept_some | apply kept_none | apply kept_wait | apply kept_moved | apply kept_ended | apply kept_ite
        | apply kept_ite1 | apply kept_ite2 | apply kept_optite | apply kept_turnite | apply kept_clear
        | apply kept_put)
    | dsimp only | split
    | (with_reducible first
        | refine kept_pair1 (by assumption) ?_
        | refine kept_pair2 (by assumption) ?_)

theorem State.writeConnCtl_kept {s0 s : State} (a1 : Sys2Proof.Word) (h : Kept s0 s) : Kept s0 (s.writeConnCtl a1) := by
  unfold State.writeConnCtl
  repeat' first
    | intro _
    | (with_reducible first
        | exact h | exact trivial | assumption | apply State.closeConn_kept | apply State.openConn_kept | apply kept_next
        | apply kept_some | apply kept_none | apply kept_getD | apply kept_wait | apply kept_moved | apply kept_ended
        | apply kept_ite)

theorem execConnOpen_kept {s0 s : State} (a0 : Nat) (h : Kept s0 s) : KeptRes s0 (execConnOpen a0 s) := by
  unfold execConnOpen
  repeat' first
    | intro _
    | (with_reducible first | exact h | exact trivial | assumption | apply State.regRow_kept | apply State.writeConnCtl_kept)

theorem execConnClose_kept {s0 s : State} (a0 : Nat) (h : Kept s0 s) : KeptRes s0 (execConnClose a0 s) := by
  unfold execConnClose
  repeat' first
    | intro _
    | (with_reducible first | exact h | exact trivial | assumption | apply State.regRow_kept | apply State.writeConnCtl_kept)

/-! ### Messages.lean -/

theorem State.request_kept {s0 s : State} (a1 : Nat) (a2 : Sys2Proof.Byte) (a3 : Sys2Proof.MsgHdr) (a4 : List Sys2Proof.Byte)
    (a5 : Bool) (a6 : Bool) (a7 : State → State × Answer) (h7 : ∀ t, Kept s0 t → Kept s0 (a7 t ).1) (h : Kept s0 s) : KeptRes s0
    (s.request a1 a2 a3 a4 a5 a6 a7) := by
  unfold State.request
  repeat' with_reducible first
    | assumption | apply h7 | apply State.modConn_kept | apply State.refuseMalformed_kept | apply State.respond_kept
    | apply kept_next | apply kept_ite

theorem State.whileStopped_kept {s0 s : State} (body : List Sys2Proof.Byte) (f : State → State × Answer)
    (hf : ∀ t, Kept s0 t → Kept s0 (f t).1) (h : Kept s0 s) : Kept s0 (s.whileStopped body f).1 := by
  rw [State.whileStopped]
  exact kept_ite1 (hf _ h) (State.openValue_kept h)

theorem State.appendEntries_kept {s0 s : State} (a1 : Nat) (a2 : Nat) (a3 : List Sys2Proof.Entry) (h : Kept s0 s) : Kept s0
    (State.appendEntries s a1 a2 a3) := by
  unfold State.appendEntries
  repeat' first
    | intro _
    | (with_reducible first
        | exact h | exact trivial | assumption | apply State.writeBytes_kept | apply State.strikeSeq_kept
        | apply State.modQueue_kept | apply kept_next | apply kept_some | apply kept_none | apply kept_wait
        | apply kept_moved | apply kept_ended | apply kept_ite | apply kept_ite1 | apply kept_ite2 | apply kept_optite
        | apply kept_turnite | apply kept_foldl | apply kept_foldl1 | apply kept_forEach | apply kept_getD)
    | dsimp only | split
    | (with_reducible first
        | refine kept_pair1 (by assumption) ?_ | refine kept_pair2 (by assumption) ?_ | refine kept_opt (by assumption) ?_
        | refine kept_turnM (by assumption) ?_ | refine kept_turnE (by assumption) ?_ | refine kept_res (by assumption) ?_)

theorem State.applyCommand_kept {s0 s : State} (a1 : Nat) (a2 : Nat) (a3 : List Sys2Proof.Entry) (h : Kept s0 s) : Kept s0
    (State.applyCommand s a1 a2 a3).1 := by
  unfold State.applyCommand
  repeat' first
    | intro _
    | (with_reducible first
        | exact h | exact trivial | assumption | apply State.appendEntries_kept | apply State.modQueue_kept
        | apply State.raiseRare_kept | apply kept_next | apply kept_some | apply kept_none | apply kept_wait
        | apply kept_moved | apply kept_ended | apply kept_ite | apply kept_ite1 | apply kept_ite2 | apply kept_optite
        | apply kept_turnite | apply kept_foldl | apply kept_foldl1 | apply kept_forEach | apply kept_getD)
    | dsimp only | split
    | (with_reducible first
        | refine kept_pair1 (by assumption) ?_ | refine kept_pair2 (by assumption) ?_ | refine kept_opt (by assumption) ?_
        | refine kept_turnM (by assumption) ?_ | refine kept_turnE (by assumption) ?_ | refine kept_res (by assumption) ?_)

theorem execCommand_kept {s0 s : State} (a1 : Nat) (a2 : Sys2Proof.MsgHdr) (a3 : Nat) (a4 : List Sys2Proof.Entry) (h : Kept
    s0 s) : KeptRes s0 (execCommand a1 a2 a3 a4 s) := by
  unfold execCommand
  repeat' first
    | intro _
    | (with_reducible first
        | exact h | exact trivial | assumption | apply State.request_kept | apply State.whileStopped_kept
        | apply State.applyCommand_kept | apply kept_next | apply kept_some | apply kept_none | apply kept_wait
        | apply kept_moved | apply kept_ended | apply kept_ite | apply kept_ite1 | apply kept_ite2 | apply kept_optite
        | apply kept_turnite | apply kept_foldl | apply kept_foldl1 | apply kept_forEach | apply kept_getD)
    | dsimp only | split
    | (with_reducible first
        | refine kept_pair1 (by assumption) ?_ | refine kept_pair2 (by assumption) ?_ | refine kept_opt (by assumption) ?_
        | refine kept_turnM (by assumption) ?_ | refine kept_turnE (by assumption) ?_ | refine kept_res (by assumption) ?_)

theorem State.applyWrite_kept {s0 s : State} (a1 : Nat) (a2 : Nat) (a3 : List Sys2Proof.Byte) (h : Kept s0 s) : Kept s0
    (State.applyWrite s a1 a2 a3).1 := by
  unfold State.applyWrite
  repeat' first
    | intro _
    | (with_reducible first
        | exact h | exact trivial | assumption | apply State.writeBytes_kept | apply kept_next | apply kept_some
        | apply kept_none | apply kept_wait | apply kept_moved | apply kept_ended | apply kept_ite | apply kept_ite1
        | apply kept_ite2 | apply kept_optite | apply kept_turnite | apply kept_foldl | apply kept_foldl1
        | apply kept_forEach | apply kept_getD)
    | dsimp only | split
    | (with_reducible first
        | refine kept_pair1 (by assumption) ?_ | refine kept_pair2 (by assumption) ?_ | refine kept_opt (by assumption) ?_
        | refine kept_turnM (by assumption) ?_ | refine kept_turnE (by assumption) ?_ | refine kept_res (by assumption) ?_)

theorem execDataWrite_kept {s0 s : State} (a1 : Nat) (a2 : Sys2Proof.MsgHdr) (a3 : Nat) (a4 : List Sys2Proof.Byte) (h : Kept
    s0 s) : KeptRes s0 (execDataWrite a1 a2 a3 a4 s) := by
  unfold execDataWrite
  repeat' first
    | intro _
    | (with_reducible first
        | exact h | exact trivial | assumption | apply State.request_kept | apply State.whileStopped_kept
        | apply State.applyWrite_kept | apply kept_next | apply kept_some | apply kept_none | apply kept_wait
        | apply kept_moved | apply kept_ended | apply kept_ite | apply kept_ite1 | apply kept_ite2 | apply kept_optite
        | apply kept_turnite | apply kept_foldl | apply kept_foldl1 | apply kept_forEach | apply kept_getD)
    | dsimp only | split
    | (with_reducible first
        | refine kept_pair1 (by assumption) ?_ | refine kept_pair2 (by assumption) ?_ | refine kept_opt (by assumption) ?_
        | refine kept_turnM (by assumption) ?_ | refine kept_turnE (by assumption) ?_ | refine kept_res (by assumption) ?_)

theorem State.applyRead_kept {s0 s : State} (a1 : Nat) (a2 : Nat) (a3 : Nat) (h : Kept s0 s) : Kept s0 (State.applyRead s a1
    a2 a3).1 := by
  unfold State.applyRead
  repeat' first
    | intro _
    | (with_reducible first
        | exact h | exact trivial | assumption | apply State.read_kept | apply kept_next | apply kept_some
        | apply kept_none | apply kept_wait | apply kept_moved | apply kept_ended | apply kept_ite | apply kept_ite1
        | apply kept_ite2 | apply kept_optite | apply kept_turnite | apply kept_foldl | apply kept_foldl1
        | apply kept_forEach | apply kept_getD)
    | dsimp only | split
    | (with_reducible first
        | refine kept_pair1 (by assumption) ?_ | refine kept_pair2 (by assumption) ?_ | refine kept_opt (by assumption) ?_
        | refine kept_turnM (by assumption) ?_ | refine kept_turnE (by assumption) ?_ | refine kept_res (by assumption) ?_)

theorem State.readWhileStopped_kept {s0 s : State} (a1 : Nat) (a2 : Nat) (a3 : Nat) (h : Kept s0 s) : Kept s0
    (State.readWhileStopped s a1 a2 a3).1 := by
  unfold State.readWhileStopped
  repeat' first
    | intro _
    | (with_reducible first
        | exact h | exact trivial | assumption | apply State.whileStopped_kept | apply State.applyRead_kept
        | apply kept_next | apply kept_some | apply kept_none | apply kept_wait | apply kept_moved | apply kept_ended
        | apply kept_ite | apply kept_ite1 | apply kept_ite2 | apply kept_optite | apply kept_turnite | apply kept_foldl
        | apply kept_foldl1 | apply kept_forEach | apply kept_getD)
    | dsimp only | split
    | (with_reducible first
        | refine kept_pair1 (by assumption) ?_ | refine kept_pair2 (by assumption) ?_ | refine kept_opt (by assumption) ?_
        | refine kept_turnM (by assumption) ?_ | refine kept_turnE (by assumption) ?_ | refine kept_res (by assumption) ?_)

theorem execDataRead_kept {s0 s : State} (a1 : Nat) (a2 : Sys2Proof.MsgHdr) (a3 : Nat) (a4 : Nat) (h : Kept s0 s) : KeptRes
    s0 (execDataRead a1 a2 a3 a4 s) := by
  unfold execDataRead
  repeat' first
    | intro _
    | (with_reducible first
        | exact h | exact trivial | assumption | apply State.request_kept | apply State.readWhileStopped_kept
        | apply kept_next | apply kept_some | apply kept_none | apply kept_wait | apply kept_moved | apply kept_ended
        | apply kept_ite | apply kept_ite1 | apply kept_ite2 | apply kept_optite | apply kept_turnite | apply kept_foldl
        | apply kept_foldl1 | apply kept_forEach | apply kept_getD)
    | dsimp only | split
    | (with_reducible first
        | refine kept_pair1 (by assumption) ?_ | refine kept_pair2 (by assumption) ?_ | refine kept_opt (by assumption) ?_
        | refine kept_turnM (by assumption) ?_ | refine kept_turnE (by assumption) ?_ | refine kept_res (by assumption) ?_)

theorem State.applyPair_kept {s0 s : State} (a1 : BitVec 16 × BitVec 16) (h : Kept s0 s) : Kept s0 (s.applyPair a1) := by
  unfold State.applyPair
  repeat' first
    | intro _
    | (with_reducible first
        | exact h | exact trivial | assumption | apply State.reachTally_kept | apply kept_foldl | apply kept_foldl1
        | apply kept_forEach | apply eachUntil_kept | apply kept_next | apply kept_some | apply kept_none
        | apply kept_wait | apply kept_moved | apply kept_ended | apply kept_ite | apply kept_ite1 | apply kept_ite2
        | apply kept_optite | apply kept_turnite | apply kept_clear | apply kept_put)
    | dsimp only | split
    | (with_reducible first
        | refine kept_pair1 (by assumption) ?_
        | refine kept_pair2 (by assumption) ?_)

theorem State.applyTallies_kept {s0 s : State} (a1 : List (BitVec 16 × BitVec 16)) (h : Kept s0 s) :
    Kept s0 (s.applyTallies a1).1 := by
  unfold State.applyTallies
  repeat' first | (with_reducible first | assumption | apply kept_foldl | apply State.applyPair_kept) | split

theorem execTallyRemote_kept {s0 s : State} (a1 : Nat) (a2 : Sys2Proof.MsgHdr) (a3 : List (BitVec 16 × BitVec 16)) (h : Kept
    s0 s) : KeptRes s0 (execTallyRemote a1 a2 a3 s) := by
  unfold execTallyRemote
  repeat' first
    | intro _
    | (with_reducible first
        | exact h | exact trivial | assumption | apply State.request_kept | apply State.whileStopped_kept
        | apply State.applyTallies_kept | apply kept_next | apply kept_some | apply kept_none | apply kept_wait
        | apply kept_moved | apply kept_ended | apply kept_ite | apply kept_ite1 | apply kept_ite2 | apply kept_optite
        | apply kept_turnite | apply kept_foldl | apply kept_foldl1 | apply kept_forEach | apply kept_getD)
    | dsimp only | split
    | (with_reducible first
        | refine kept_pair1 (by assumption) ?_ | refine kept_pair2 (by assumption) ?_ | refine kept_opt (by assumption) ?_
        | refine kept_turnM (by assumption) ?_ | refine kept_turnE (by assumption) ?_ | refine kept_res (by assumption) ?_)

/-! ### Sideband.lean -/

theorem State.modSide_kept {s0 s : State} (a1 : Sideband → Sideband) (h : Kept s0 s) : Kept s0 (s.modSide a1) := by
  unfold State.modSide
  repeat' first | intro _ | (with_reducible first | exact h | exact trivial | assumption | apply setSide_kept)

theorem State.inputLost_kept {s0 s : State} (a1 : Nat) (a2 : Bool) (h : Kept s0 s) : Kept s0 (s.inputLost a1 a2) := by
  unfold State.inputLost
  repeat' first
    | intro _
    | (with_reducible first
        | exact h | exact trivial | assumption | apply State.powerStop_kept | apply State.raise_kept | apply setPower_kept
        | apply State.bootHold_kept | apply kept_next | apply kept_some | apply kept_none | apply kept_getD | apply kept_wait
        | apply kept_moved | apply kept_ended | apply kept_ite)

theorem State.sampleChange_kept {s0 s : State} (a1 : Nat) (h : Kept s0 s) :
    Kept s0 (State.sampleChange s a1) := by
  unfold State.sampleChange
  repeat' first
    | intro _
    | (with_reducible first
        | exact h | exact trivial | assumption | apply State.transition_kept | apply State.modSide_kept
        | apply State.inputLost_kept | apply State.raise_kept | apply kept_foldl | apply kept_foldl1
        | apply kept_forEach | apply eachUntil_kept | apply kept_next | apply kept_some | apply kept_none
        | apply kept_wait | apply kept_moved | apply kept_ended | apply kept_ite | apply kept_ite1 | apply kept_ite2
        | apply kept_optite | apply kept_turnite | apply kept_clear | apply kept_put)
    | dsimp only | split
    | (with_reducible first
        | refine kept_pair1 (by assumption) ?_
        | refine kept_pair2 (by assumption) ?_)

theorem State.acceptLevel_kept {s0 s : State} (a1 : Nat) (a2 : Bool) (h : Kept s0 s) :
    Kept s0 (State.acceptLevel s a1 a2) := by
  unfold State.acceptLevel
  repeat' first
    | intro _
    | (with_reducible first
        | exact h | exact trivial | assumption | apply State.modSide_kept | apply State.sampleChange_kept
        | apply kept_foldl | apply kept_foldl1 | apply kept_forEach | apply eachUntil_kept | apply kept_next
        | apply kept_some | apply kept_none | apply kept_wait | apply kept_moved | apply kept_ended | apply kept_ite
        | apply kept_ite1 | apply kept_ite2 | apply kept_optite | apply kept_turnite | apply kept_clear
        | apply kept_put)
    | dsimp only | split
    | (with_reducible first
        | refine kept_pair1 (by assumption) ?_
        | refine kept_pair2 (by assumption) ?_)

theorem State.inputFalls_kept {s0 s : State} (a1 : Nat) (h : Kept s0 s) : Kept s0 (s.inputFalls a1) := by
  unfold State.inputFalls
  repeat' first
    | intro _
    | (with_reducible first
        | exact h | exact trivial | assumption | apply State.inputLost_kept | apply State.acceptLevel_kept
        | apply kept_foldl | apply kept_foldl1 | apply kept_forEach | apply eachUntil_kept | apply kept_next
        | apply kept_some | apply kept_none | apply kept_wait | apply kept_moved | apply kept_ended | apply kept_ite
        | apply kept_ite1 | apply kept_ite2 | apply kept_optite | apply kept_turnite | apply kept_clear
        | apply kept_put)
    | dsimp only | split
    | (with_reducible first
        | refine kept_pair1 (by assumption) ?_
        | refine kept_pair2 (by assumption) ?_)

theorem execCoolantStop_kept {s0 s : State} (h : Kept s0 s) : KeptRes s0 (execCoolantStop s) := by
  unfold execCoolantStop
  repeat' first
    | intro _
    | (with_reducible first | exact h | exact trivial | assumption | apply State.inputFalls_kept | apply kept_next)

theorem execLeakStop_kept {s0 s : State} (h : Kept s0 s) : KeptRes s0 (execLeakStop s) := by
  unfold execLeakStop
  repeat' first
    | intro _
    | (with_reducible first | exact h | exact trivial | assumption | apply State.inputFalls_kept | apply kept_next)

theorem execSidebandChatter_kept {s0 s : State} (a0 : Nat) (h : Kept s0 s) : KeptRes s0 (execSidebandChatter a0 s) := by
  unfold execSidebandChatter
  repeat' first
    | intro _
    | (with_reducible first
        | exact h | exact trivial | assumption | apply State.sampleChange_kept | apply kept_foldl | apply kept_foldl1
        | apply kept_forEach | apply eachUntil_kept | apply kept_next | apply kept_some | apply kept_none
        | apply kept_wait | apply kept_moved | apply kept_ended | apply kept_ite | apply kept_ite1 | apply kept_ite2
        | apply kept_optite | apply kept_turnite | apply kept_clear | apply kept_put)
    | dsimp only | split
    | (with_reducible first
        | refine kept_pair1 (by assumption) ?_
        | refine kept_pair2 (by assumption) ?_
        | refine kept_res (by assumption) ?_)

theorem execChatterClear_kept {s0 s : State} (a0 : Nat) (h : Kept s0 s) : KeptRes s0 (execChatterClear a0 s) := by
  unfold execChatterClear
  repeat' first
    | intro _
    | (with_reducible first
        | exact h | exact trivial | assumption | apply State.modSide_kept | apply kept_next | apply kept_some | apply kept_none
        | apply kept_getD | apply kept_wait | apply kept_moved | apply kept_ended | apply kept_ite)

theorem execStoppingInputReturn_kept {s0 s : State} (a0 : Nat) (h : Kept s0 s) : KeptRes s0 (execStoppingInputReturn a0 s) := by
  unfold execStoppingInputReturn
  repeat' first
    | intro _
    | (with_reducible first
        | exact h | exact trivial | assumption | apply State.acceptLevel_kept | apply kept_foldl | apply kept_foldl1
        | apply kept_forEach | apply eachUntil_kept | apply kept_next | apply kept_some | apply kept_none
        | apply kept_wait | apply kept_moved | apply kept_ended | apply kept_ite | apply kept_ite1 | apply kept_ite2
        | apply kept_optite | apply kept_turnite | apply kept_clear | apply kept_put)
    | dsimp only | split
    | (with_reducible first
        | refine kept_pair1 (by assumption) ?_
        | refine kept_pair2 (by assumption) ?_
        | refine kept_res (by assumption) ?_)

theorem execRestartReady_kept {s0 s : State} (h : Kept s0 s) : KeptRes s0 (execRestartReady s) := by
  unfold execRestartReady
  repeat' first
    | intro _
    | (with_reducible first
        | exact h | exact trivial | assumption | apply setPower_kept | apply setBoot_kept | apply kept_next | apply kept_some
        | apply kept_none | apply kept_getD | apply kept_wait | apply kept_moved | apply kept_ended | apply kept_ite)

theorem State.restart_kept {s0 s : State} (h : Kept s0 s) : Kept s0 (s.restart) := by
  unfold State.restart
  repeat' first
    | intro _
    | (with_reducible first
        | exact h | exact trivial | assumption | apply State.countBad_kept | apply kept_forEach | apply State.modRegion_kept
        | apply setPower_kept | apply kept_next | apply kept_some | apply kept_none | apply kept_getD | apply kept_wait
        | apply kept_moved | apply kept_ended | apply kept_ite)

theorem execPowerRestart_kept {s0 s : State} (a0 : Nat) (h : Kept s0 s) : KeptRes s0 (execPowerRestart a0 s) := by
  unfold execPowerRestart
  repeat' first
    | intro _
    | (with_reducible first | exact h | exact trivial | assumption | apply State.regRow_kept | apply State.restart_kept)

theorem execFeedIdChange_kept {s0 s : State} (a0 : BitVec 4) (h : Kept s0 s) : KeptRes s0 (execFeedIdChange a0 s) := by
  unfold execFeedIdChange
  repeat' first
    | intro _
    | (with_reducible first
        | exact h | exact trivial | assumption | apply State.modSide_kept | apply setSnap_kept | apply kept_next
        | apply kept_some | apply kept_none | apply kept_getD | apply kept_wait | apply kept_moved | apply kept_ended
        | apply kept_ite)

theorem execSlotIdChanged_kept {s0 s : State} (a0 : BitVec 6) (h : Kept s0 s) : KeptRes s0 (execSlotIdChanged a0 s) := by
  unfold execSlotIdChanged
  repeat' first
    | intro _
    | (with_reducible first
        | exact h | exact trivial | assumption | apply State.raise_kept | apply State.modSide_kept | apply kept_next
        | apply kept_some | apply kept_none | apply kept_getD | apply kept_wait | apply kept_moved | apply kept_ended
        | apply kept_ite)

theorem execPpsEdge_kept {s0 s : State} (h : Kept s0 s) : KeptRes s0 (execPpsEdge s) := by
  unfold execPpsEdge
  repeat' first
    | intro _
    | (with_reducible first
        | exact h | exact trivial | assumption | apply State.modSide_kept | apply setSide_kept | apply setTime_kept
        | apply kept_next | apply kept_some | apply kept_none | apply kept_getD | apply kept_wait | apply kept_moved
        | apply kept_ended | apply kept_ite)

theorem State.powerDown_kept {s0 s : State} (b : Bool) (h : Kept s0 s) : Kept s0 (s.powerDown b) :=
  kept_anew h rfl rfl rfl rfl rfl rfl

theorem execVinOutOfRange_kept {s0 s : State} (a1 : BitVec 16) (a2 : Bool) (h : Kept s0 s) : KeptRes s0 (execVinOutOfRange a1
    a2 s) := by
  unfold execVinOutOfRange
  repeat' first
    | intro _
    | (with_reducible first
        | exact h | exact trivial | assumption | apply State.modSide_kept | apply State.powerDown_kept
        | apply State.raiseFull_kept | apply kept_next | apply kept_some | apply kept_none | apply kept_wait
        | apply kept_moved | apply kept_ended | apply kept_ite | apply kept_ite1 | apply kept_ite2 | apply kept_optite
        | apply kept_turnite | apply kept_foldl | apply kept_foldl1 | apply kept_forEach | apply kept_getD)
    | dsimp only | split
    | (with_reducible first
        | refine kept_pair1 (by assumption) ?_ | refine kept_pair2 (by assumption) ?_ | refine kept_opt (by assumption) ?_
        | refine kept_turnM (by assumption) ?_ | refine kept_turnE (by assumption) ?_ | refine kept_res (by assumption) ?_)

theorem execPwrEnRise_kept {s0 s : State} (h : Kept s0 s) : KeptRes s0 (execPwrEnRise s) := by
  unfold execPwrEnRise
  repeat' first
    | intro _
    | (with_reducible first
        | exact h | exact trivial | assumption | apply State.openValue_kept | apply State.modSide_kept | apply kept_next
        | apply kept_some | apply kept_none | apply kept_getD | apply kept_wait | apply kept_moved | apply kept_ended
        | apply kept_ite)

theorem execPowerUpTimeout_kept {s0 s : State} (h : Kept s0 s) : KeptRes s0 (execPowerUpTimeout s) := by
  unfold execPowerUpTimeout
  repeat' first
    | intro _
    | (with_reducible first
        | exact h | exact trivial | assumption | apply State.modSide_kept | apply kept_next | apply kept_some | apply kept_none
        | apply kept_getD | apply kept_wait | apply kept_moved | apply kept_ended | apply kept_ite)

theorem execPowerOff_kept {s0 s : State} (a0 : Bool) (h : Kept s0 s) : KeptRes s0 (execPowerOff a0 s) := by
  unfold execPowerOff
  repeat' first
    | intro _
    | (with_reducible first
        | exact h | exact trivial | assumption | apply State.powerDown_kept | apply State.modSide_kept | apply kept_next
        | apply kept_some | apply kept_none | apply kept_getD | apply kept_wait | apply kept_moved | apply kept_ended
        | apply kept_ite)

theorem execClockFailed_kept {s0 s : State} (a0 : Nat) (a1 : BitVec 7) (h : Kept s0 s) :
    KeptRes s0 (execClockFailed a0 a1 s) := by
  unfold execClockFailed
  repeat' first
    | intro _
    | (with_reducible first
        | exact h | exact trivial | assumption | apply State.raiseStop_kept | apply State.modDie_kept | apply kept_next
        | apply kept_some | apply kept_none | apply kept_getD | apply kept_wait | apply kept_moved | apply kept_ended
        | apply kept_ite)

theorem execBridgeReplay_kept {s0 s : State} (a0 : Nat) (a1 : Bool) (h : Kept s0 s) :
    KeptRes s0 (execBridgeReplay a0 a1 s) := by
  unfold execBridgeReplay
  repeat' first
    | intro _
    | (with_reducible first
        | exact h | exact trivial | assumption | apply State.raiseStop_kept | apply State.modDie_kept
        | apply State.raiseRare_kept | apply kept_next | apply kept_some | apply kept_none | apply kept_getD | apply kept_wait
        | apply kept_moved | apply kept_ended | apply kept_ite)

theorem execMgmtFailed_kept {s0 s : State} (a0 : Nat) (h : Kept s0 s) : KeptRes s0 (execMgmtFailed a0 s) := by
  unfold execMgmtFailed
  repeat' first
    | intro _
    | (with_reducible first
        | exact h | exact trivial | assumption | apply State.raiseStop_kept | apply State.modDie_kept | apply kept_next
        | apply kept_some | apply kept_none | apply kept_getD | apply kept_wait | apply kept_moved | apply kept_ended
        | apply kept_ite)

theorem execJtagInstruction_kept {s0 s : State} (a0 : Nat) (a1 : Sys2Proof.TapIns) (h : Kept s0 s) :
    KeptRes s0 (execJtagInstruction a0 a1 s) := by
  unfold execJtagInstruction
  repeat' first
    | intro _
    | (with_reducible first
        | exact h | exact trivial | assumption | apply State.modDie_kept | apply State.openValue_kept
        | apply kept_foldl | apply kept_foldl1 | apply kept_forEach | apply eachUntil_kept | apply kept_next
        | apply kept_some | apply kept_none | apply kept_wait | apply kept_moved | apply kept_ended | apply kept_ite
        | apply kept_ite1 | apply kept_ite2 | apply kept_optite | apply kept_turnite | apply kept_clear
        | apply kept_put)
    | dsimp only | split
    | (with_reducible first
        | refine kept_pair1 (by assumption) ?_
        | refine kept_pair2 (by assumption) ?_
        | refine kept_res (by assumption) ?_)

/-! ### Tiers.lean -/

theorem State.patrolWord_kept {s0 s : State} (a1 : Nat) (a2 : WordCond) (h : Kept s0 s) : Kept s0 (s.patrolWord a1 a2) := by
  unfold State.patrolWord
  repeat' first
    | intro _
    | (with_reducible first
        | exact h | exact trivial | assumption | apply State.failPage_kept | apply State.modCtl_kept
        | apply State.tierEvent_kept | apply State.noteTierWord_kept | apply kept_next | apply kept_some | apply kept_none
        | apply kept_getD | apply kept_wait | apply kept_moved | apply kept_ended | apply kept_ite | apply kept_ite1
        | apply kept_ite2 | apply kept_optite | apply kept_turnite)
    | dsimp only | split

theorem execTierPatrol_kept {s0 s : State} (a1 : Nat) (h : Kept s0 s) : KeptRes s0 (execTierPatrol a1 s) := by
  unfold execTierPatrol
  repeat' first
    | intro _
    | (with_reducible first
        | exact h | exact trivial | assumption | apply State.checkAccess_kept | apply State.patrolWord_kept
        | apply State.modCtl_kept | apply kept_next | apply kept_some | apply kept_none | apply kept_wait
        | apply kept_moved | apply kept_ended | apply kept_ite | apply kept_ite1 | apply kept_ite2 | apply kept_optite
        | apply kept_turnite | apply kept_foldl | apply kept_foldl1 | apply kept_forEach | apply kept_getD)
    | dsimp only | split
    | (with_reducible first
        | refine kept_pair1 (by assumption) ?_ | refine kept_pair2 (by assumption) ?_ | refine kept_opt (by assumption) ?_
        | refine kept_turnM (by assumption) ?_ | refine kept_turnE (by assumption) ?_ | refine kept_res (by assumption) ?_)

theorem execPageRetired_kept {s0 s : State} (c : Nat) (h : Kept s0 s) : KeptRes s0 (execPageRetired c s) := by
  rw [execPageRetired]
  refine kept_next (kept_ite h ?_)
  split
  · exact h
  · dsimp only
    repeat' with_reducible first
      | exact h | apply kept_ite | apply State.tierEvent_kept | apply State.modRegion_kept | apply State.modCtl_kept
      | apply setMemCond_kept | apply State.raiseEach_kept | refine setFlash_lms_kept ?_ _ rfl rfl

theorem execTierChannelFailed_kept {s0 s : State} (a0 : Nat) (h : Kept s0 s) : KeptRes s0 (execTierChannelFailed a0 s) := by
  unfold execTierChannelFailed
  repeat' first
    | intro _
    | (with_reducible first
        | exact h | exact trivial | assumption | apply State.openValue_kept | apply State.raiseStop_kept | apply kept_next
        | apply kept_some | apply kept_none | apply kept_getD | apply kept_wait | apply kept_moved | apply kept_ended
        | apply kept_ite)

/-! ### Snapshot.lean -/

theorem State.modSnap_kept {s0 s : State} (a1 : Snap → Snap) (h : Kept s0 s) : Kept s0 (s.modSnap a1) := by
  unfold State.modSnap
  repeat' first | intro _ | (with_reducible first | exact h | exact trivial | assumption | apply setSnap_kept)

theorem State.abandonPartner_kept {s0 s : State} (h : Kept s0 s) :
    Kept s0 (State.abandonPartner s) := by
  unfold State.abandonPartner
  repeat' first
    | intro _
    | (with_reducible first
        | exact h | exact trivial | assumption | apply State.sendOwn_kept | apply State.modConn_kept
        | apply kept_foldl | apply kept_foldl1 | apply kept_forEach | apply eachUntil_kept | apply kept_next
        | apply kept_some | apply kept_none | apply kept_wait | apply kept_moved | apply kept_ended | apply kept_ite
        | apply kept_ite1 | apply kept_ite2 | apply kept_optite | apply kept_turnite | apply kept_clear
        | apply kept_put)
    | dsimp only | split
    | (with_reducible first
        | refine kept_pair1 (by assumption) ?_
        | refine kept_pair2 (by assumption) ?_
        | refine kept_opt (by assumption) ?_)

theorem execSnapshot_kept {s0 s : State} (a0 : Nat) (h : Kept s0 s) : KeptRes s0 (execSnapshot a0 s) := by
  unfold execSnapshot
  repeat' first
    | intro _
    | (with_reducible first
        | exact h | exact trivial | assumption | apply State.modSnap_kept | apply State.abandonPartner_kept
        | apply State.noteRead_kept | apply State.issue_kept | apply State.tryIssue_kept | apply kept_foldl
        | apply kept_foldl1 | apply kept_forEach | apply eachUntil_kept | apply kept_next | apply kept_some
        | apply kept_none | apply kept_wait | apply kept_moved | apply kept_ended | apply kept_ite | apply kept_ite1
        | apply kept_ite2 | apply kept_optite | apply kept_turnite | apply kept_clear | apply kept_put)
    | dsimp only | split
    | (with_reducible first
        | refine kept_pair1 (by assumption) ?_
        | refine kept_pair2 (by assumption) ?_
        | refine kept_res (by assumption) ?_)

theorem execQuiesceEnd_kept {s0 s : State} (h : Kept s0 s) : KeptRes s0 (execQuiesceEnd s) := by
  unfold execQuiesceEnd
  repeat' first
    | intro _
    | (with_reducible first
        | exact h | exact trivial | assumption | apply State.modSnap_kept | apply kept_next | apply kept_some | apply kept_none
        | apply kept_getD | apply kept_wait | apply kept_moved | apply kept_ended | apply kept_ite)

theorem execSnapQuiesceTimeout_kept {s0 s : State} (h : Kept s0 s) : KeptRes s0 (execSnapQuiesceTimeout s) := by
  unfold execSnapQuiesceTimeout
  repeat' first
    | intro _
    | (with_reducible first
        | exact h | exact trivial | assumption | apply State.endJob_kept | apply State.modSnap_kept | apply kept_next
        | apply kept_some | apply kept_none | apply kept_getD | apply kept_wait | apply kept_moved | apply kept_ended
        | apply kept_ite)

theorem State.noteRecords_kept {s0 s : State} (h : Kept s0 s) : Kept s0 (State.noteRecords s) := by
  unfold State.noteRecords
  repeat' first
    | intro _
    | (with_reducible first
        | exact h | exact trivial | assumption | apply State.forEach_kept | apply State.noteLedgerWord_kept
        | apply kept_next | apply kept_some | apply kept_none | apply kept_wait | apply kept_moved | apply kept_ended
        | apply kept_ite | apply kept_ite1 | apply kept_ite2 | apply kept_optite | apply kept_turnite | apply kept_foldl
        | apply kept_foldl1 | apply kept_forEach | apply kept_getD)
    | dsimp only | split
    | (with_reducible first
        | refine kept_pair1 (by assumption) ?_ | refine kept_pair2 (by assumption) ?_ | refine kept_opt (by assumption) ?_
        | refine kept_turnM (by assumption) ?_ | refine kept_turnE (by assumption) ?_ | refine kept_res (by assumption) ?_)

theorem State.noteCopied_kept {s0 s : State} (a1 : Bool) (a2 : List Extent) (h : Kept s0 s) : Kept s0 (State.noteCopied s a1
    a2) := by
  unfold State.noteCopied
  repeat' first
    | intro _
    | (with_reducible first
        | exact h | exact trivial | assumption | apply State.noteScratchWord_kept | apply State.noteTier_kept
        | apply State.noteRecords_kept | apply kept_next | apply kept_some | apply kept_none | apply kept_wait
        | apply kept_moved | apply kept_ended | apply kept_ite | apply kept_ite1 | apply kept_ite2 | apply kept_optite
        | apply kept_turnite | apply kept_foldl | apply kept_foldl1 | apply kept_forEach | apply kept_getD)
    | dsimp only | split
    | (with_reducible first
        | refine kept_pair1 (by assumption) ?_ | refine kept_pair2 (by assumption) ?_ | refine kept_opt (by assumption) ?_
        | refine kept_turnM (by assumption) ?_ | refine kept_turnE (by assumption) ?_ | refine kept_res (by assumption) ?_)

theorem State.startDrains_kept {s0 s : State} (e : Sys2Proof.Entry) (h : Kept s0 s) : Kept s0 (s.startDrains e) := by
  rw [State.startDrains]
  dsimp only
  have h1 : Kept s0 (s.modSnap fun x => { x with drainFailed := false }) := State.modSnap_kept _ h
  have h2 : Kept s0 (if snNoFlash e = true then s.modSnap fun x => { x with drainFailed := false } else
      ((s.modSnap fun x => { x with drainFailed := false }).setFlash ((s.modSnap fun x =>
          { x with drainFailed := false }).flash.setSlot
        (s.modSnap fun x => { x with drainFailed := false }).flash.drainSlot1 .reset)).setSnap
        { (s.modSnap fun x => { x with drainFailed := false }).snap with flashDraining := true }) :=
    kept_ite h1 (setSnap_kept (setFlash_lms_kept h1 _ (by unfold Flash.setSlot; split <;> rfl)
        (by unfold Flash.setSlot; split <;> rfl)) _)
  exact kept_ite h2 (kept_ite (State.raise_kept _ _ _ _ (State.modSnap_kept _ h2)) (State.modSnap_kept _ h2))

theorem State.copyCtxs_kept {s0 s : State} (h : Kept s0 s) : Kept s0 s.copyCtxs.1 := by
  unfold State.copyCtxs
  exact kept_foldl1 (fun _ _ h => kept_ite1 (State.ctxRead_kept _ h) h) _ h

theorem State.countExtents_kept {s0 s : State} (a1 : Nat) (a2 : List Extent) (h : Kept s0 s) :
    Kept s0 (State.countExtents s a1 a2) := by
  unfold State.countExtents
  repeat' first
    | intro _
    | (with_reducible first
        | exact h | exact trivial | assumption | apply State.countBytes_kept | apply kept_foldl | apply kept_foldl1
        | apply kept_forEach | apply eachUntil_kept | apply kept_next | apply kept_some | apply kept_none
        | apply kept_wait | apply kept_moved | apply kept_ended | apply kept_ite | apply kept_ite1 | apply kept_ite2
        | apply kept_optite | apply kept_turnite | apply kept_clear | apply kept_put)
    | dsimp only | split
    | (with_reducible first
        | refine kept_pair1 (by assumption) ?_
        | refine kept_pair2 (by assumption) ?_)

theorem execSnapshotCopyComplete_kept {s0 s : State} (h : Kept s0 s) : KeptRes s0 (execSnapshotCopyComplete s) := by
  unfold execSnapshotCopyComplete
  repeat' first
    | intro _
    | (with_reducible first
        | exact h | exact trivial | assumption | apply State.modSnap_kept | apply State.noteCopied_kept
        | apply State.startDrains_kept | apply State.copyCtxs_kept | apply State.countExtents_kept
        | apply State.raiseEach_kept | apply State.countTier_kept | apply State.countBytes_kept
        | apply State.finish_kept | apply setMemCond_kept | apply kept_foldl | apply kept_foldl1 | apply kept_forEach
        | apply eachUntil_kept | apply kept_next | apply kept_some | apply kept_none | apply kept_wait
        | apply kept_moved | apply kept_ended | apply kept_ite | apply kept_ite1 | apply kept_ite2
        | apply kept_optite | apply kept_turnite | apply kept_clear | apply kept_put)
    | dsimp only | split
    | (with_reducible first
        | refine kept_pair1 (by assumption) ?_
        | refine kept_pair2 (by assumption) ?_
        | refine kept_res (by assumption) ?_)

theorem State.drained_kept {s0 s : State} (h : Kept s0 s) : Kept s0 (s.drained) := by
  unfold State.drained
  repeat' first
    | intro _
    | (with_reducible first
        | exact h | exact trivial | assumption | apply State.raise_kept | apply kept_next | apply kept_some | apply kept_none
        | apply kept_getD | apply kept_wait | apply kept_moved | apply kept_ended | apply kept_ite)

theorem Flash.setSlot_lms (f : Flash) (b : Bool) (x : FlashSlot) :
    (f.setSlot b x).lmsEpoch = f.lmsEpoch ∧ (f.setSlot b x).lmsNext = f.lmsNext := by
  unfold Flash.setSlot
  split <;> exact ⟨rfl, rfl⟩

theorem execFlashDrainComplete_kept {s0 s : State} (h : Kept s0 s) : KeptRes s0 (execFlashDrainComplete s) := by
  rw [execFlashDrainComplete]
  refine kept_next ?_
  dsimp only
  repeat' with_reducible first
    | exact h | apply kept_ite | apply State.drained_kept | apply State.raise_kept | apply State.modSnap_kept
    | apply setSnap_kept | apply State.noteTier_kept
    | refine setFlash_lms_kept ?_ _ (Flash.setSlot_lms _ _ _).1 (Flash.setSlot_lms _ _ _).2

theorem execSnapDrainFailed_kept {s0 s : State} (a0 : Bool) (h : Kept s0 s) : KeptRes s0 (execSnapDrainFailed a0 s) := by
  unfold execSnapDrainFailed
  repeat' first
    | intro _
    | (with_reducible first
        | exact h | exact trivial | assumption | apply State.modSnap_kept | apply State.raise_kept | apply kept_next
        | apply kept_some | apply kept_none | apply kept_getD | apply kept_wait | apply kept_moved | apply kept_ended
        | apply kept_ite)

theorem State.applyChunk_kept {s0 s : State} (a1 : Nat) (a2 : Nat) (a3 : Bool) (a4 : List Sys2Proof.Byte) (h : Kept s0 s) :
    Kept s0 (s.applyChunk a1 a2 a3 a4).1 := by
  unfold State.applyChunk
  repeat' first
    | intro _
    | (with_reducible first
        | exact h | exact trivial | assumption | apply State.writeBytes_kept | apply State.modSnap_kept | apply kept_next
        | apply kept_some | apply kept_none | apply kept_getD | apply kept_wait | apply kept_moved | apply kept_ended
        | apply kept_ite | apply kept_ite1)

theorem execSnapshotChunk_kept {s0 s : State} (a1 : Nat) (a2 : Sys2Proof.MsgHdr) (a3 : Nat) (a4 : Bool) (a5 : List
    Sys2Proof.Byte) (h : Kept s0 s) : KeptRes s0 (execSnapshotChunk a1 a2 a3 a4 a5 s) := by
  unfold execSnapshotChunk
  repeat' first
    | intro _
    | (with_reducible first
        | exact h | exact trivial | assumption | apply State.request_kept | apply State.whileStopped_kept
        | apply State.applyChunk_kept | apply kept_next | apply kept_some | apply kept_none | apply kept_wait
        | apply kept_moved | apply kept_ended | apply kept_ite | apply kept_ite1 | apply kept_ite2 | apply kept_optite
        | apply kept_turnite | apply kept_foldl | apply kept_foldl1 | apply kept_forEach | apply kept_getD)
    | dsimp only | split
    | (with_reducible first
        | refine kept_pair1 (by assumption) ?_ | refine kept_pair2 (by assumption) ?_ | refine kept_opt (by assumption) ?_
        | refine kept_turnM (by assumption) ?_ | refine kept_turnE (by assumption) ?_ | refine kept_res (by assumption) ?_)

theorem execPairingExchange_kept {s0 s : State} (a0 : BitVec 4) (a1 : BitVec 16) (a2 : Nat) (a3 : Bool) (h : Kept s0 s) :
    KeptRes s0 (execPairingExchange a0 a1 a2 a3 s) := by
  unfold execPairingExchange
  repeat' first
    | intro _
    | (with_reducible first
        | exact h | exact trivial | assumption | apply State.modSnap_kept | apply State.raise_kept | apply kept_next
        | apply kept_some | apply kept_none | apply kept_getD | apply kept_wait | apply kept_moved | apply kept_ended
        | apply kept_ite)

theorem State.loadSlot_kept {s0 s : State} (q : Nat) (h : Kept s0 s) : Kept s0 (s.loadSlot q).1 := by
  rw [State.loadSlot]
  split
  · exact h
  · exact kept_ite1 h (State.countBytes_kept _ _ _ (State.countTier_kept _ _ _ (setSnap_kept (setMemCond_kept (kept_put h _ _ _) _) _)))

theorem execRestore_kept {s0 s : State} (a0 : Nat) (h : Kept s0 s) : KeptRes s0 (execRestore a0 s) := by
  unfold execRestore
  repeat' first
    | intro _
    | (with_reducible first
        | exact h | exact trivial | assumption | apply State.modSnap_kept | apply State.loadSlot_kept
        | apply State.noteRead_kept | apply State.stopWith_kept | apply State.issue_kept | apply State.tryIssue_kept
        | apply kept_foldl | apply kept_foldl1 | apply kept_forEach | apply eachUntil_kept | apply kept_next
        | apply kept_some | apply kept_none | apply kept_wait | apply kept_moved | apply kept_ended | apply kept_ite
        | apply kept_ite1 | apply kept_ite2 | apply kept_optite | apply kept_turnite | apply kept_clear
        | apply kept_put)
    | dsimp only | split
    | (with_reducible first
        | refine kept_pair1 (by assumption) ?_
        | refine kept_pair2 (by assumption) ?_
        | refine kept_res (by assumption) ?_)

theorem State.restoreExtent_kept {s0 s : State} (x : Extent) (d : NMap Byte) (l : NMap WordCond) (h : Kept s0 s) :
    Kept s0 (s.restoreExtent x d l) := by
  rw [State.restoreExtent]
  refine kept_ite h ?_
  split
  · exact State.modLcore_kept _ _ h
  · exact State.countTier_kept _ _ _ (setMemCond_kept (kept_put h _ _ _) _)

theorem State.restoreQueue_kept {s0 s : State} (a1 : Nat) (a2 : Nat) (a3 : Sys2Proof.NMap Sys2Proof.Byte) (h : Kept s0 s) :
    Kept s0 (s.restoreQueue a1 a2 a3) := by
  unfold State.restoreQueue
  repeat' first
    | intro _
    | (with_reducible first
        | exact h | exact trivial | assumption | apply State.modQueue_kept | apply kept_next | apply kept_some | apply kept_none
        | apply kept_getD | apply kept_wait | apply kept_moved | apply kept_ended | apply kept_ite)

theorem execRestoreComplete_kept {s0 s : State} (h : Kept s0 s) : KeptRes s0 (execRestoreComplete s) := by
  unfold execRestoreComplete
  repeat' first
    | intro _
    | (with_reducible first
        | exact h | exact trivial | assumption | apply State.modSnap_kept | apply State.countExtents_kept
        | apply State.restoreExtent_kept | apply State.restoreQueue_kept | apply State.modCore_kept
        | apply State.modCtx_kept | apply State.forEach_kept | apply State.modLcore_kept | apply State.raise_kept
        | apply State.raiseEach_kept | apply State.noteTier_kept | apply State.countBytes_kept
        | apply State.finish_kept | apply setCtxs_kept | apply setCtxCond_kept | apply kept_foldl | apply kept_foldl1
        | apply kept_forEach | apply eachUntil_kept | apply kept_next | apply kept_some | apply kept_none
        | apply kept_wait | apply kept_moved | apply kept_ended | apply kept_ite | apply kept_ite1 | apply kept_ite2
        | apply kept_optite | apply kept_turnite | apply kept_clear | apply kept_put)
    | dsimp only | split
    | (with_reducible first
        | refine kept_pair1 (by assumption) ?_
        | refine kept_pair2 (by assumption) ?_
        | refine kept_opt (by assumption) ?_
        | refine kept_res (by assumption) ?_)

theorem State.writeRegion_kept {s0 s : State} (a1 : Nat) (a2 : Nat) (h : Kept s0 s) : Kept s0 (s.writeRegion a1 a2) := by
  unfold State.writeRegion
  repeat' first
    | intro _
    | (with_reducible first
        | exact h | exact trivial | assumption | apply State.countBad_kept | apply setSnap_kept | apply kept_next
        | apply kept_some | apply kept_none | apply kept_getD | apply kept_wait | apply kept_moved | apply kept_ended
        | apply kept_ite)

end Sys2Proof.Machine
end

