-- ==== Sys2Proof/Laws/KeptRegs.lean ====
section
/-! SUPPORT. KeptRegs.lean: what every run keeps (`Kept`), for reads and writes of registers. -/

namespace Sys2Proof.Machine

/-! ### RegRead.lean -/

theorem State.latch_kept {s0 s : State} (a1 : Nat) (a2 : Sys2Proof.Word) (a3 : Sys2Proof.Word) (h : Kept s0 s) :
    Kept s0 (s.latch a1 a2 a3) := by
  unfold State.latch
  repeat' with_reducible first | assumption | apply setHiLatch_kept

theorem State.readDesc_kept {s0 s : State} (a1 : Nat) (h : Kept s0 s) : Kept s0 (s.readDesc a1) := by
  unfold State.readDesc
  repeat' first
    | intro _
    | (with_reducible first | assumption | apply State.ctxRead_kept | apply kept_forEach | apply State.latch_kept)

theorem State.badAccess_kept {s0 s : State} (a1 : Nat) (h : Kept s0 s) : Kept s0 (s.badAccess a1) := by
  unfold State.badAccess
  repeat' first | (with_reducible first | assumption | apply State.modDie_kept) | split

theorem State.readReg_kept {s0 s : State} (a1 : Nat) (a2 : Sys2Proof.Word) (h : Kept s0 s) : Kept s0 (s.readReg a1 a2).2 := by
  unfold State.readReg
  repeat' first
    | (with_reducible first | assumption | apply State.badAccess_kept | apply State.readDesc_kept | apply State.latch_kept)
    | dsimp only | split

/-! ### RegWrite.lean -/

theorem State.unlessReserved_kept {s0 s : State} (a1 : Bool) (a2 : State → State) (h2 : ∀ t, Kept s0 t → Kept s0 (a2 t ))
    (h : Kept s0 s) : Kept s0 (s.unlessReserved a1 a2) := by
  unfold State.unlessReserved
  repeat' first
    | intro _
    | (with_reducible first
        | exact h | exact trivial | assumption | apply h2 | apply kept_next | apply kept_some | apply kept_none
        | apply kept_getD | apply kept_wait | apply kept_moved | apply kept_ended | apply kept_ite)

theorem State.writeSize_kept {s0 s : State} (a1 : Nat) (a2 : Nat) (h : Kept s0 s) :
    Kept s0 (State.writeSize s a1 a2) := by
  unfold State.writeSize
  repeat' first
    | intro _
    | (with_reducible first
        | exact h | exact trivial | assumption | apply State.writeRegion_kept | apply State.countBad_kept
        | apply State.unlessReserved_kept | apply kept_foldl | apply kept_foldl1 | apply kept_forEach
        | apply eachUntil_kept | apply kept_next | apply kept_some | apply kept_none | apply kept_wait
        | apply kept_moved | apply kept_ended | apply kept_ite | apply kept_ite1 | apply kept_ite2
        | apply kept_optite | apply kept_turnite | apply kept_clear | apply kept_put)
    | dsimp only | split
    | (with_reducible first
        | refine kept_pair1 (by assumption) ?_
        | refine kept_pair2 (by assumption) ?_)

theorem State.setRingAt_kept {s0 s : State} (a1 : QueueAt) (a2 : BitVec 48) (a3 : Nat) (h : Kept s0 s) : Kept s0
    (State.setRingAt s a1 a2 a3) := by
  unfold State.setRingAt
  repeat' first
    | intro _
    | (with_reducible first
        | exact h | exact trivial | assumption | apply State.setRing_kept | apply State.strikeAt_kept
        | apply State.modCore_kept | apply kept_next | apply kept_some | apply kept_none | apply kept_wait
        | apply kept_moved | apply kept_ended | apply kept_ite | apply kept_ite1 | apply kept_ite2 | apply kept_optite
        | apply kept_turnite | apply kept_foldl | apply kept_foldl1 | apply kept_forEach | apply kept_getD)
    | dsimp only | split
    | (with_reducible first
        | refine kept_pair1 (by assumption) ?_ | refine kept_pair2 (by assumption) ?_ | refine kept_opt (by assumption) ?_
        | refine kept_turnM (by assumption) ?_ | refine kept_turnE (by assumption) ?_ | refine kept_res (by assumption) ?_)

theorem State.writeRingSize_kept {s0 s : State} (a1 : QueueAt) (a2 : Nat) (h : Kept s0 s) :
    Kept s0 (s.writeRingSize a1 a2) := by
  unfold State.writeRingSize
  repeat' first
    | intro _
    | (with_reducible first | exact h | exact trivial | assumption | apply State.unlessReserved_kept | apply State.setRingAt_kept)

theorem State.writeStop_kept {s0 s : State} (a1 : Nat) (h : Kept s0 s) : Kept s0 (s.writeStop a1) := by
  unfold State.writeStop
  repeat' first
    | intro _
    | (with_reducible first
        | exact h | exact trivial | assumption | apply State.modQueue_kept | apply State.requestStop_kept | apply kept_next
        | apply kept_some | apply kept_none | apply kept_getD | apply kept_wait | apply kept_moved | apply kept_ended
        | apply kept_ite)

theorem State.writeAction_kept {s0 s : State} (a1 : Nat) (a2 : Nat) (h : Kept s0 s) : Kept s0 (s.writeAction a1 a2) := by
  unfold State.writeAction
  repeat' first
    | intro _
    | (with_reducible first
        | exact h | exact trivial | assumption | apply State.modQueue_kept | apply State.queueAction_kept | apply kept_next
        | apply kept_some | apply kept_none | apply kept_getD | apply kept_wait | apply kept_moved | apply kept_ended
        | apply kept_ite)

theorem State.writeStopAt_kept {s0 s : State} (a1 : QueueAt) (h : Kept s0 s) : Kept s0 (State.writeStopAt s a1) := by
  unfold State.writeStopAt
  repeat' first
    | intro _
    | (with_reducible first
        | exact h | exact trivial | assumption | apply State.writeStop_kept | apply State.modCore_kept
        | apply State.raise_kept | apply kept_next | apply kept_some | apply kept_none | apply kept_wait | apply kept_moved
        | apply kept_ended | apply kept_ite | apply kept_ite1 | apply kept_ite2 | apply kept_optite | apply kept_turnite
        | apply kept_foldl | apply kept_foldl1 | apply kept_forEach | apply kept_getD)
    | dsimp only | split
    | (with_reducible first
        | refine kept_pair1 (by assumption) ?_ | refine kept_pair2 (by assumption) ?_ | refine kept_opt (by assumption) ?_
        | refine kept_turnM (by assumption) ?_ | refine kept_turnE (by assumption) ?_ | refine kept_res (by assumption) ?_)

theorem State.writeActionAt_kept {s0 s : State} (a1 : QueueAt) (a2 : Nat) (h : Kept s0 s) : Kept s0 (State.writeActionAt s a1
    a2) := by
  unfold State.writeActionAt
  repeat' first
    | intro _
    | (with_reducible first
        | exact h | exact trivial | assumption | apply State.writeAction_kept | apply State.modCore_kept | apply kept_next
        | apply kept_some | apply kept_none | apply kept_wait | apply kept_moved | apply kept_ended | apply kept_ite
        | apply kept_ite1 | apply kept_ite2 | apply kept_optite | apply kept_turnite | apply kept_foldl | apply kept_foldl1
        | apply kept_forEach | apply kept_getD)
    | dsimp only | split
    | (with_reducible first
        | refine kept_pair1 (by assumption) ?_ | refine kept_pair2 (by assumption) ?_ | refine kept_opt (by assumption) ?_
        | refine kept_turnM (by assumption) ?_ | refine kept_turnE (by assumption) ?_ | refine kept_res (by assumption) ?_)

theorem State.clearError_kept {s0 s : State} (a1 : Nat) (a2 : Bool) (a3 : Bool) (h : Kept s0 s) :
    Kept s0 (s.clearError a1 a2 a3) := by
  unfold State.clearError
  repeat' first | intro _ | (with_reducible first | exact h | exact trivial | assumption | apply State.modPage_kept)

theorem State.fenceOwner_kept {s0 s : State} (a1 : PageKind) (a2 : BitVec 16) (h : Kept s0 s) :
    Kept s0 (s.fenceOwner a1 a2) := by
  unfold State.fenceOwner
  repeat' first
    | intro _
    | (with_reducible first
        | exact h | exact trivial | assumption | apply State.startFence_kept | apply State.fenceEngine_kept
        | apply State.fenceCluster_kept | apply State.fenceRegion_kept | apply kept_next | apply kept_some | apply kept_none
        | apply kept_getD | apply kept_wait | apply kept_moved | apply kept_ended | apply kept_ite | apply kept_ite1
        | apply kept_ite2 | apply kept_optite | apply kept_turnite)
    | dsimp only | split

theorem State.fireInjection_kept {s0 s : State} (a1 : PageKind) (a2 : Nat) (a3 : BitVec 16) (h : Kept s0 s) : Kept s0
    (State.fireInjection s a1 a2 a3) := by
  unfold State.fireInjection
  repeat' first
    | intro _
    | (with_reducible first
        | exact h | exact trivial | assumption | apply State.openValue_kept | apply State.raiseFull_kept
        | apply State.powerStop_kept | apply setPower_kept | apply State.deviceStop_kept | apply State.fenceOwner_kept
        | apply kept_next | apply kept_some | apply kept_none | apply kept_wait | apply kept_moved | apply kept_ended
        | apply kept_ite | apply kept_ite1 | apply kept_ite2 | apply kept_optite | apply kept_turnite | apply kept_foldl
        | apply kept_foldl1 | apply kept_forEach | apply kept_getD)
    | dsimp only | split
    | (with_reducible first
        | refine kept_pair1 (by assumption) ?_ | refine kept_pair2 (by assumption) ?_ | refine kept_opt (by assumption) ?_
        | refine kept_turnM (by assumption) ?_ | refine kept_turnE (by assumption) ?_ | refine kept_res (by assumption) ?_)

theorem State.writeInject_kept {s0 s : State} (a1 : PageKind) (a2 : Nat) (a3 : Sys2Proof.Word) (h : Kept s0 s) :
    Kept s0 (s.writeInject a1 a2 a3) := by
  unfold State.writeInject
  repeat' first
    | intro _
    | (with_reducible first
        | exact h | exact trivial | assumption | apply State.countBad_kept | apply State.modPage_kept
        | apply State.fireInjection_kept | apply kept_next | apply kept_some | apply kept_none | apply kept_getD
        | apply kept_wait | apply kept_moved | apply kept_ended | apply kept_ite)

theorem State.writePageCtl_kept {s0 s : State} (a1 : PageKind) (a2 : Nat) (a3 : Sys2Proof.Word) (h : Kept s0 s) :
    Kept s0 (s.writePageCtl a1 a2 a3) := by
  unfold State.writePageCtl
  repeat' first
    | intro _
    | (with_reducible first
        | exact h | exact trivial | assumption | apply State.writeQuiesce_kept | apply State.writeFence_kept
        | apply State.writeEnable_kept | apply kept_next | apply kept_some | apply kept_none | apply kept_getD | apply kept_wait
        | apply kept_moved | apply kept_ended | apply kept_ite | apply kept_ite1 | apply kept_ite2 | apply kept_optite
        | apply kept_turnite)
    | dsimp only | split

theorem State.rwHeader_kept {s0 s : State} (a1 : PageKind) (a2 : Nat) (a3 : Nat) (a4 : Sys2Proof.Word) (h : Kept s0 s) :
    KeptOpt s0 (s.rwHeader a1 a2 a3 a4) := by
  unfold State.rwHeader
  repeat' first
    | intro _
    | (with_reducible first
        | exact h | exact trivial | assumption | apply State.writePageCtl_kept | apply State.writeInject_kept
        | apply State.modPage_kept | apply kept_next | apply kept_some | apply kept_none | apply kept_getD | apply kept_wait
        | apply kept_moved | apply kept_ended | apply kept_ite | apply kept_ite1 | apply kept_ite2 | apply kept_optite
        | apply kept_turnite)
    | dsimp only | split

theorem State.rwCore_kept {s0 s : State} (a1 : Nat) (a2 : Nat) (a3 : Nat) (a4 : Sys2Proof.Word) (h : Kept s0 s) : KeptOpt s0
    (State.rwCore s a1 a2 a3 a4) := by
  unfold State.rwCore
  repeat' first
    | intro _
    | (with_reducible first
        | exact h | exact trivial | assumption | apply State.modCore_kept | apply State.strikeAt_kept | apply kept_next
        | apply kept_some | apply kept_none | apply kept_wait | apply kept_moved | apply kept_ended | apply kept_ite
        | apply kept_ite1 | apply kept_ite2 | apply kept_optite | apply kept_turnite | apply kept_foldl | apply kept_foldl1
        | apply kept_forEach | apply kept_getD)
    | dsimp only | split
    | (with_reducible first
        | refine kept_pair1 (by assumption) ?_ | refine kept_pair2 (by assumption) ?_ | refine kept_opt (by assumption) ?_
        | refine kept_turnM (by assumption) ?_ | refine kept_turnE (by assumption) ?_ | refine kept_res (by assumption) ?_)

theorem State.tagAction_kept {s0 s : State} (a1 : Nat) (a2 : Nat) (a3 : Nat) (a4 : Nat) (h : Kept s0 s) :
    Kept s0 (s.tagAction a1 a2 a3 a4) := by
  unfold State.tagAction
  repeat' first
    | intro _
    | (with_reducible first
        | exact h | exact trivial | assumption | apply State.raise_kept | apply State.modCore_kept | apply kept_next
        | apply kept_some | apply kept_none | apply kept_getD | apply kept_wait | apply kept_moved | apply kept_ended
        | apply kept_ite)

theorem State.rwCluster_kept {s0 s : State} (a1 : Nat) (a2 : Nat) (a3 : Nat) (a4 : Sys2Proof.Word) (h : Kept s0 s) :
    KeptOpt s0 (s.rwCluster a1 a2 a3 a4) := by
  unfold State.rwCluster
  repeat' first
    | intro _
    | (with_reducible first
        | exact h | exact trivial | assumption | apply State.modCluster_kept | apply kept_next | apply kept_some
        | apply kept_none | apply kept_getD | apply kept_wait | apply kept_moved | apply kept_ended | apply kept_ite
        | apply kept_ite1 | apply kept_ite2 | apply kept_optite | apply kept_turnite)
    | dsimp only | split

theorem State.rwRegion_kept {s0 s : State} (a1 : Nat) (a2 : Nat) (a3 : Nat) (a4 : Sys2Proof.Word) (h : Kept s0 s) :
    KeptOpt s0 (s.rwRegion a1 a2 a3 a4) := by
  unfold State.rwRegion
  repeat' first
    | intro _
    | (with_reducible first
        | exact h | exact trivial | assumption | apply State.modRegion_kept | apply State.unlessReserved_kept
        | apply setSplitNext_kept | apply setRail_kept | apply kept_next | apply kept_some | apply kept_none | apply kept_getD
        | apply kept_wait | apply kept_moved | apply kept_ended | apply kept_ite | apply kept_ite1 | apply kept_ite2
        | apply kept_optite | apply kept_turnite)
    | dsimp only | split

theorem State.rwPort_kept {s0 s : State} (a1 : Nat) (a2 : Nat) (a3 : Sys2Proof.Word) (h : Kept s0 s) :
    KeptOpt s0 (s.rwPort a1 a2 a3) := by
  unfold State.rwPort
  repeat' first
    | intro _
    | (with_reducible first
        | exact h | exact trivial | assumption | apply State.modPort_kept | apply State.unlessReserved_kept | apply kept_next
        | apply kept_some | apply kept_none | apply kept_getD | apply kept_wait | apply kept_moved | apply kept_ended
        | apply kept_ite | apply kept_ite1 | apply kept_ite2 | apply kept_optite | apply kept_turnite)
    | dsimp only | split

theorem State.rwDie_kept {s0 s : State} (a1 : Nat) (a2 : Nat) (a3 : Nat) (a4 : Sys2Proof.Word) (h : Kept s0 s) :
    KeptOpt s0 (s.rwDie a1 a2 a3 a4) := by
  unfold State.rwDie
  repeat' first
    | intro _
    | (with_reducible first
        | exact h | exact trivial | assumption | apply State.unlessReserved_kept | apply State.modDie_kept
        | apply State.rwPort_kept | apply kept_next | apply kept_some | apply kept_none | apply kept_getD | apply kept_wait
        | apply kept_moved | apply kept_ended | apply kept_ite | apply kept_ite1 | apply kept_ite2 | apply kept_optite
        | apply kept_turnite)
    | dsimp only | split

theorem State.writePowerCtl_kept {s0 s : State} (a1 : Sys2Proof.Word) (h : Kept s0 s) : Kept s0 (State.writePowerCtl s a1) :=
    by
  unfold State.writePowerCtl
  repeat' first
    | intro _
    | (with_reducible first
        | exact h | exact trivial | assumption | apply setPower_kept | apply State.setVoltages_kept | apply kept_next
        | apply kept_some | apply kept_none | apply kept_wait | apply kept_moved | apply kept_ended | apply kept_ite
        | apply kept_ite1 | apply kept_ite2 | apply kept_optite | apply kept_turnite | apply kept_foldl | apply kept_foldl1
        | apply kept_forEach | apply kept_getD)
    | dsimp only | split
    | (with_reducible first
        | refine kept_pair1 (by assumption) ?_ | refine kept_pair2 (by assumption) ?_ | refine kept_opt (by assumption) ?_
        | refine kept_turnM (by assumption) ?_ | refine kept_turnE (by assumption) ?_ | refine kept_res (by assumption) ?_)

theorem State.rwPower_kept {s0 s : State} (a1 : Nat) (a2 : Sys2Proof.Word) (h : Kept s0 s) : KeptOpt s0 (State.rwPower s a1
    a2) := by
  unfold State.rwPower
  repeat' first
    | intro _
    | (with_reducible first
        | exact h | exact trivial | assumption | apply State.unlessReserved_kept | apply setPower_kept
        | apply State.writePowerCtl_kept | apply kept_next | apply kept_some | apply kept_none | apply kept_wait
        | apply kept_moved | apply kept_ended | apply kept_ite | apply kept_ite1 | apply kept_ite2 | apply kept_optite
        | apply kept_turnite | apply kept_foldl | apply kept_foldl1 | apply kept_forEach | apply kept_getD)
    | dsimp only | split
    | (with_reducible first
        | refine kept_pair1 (by assumption) ?_ | refine kept_pair2 (by assumption) ?_ | refine kept_opt (by assumption) ?_
        | refine kept_turnM (by assumption) ?_ | refine kept_turnE (by assumption) ?_ | refine kept_res (by assumption) ?_)

theorem State.rwSnapshot_kept {s0 s : State} (a1 : Nat) (a2 : Sys2Proof.Word) (h : Kept s0 s) :
    KeptOpt s0 (s.rwSnapshot a1 a2) := by
  unfold State.rwSnapshot
  repeat' first
    | intro _
    | (with_reducible first
        | exact h | exact trivial | assumption | apply State.unlessReserved_kept | apply State.writeSize_kept | apply State.writeRegion_kept
        | apply State.modSnap_kept | apply kept_next | apply kept_some | apply kept_none | apply kept_getD | apply kept_wait
        | apply kept_moved | apply kept_ended | apply kept_ite | apply kept_ite1 | apply kept_ite2 | apply kept_optite
        | apply kept_turnite)
    | dsimp only | split

theorem State.modConnCfg_kept {s0 s : State} (a1 : ConnCfg → ConnCfg) (h : Kept s0 s) : Kept s0 (s.modConnCfg a1) := by
  unfold State.modConnCfg
  repeat' first | intro _ | (with_reducible first | exact h | exact trivial | assumption | apply State.modConn_kept)

theorem State.rwTransport_kept {s0 s : State} (a1 : Nat) (a2 : Sys2Proof.Word) (h : Kept s0 s) :
    KeptOpt s0 (s.rwTransport a1 a2) := by
  unfold State.rwTransport
  repeat' first
    | intro _
    | (with_reducible first
        | exact h | exact trivial | assumption | apply State.modConnCfg_kept | apply setNet_kept | apply kept_next
        | apply kept_some | apply kept_none | apply kept_getD | apply kept_wait | apply kept_moved | apply kept_ended
        | apply kept_ite | apply kept_ite1 | apply kept_ite2 | apply kept_optite | apply kept_turnite)
    | dsimp only | split

theorem State.rwDevice_kept {s0 s : State} (a1 : Nat) (a2 : Nat) (a3 : Sys2Proof.Word) (h : Kept s0 s) :
    KeptOpt s0 (s.rwDevice a1 a2 a3) := by
  unfold State.rwDevice
  repeat' first
    | intro _
    | (with_reducible first
        | exact h | exact trivial | assumption | apply State.unlessReserved_kept | apply State.modBoot_kept
        | apply State.rwPower_kept | apply setThermal_kept | apply setCtxSel_kept | apply State.rwSnapshot_kept
        | apply State.rwTransport_kept | apply State.modTime_kept | apply setErr_kept | apply State.writeSpare_kept
        | apply setEnergy_kept | apply kept_next | apply kept_some | apply kept_none | apply kept_getD | apply kept_wait
        | apply kept_moved | apply kept_ended | apply kept_ite | apply kept_ite1 | apply kept_ite2 | apply kept_optite
        | apply kept_turnite)
    | dsimp only | split

theorem State.rwWrite_kept {s0 s : State} (a1 : PageKind) (a2 : Nat) (a3 : Nat) (a4 : Sys2Proof.Word) (h : Kept s0 s) :
    KeptOpt s0 (State.rwWrite s a1 a2 a3 a4) := by
  unfold State.rwWrite
  repeat' first
    | intro _
    | (with_reducible first
        | exact h | exact trivial | assumption | apply State.rwHeader_kept | apply State.writeRingSize_kept
        | apply State.writeStopAt_kept | apply State.rwCore_kept | apply State.rwCluster_kept | apply State.rwRegion_kept
        | apply State.rwDie_kept | apply State.rwDevice_kept | apply kept_next | apply kept_some | apply kept_none
        | apply kept_wait | apply kept_moved | apply kept_ended | apply kept_ite | apply kept_ite1 | apply kept_ite2
        | apply kept_optite | apply kept_turnite | apply kept_foldl | apply kept_foldl1 | apply kept_forEach
        | apply kept_getD)
    | dsimp only | split
    | (with_reducible first
        | refine kept_pair1 (by assumption) ?_ | refine kept_pair2 (by assumption) ?_ | refine kept_opt (by assumption) ?_
        | refine kept_turnM (by assumption) ?_ | refine kept_turnE (by assumption) ?_ | refine kept_res (by assumption) ?_)

theorem State.woWrite_kept {s0 s : State} (a1 : PageKind) (a2 : Nat) (a3 : Nat) (a4 : Sys2Proof.Word) (h : Kept s0 s) : Kept
    s0 (State.woWrite s a1 a2 a3 a4) := by
  unfold State.woWrite
  repeat' first
    | intro _
    | (with_reducible first
        | exact h | exact trivial | assumption | apply State.clearError_kept | apply State.modPage_kept
        | apply State.tagAction_kept | apply State.modDie_kept | apply State.writeResetCtl_kept | apply State.restart_kept
        | apply setPower_kept | apply setThermal_kept | apply setCtxWritesDropped_kept | apply State.writeConnCtl_kept
        | apply setErr_kept | apply State.writeTransition_kept | apply State.writeUnlock_kept
        | apply State.writeActionAt_kept | apply kept_next | apply kept_some | apply kept_none | apply kept_wait
        | apply kept_moved | apply kept_ended | apply kept_ite | apply kept_ite1 | apply kept_ite2 | apply kept_optite
        | apply kept_turnite | apply kept_foldl | apply kept_foldl1 | apply kept_forEach | apply kept_getD)
    | dsimp only | split
    | (with_reducible first
        | refine kept_pair1 (by assumption) ?_ | refine kept_pair2 (by assumption) ?_ | refine kept_opt (by assumption) ?_
        | refine kept_turnM (by assumption) ?_ | refine kept_turnE (by assumption) ?_ | refine kept_res (by assumption) ?_)

theorem State.applyPairWrite_kept {s0 s : State} (a1 : PageKind) (a2 : Nat) (a3 : Sys2Proof.Word) (a4 : Sys2Proof.Word)
    (h : Kept s0 s) : Kept s0 (s.applyPairWrite a1 a2 a3 a4) := by
  unfold State.applyPairWrite
  repeat' first
    | intro _
    | (with_reducible first
        | exact h | exact trivial | assumption | apply State.setRingAt_kept | apply State.writeRegion_kept | apply kept_next
        | apply kept_some | apply kept_none | apply kept_getD | apply kept_wait | apply kept_moved | apply kept_ended
        | apply kept_ite | apply kept_ite1 | apply kept_ite2 | apply kept_optite | apply kept_turnite)
    | dsimp only | split

theorem State.writePair_kept {s0 s : State} (a1 : Nat) (a2 : PageKind) (a3 : Nat) (a4 : Nat) (a5 : Nat) (a6 : Sys2Proof.Word)
    (h : Kept s0 s) : Kept s0 (s.writePair a1 a2 a3 a4 a5 a6) := by
  unfold State.writePair
  repeat' first
    | intro _
    | (with_reducible first
        | exact h | exact trivial | assumption | apply setLoHeld_kept | apply State.applyPairWrite_kept | apply kept_next
        | apply kept_some | apply kept_none | apply kept_getD | apply kept_wait | apply kept_moved | apply kept_ended
        | apply kept_ite)

theorem State.writeWord_kept {s0 s : State} (a1 : Nat) (a2 : PageKind) (a3 : Nat) (a4 : Nat) (a5 : Sys2Proof.Word)
    (h : Kept s0 s) : Kept s0 (s.writeWord a1 a2 a3 a4 a5) := by
  unfold State.writeWord
  repeat' first
    | intro _
    | (with_reducible first
        | exact h | exact trivial | assumption | apply State.writePair_kept | apply State.woWrite_kept
        | apply State.rwWrite_kept | apply kept_next | apply kept_some | apply kept_none | apply kept_getD | apply kept_wait
        | apply kept_moved | apply kept_ended | apply kept_ite | apply kept_ite1 | apply kept_ite2 | apply kept_optite
        | apply kept_turnite)
    | dsimp only | split

theorem State.writeReg_kept {s0 s : State} (a1 : Nat) (a2 : Sys2Proof.Word) (a3 : Sys2Proof.Word) (h : Kept s0 s) :
    Kept s0 (s.writeReg a1 a2 a3) := by
  unfold State.writeReg
  repeat' first
    | intro _
    | (with_reducible first
        | exact h | exact trivial | assumption | apply State.badAccess_kept | apply State.writeWord_kept | apply kept_next
        | apply kept_some | apply kept_none | apply kept_getD | apply kept_wait | apply kept_moved | apply kept_ended
        | apply kept_ite | apply kept_ite1 | apply kept_ite2 | apply kept_optite | apply kept_turnite)
    | dsimp only | split

/-! ### Regs.lean -/

theorem State.queueRow_kept {s0 s : State} (a1 : Nat) (a2 : Nat) (a3 : Bool) (a4 : State → State)
    (h4 : ∀ t, Kept s0 t → Kept s0 (a4 t )) (h : Kept s0 s) : KeptRes s0 (s.queueRow a1 a2 a3 a4) := by
  unfold State.queueRow
  repeat' first | intro _ | (with_reducible first | assumption | apply h4 | apply State.regRow_kept) | split

theorem execStopRequest_kept {s0 s : State} (a0 : Nat) (a1 : Nat) (h : Kept s0 s) : KeptRes s0 (execStopRequest a0 a1 s) := by
  unfold execStopRequest
  repeat' first | intro _ | (with_reducible first | assumption | apply State.queueRow_kept | apply State.writeStop_kept)

theorem execActionRetry_kept {s0 s : State} (a0 : Nat) (a1 : Nat) (h : Kept s0 s) : KeptRes s0 (execActionRetry a0 a1 s) := by
  unfold execActionRetry
  repeat' first | intro _ | (with_reducible first | assumption | apply State.queueRow_kept | apply State.writeAction_kept)

theorem execActionSkip_kept {s0 s : State} (a0 : Nat) (a1 : Nat) (h : Kept s0 s) : KeptRes s0 (execActionSkip a0 a1 s) := by
  unfold execActionSkip
  repeat' first | intro _ | (with_reducible first | assumption | apply State.queueRow_kept | apply State.writeAction_kept)

theorem execActionFlush_kept {s0 s : State} (a0 : Nat) (a1 : Nat) (h : Kept s0 s) : KeptRes s0 (execActionFlush a0 a1 s) := by
  unfold execActionFlush
  repeat' first | intro _ | (with_reducible first | assumption | apply State.queueRow_kept | apply State.writeAction_kept)

theorem execRingConfig_kept {s0 s : State} (a0 : Nat) (a1 : Nat) (a2 : BitVec 48) (a3 : Nat) (h : Kept s0 s) :
    KeptRes s0 (execRingConfig a0 a1 a2 a3 s) := by
  unfold execRingConfig
  repeat' first | intro _ | (with_reducible first | assumption | apply State.queueRow_kept | apply State.setRing_kept)

theorem execTagEmpty_kept {s0 s : State} (a0 : Nat) (a1 : Nat) (a2 : Nat) (a3 : Nat) (h : Kept s0 s) :
    KeptRes s0 (execTagEmpty a0 a1 a2 a3 s) := by
  unfold execTagEmpty
  repeat' first | intro _ | (with_reducible first | assumption | apply State.regRow_kept | apply State.tagAction_kept) | split

theorem execTagFill_kept {s0 s : State} (a0 : Nat) (a1 : Nat) (a2 : Nat) (a3 : Nat) (h : Kept s0 s) :
    KeptRes s0 (execTagFill a0 a1 a2 a3 s) := by
  unfold execTagFill
  repeat' first | intro _ | (with_reducible first | assumption | apply State.regRow_kept | apply State.tagAction_kept) | split

theorem execTallyValueWrite_kept {s0 s : State} (ini phys n : Nat) (v : Word) (h : Kept s0 s) :
    KeptRes s0 (execTallyValueWrite ini phys n v s) := by
  rw [execTallyValueWrite]
  exact State.regRow_kept _ _ _ _ (fun t ht => kept_ite (kept_getD (State.rwCore_kept _ _ _ _ ht) ht) ht) h

theorem execErrClearRecord_kept {s0 s : State} (a0 : Nat) (a1 : Nat) (h : Kept s0 s) :
    KeptRes s0 (execErrClearRecord a0 a1 s) := by
  unfold execErrClearRecord
  repeat' first | intro _ | (with_reducible first | assumption | apply State.regRow_kept | apply State.clearError_kept) | split

theorem execErrClearCount_kept {s0 s : State} (a0 : Nat) (a1 : Nat) (h : Kept s0 s) :
    KeptRes s0 (execErrClearCount a0 a1 s) := by
  unfold execErrClearCount
  repeat' first | intro _ | (with_reducible first | assumption | apply State.regRow_kept | apply State.clearError_kept) | split

theorem execErrInject_kept {s0 s : State} (a0 : Nat) (a1 : Nat) (a2 : Sys2Proof.Word) (h : Kept s0 s) :
    KeptRes s0 (execErrInject a0 a1 a2 s) := by
  unfold execErrInject
  repeat' first | intro _ | (with_reducible first | assumption | apply State.regRow_kept | apply State.writeInject_kept) | split

theorem State.writeOne_kept {s0 s : State} (a1 : Nat) (a2 : Nat) (a3 : Nat) (h : Kept s0 s) :
    KeptRes s0 (s.writeOne a1 a2 a3) := by
  unfold State.writeOne
  repeat' first | intro _ | (with_reducible first | assumption | apply State.regRow_kept | apply State.woWrite_kept) | split

theorem execErraggClear_kept {s0 s : State} (a0 : Nat) (h : Kept s0 s) : KeptRes s0 (execErraggClear a0 s) := by
  unfold execErraggClear
  repeat' with_reducible first | assumption | apply State.writeOne_kept

theorem execPeakClear_kept {s0 s : State} (a0 : Nat) (h : Kept s0 s) : KeptRes s0 (execPeakClear a0 s) := by
  unfold execPeakClear
  repeat' with_reducible first | assumption | apply State.writeOne_kept

theorem execMaxClear_kept {s0 s : State} (a0 : Nat) (h : Kept s0 s) : KeptRes s0 (execMaxClear a0 s) := by
  unfold execMaxClear
  repeat' with_reducible first | assumption | apply State.writeOne_kept

theorem execLatencyClear_kept {s0 s : State} (a0 : Nat) (a1 : Nat) (h : Kept s0 s) : KeptRes s0 (execLatencyClear a0 a1 s) := by
  unfold execLatencyClear
  repeat' first | (with_reducible first | assumption | apply State.writeOne_kept | apply kept_next) | split

theorem State.writeRow_kept {s0 s : State} (a1 : Nat) (a2 : Sys2Proof.Word) (a3 : Sys2Proof.Word) (h : Kept s0 s) :
    KeptRes s0 (s.writeRow a1 a2 a3) := by
  unfold State.writeRow
  repeat' first | intro _ | (with_reducible first | assumption | apply State.regRow_kept | apply State.writeReg_kept)

theorem execStagingWrite_kept {s0 s : State} (a0 : Nat) (a1 : Nat) (a2 : Sys2Proof.Word) (h : Kept s0 s) :
    KeptRes s0 (execStagingWrite a0 a1 a2 s) := by
  unfold execStagingWrite
  repeat' first | (with_reducible first | assumption | apply State.writeRow_kept | apply kept_next) | split

theorem execRegisterWrite_kept {s0 s : State} (a0 : Nat) (a1 : Sys2Proof.Word) (a2 : Sys2Proof.Word) (h : Kept s0 s) :
    KeptRes s0 (execRegisterWrite a0 a1 a2 s) := by
  unfold execRegisterWrite
  repeat' with_reducible first | assumption | apply State.writeRow_kept

theorem execHiWrite_kept {s0 s : State} (a0 : Nat) (a1 : Sys2Proof.Word) (a2 : Sys2Proof.Word) (h : Kept s0 s) :
    KeptRes s0 (execHiWrite a0 a1 a2 s) := by
  unfold execHiWrite
  repeat' first | (with_reducible first | assumption | apply State.writeRow_kept | apply kept_next) | split

theorem State.regRead_kept {s0 s : State} (ini pg : Nat) (f : State → State) (hf : ∀ t, Kept s0 t → Kept s0 (f t))
    (h : Kept s0 s) : KeptRes s0 (s.regRead ini pg f) := by
  unfold State.regRead
  exact kept_next (kept_ite (hf _ h) h)

theorem State.readRow_kept {s0 s : State} (a1 : Nat) (a2 : Sys2Proof.Word) (h : Kept s0 s) : KeptRes s0 (s.readRow a1 a2) := by
  unfold State.readRow
  repeat' first | intro _ | (with_reducible first | assumption | apply State.regRead_kept | apply State.readReg_kept)

theorem execLoRead_kept {s0 s : State} (a0 : Nat) (a1 : Sys2Proof.Word) (h : Kept s0 s) : KeptRes s0 (execLoRead a0 a1 s) := by
  unfold execLoRead
  repeat' first | (with_reducible first | assumption | apply State.readRow_kept | apply kept_next) | split

theorem execQueueLoRead_kept {s0 s : State} (a0 : Nat) (h : Kept s0 s) : KeptRes s0 (execQueueLoRead a0 s) := by
  unfold execQueueLoRead
  repeat' with_reducible first | assumption | apply State.readRow_kept

theorem execDescRead_kept {s0 s : State} (a0 : Nat) (h : Kept s0 s) : KeptRes s0 (execDescRead a0 s) := by
  unfold execDescRead
  repeat' with_reducible first | assumption | apply State.readRow_kept

theorem State.applyOp_kept {s0 s : State} (a1 : Nat) (a2 : Sys2Proof.RegOp) (h : Kept s0 s) : Kept s0 (s.applyOp a1 a2).1 := by
  unfold State.applyOp
  repeat' first
    | (with_reducible first | assumption | apply State.readReg_kept | apply State.writeReg_kept)
    | dsimp only | split

theorem State.applyOps_kept {s0 s : State} (n : Nat) (os : List RegOp) (h : Kept s0 s) : Kept s0 (s.applyOps n os).1 := by
  induction os generalizing s with
  | nil => exact h
  | cons o os ih =>
    rw [State.applyOps]
    exact kept_ite1 h (ih (State.applyOp_kept _ _ h))

theorem State.applyRegAccess_kept {s0 s : State} (a1 : Nat) (a2 : List Sys2Proof.RegOp) (h : Kept s0 s) :
    Kept s0 (s.applyRegAccess a1 a2).1 := by
  unfold State.applyRegAccess
  repeat' first | (with_reducible first | assumption | apply State.applyOps_kept) | split

theorem execRegAccess_kept {s0 s : State} (a0 : Nat) (a1 : Sys2Proof.MsgHdr) (a2 : List Sys2Proof.RegOp) (h : Kept s0 s) :
    KeptRes s0 (execRegAccess a0 a1 a2 s) := by
  unfold execRegAccess
  repeat' first | intro _ | (with_reducible first | assumption | apply State.request_kept | apply State.applyRegAccess_kept)

end Sys2Proof.Machine
end

