-- ==== Sys2Proof/Laws/Queue.lean ====
section
/-! SUPPORT. Queue.lean: how a queue takes its oldest command, what leaves the queues alone, and what a stop
changes in them. -/

namespace Sys2Proof.Machine

/-! ### How a queue takes its oldest command -/

theorem State.tryIssue_ready {s : State} {q : Nat} {e : Entry} {r : Entry → Bool} {l : State → Entry → Gate}
    (h : s.Ready q e r l)
    (eff : State → Entry → State) : s.tryIssue q r l eff = eff (s.fetchMarks q) e := by
  simp only [State.tryIssue, h.may, h.unpassed, h.front, h.header, h.row, h.steps, h.later]; simp

theorem State.tryIssue_held {s : State} {q : Nat} {r : Entry → Bool} {l : State → Entry → Gate} (h : s.mayIssue q = false)
    (eff : State → Entry → State) : s.tryIssue q r l eff = s := by
  simp [State.tryIssue, h]

theorem State.tryIssue_bad {s : State} {q : Nat} {e : Entry} {r : Entry → Bool} {l : State → Entry → Gate} {st : Stop}
    (h : s.mayIssue q = true)
    (hp : (s.queue q).passed.contains 0 = false) (hf : s.front q = .cmd e) (hh : s.headerCheck q e = some st)
    (eff : State → Entry → State) : s.tryIssue q r l eff = (s.fetchMarks q).stopWith q st := by
  simp only [State.tryIssue, h, hp, hf, hh]; simp

/-! ### Cores and queues after a change -/

theorem State.physOf_congr {s t : State} (h : t.remap = s.remap) (l : Nat) : t.physOf l = s.physOf l := by
  unfold State.physOf
  rw [h]

theorem State.lcore_congr {s t : State} (hc : t.cores = s.cores) (hr : t.remap = s.remap) (l : Nat) : t.lcore l = s.lcore l :=
    by
  unfold State.lcore State.core
  rw [hc, State.physOf_congr hr]

theorem State.queue_congr {s t : State} (hc : t.cores = s.cores) (hr : t.remap = s.remap) (hd : t.devq = s.devq) (q : Nat) :
    t.queue q = s.queue q := by
  unfold State.queue
  rw [State.lcore_congr hc hr, hd]

@[simp] theorem State.modCore_physOf (s : State) (p : Nat) (f : Core → Core) (l : Nat) : (s.modCore p f).physOf l = s.physOf l
    := rfl

@[simp] theorem State.modLcore_physOf (s : State) (k : Nat) (f : Core → Core) (l : Nat) : (s.modLcore k f).physOf l = s.physOf l
    := rfl

@[simp] theorem State.modLcore_same (s : State) (l : Nat) (f : Core → Core) : (s.modLcore l f).lcore l = f (s.lcore l) := by
  unfold State.modLcore State.lcore
  simp

/-- A core's function leaves a part of every core that it leaves in each. -/
theorem State.modLcore_part {α : Type} (s : State) (k : Nat) (f : Core → Core) (g : Core → α) (hf : ∀ c, g (f c) = g c)
    (l : Nat) :
    g ((s.modLcore k f).lcore l) = g (s.lcore l) := by
  unfold State.modLcore State.lcore
  by_cases h : s.physOf l = s.physOf k
  · simp [h, hf]
  · simp [State.modCore_other s f h]

theorem State.modLcore_queue (s : State) (k : Nat) (f : Core → Core) (hf : ∀ c, (f c).queues = c.queues) (q : Nat) :
    (s.modLcore k f).queue q = s.queue q := by
  unfold State.queue
  rw [State.modLcore_part s k f Core.queues hf]
  rfl

@[simp] theorem State.modQueue_same (s : State) (q : Nat) (f : QState → QState) : (s.modQueue q f).queue q = f (s.queue q) := by
  unfold State.queue State.modQueue
  split
  · simp
  · simp

theorem State.modQueue_other (s : State) {q k : Nat} (f : QState → QState) (h : k ≠ q)
    (hi : ∀ a b, a < 128 → b < 128 → s.physOf a = s.physOf b → a = b) :
    (s.modQueue q f).queue k = s.queue k := by
  unfold State.queue State.modQueue
  by_cases hq : q < 512 <;> by_cases hk : k < 512 <;> simp only [hq, hk, if_true, if_false]
  · by_cases hl : s.physOf (k / 4) = s.physOf (q / 4)
    · have e := hi _ _ (by omega) (by omega) hl
      unfold State.modLcore State.lcore
      simp only [State.modCore_physOf, hl, State.modCore_same]
      exact nget_nmod_other _ _ _ (by omega)
    · unfold State.modLcore State.lcore
      simp [State.modCore_other s _ hl]
  · rfl
  · rfl
  · exact nget_nmod_other QState.reset s.devq f (by omega)

/-! ### What leaves the queues alone -/

/-- The queues of `t` are those of `s`. -/
structure SameQ (s t : State) : Prop where
  queue : ∀ q, t.queue q = s.queue q
  remap : t.remap = s.remap

theorem SameQ.refl (s : State) : SameQ s s := ⟨fun _ => rfl, rfl⟩

theorem SameQ.trans {a b c : State} (h : SameQ a b) (h' : SameQ b c) : SameQ a c :=
  ⟨fun q => (h'.queue q).trans (h.queue q), h'.remap.trans h.remap⟩

theorem SameQ.of {s t : State} (hc : t.cores = s.cores) (hr : t.remap = s.remap) (hd : t.devq = s.devq) : SameQ s t :=
  ⟨State.queue_congr hc hr hd, hr⟩

theorem SameQ.ite {s a b : State} {c : Prop} [Decidable c] (ha : SameQ s a) (hb : SameQ s b) : SameQ s (if c then a else b) :=
    by
  split
  · exact ha
  · exact hb

theorem SameQ.told {s t u : State} (h : SameQ s t) (h' : Told t u) : SameQ s u :=
  h.trans (.of h'.fields.2.2.2.2.2.2.2.2.1 (by have := h'.fields; tauto) (by have := h'.fields; tauto))

theorem SameQ.raise {s t : State} (h : SameQ s t) (pg : Nat) (code : BitVec 16) (sev info : Nat) : SameQ s
    (t.raise pg code sev info) :=
  h.told (t.raise_told _ _ _ _)

theorem SameQ.raiseRare {s t : State} (h : SameQ s t) (pg : Nat) (code : BitVec 16) (info : Nat) (w : Word) :
    SameQ s (t.raiseRare pg code info w) := h.told (t.raiseRare_told _ _ _ _)

theorem SameQ.modLcore {s t : State} (h : SameQ s t) (l : Nat) (f : Core → Core) (hf : ∀ c, (f c).queues = c.queues) :
    SameQ s (t.modLcore l f) := h.trans ⟨State.modLcore_queue t l f hf, rfl⟩

theorem SameQ.modCtl {s t : State} (h : SameQ s t) (k : Nat) (f : Ctl → Ctl) : SameQ s (t.modCtl k f) := h.trans
    (.of rfl rfl rfl)

theorem SameQ.modRegion {s t : State} (h : SameQ s t) (k : Nat) (f : Region → Region) : SameQ s (t.modRegion k f) := h.trans
    (.of rfl rfl rfl)

theorem SameQ.modDie {s t : State} (h : SameQ s t) (k : Nat) (f : Die → Die) : SameQ s (t.modDie k f) := h.trans
    (.of rfl rfl rfl)

theorem SameQ.setMemCond {s t : State} (h : SameQ s t) (v : NMap WordCond) : SameQ s (t.setMemCond v) := h.trans
    (.of rfl rfl rfl)

theorem SameQ.setOracle {s t : State} (h : SameQ s t) (v : Nat) : SameQ s (t.setOracle v) := h.trans (.of rfl rfl rfl)

theorem SameQ.setFabric {s t : State} (h : SameQ s t) (v : List Signal) : SameQ s (t.setFabric v) := h.trans (.of rfl rfl rfl)

theorem SameQ.foldl {α : Type} {s t : State} {f : State → α → State} (hf : ∀ u a, SameQ s u → SameQ s (f u a)) (l : List α)
    (h : SameQ s t) : SameQ s (l.foldl f t) := by
  induction l generalizing t with
  | nil => exact h
  | cons a l ih => exact ih (hf t a h)

theorem SameQ.forEach {s t : State} {f : State → Nat → State} (hf : ∀ u a, SameQ s u → SameQ s (f u a)) (l : List Nat)
    (h : SameQ s t) : SameQ s (t.forEach l f) := SameQ.foldl hf l h

theorem SameQ.modPage {s t : State} (h : SameQ s t) (k : Nat) (f : PageHdr → PageHdr) : SameQ s (t.modPage k f) := h.trans
    (.of rfl rfl rfl)

theorem SameQ.takeInjection {s t : State} (h : SameQ s t) (pg : Nat) : SameQ s (t.takeInjection pg).1 := by
  unfold State.takeInjection
  dsimp only
  split
  · exact .ite h (h.modPage _ _)
  · exact h

/-! What an armed injection of kind 2 would do to the queues happens only where injection is unlocked. -/

theorem Told.injectOpen {s t : State} (h : Told s t) : t.injectOpen = s.injectOpen := by
  induction h with
  | refl => rfl
  | opened _ ih => exact ih
  | recorded _ _ _ ih => exact ih
  | logged x _ ih =>
    rw [← ih]
    unfold State.injectOpen
    congr 1
  | queued _ _ _ ih => exact ih
  | lost _ _ ih => exact ih
  | lostAt _ _ ih => exact ih

theorem State.injectOpen_congr {s t : State} (hf : t.fuses = s.fuses) (hb : t.boot = s.boot) (he : t.err = s.err) :
    t.injectOpen = s.injectOpen := by
  unfold State.injectOpen
  rw [hf, hb, he]

theorem State.takeInjection_shut {s : State} (h : s.injectOpen = false) (pg : Nat) : s.takeInjection pg = (s, .sound) := by
  simp [State.takeInjection, h]

theorem State.strike_shut {s : State} (h : s.injectOpen = false) (l block : Nat) : s.strike l block = s := by
  simp [State.strike, State.strikeAt, State.takeInjection_shut h]

theorem SameQ.applySignals {s t : State} (h : SameQ s t) (hi : t.injectOpen = false) (l n : Nat) (inc : Int)
    (srcs : List Nat) : SameQ s (t.applySignals l n inc srcs) := by
  unfold State.applySignals
  dsimp only
  rw [State.strike_shut]
  · repeat' first
      | assumption
      | (with_reducible first | apply SameQ.ite | apply SameQ.raise | apply SameQ.modLcore)
      | (intro c; rfl)
  · split
    · rw [(State.raise_told _ _ _ _ _).injectOpen]
      exact hi
    · exact hi

theorem State.takeSignal_fabric (s : State) (src : Nat) (tally : BitVec 16) :
    ∃ v, (s.takeSignal src tally).2 = s.setFabric v := by
  unfold State.takeSignal
  split
  · exact ⟨s.fabric, rfl⟩
  · exact ⟨_, rfl⟩

theorem State.takeSignals_fabric (s : State) (srcs : List Nat) (tally : BitVec 16) :
    ∃ v, (s.takeSignals srcs tally).2 = s.setFabric v := by
  unfold State.takeSignals
  generalize (0 : Int) = i
  induction srcs generalizing s i with
  | nil => exact ⟨s.fabric, rfl⟩
  | cons x xs ih =>
    obtain ⟨v, hv⟩ := s.takeSignal_fabric x tally
    obtain ⟨w, hw⟩ := ih (s.setFabric v) (i + (s.takeSignal x tally).1)
    refine ⟨w, ?_⟩
    rw [List.foldl_cons]
    dsimp only
    rw [hv, hw]
    rfl

/-- A signal that lands is applied with the signals that it takes from the fabric. -/
theorem State.landSignal_applies (s : State) (src : Nat) (tally : BitVec 16) (inc : Int) :
    ∃ o v i srcs, s.landSignal src tally inc =
      ((s.setOracle o).setFabric v).applySignals (tallyCore tally.toNat) (tallyNum tally.toNat) i srcs := by
  have h : ∃ o, (s.sameCycle src tally).2 = s.setOracle o := by
    unfold State.sameCycle
    dsimp only
    split
    · exact ⟨s.oracle, rfl⟩
    · exact ⟨_, rfl⟩
  obtain ⟨o, ho⟩ := h
  obtain ⟨v, hv⟩ := (s.setOracle o).takeSignals_fabric (s.sameCycle src tally).1 tally
  refine ⟨o, v, inc + ((s.sameCycle src tally).2.takeSignals (s.sameCycle src tally).1 tally).1,
    src :: (s.sameCycle src tally).1, ?_⟩
  unfold State.landSignal
  dsimp only
  rw [ho, hv]

/-- A signal at its own tally waits in the fabric or is applied. -/
theorem State.reachTally_cases (s : State) (src : Nat) (tally inc : BitVec 16) (op : Nat) :
    ∃ o v, s.reachTally src tally inc op = (s.setOracle o).setFabric v ∨
      ∃ i srcs, s.reachTally src tally inc op =
        ((s.setOracle o).setFabric v).applySignals (tallyCore tally.toNat) (tallyNum tally.toNat) i srcs := by
  have h : ∃ o, (s.awaitsOthers src tally (signed16 inc.toNat)).2 = s.setOracle o := by
    unfold State.awaitsOthers
    dsimp only
    split
    · exact ⟨s.oracle, rfl⟩
    split
    · exact ⟨_, rfl⟩
    · exact ⟨s.oracle, rfl⟩
  obtain ⟨o, ho⟩ := h
  unfold State.reachTally
  dsimp only
  rw [ho]
  split
  · exact ⟨o, _, .inl rfl⟩
  · obtain ⟨o', v, i, srcs, e⟩ := (s.setOracle o).landSignal_applies src tally (signed16 inc.toNat)
    exact ⟨o', v, .inr ⟨i, srcs, e⟩⟩

theorem SameQ.reachTally {s t : State} (h : SameQ s t) (hi : t.injectOpen = false) (src : Nat) (tally inc : BitVec 16)
    (op : Nat) : SameQ s (t.reachTally src tally inc op) := by
  obtain ⟨o, v, e | ⟨i, srcs, e⟩⟩ := t.reachTally_cases src tally inc op <;> rw [e]
  · exact (h.setOracle o).setFabric v
  · exact SameQ.applySignals ((h.setOracle o).setFabric v) ((State.injectOpen_congr (s := t) rfl rfl rfl).trans hi) _ _ _ _

theorem SameQ.countFabric {s t : State} (h : SameQ s t) (hi : t.injectOpen = false) (d : Nat) : SameQ s (t.countFabric d) := by
  unfold State.countFabric State.fabricWord
  rw [State.takeInjection_shut (show (t.modDie _ _).injectOpen = false from hi)]
  exact h.modDie _ _

theorem SameQ.noteRemote {s t : State} (h : SameQ s t) (l : Nat) {w : Who} (hw : w.inbound = false) :
    SameQ s (t.noteRemote l w) := by
  simpa [State.noteRemote, hw] using h

theorem SameQ.performSignal {s t : State} (h : SameQ s t) (hi : t.injectOpen = false) (q tally inc op : Nat) :
    SameQ s (t.performSignal q tally inc op) := by
  unfold State.performSignal
  dsimp only
  split
  · exact h.reachTally hi _ _ _ _
  split
  · with_reducible refine SameQ.countFabric (SameQ.modLcore (SameQ.setFabric h _) _ _ fun c => ?_) ?_ _
    · rfl
    · exact (State.injectOpen_congr (s := t) rfl rfl rfl).trans hi
  · with_reducible refine SameQ.countFabric (SameQ.setFabric h _) ?_ _
    exact (State.injectOpen_congr (s := t) rfl rfl rfl).trans hi

theorem SameQ.headerSignal {s t : State} (h : SameQ s t) (hi : t.injectOpen = false) (q : Nat) (e : Entry) :
    SameQ s (t.headerSignal q e) := by
  unfold State.headerSignal
  exact .ite (h.performSignal hi _ _ _ _) h

theorem SameQ.noteScratchWord {s t : State} (h : SameQ s t) (l : Nat) (w : Who) (k : Nat) (c : WordCond) : SameQ s
    (t.noteScratchWord l w k c) := by
  unfold State.noteScratchWord
  dsimp only
  repeat' first
    | assumption
    | (with_reducible first | apply SameQ.ite | apply SameQ.raise | apply SameQ.raiseRare | apply SameQ.modLcore)
    | (intro c; rfl)

theorem SameQ.failPage {s t : State} (h : SameQ s t) (a : Nat) : SameQ s (t.failPage a) := by
  unfold State.failPage
  repeat' first | assumption | with_reducible apply SameQ.modCtl

theorem SameQ.tierEvent {s t : State} (h : SameQ s t) (a : Nat) (code : BitVec 16) (sev : Nat) : SameQ s
    (t.tierEvent a code sev) := by
  unfold State.tierEvent
  repeat' first | assumption | with_reducible apply SameQ.raise

theorem SameQ.writeBackTier {s t : State} (h : SameQ s t) (k : Nat) : SameQ s (t.writeBackTier k) := by
  unfold State.writeBackTier
  dsimp only
  exact .ite ((h.takeInjection _).setMemCond _) (((h.takeInjection _).setMemCond _).failPage _)

theorem SameQ.noteTierWord {s t : State} (h : SameQ s t) (k : Nat) (c : WordCond) : SameQ s (t.noteTierWord k c) := by
  unfold State.noteTierWord
  dsimp only
  repeat' first
    | assumption
    | (with_reducible first
        | apply SameQ.ite | apply SameQ.raiseRare | apply SameQ.modCtl | apply SameQ.failPage | apply SameQ.tierEvent
        | apply SameQ.writeBackTier)

theorem SameQ.checkLine {s t : State} (h : SameQ s t) (k : Nat) : SameQ s (t.checkLine k) := by
  unfold State.checkLine
  dsimp only
  repeat' first
    | assumption
    | (with_reducible first | apply SameQ.ite | apply SameQ.modCtl | apply SameQ.modRegion)
    | (refine SameQ.told ?_ (.opened .refl))

theorem SameQ.checkAccess {s t : State} (h : SameQ s t) (a n : Nat) : SameQ s (t.checkAccess a n) := by
  unfold State.checkAccess
  repeat' first | assumption | (with_reducible first | apply SameQ.ite | apply SameQ.checkLine | apply SameQ.forEach) | intro _

theorem SameQ.countPart {s t : State} (h : SameQ s t) (w : Bool) (p : Nat × Nat) : SameQ s (t.countPart w p) := by
  unfold State.countPart
  repeat' first | assumption | (with_reducible first | apply SameQ.modRegion)

theorem SameQ.countTier {s t : State} (h : SameQ s t) (a n : Nat) (w : Bool) : SameQ s (t.countTier a n w) := by
  unfold State.countTier
  exact .foldl (fun _ _ hu => hu.countPart _ _) _ (h.checkAccess _ _)

theorem SameQ.noteTier {s t : State} (h : SameQ s t) (a n : Nat) : SameQ s (t.noteTier a n) :=
  SameQ.countTier (.foldl (fun _ _ hu => hu.noteTierWord _ _) _ h) _ _ _

theorem SameQ.countInbound {s t : State} (h : SameQ s t) (l n : Nat) {w : Who} (hw : w.inbound = false) :
    SameQ s (t.countInbound l n w) := by
  simpa [State.countInbound, hw] using h

theorem SameQ.noteLedgerWord {s t : State} (h : SameQ s t) (l : Nat) (w : Who) (x : Nat × Nat × Nat)
    (c : WordCond) : SameQ s (t.noteLedgerWord l w x c) := by
  unfold State.noteLedgerWord
  dsimp only
  repeat' first
    | assumption
    | (with_reducible first | apply SameQ.ite | apply SameQ.raise | apply SameQ.modLcore)
    | (intro c; rfl)

theorem SameQ.noteStale {s t : State} (h : SameQ s t) (l off n : Nat) : SameQ s (t.noteStale l off n) := by
  unfold State.noteStale
  dsimp only
  repeat' first | assumption | with_reducible apply SameQ.modLcore | (intro c; rfl)

theorem SameQ.noteWords {s t : State} (h : SameQ s t) {w : Who} (hw : w.inbound = false) (a n : Nat) :
    SameQ s (t.noteWords w a n) := by
  unfold State.noteWords
  split
  · exact h.noteTier _ _
  · exact h.noteTier _ _
  · exact SameQ.countInbound (.foldl (fun u e hu => hu.noteScratchWord _ _ _ _) _ h) _ _ hw
  · exact .foldl (fun u x hu => .ite hu (hu.noteLedgerWord _ _ _ _)) _ ((h.noteStale _ _ _).noteRemote _ hw)
  · exact h

theorem SameQ.countBridge {s t : State} (h : SameQ s t) (w : Who) (a n : Nat) (wr : Bool) : SameQ s (t.countBridge w a n wr) := by
  unfold State.countBridge
  split
  · exact h
  · exact .ite h (h.modDie _ _)

theorem SameQ.countWork {s t : State} (h : SameQ s t) (q kind n : Nat) : SameQ s (t.countWork q kind n) :=
  .ite h (h.trans (.of rfl rfl rfl))

theorem SameQ.countBytes {s t : State} (h : SameQ s t) (w : Who) (a n : Nat) : SameQ s (t.countBytes w a n) := by
  unfold State.countBytes
  split
  · exact h.countWork _ _ _
  · exact h.countWork _ _ _
  · exact h.countWork _ _ _
  · exact h

theorem SameQ.noteRead {s t : State} (h : SameQ s t) {w : Who} (hw : w.inbound = false) (a n : Nat) :
    SameQ s (t.noteRead w a n) :=
  .ite h (((h.noteWords hw a n).countBridge w a n false).countBytes w a n)

theorem SameQ.read {s t : State} (h : SameQ s t) {w : Who} (hw : w.inbound = false) (a n : Nat) : SameQ s (t.read w a n).2 :=
  h.noteRead hw _ _

theorem SameQ.fetchMarks {s t : State} (h : SameQ s t) (q : Nat) : SameQ s (t.fetchMarks q) := by
  unfold State.fetchMarks
  split
  · exact h.read (by rfl) _ _
  · exact h

theorem State.physOf_inj {s : State} (h : s.remap.ok) {a b : Nat} (ha : a < 128) (hb : b < 128) (e : s.physOf a = s.physOf b) :
    a = b := by
  unfold State.physOf at e
  cases h1 : nget none s.remap.map a <;> cases h2 : nget none s.remap.map b <;> simp only [h1, h2] at e
  · exact e
  · omega
  · omega
  · have he : (_ : Nat) = _ := Nat.add_left_cancel e
    subst he
    simpa using (h _ _ h1).symm.trans (h _ _ h2)

theorem State.modQueue_ne {s : State} (h : s.remap.ok) {q k : Nat} (f : QState → QState) (hk : k ≠ q) :
    (s.modQueue q f).queue k = s.queue k := State.modQueue_other s f hk fun _ _ ha hb => State.physOf_inj h ha hb

/-! ### What a stop changes in the queues -/

/-- The commands in progress of a queue have ended or been given up: nothing but `flight` and `passed` differs, and a queue that
let nothing pass still lets nothing pass. -/
def QState.Freed (x y : QState) : Prop :=
  ∃ fl pa, y = { x with flight := fl, passed := pa } ∧ (x.passed = [] → pa = [])

theorem QState.Freed.refl (x : QState) : x.Freed x := ⟨_, _, rfl, id⟩

theorem QState.Freed.trans {x y z : QState} (h : x.Freed y) (h' : y.Freed z) : x.Freed z := by
  obtain ⟨f, p, rfl, hp⟩ := h
  obtain ⟨f', p', rfl, hp'⟩ := h'
  exact ⟨f', p', rfl, fun e => hp' (hp e)⟩

/-- A queue that let nothing pass: nothing but `flight` differs. -/
theorem QState.Freed.flight {x y : QState} (h : x.Freed y) (hp : x.passed = []) : ∃ fl, y = { x with flight := fl } := by
  obtain ⟨f, p, rfl, hq⟩ := h
  exact ⟨f, by rw [hq hp, ← hp]⟩

/-- The queues of a core after commands in progress have ended or been given up. -/
def Core.Freed (c c' : Core) : Prop := ∀ i, (c.queue i).Freed (c'.queue i)

theorem Core.Freed.refl (c : Core) : c.Freed c := fun _ => .refl _

theorem Core.Freed.trans {a b c : Core} (h : a.Freed b) (h' : b.Freed c) : a.Freed c := fun i => (h i).trans (h' i)

theorem Core.Freed.of {c c' : Core} (h : c'.queues = c.queues) : c.Freed c' := fun i => by unfold Core.queue; rw [h]; exact .refl _

theorem Core.Freed.modQueue (c : Core) (i : Nat) (f : QState → QState) (hf : ∀ x : QState, x.Freed (f x)) :
    c.Freed (c.modQueue i f) := fun k => by
  unfold Core.queue Core.modQueue
  by_cases h : k = i
  · subst h
    rw [nget_nmod_same]
    exact hf _
  · rw [nget_nmod_other _ _ _ h]
    exact .refl _

theorem Core.Freed.foldl {α : Type} {f : Core → α → Core} (hf : ∀ c a, Core.Freed c (f c a)) (l : List α) (c : Core) : c.Freed
    (l.foldl f c) := by
  induction l generalizing c with
  | nil => exact .refl c
  | cons a l ih => exact (hf c a).trans (ih _)

theorem Core.voidTargets_queues (c : Core) (fs : List Nat) : (c.voidTargets fs).queues = c.queues := by
  unfold Core.voidTargets
  induction fs generalizing c with
  | nil => rfl
  | cons a l ih => exact ih _

theorem Core.voidPlanes_queues (c : Core) (ps : List (Nat × Bool)) : (c.voidPlanes ps).queues = c.queues := by
  unfold Core.voidPlanes
  induction ps generalizing c with
  | nil => rfl
  | cons a l ih => exact ih _

/-- The queues of `t` are those of `s`, but for commands in progress that have ended or been given up. -/
structure FreedQ (s t : State) : Prop where
  queue : ∀ q, (s.queue q).Freed (t.queue q)
  remap : t.remap = s.remap

theorem FreedQ.refl (s : State) : FreedQ s s := ⟨fun _ => .refl _, rfl⟩

theorem FreedQ.trans {a b c : State} (h : FreedQ a b) (h' : FreedQ b c) : FreedQ a c :=
  ⟨fun q => (h.queue q).trans (h'.queue q), h'.remap.trans h.remap⟩

theorem SameQ.freed {s t : State} (h : SameQ s t) : FreedQ s t := ⟨fun q => by rw [h.queue q]; exact .refl _, h.remap⟩

theorem FreedQ.modLcore (s : State) (l : Nat) {f : Core → Core} (hf : ∀ c, Core.Freed c (f c)) : FreedQ s (s.modLcore l f) :=
  ⟨fun q => by
    unfold State.queue
    by_cases hq : q < 512 <;> simp only [hq, if_true, if_false]
    · unfold State.modLcore State.lcore
      by_cases e : s.physOf (q / 4) = s.physOf l
      · simp only [State.modCore_physOf, e, State.modCore_same]
        exact hf _ _
      · simp only [State.modCore_physOf, State.modCore_other s f e]
        exact .refl _
    · exact .refl _, rfl⟩

theorem Core.endTake_freed (c : Core) (t : Take) : c.Freed (c.endTake t) := by
  unfold Core.endTake
  dsimp only
  have h1 : c.Freed ((c.voidPlanes t.targets).dropTake t.job) := .of (Core.voidPlanes_queues _ _)
  split
  · refine (h1.trans (Core.Freed.modQueue _ _ _ fun x => ⟨x.flight, x.passed.eraseIdx (c.aheadPlace t.job), rfl, fun e => ?_⟩)).trans (.of rfl)
    simp [e]
  · exact h1.trans (Core.Freed.modQueue _ _ _ fun x => ⟨_, x.passed, rfl, id⟩)

theorem State.endTakes_freed (s : State) (l st : Nat) : FreedQ s (s.endTakes l st) := by
  unfold State.endTakes
  exact FreedQ.modLcore s l fun c => Core.Freed.foldl Core.endTake_freed _ c

theorem SameQ.modStream {s t : State} (h : SameQ s t) (k : Nat) (f : RailStream → RailStream) : SameQ s (t.modStream k f) :=
  h.trans (.of rfl rfl rfl)

theorem SameQ.setRail {s t : State} (h : SameQ s t) (v : Rail) : SameQ s (t.setRail v) := h.trans (.of rfl rfl rfl)

theorem State.leaveStream_freed (s : State) (l st : Nat) (fenced : Bool) : FreedQ s (s.leaveStream l st fenced) := by
  unfold State.leaveStream
  split
  · exact .refl s
  · dsimp only
    generalize hu : (s.modStream st fun x => { x with takers := x.takers.filter (· ≠ l) }) = u
    have h1 : FreedQ s u := hu ▸ ((SameQ.refl s).modStream _ _).freed
    have h2 := h1.trans (u.endTakes_freed l st)
    generalize u.endTakes l st = v at h2 ⊢
    split
    · exact h2.trans (((SameQ.refl v).setRail _).raise _ _ _ _).freed
    · exact h2

theorem FreedQ.foldl {α : Type} {f : State → α → State} (hf : ∀ u a, FreedQ u (f u a)) (l : List α) (s : State) : FreedQ s
    (l.foldl f s) := by
  induction l generalizing s with
  | nil => exact .refl s
  | cons a l ih => exact (hf s a).trans (ih _)

theorem Core.cancelRunAhead_queue (c : Core) (i k : Nat) : (c.cancelRunAhead i).queue k =
    if k = i then { c.queue k with passed := [] } else c.queue k := by
  unfold Core.cancelRunAhead Core.queue Core.modQueue
  dsimp only
  rw [Core.voidTargets_queues]
  split
  · subst_vars
    rw [nget_nmod_same]
  · rename_i h
    rw [nget_nmod_other _ _ _ h]

/-- A change of a queue leaves the other queues of its core alone. -/
theorem State.modQueue_beside (s : State) {q k : Nat} (f : QState → QState) (h : k ≠ q) (hl : k / 4 = q / 4) :
    (s.modQueue q f).queue k = s.queue k := by
  unfold State.queue State.modQueue
  by_cases hq : q < 512
  · have hk : k < 512 := by omega
    simp only [hq, hk, if_true]
    rw [hl, State.modLcore_same]
    exact nget_nmod_other _ _ _ (by omega)
  · have hk : ¬ k < 512 := by omega
    simp only [hq, hk, if_false]
    exact nget_nmod_other QState.reset s.devq f (by omega)

theorem State.cancel_queue (s : State) {q : Nat} (hq : q < 512) (i : Nat) :
    (s.modLcore (q / 4) fun c => c.cancelRunAhead i).queue q =
      if q % 4 = i then { s.queue q with passed := [] } else s.queue q := by
  have h := Core.cancelRunAhead_queue (s.lcore (q / 4)) i (q % 4)
  unfold Core.queue at h
  unfold State.queue
  rw [if_pos hq, if_pos hq, State.modLcore_same, h]

theorem State.leaves_freed (s : State) (l : Nat) (ts : List Take) :
    FreedQ s (ts.foldl (fun s t => s.leaveStream l (takeStream t.job.cmd) false) s) :=
  FreedQ.foldl (fun u _ => u.leaveStream_freed _ _ _) _ _

/-- A stop of a running queue: it is stopped, and its commands in progress may have ended. -/
theorem State.stopOne_queue (s : State) {q : Nat} (code : BitVec 16) (ended : Bool) (h : (s.queue q).stopped = false) :
    ((s.queue q).stopAt code ended).Freed ((s.stopOne q code ended).queue q) := by
  unfold State.stopOne
  rw [h]
  simp only [Bool.false_eq_true, if_false]
  have h1 := State.modQueue_same s q fun x => x.stopAt code ended
  by_cases hq : q < 512
  · rw [if_pos hq]
    generalize hu : (s.modQueue q fun x => x.stopAt code ended) = u at h1 ⊢
    have h2 := u.cancel_queue hq (q % 4)
    rw [if_pos rfl, h1] at h2
    have h3 := (State.leaves_freed (u.modLcore (q / 4) fun c => c.cancelRunAhead (q % 4)) (q / 4)
      ((u.lcore (q / 4)).takes.filter fun t =>
        t.job.q == q && t.live (takeStream t.job.cmd) (u.stream (takeStream t.job.cmd)).gen)).queue q
    rw [h2] at h3
    exact h3
  · rw [if_neg hq, h1]
    exact .refl _

/-- A stop of another queue of the core. -/
theorem State.stopOne_beside (s : State) {q k : Nat} (code : BitVec 16) (ended : Bool) (h : k ≠ q) (hl : k / 4 = q / 4) :
    (s.queue k).Freed ((s.stopOne q code ended).queue k) := by
  unfold State.stopOne
  split
  · exact .refl _
  dsimp only
  have h1 := State.modQueue_beside s (fun x => x.stopAt code ended) h hl
  by_cases hq : q < 512
  · rw [if_pos hq]
    generalize hu : (s.modQueue q fun x => x.stopAt code ended) = u at h1 ⊢
    have hk : k < 512 := by omega
    have h2 := u.cancel_queue hk (q % 4)
    rw [if_neg (by omega), h1, hl] at h2
    have h3 := (State.leaves_freed (u.modLcore (q / 4) fun c => c.cancelRunAhead (q % 4)) (q / 4)
      ((u.lcore (q / 4)).takes.filter fun t =>
        t.job.q == q && t.live (takeStream t.job.cmd) (u.stream (takeStream t.job.cmd)).gen)).queue k
    rw [h2] at h3
    exact h3
  · rw [if_neg hq, h1]
    exact .refl _

/-- A swap that has lost its plane and stops is never in a stopped queue. -/
theorem State.swapLost_running {s : State} {q : Nat} {st : Stop} (h : s.swapLost q = some st) : (s.queue q).stopped = false := by
  unfold State.swapLost at h
  split at h
  · exact absurd h (by simp)
  · rename_i hc
    simpa using not_or.1 hc |>.2

theorem mem_upTo {n k b : Nat} (h : k ∈ upTo b n) : b ≤ k ∧ k < b + n := by
  induction n generalizing b with
  | zero => exact absurd h (by simp [upTo])
  | succ n ih =>
    simp only [upTo, List.mem_cons] at h
    rcases h with rfl | h
    · omega
    · have := ih h
      omega

theorem State.sweepSwaps_queue (s : State) (q n : Nat) (h : (s.queue q).stopped = true) :
    (s.queue q).Freed ((s.sweepSwaps (q / 4) n).queue q) := by
  induction n generalizing s with
  | zero => exact .refl _
  | succ n ih =>
    unfold State.sweepSwaps
    split
    · exact .refl _
    · rename_i x hx
      obtain ⟨k, hk, he⟩ := List.exists_of_findSome?_eq_some hx
      obtain ⟨st, hs, rfl⟩ := Option.map_eq_some_iff.1 he
      have hm := mem_upTo hk
      have hne : q ≠ k := by
        rintro rfl
        rw [State.swapLost_running hs] at h
        cases h
      have e := ((SameQ.refl s).told (s.raiseFull_told st.pg st.code st.sev st.info st.extra true false)).queue q
      have h1 := State.stopOne_beside (s.raiseFull st.pg st.code st.sev st.info st.extra true false) st.code false hne
        (by omega)
      rw [e] at h1
      refine h1.trans (ih _ ?_)
      obtain ⟨f, p, e', -⟩ := h1
      rw [e']
      exact h

/-- A stop of a running queue, and nothing but ended commands beside it. -/
theorem State.stopQueue_queue (s : State) {q : Nat} (code : BitVec 16) (ended : Bool) (h : (s.queue q).stopped = false) :
    ∃ fl, (s.stopQueue q code ended).queue q = { (s.queue q).stopAt code ended with flight := fl } := by
  have h1 := s.stopOne_queue code ended h
  refine QState.Freed.flight ?_ rfl
  unfold State.stopQueue
  split
  · refine h1.trans (State.sweepSwaps_queue _ q 4 ?_)
    obtain ⟨f, p, e, -⟩ := h1
    rw [e]
    rfl
  · exact h1

theorem State.stopWith_queue (s : State) {q : Nat} (st : Stop) (h : (s.queue q).stopped = false) :
    ∃ fl, (s.stopWith q st).queue q = { (s.queue q).stopAt st.code false with flight := fl } := by
  have e := ((SameQ.refl s).told (s.raiseFull_told st.pg st.code st.sev st.info st.extra true false)).queue q
  have := State.stopQueue_queue (s.raiseFull st.pg st.code st.sev st.info st.extra true false) (q := q) st.code false
      (by rw [e, h])
  rw [e] at this
  exact this

end Sys2Proof.Machine
end

