-- ==== Sys2Proof/Laws/Memory.lean ====
section
/-! SUPPORT. Memory.lean: what reads and writes of memory leave alone. -/

namespace Sys2Proof.Machine

/-! ### What reading memory leaves alone -/

/-- What a read may leave in a core: counts, the words to write back, and the ledger's stale marks. -/
def Core.Looked (c c' : Core) : Prop :=
  ∃ a b wb d ib k st, c' = { c with
    scr := { c.scr with corrected := a, uncorrectable := b, writeback := wb, writebackDropped := d, inboundBytes := ib }
    ledger := { c.ledger with corrected := k, dbgStale := st } }

theorem Core.Looked.trans {a b c : Core} (h : a.Looked b) (h' : b.Looked c) : a.Looked c := by
  obtain ⟨_, _, _, _, _, _, _, rfl⟩ := h
  obtain ⟨_, _, _, _, _, _, _, rfl⟩ := h'
  exact ⟨_, _, _, _, _, _, _, rfl⟩

/-- What a read of memory that crosses no fabric port may change, beside open values, events, conditions of the tiers' words, the
memory pages' and the dies' counters and the work counted. -/
structure Looked (s t : State) : Prop where
  core : ∀ p, (s.core p).Looked (t.core p)
  energy : ∃ w, t.energy = { s.energy with work := w }
  rest : t.pending = s.pending ∧ t.outbox = s.outbox ∧ t.time = s.time ∧ t.mem = s.mem ∧ t.split = s.split ∧ t.splitNext =
      s.splitNext ∧ t.clusters = s.clusters ∧ t.devq = s.devq ∧ t.rail = s.rail ∧ t.ctxs = s.ctxs ∧ t.closes = s.closes ∧
      t.ctxSel = s.ctxSel ∧ t.ctxWritesDropped = s.ctxWritesDropped ∧ t.ctxCorrected = s.ctxCorrected ∧ t.ctxCond = s.ctxCond ∧
      t.fabric = s.fabric ∧ t.power = s.power ∧ t.thermal = s.thermal ∧ t.remap = s.remap ∧ t.snap =
      s.snap ∧ t.flash = s.flash ∧ t.boot = s.boot ∧ t.fuses = s.fuses ∧ t.side = s.side ∧ t.hiLatch = s.hiLatch ∧ t.loHeld =
      s.loHeld ∧ t.err.deviceStopped = s.err.deviceStopped ∧ t.err.stopCode = s.err.stopCode

theorem Looked.refl (s : State) : Looked s s := ⟨fun _ => ⟨_, _, _, _, _, _, _, rfl⟩, ⟨_, rfl⟩, by simp⟩

theorem Looked.ite {s a b : State} {c : Prop} [Decidable c] (ha : Looked s a) (hb : Looked s b) : Looked s (if c then a else b)
    := by
  split
  · exact ha
  · exact hb

theorem Looked.told {s t u : State} (h : Looked s t) (h' : Told t u) : Looked s u :=
  ⟨fun p => by
    have e := h'.fields.2.2.2.2.2.2.2.2.1
    have : u.core p = t.core p := by unfold State.core; rw [e]
    rw [this]
    exact h.core p, by
      obtain ⟨w, hw⟩ := h.energy
      exact ⟨w, (by have b := h'.fields; tauto : u.energy = t.energy).trans hw⟩,
    by simpa only [h'.fields, h'.more] using h.rest⟩

theorem Looked.raise {s t : State} (h : Looked s t) (pg : Nat) (code : BitVec 16) (sev info : Nat) : Looked s
    (t.raise pg code sev info) :=
  h.told (t.raise_told _ _ _ _)

theorem Looked.raiseRare {s t : State} (h : Looked s t) (pg : Nat) (code : BitVec 16) (info : Nat) (w : Word) :
    Looked s (t.raiseRare pg code info w) := h.told (t.raiseRare_told _ _ _ _)

theorem Looked.modLcore {s t : State} (h : Looked s t) (l : Nat) (f : Core → Core) (hf : ∀ c, Core.Looked c (f c)) :
    Looked s (t.modLcore l f) :=
  ⟨fun p => by
    unfold State.modLcore
    by_cases e : p = t.physOf l
    · subst e
      rw [State.modCore_same]
      exact (h.core _).trans (hf _)
    · rw [State.modCore_other _ _ e]
      exact h.core p, h.energy, h.rest⟩

theorem Looked.modCtl {s t : State} (h : Looked s t) (k : Nat) (f : Ctl → Ctl) : Looked s (t.modCtl k f) := ⟨h.core, h.energy, h.rest⟩

theorem Looked.modRegion {s t : State} (h : Looked s t) (k : Nat) (f : Region → Region) : Looked s (t.modRegion k f) :=
  ⟨h.core, h.energy, h.rest⟩

theorem Looked.setMemCond {s t : State} (h : Looked s t) (v : NMap WordCond) : Looked s (t.setMemCond v) := ⟨h.core, h.energy, h.rest⟩

theorem Looked.modDie {s t : State} (h : Looked s t) (k : Nat) (f : Die → Die) : Looked s (t.modDie k f) :=
  ⟨h.core, h.energy, h.rest⟩

theorem Looked.modPage {s t : State} (h : Looked s t) (k : Nat) (f : PageHdr → PageHdr) : Looked s (t.modPage k f) :=
  ⟨h.core, h.energy, h.rest⟩

theorem Looked.takeInjection {s t : State} (h : Looked s t) (pg : Nat) : Looked s (t.takeInjection pg).1 := by
  unfold State.takeInjection
  dsimp only
  split
  · exact .ite h (h.modPage _ _)
  · exact h

theorem Looked.foldl {α : Type} {s t : State} {f : State → α → State} (hf : ∀ u a, Looked s u → Looked s (f u a)) (l : List α)
    (h : Looked s t) : Looked s (l.foldl f t) := by
  induction l generalizing t with
  | nil => exact h
  | cons a l ih => exact ih (hf t a h)

theorem Looked.forEach {s t : State} {f : State → Nat → State} (hf : ∀ u a, Looked s u → Looked s (f u a)) (l : List Nat)
    (h : Looked s t) : Looked s (t.forEach l f) := Looked.foldl hf l h

theorem Looked.failPage {s t : State} (h : Looked s t) (a : Nat) : Looked s (t.failPage a) := by
  unfold State.failPage
  repeat' first | assumption | with_reducible apply Looked.modCtl

theorem Looked.tierEvent {s t : State} (h : Looked s t) (a : Nat) (code : BitVec 16) (sev : Nat) : Looked s
    (t.tierEvent a code sev) := by
  unfold State.tierEvent
  repeat' first | assumption | with_reducible apply Looked.raise

theorem Looked.writeBackTier {s t : State} (h : Looked s t) (k : Nat) : Looked s (t.writeBackTier k) := by
  unfold State.writeBackTier
  dsimp only
  exact .ite ((h.takeInjection _).setMemCond _) (((h.takeInjection _).setMemCond _).failPage _)

theorem Looked.noteTierWord {s t : State} (h : Looked s t) (k : Nat) (c : WordCond) : Looked s (t.noteTierWord k c) := by
  unfold State.noteTierWord
  dsimp only
  repeat' first
    | assumption
    | (with_reducible first
        | apply Looked.ite | apply Looked.raiseRare | apply Looked.modCtl | apply Looked.failPage | apply Looked.tierEvent
        | apply Looked.writeBackTier)

theorem Looked.checkLine {s t : State} (h : Looked s t) (k : Nat) : Looked s (t.checkLine k) := by
  unfold State.checkLine
  dsimp only
  repeat' first
    | assumption
    | (with_reducible first | apply Looked.ite | apply Looked.modCtl | apply Looked.modRegion)
    | (refine Looked.told ?_ (.opened .refl))

theorem Looked.checkAccess {s t : State} (h : Looked s t) (a n : Nat) : Looked s (t.checkAccess a n) := by
  unfold State.checkAccess
  repeat' first
    | assumption
    | (with_reducible first | apply Looked.ite | apply Looked.forEach | apply Looked.checkLine)
    | intro _

theorem Looked.countPart {s t : State} (h : Looked s t) (w : Bool) (p : Nat × Nat) : Looked s (t.countPart w p) := by
  unfold State.countPart
  repeat' first | assumption | (with_reducible first | apply Looked.modRegion)

theorem Looked.countTier {s t : State} (h : Looked s t) (a n : Nat) (w : Bool) : Looked s (t.countTier a n w) := by
  unfold State.countTier
  exact .foldl (fun _ _ hu => hu.countPart _ _) _ (h.checkAccess _ _)

theorem Looked.noteTier {s t : State} (h : Looked s t) (a n : Nat) : Looked s (t.noteTier a n) :=
  Looked.countTier (.foldl (fun _ _ hu => hu.noteTierWord _ _) _ h) _ _ _

theorem Looked.noteScratchWord {s t : State} (h : Looked s t) (l : Nat) (w : Who) (k : Nat) (c : WordCond) : Looked s
    (t.noteScratchWord l w k c) := by
  unfold State.noteScratchWord
  dsimp only
  repeat' first
    | assumption
    | (with_reducible first | apply Looked.ite | apply Looked.raise | apply Looked.raiseRare | apply Looked.modLcore)
    | exact ⟨_, _, _, _, _, _, _, rfl⟩ | intro _

theorem Looked.noteRemote {s t : State} (h : Looked s t) (l : Nat) {w : Who} (hw : w.inbound = false) :
    Looked s (t.noteRemote l w) := by
  simpa [State.noteRemote, hw] using h

theorem Looked.countInbound {s t : State} (h : Looked s t) (l n : Nat) {w : Who} (hw : w.inbound = false) :
    Looked s (t.countInbound l n w) := by
  simpa [State.countInbound, hw] using h

theorem Looked.noteLedgerWord {s t : State} (h : Looked s t) (l : Nat) (w : Who) (x : Nat × Nat × Nat)
    (c : WordCond) : Looked s (t.noteLedgerWord l w x c) := by
  unfold State.noteLedgerWord
  dsimp only
  repeat' first
    | assumption
    | (with_reducible first | apply Looked.ite | apply Looked.raise | apply Looked.modLcore)
    | exact ⟨_, _, _, _, _, _, _, rfl⟩ | intro _

theorem Looked.noteStale {s t : State} (h : Looked s t) (l off n : Nat) : Looked s (t.noteStale l off n) := by
  unfold State.noteStale
  dsimp only
  repeat' first | assumption | with_reducible apply Looked.modLcore | exact ⟨_, _, _, _, _, _, _, rfl⟩ | intro _

theorem Looked.noteWords {s t : State} (h : Looked s t) {w : Who} (hw : w.inbound = false) (a n : Nat) :
    Looked s (t.noteWords w a n) := by
  unfold State.noteWords
  split
  · exact h.noteTier _ _
  · exact h.noteTier _ _
  · exact Looked.countInbound (.foldl (fun u e hu => hu.noteScratchWord _ _ _ _) _ h) _ _ hw
  · exact .foldl (fun u x hu => .ite hu (hu.noteLedgerWord _ _ _ _)) _ ((h.noteStale _ _ _).noteRemote _ hw)
  · exact h

theorem Looked.countBridge {s t : State} (h : Looked s t) (w : Who) (a n : Nat) (wr : Bool) : Looked s (t.countBridge w a n wr) := by
  unfold State.countBridge
  split
  · exact h
  · exact .ite h (h.modDie _ _)

theorem Looked.countWork {s t : State} (h : Looked s t) (q kind n : Nat) : Looked s (t.countWork q kind n) := by
  obtain ⟨w, e⟩ := h.energy
  exact .ite h ⟨h.core, ⟨_, by rw [State.setEnergy, e]⟩, h.rest⟩

theorem Looked.countBytes {s t : State} (h : Looked s t) (w : Who) (a n : Nat) : Looked s (t.countBytes w a n) := by
  unfold State.countBytes
  split
  · exact h.countWork _ _ _
  · exact h.countWork _ _ _
  · exact h.countWork _ _ _
  · exact h

theorem Looked.noteRead {s t : State} (h : Looked s t) {w : Who} (hw : w.inbound = false) (a n : Nat) :
    Looked s (t.noteRead w a n) :=
  .ite h (((h.noteWords hw a n).countBridge w a n false).countBytes w a n)

theorem Looked.read {s t : State} (h : Looked s t) {w : Who} (hw : w.inbound = false) (a n : Nat) : Looked s (t.read w a n).2 :=
  h.noteRead hw _ _

theorem State.read_looked (s : State) {w : Who} (hw : w.inbound = false) (a n : Nat) : Looked s (s.read w a n).2 :=
  (Looked.refl s).read hw _ _

theorem Looked.fetchMarks {s t : State} (h : Looked s t) (q : Nat) : Looked s (t.fetchMarks q) := by
  unfold State.fetchMarks
  split
  · exact h.read (by rfl) _ _
  · exact h

theorem State.fetchMarks_looked (s : State) (q : Nat) : Looked s (s.fetchMarks q) := (Looked.refl s).fetchMarks q

theorem Looked.sameQ {s t : State} (h : Looked s t) : SameQ s t := by
  have hr := h.rest
  have hm : t.remap = s.remap := by tauto
  refine ⟨fun q => ?_, hm⟩
  unfold State.queue
  have : t.devq = s.devq := by tauto
  rw [this, State.lcore, State.lcore, State.physOf_congr hm]
  obtain ⟨_, _, _, _, _, _, _, e⟩ := h.core (s.physOf (q / 4))
  rw [e]

/-! ### What writing memory leaves alone -/

theorem SameQ.setMem {s t : State} (h : SameQ s t) (v : List Host.Cell) : SameQ s (t.setMem v) := h.trans (.of rfl rfl rfl)

theorem SameQ.writeTier {s t : State} (h : SameQ s t) (a n : Nat) (b : NMap Byte) : SameQ s (t.writeTier a n b).1 := by
  unfold State.writeTier
  dsimp only
  repeat' first
    | assumption
    | (with_reducible first
        | apply SameQ.takeInjection | apply SameQ.setMem | apply SameQ.setMemCond | apply SameQ.countTier | apply SameQ.foldl
        | apply SameQ.ite | apply SameQ.noteTierWord)
    | intro _

theorem SameQ.writeScratch {s t : State} (h : SameQ s t) {w : Who} (hw : w.inbound = false) (l off n : Nat) (b : NMap Byte) :
    SameQ s (t.writeScratch w l off n b).1 := by
  unfold State.writeScratch
  dsimp only
  with_reducible refine SameQ.countInbound ?_ _ _ hw
  repeat' first
    | assumption
    | (with_reducible first
        | apply SameQ.takeInjection | apply SameQ.modLcore | apply SameQ.noteScratchWord
        | apply SameQ.raise | apply SameQ.raiseRare | apply SameQ.foldl | apply SameQ.ite)
    | (intro c; rfl) | intro _

theorem SameQ.write {s t : State} (h : SameQ s t) {w : Who} (hw : w.inbound = false) (a n : Nat) (b : NMap Byte) :
    SameQ s (t.write w a n b).1 := by
  unfold State.write
  split
  · exact h
  dsimp only
  have h1 := (h.countBridge w a n true).countBytes w a n
  split
  · exact h1.writeTier _ _ _
  · exact h1.writeTier _ _ _
  · exact h1.writeScratch hw _ _ _ _
  · with_reducible refine SameQ.modLcore h1 _ _ fun c => ?_
    rfl
  · exact h1

theorem SameQ.writeBytes {s t : State} (h : SameQ s t) {w : Who} (hw : w.inbound = false) (a : Nat) (b : List Byte) :
    SameQ s (t.writeBytes w a b).1 := h.write hw _ _ _

end Sys2Proof.Machine
end

