-- ==== Sys2Proof/Laws/Reports.lean ====
section
/-! SUPPORT. Reports.lean: what raising an event leaves alone, and what a change of one port leaves alone. -/

namespace Sys2Proof.Machine

theorem State.Reports.refl (s : State) : s.Reports s := by
  obtain ⟨⟩ := s
  exact ⟨rfl, rfl, fun _ => rfl, rfl⟩

theorem Told.reports {s t : State} (h : Told s t) : s.Reports t := by
  induction h with
  | refl => exact .refl s
  | opened _ ih =>
    obtain ⟨a, b, c, d⟩ := ih
    refine ⟨?_, b, c, d⟩
    conv_lhs => rw [a]
    rfl
  | recorded _ _ _ ih =>
    obtain ⟨a, b, c, d⟩ := ih
    refine ⟨?_, b, c, d⟩
    conv_lhs => rw [a]
    rfl
  | logged x _ ih =>
    obtain ⟨a, b, c, d⟩ := ih
    refine ⟨?_, ?_, c, d⟩
    · conv_lhs => rw [a]
      rfl
    · dsimp only [State.setErr, ErrAgg.enter]
      rw [b]
  | @queued t k r _ ih =>
    obtain ⟨a, b, c, d⟩ := ih
    refine ⟨?_, b, fun j => ?_, d⟩
    · conv_lhs => rw [a]
      rfl
    · by_cases hj : j = k
      · subst hj
        rw [State.modDie_same, c]
      · rw [State.modDie_other _ _ hj]; exact c j
  | lost n _ ih =>
    obtain ⟨a, b, c, d⟩ := ih
    refine ⟨?_, b, c, ?_⟩
    · conv_lhs => rw [a]
      rfl
    · dsimp only [State.setNet]
      rw [d]
  | lostAt n _ ih =>
    obtain ⟨a, b, c, d⟩ := ih
    refine ⟨?_, b, c, ?_⟩
    · conv_lhs => rw [a]
      rfl
    · dsimp only [State.setNet]
      rw [d]

theorem State.raiseFull_reports (s : State) (pg : Nat) (code : BitVec 16) (sev info extra : Nat) (emit inj : Bool) :
    s.Reports (s.raiseFull pg code sev info extra emit inj) := (s.raiseFull_told pg code sev info extra emit inj).reports

theorem State.raise_reports (s : State) (pg : Nat) (code : BitVec 16) (sev info : Nat) :
    s.Reports (s.raise pg code sev info) := (s.raise_told pg code sev info).reports

theorem State.modPort_withPort (s : State) (p : Nat) (f : Port → Port) : s.WithPort (s.modPort p f) p (f (s.port p)) :=
  ⟨by simp [State.modPort, State.port, nmod], fun _ hk => nget_nset_other _ _ _ hk, rfl⟩

end Sys2Proof.Machine
end

