-- ==== Sys2Proof/Laws/Transcend.lean ====
section
/-! SUPPORT. Transcend.lean: values picked within a bound lie within it. -/

namespace Sys2Proof.Machine

/-- The word of a key has that key. -/
theorem fKey_wordOfKey {k : Int} (h : k.natAbs < 2 ^ 31) : fKey (wordOfKey k) = k := by
  have hn : (wordOfKey k).toNat = k.natAbs + (if k < 0 then 2 ^ 31 else 0) := by
    unfold wordOfKey
    rw [BitVec.toNat_ofNat]
    split <;> omega
  have hb : (wordOfKey k).getLsbD 31 = decide (k < 0) := by
    rw [BitVec.getLsbD, hn, Nat.testBit_eq_decide_div_mod_eq, decide_eq_decide]
    split <;> omega
  unfold fKey signed
  rw [hb, hn]
  by_cases hk : k < 0 <;> simp only [hk, decide_true, decide_false, if_true, if_false, Bool.false_eq_true] <;> omega

theorem magBelow_le (n : Nat) : magBelow n ≤ FpFmt.f32.infinity := by unfold magBelow; exact Nat.min_le_right _ _
theorem magAbove_le (n : Nat) : magAbove n ≤ FpFmt.f32.infinity := by unfold magAbove; exact Nat.min_le_right _ _

theorem keyBelow_le (y : Int) : (keyBelow y).natAbs < 2 ^ 31 := by
  have a := magBelow_le y.natAbs
  have b := magAbove_le y.natAbs
  have c : FpFmt.f32.infinity < 2 ^ 31 := by decide
  unfold keyBelow
  split <;> omega

theorem keyAbove_le (y : Int) : (keyAbove y).natAbs < 2 ^ 31 := by
  have a := magBelow_le y.natAbs
  have b := magAbove_le y.natAbs
  have c : FpFmt.f32.infinity < 2 ^ 31 := by decide
  unfold keyAbove
  split <;> omega

/-- Whatever the open word, the value picked lies between two keys, where they leave one (R286). -/
theorem fKey_pickBetween {lo hi : Int} (w : Word) (h : lo ≤ hi) (a : lo.natAbs < 2 ^ 31) (b : hi.natAbs < 2 ^ 31) :
    lo ≤ fKey (pickBetween lo hi w) ∧ fKey (pickBetween lo hi w) ≤ hi := by
  unfold pickBetween
  split
  · assumption
  · have m0 := Int.emod_nonneg (w.toNat : Int) (show hi - lo + 1 ≠ 0 by omega)
    have m1 := Int.emod_lt_of_pos (w.toNat : Int) (show 0 < hi - lo + 1 by omega)
    rw [fKey_wordOfKey (by omega)]
    omega

end Sys2Proof.Machine
end

