-- ==== Sys2Proof/WellFormed.lean ====
section
/-! DEFINITION. WellFormed.lean: the numbers that a command's operands may name. The module has no more queues, cores, contexts
and so on than these; a command outside them names nothing, and its meaning changes nothing but what its own check counts. -/

namespace Sys2Proof

/-- Command queues: four in each of 128 cores, then eight in each die (R444). -/
def isQueue (q : Nat) : Bool := decide (q < 528)
def isCoreQueue (q : Nat) : Bool := decide (q < 512)
def isDeviceQueue (q : Nat) : Bool := decide (512 ≤ q) && decide (q < 528)
/-- Logical cores, and physical cores with the four spares (R5, R6). -/
def isCore (core : Nat) : Bool := decide (core < 128)
def isPhys (phys : Nat) : Bool := decide (phys < 132)
def isSpare (spare : Nat) : Bool := decide (spare < 4)
def isCluster (cluster : Nat) : Bool := decide (cluster < 32)
def isRegion (region : Nat) : Bool := decide (region < 8)
def isDie (die : Nat) : Bool := decide (die < 2)
/-- A mask of cores of one cluster names at least one of its four cores. -/
def isMask (mask : Nat) : Bool := decide (0 < mask) && decide (mask < 16)
def isTag (tag : Nat) : Bool := decide (tag < 2 ^ 16)
def isFrame (frame : Nat) : Bool := decide (frame < 16)
def isGang (gang : Nat) : Bool := decide (gang < 4)
def isStream (stream : Nat) : Bool := decide (stream < 8)
def isContext (ctx : Nat) : Bool := decide (ctx < 40960)
def isConn (conn : Nat) : Bool := decide (conn < 4096)
def isPort (port : Nat) : Bool := decide (port < 8)
def isPlane (plane : Nat) : Bool := decide (plane < 2)
/-- Memory controllers: eight Tier 1 stacks and 24 Tier 2 channels. -/
def isController (ctl : Nat) : Bool := decide (ctl < 32)
/-- Supply rails that report over AVSBus. -/
def isRail (rail : Nat) : Bool := decide (rail < 38)
def isSensor (sensor : Nat) : Bool := decide (sensor < 32)
/-- The stopping inputs: `COOLANT_OK` and `LEAK_L`. -/
def isInput (input : Nat) : Bool := decide (input < 2)
def isPartition (part : Nat) : Bool := decide (part < 8)
/-- Initiators of register accesses: two management processors, JTAG, and the connections. -/
def isInitiator (ini : Nat) : Bool := decide (ini < 3 + 4096)
/-- Register pages: the register space holds 2^20 of them. -/
def isPage (page : Nat) : Bool := decide (page < 2 ^ 20)
def isSlotRange (first count : Nat) : Bool := decide (first < 512) && decide (count < 1024)
def isTally (n : Nat) : Bool := decide (n < 64)
def isRingSize (size : Nat) : Bool := decide (size < 32)
def isLifecycle (target : Nat) : Bool := decide (target < 8)
/-- Entries that one COMMAND message can announce, and bytes that a message can carry. -/
def isLength (n : Nat) : Bool := decide (n ≤ 9216)
def isDataAddr (a : Nat) : Bool := decide (a < 2 ^ 48)
def isStagingOffset (off : Nat) : Bool := [0x100, 0x104, 0x108, 0x10C, 0x110, 0x114].contains off

/-- Operands within their ranges. -/
def Instr.wellFormed : Instr → Bool
  | .nop q | .wait q | .signal q | .stop q | .forecast q | .segmentEntry q => isQueue q
  | .versionFence q | .versionFenceTimeout q => isCoreQueue q
  | .dmaCopy q | .planeCopy q | .scaleCopy q | .railLaunch q | .tableGather q | .kvWrite q | .dmaComplete q => isCoreQueue q
  | .railTake q => isCoreQueue q
  | .takeStart q _ => isCoreQueue q
  | .railBlockSend stream => isStream stream
  | .railTakeComplete q _ => isCoreQueue q
  | .railStreamClose stream | .railStallTimeout stream => isStream stream
  | .runAheadStart q _ | .runAheadConfirm q => isCoreQueue q
  | .frameMode q | .frameRun q | .frameRunT q => isCoreQueue q
  | .joinedRunStart cluster mask tag => isCluster cluster && isMask mask && isTag tag
  | .sliceJoinTimeout q => isCoreQueue q
  | .promotion core gang => isCore core && isGang gang
  | .planeSwap q => isCoreQueue q
  | .planeExchange core frame | .planeLoadComplete core frame => isCore core && isFrame frame
  | .ledgerClear q | .ledgerDrain q | .ledgerLoad q => isCoreQueue q
  | .quantise q => isCoreQueue q
  | .quantExchange cluster mask => isCluster cluster && isMask mask
  | .quantSettle core | .quantExchangeTimeout core => isCore core
  | .scaleLoad q | .statsRead q => isCoreQueue q
  | .vector q | .sampleCollect q | .sampleFinish q => isCoreQueue q
  | .sampleFinishJoin cluster mask => isCluster cluster && isMask mask
  | .sampleJoinTimeout core => isCore core
  | .streamScore q | .streamValue q | .streamWgrad q | .streamGemm q => isCoreQueue q
  | .streamCommandComplete cluster => isCluster cluster
  | .stashSave q | .stashLoad q => isCoreQueue q
  | .ctxCommit q => isCoreQueue q
  | .ctxOpen q | .ctxClose q => isDeviceQueue q
  | .closeHoldersReleased ctx | .kvAreaZeroed ctx => isContext ctx
  | .snapshot q => isDeviceQueue q
  | .quiesceEnd | .snapQuiesceTimeout | .snapshotCopyComplete | .flashDrainComplete => true
  | .snapDrainFailed _ => true
  | .restore q => isDeviceQueue q
  | .command conn _ _ entries => isConn conn && isLength (64 * entries.length)
  | .dataWrite conn _ addr data => isConn conn && isDataAddr addr && isLength data.length
  | .dataRead conn _ addr len => isConn conn && isDataAddr addr && decide (len < 2 ^ 32)
  | .regAccess conn _ ops => isConn conn && isLength (12 * ops.length)
  | .tallyRemote conn _ pairs => isConn conn && isLength (4 * pairs.length)
  | .snapshotChunk conn _ offset _ data => isConn conn && isDataAddr offset && isLength data.length
  | .offer _ keys sig imageLen =>
    decide (keys.ephemeral.length = 96) && decide (keys.static.length = 96) && decide (sig.length = 96) && decide (imageLen < 2 ^ 32)
  | .chunk _ piece => decide (piece.offset < 2 ^ 32) && isLength piece.data.length
  | .attestReq conn _ nonce => isConn conn && decide (nonce.length = 32)
  | .relsenPacket port pkt => isPort port && isLength pkt.body.length
  | .ackTimer conn | .retransmissionTimer conn | .connectionLost conn => isConn conn
  | .lossDetectionTimer conn _ => isConn conn
  | .planeProbe plane => isPlane plane
  | .eventSend die => isDie die
  | .frameReceive port _ => isPort port
  | .arpRequest port _ _ _ | .arpReply port _ _ => isPort port
  | .neighbourSolicitation port _ _ _ | .neighbourAdvertisement port _ _ | .neighbourExpiry port _ => isPort port
  | .ptpSync port domain _ | .ptpFollowUp port domain _ _ | .ptpDelayResp port domain _ _ => isPort port && decide (domain < 256)
  | .ptpDelayReq => true
  | .linkUp port _ | .linkDown port => isPort port
  | .fecDegraded port _ _ => isPort port
  | .remoteSignal src _ => decide (src ≤ 528)      -- 528: the network (R341)
  | .correctedWriteback core => isCore core
  | .slotTagTimeout q | .scoreboardTimeout q => isCoreQueue q
  | .disciplineSwitch core => isCore core
  | .tierPatrol ctl | .pageRetired ctl | .tierChannelFailed ctl => isController ctl
  | .powerPeriod => true
  | .avsbusSample rail mv ma => isRail rail && decide (mv < 2 ^ 16) && decide (ma < 2 ^ 32)
  | .powerTelemetryLost rail => isRail rail
  | .opPointStep region failing => isRegion region && failing.all isCore
  | .droopStretch core | .stretchEnd core | .clampEnd core => isCore core
  | .stepUpResume region => isRegion region
  | .throttleAsserted | .throttleReleased => true
  | .thermalSample region readings => isRegion region && decide (readings.length ≤ 32)
  | .ceilingStep region => isRegion region
  | .thermalSensorFault region sensor | .thermalTrip region sensor => isRegion region && isSensor sensor
  | .coolantStop | .leakStop => true
  | .sidebandChatter input | .chatterClear input => isInput input
  | .restartReady => true
  | .feedIdChange _ | .slotIdChanged _ | .ppsEdge | .vinOutOfRange _ _ => true
  | .pwrEnRise | .powerUpTimeout | .powerOff _ | .coldReset _ => true
  | .clockFailed die _ | .bridgeReplay die _ | .mgmtFailed die => isDie die
  | .provisionRead record => decide (record.length = 256)
  | .hello | .tierZeroingComplete | .imageVerify | .imageStart => true
  | .coreFence phys _ | .fenceComplete phys | .unfenceComplete phys => isPhys phys
  | .coreRemapped spare => isSpare spare
  | .partitionResetComplete => true
  | .pairingExchange _ _ hold _ => decide (hold ≤ 768)
  | .jtagInstruction die _ => isDie die
  | .jtagTransition target => isLifecycle target
  | .stopRequest ini q | .actionRetry ini q | .actionSkip ini q | .actionFlush ini q => isInitiator ini && isQueue q
  | .ringConfig ini q _ size => isInitiator ini && isQueue q && isRingSize size
  | .tagEmpty ini phys first count | .tagFill ini phys first count => isInitiator ini && isPhys phys && isSlotRange first count
  | .tallyValueWrite ini phys n _ => isInitiator ini && isPhys phys && isTally n
  | .hostFence ini page | .unfence ini page => isInitiator ini && isPage page
  | .quiesceSet ini phys | .quiesceRelease ini phys => isInitiator ini && isPhys phys
  | .portEnable ini port _ => isInitiator ini && isPort port
  | .errClearRecord ini page | .errClearCount ini page | .errInject ini page _ => isInitiator ini && isPage page
  | .erraggClear ini => isInitiator ini
  | .remapMap ini spare logical => isInitiator ini && isSpare spare && isCore logical
  | .remapUnmap ini spare => isInitiator ini && isSpare spare
  | .powerRestart ini | .peakClear ini | .maxClear ini => isInitiator ini
  | .latencyClear ini die => isInitiator ini && isDie die
  | .warmReset ini _ => isInitiator ini
  | .partitionReset ini part _ => isInitiator ini && isPartition part
  | .lifecycleTransition ini target _ => isInitiator ini && isLifecycle target
  | .unlockToken ini _ | .connOpen ini | .connClose ini => isInitiator ini
  | .stagingWrite ini offset _ => isInitiator ini && isStagingOffset offset
  | .loRead ini _ | .queueLoRead ini | .descRead ini | .hiWrite ini _ _ | .registerWrite ini _ _ => isInitiator ini
  | .ledgerCommandComplete core | .vectorCommandComplete core | .quantiseCommandComplete core => isCore core
  | .sampleCollectComplete core | .scaleLoadComplete core | .statsReadComplete core => isCore core
  | .ctxCommitComplete q => isCoreQueue q
  | .restoreComplete | .resetLRelease => true
  | .stoppingInputReturn input => isInput input
  | .deviceQueueWake q => isDeviceQueue q
  | .packetPacing conn => isConn conn

end Sys2Proof
end

