-- ==== Sys2Proof/Tests/Slice0.lean ====
section
/-! SUPPORT. Slice0.lean: the module's own tests. First the checks of `Instr.wellFormed`, then states and operands that meet
the hypotheses of the statements in Obligations.lean, then results worked out by hand from the rules. -/

open Sys2Proof Sys2Proof.Machine

namespace Sys2Proof.Tests

set_option Elab.async false

/-! ### Ill-formed commands: one for each check -/

theorem test_ill_formed_queue : Instr.wellFormed (.nop 528) = false := by decide
theorem test_ill_formed_core_queue : Instr.wellFormed (.vector 512) = false := by decide
theorem test_ill_formed_device_queue : Instr.wellFormed (.snapshot 511) = false := by decide
theorem test_ill_formed_core : Instr.wellFormed (.promotion 128 0) = false := by decide
theorem test_ill_formed_phys : Instr.wellFormed (.coreFence 132 0) = false := by decide
theorem test_ill_formed_spare : Instr.wellFormed (.coreRemapped 4) = false := by decide
theorem test_ill_formed_cluster : Instr.wellFormed (.streamCommandComplete 32) = false := by decide
theorem test_ill_formed_region : Instr.wellFormed (.ceilingStep 8) = false := by decide
theorem test_ill_formed_die : Instr.wellFormed (.mgmtFailed 2) = false := by decide
theorem test_ill_formed_mask : Instr.wellFormed (.quantExchange 0 16) = false := by decide
theorem test_ill_formed_tag : Instr.wellFormed (.joinedRunStart 0 1 65536) = false := by decide
theorem test_ill_formed_frame : Instr.wellFormed (.planeExchange 0 16) = false := by decide
theorem test_ill_formed_gang : Instr.wellFormed (.promotion 0 4) = false := by decide
theorem test_ill_formed_stream : Instr.wellFormed (.railBlockSend 8) = false := by decide
theorem test_ill_formed_context : Instr.wellFormed (.kvAreaZeroed 40960) = false := by decide
theorem test_ill_formed_conn : Instr.wellFormed (.ackTimer 4096) = false := by decide
theorem test_ill_formed_port : Instr.wellFormed (.linkDown 8) = false := by decide
theorem test_ill_formed_plane : Instr.wellFormed (.planeProbe 2) = false := by decide
theorem test_ill_formed_controller : Instr.wellFormed (.tierPatrol 32) = false := by decide
theorem test_ill_formed_rail : Instr.wellFormed (.avsbusSample 38 0 0) = false := by decide
theorem test_ill_formed_sensor : Instr.wellFormed (.thermalTrip 0 32) = false := by decide
theorem test_ill_formed_input : Instr.wellFormed (.sidebandChatter 2) = false := by decide
theorem test_ill_formed_partition : Instr.wellFormed (.partitionReset 0 8 0xA5) = false := by decide
theorem test_ill_formed_initiator : Instr.wellFormed (.peakClear 4099) = false := by decide
theorem test_ill_formed_page : Instr.wellFormed (.hostFence 0 1048576) = false := by decide
theorem test_ill_formed_slot_range : Instr.wellFormed (.tagFill 0 0 512 1) = false := by decide
theorem test_ill_formed_tally : Instr.wellFormed (.tallyValueWrite 0 0 64 0) = false := by decide
theorem test_ill_formed_ring_size : Instr.wellFormed (.ringConfig 0 0 0 32) = false := by decide
theorem test_ill_formed_lifecycle : Instr.wellFormed (.jtagTransition 8) = false := by decide
theorem test_ill_formed_length : Instr.wellFormed (.snapshotChunk 0 ⟨false, 0⟩ 0 false (List.replicate 9217 0)) = false := by
  decide +kernel
theorem test_ill_formed_data_addr : Instr.wellFormed (.dataRead 0 ⟨false, 0⟩ (2 ^ 48) 64) = false := by decide
theorem test_ill_formed_staging_offset : Instr.wellFormed (.stagingWrite 0 0x118 0) = false := by decide

/-- The table gives its rows no bits, so no word spells a command. -/
theorem test_no_word_spells_a_command : decodeTableWord 32 0 = none := by decide

/-! ### States that meet hypotheses -/

/-- The module with its image running and nothing loaded. -/
def up : State := { State.reset with
  side := { Sideband.reset with on := true }
  boot := { Boot.reset with phase := .running, zeroed := true, wiping := false }
  fuses := { Fuses.reset with lifecycle := 4 } }

/-- A command from pairs of a byte offset and what stands there, least significant byte first. -/
def ent (xs : List (Nat × Nat)) : Entry := BitVec.ofNat 512 (xs.foldl (fun n x => n + x.2 * 256 ^ x.1) 0)

/-- `s` with a ring of one command `e` in queue `q`. -/
def oneCmd (s : State) (q : Nat) (e : Entry) : State :=
  (s.setMem (putMem s.mem 0x1000 64 (blockOf 0 (leBytes 64 e.toNat)))).modQueue q fun x =>
    { x with ringBase := 0x1000, ringSize := 6, tail := 1 }

/-- Core 0 with the scoreboard in place of slot tags. -/
def board (s : State) : State := s.modLcore 0 fun c => { c with scr := { c.scr with discipline := true } }

/-- Frame 0 of core 0 with its two planes in the given states. -/
def planes (s : State) (act idl : PlaneState) : State := s.modLcore 0 fun c => c.modFrame 0 fun x =>
  { x with p0 := { x.p0 with st := act }, p1 := { x.p1 with st := idl } }

/-- The state that a command leaves. -/
def after (c : Instr) (s : State) : State :=
  match exec c s with
  | .next t => t
  | _ => s

/-- What `State.Ready` asks for, as one condition. -/
def readyB (s : State) (q : Nat) (e : Entry) (row : Entry → Bool) (later : State → Entry → Gate) : Bool :=
  s.mayIssue q && !(s.queue q).passed.contains 0 && decide (s.front q = .cmd e) && row e && (s.headerCheck q e).isNone &&
    decide ((s.fetchMarks q).headerSteps q e = .go) && decide (later (s.fetchMarks q) e = .go)

theorem ready_of {s : State} {q : Nat} {e : Entry} {row : Entry → Bool} {later : State → Entry → Gate}
    (h : readyB s q e row later = true) : s.Ready q e row later := by
  simp only [readyB, Bool.and_eq_true, Bool.not_eq_true', decide_eq_true_eq, Option.isNone_iff_eq_none] at h
  obtain ⟨⟨⟨⟨⟨⟨a, b⟩, c⟩, d⟩, f⟩, g⟩, k⟩ := h
  exact ⟨a, b, c, d, f, g, k⟩

/-! ### Commands that their queues take -/

def e_nop : Entry := ent [(0, 0)]
def s_nop : State := oneCmd up 0 e_nop
theorem witness_nop : s_nop.Ready 0 e_nop (hasOp 0x00) (State.queueOperands noOperands 0) :=
  ready_of (by decide +kernel)
def e_version_fence : Entry := 0x700000000000100010000000000000209
def s_version_fence : State := oneCmd up 0 e_version_fence
theorem witness_version_fence : s_version_fence.Ready 0 e_version_fence (hasOp 0x09) (State.queueOperands versionFenceOk 0) :=
  ready_of (by decide +kernel)
def e_forecast : Entry := 0xf4240000f42400000089800000000000102c60000000000000208
def s_forecast : State := oneCmd up 44 e_forecast
theorem witness_forecast : s_forecast.Ready 44 e_forecast (hasOp 0x08) (State.queueOperands forecastOk 44) :=
  ready_of (by decide +kernel)
def e_signal : Entry := 0x10008000000000000000100030000000000000202
def s_signal : State := oneCmd up 0 e_signal
theorem witness_signal : s_signal.Ready 0 e_signal (hasOp 0x02) (fun _ _ => .go) :=
  ready_of (by decide +kernel)
def e_dma_copy : Entry := 0x10000004000000a0000000000010000000000000000000000000100020000000000000210
def s_dma_copy : State := oneCmd up 0 e_dma_copy
theorem witness_dma_copy : s_dma_copy.Ready 0 e_dma_copy (isCopy 0) (dmaGate 0) :=
  ready_of (by decide +kernel)
def e_plane_copy : Entry := 0x1000040000000000000000000000100000000000100000000000000000000000000000010
def s_plane_copy : State := oneCmd up 0 e_plane_copy
theorem witness_plane_copy : s_plane_copy.Ready 0 e_plane_copy (isCopy 1) (dmaGate 0) :=
  ready_of (by decide +kernel)
def e_scale_copy : Entry := 0x1000000200000000000000000000090001ff8000200000000000100810000000000000210
def s_scale_copy : State := oneCmd up 8 e_scale_copy
theorem witness_scale_copy : s_scale_copy.Ready 8 e_scale_copy (isCopy 2) (dmaGate 8) :=
  ready_of (by decide +kernel)
def e_table_gather : Entry := 0x20000000200000040000001000000000200000000400000100000000000000000400000000000000040000000200000000000000000000000000000011
def s_table_gather : State := oneCmd up 0 e_table_gather
theorem witness_table_gather : s_table_gather.Ready 0 e_table_gather (fun e => opcode e == 0x11 && !isKvWrite e) (dmaGate 0) :=
  ready_of (by decide +kernel)
def e_kv_write : Entry := 0x400000000000000400000100000000000400000000004000010100000100000000000100010000000000000211
def s_kv_write : State := oneCmd up 0 e_kv_write
theorem witness_kv_write : s_kv_write.Ready 0 e_kv_write (fun e => opcode e == 0x11 && isKvWrite e) (dmaGate 0) :=
  ready_of (by decide +kernel)
def e_frame_mode : Entry := 0x400000000000000000000000000000020
def s_frame_mode : State := oneCmd up 0 e_frame_mode
theorem witness_frame_mode : s_frame_mode.Ready 0 e_frame_mode (hasOp 0x20) (fun _ _ => .go) :=
  ready_of (by decide +kernel)
def e_ledger_clear : Entry := 0x10500000000000000000000000000000028
def s_ledger_clear : State := oneCmd up 0 e_ledger_clear
theorem witness_ledger_clear : s_ledger_clear.Ready 0 e_ledger_clear (hasOp 0x28) (ledgerGate 0) :=
  ready_of (by decide +kernel)
def e_ledger_drain : Entry := 0x1000000000008001010400000000000100010000000000000229
def s_ledger_drain : State := oneCmd up 0 e_ledger_drain
theorem witness_ledger_drain : s_ledger_drain.Ready 0 e_ledger_drain (hasOp 0x29) (ledgerGate 0) :=
  ready_of (by decide +kernel)
def e_stats_read : Entry := 0x4000000000010007000100000000000000000000000000000032
def s_stats_read : State := oneCmd up 0 e_stats_read
theorem witness_stats_read : s_stats_read.Ready 0 e_stats_read (hasOp 0x32) (readGate 0) :=
  ready_of (by decide +kernel)
def e_ctx_open : Entry := 0x4000000001000000000000100000008000000000050000000000000000000000000000007a
def s_ctx_open : State := oneCmd up 512 e_ctx_open
theorem witness_ctx_open : s_ctx_open.Ready 512 e_ctx_open (hasOp 0x7A) (openGate 512) :=
  ready_of (by decide +kernel)
def e_wait : Entry := ent [(0, 1), (1, 1)]
def s_wait : State := oneCmd up 0 e_wait
theorem witness_wait : s_wait.Ready 0 e_wait (hasOp 0x01) (State.queueOperands noOperands 0) :=
  ready_of (by decide +kernel)
def e_stop : Entry := ent [(0, 3), (16, 0xFFFFFFFF)]
def s_stop : State := oneCmd up 0 e_stop
theorem witness_stop : s_stop.Ready 0 e_stop (hasOp 0x03) (State.queueOperands (fun e => fzero e 20 44) 0) :=
  ready_of (by decide +kernel)
def e_stash_save : Entry := ent [(0, 0x60), (16, 0x1000), (28, 32), (32, 1), (36, 32), (40, 0x2000), (46, 0xFFFF), (52, 0xFFFFFFFF)]
def s_stash_save : State := oneCmd (board up) 0 e_stash_save
theorem witness_stash_save : s_stash_save.Ready 0 e_stash_save (hasOp 0x60) (dmaGate 0) :=
  ready_of (by decide +kernel)
def e_stash_load : Entry := ent [(0, 0x61), (16, 0x2000), (28, 32), (32, 1), (36, 32), (44, 0xFFFFFFFF)]
def s_stash_load : State := oneCmd (board up) 0 e_stash_load
theorem witness_stash_load : s_stash_load.Ready 0 e_stash_load (hasOp 0x61) (dmaGate 0) :=
  ready_of (by decide +kernel)
def e_rail_launch : Entry := ent [(0, 0x10), (16, 3), (18, 1), (32, 1), (36, 64), (48, 1)]
def s_rail_launch : State := oneCmd up 0 e_rail_launch
theorem witness_rail_launch : s_rail_launch.Ready 0 e_rail_launch (isCopy 3) (launchGate 0) :=
  ready_of (by decide +kernel)
def e_rail_take : Entry := ent [(0, 0x12), (17, 1), (28, 1), (30, 1), (31, 1)]
/-- Stream 0 open with one image for core 0. -/
def s_rail_take : State := oneCmd ((board up).modStream 0 fun x =>
  { x with isOpen := true, interleave := 1, images := 1, takers := [0] }) 0 e_rail_take
theorem witness_rail_take : s_rail_take.Ready 0 e_rail_take (hasOp 0x12) (takeGate 0) :=
  ready_of (by decide +kernel)
def e_frame_run : Entry := ent [(0, 0x21), (16, 1), (48, 1), (50, 8), (51, 1), (54, 256)]
def s_frame_run : State := oneCmd (planes (board up) .loaded .empty) 0 e_frame_run
theorem witness_frame_run : s_frame_run.Ready 0 e_frame_run (hasOp 0x21) (runRowGate 0) :=
  ready_of (by decide +kernel)
def e_frame_run_t : Entry := ent [(0, 0x22), (16, 1), (48, 1), (50, 0x18), (51, 1), (54, 1), (36, 32), (56, 1)]
def s_frame_run_t : State := oneCmd (planes (board up) .loaded .empty) 0 e_frame_run_t
theorem witness_frame_run_t : s_frame_run_t.Ready 0 e_frame_run_t (hasOp 0x22) (runRowGate 0) :=
  ready_of (by decide +kernel)
def e_plane_swap : Entry := ent [(0, 0x23), (16, 1)]
def s_plane_swap : State := oneCmd (planes up .loaded .loaded) 0 e_plane_swap
theorem witness_plane_swap : s_plane_swap.Ready 0 e_plane_swap (hasOp 0x23) (swapGate 0) :=
  ready_of (by decide +kernel)
def e_ledger_load : Entry := 0x10101050000000000000000000000000000002a
def s_ledger_load : State := oneCmd (board up) 0 e_ledger_load
theorem witness_ledger_load : s_ledger_load.Ready 0 e_ledger_load (hasOp 0x2A) (ledgerGate 0) :=
  ready_of (by decide +kernel)
def e_quantise : Entry := 0x3000ffffffff01000000000000800000008000002000000004000000040000001000000000010101010300005507000000000000000000002030
def s_quantise : State :=
  oneCmd ((board up).modQuant 0 fun u =>
    { u with slots := [(7, { Slot.reset with record := { ScaleRec.reset with valid := true } })] }) 0 e_quantise
theorem witness_quantise : s_quantise.Ready 0 e_quantise (hasOp 0x30) (quantiseGate 0) :=
  ready_of (by decide +kernel)
def e_scale_load : Entry := 0x10007000100000000000000000000000000000031
def s_scale_load : State := oneCmd (board up) 0 e_scale_load
theorem witness_scale_load : s_scale_load.Ready 0 e_scale_load (hasOp 0x31) (loadGate 0) :=
  ready_of (by decide +kernel)
def e_vector : Entry := ent [(0, 0x40), (20, 1), (22, 1), (60, 0xFFFFFFFF)]
def s_vector : State := oneCmd (board up) 0 e_vector
theorem witness_vector : s_vector.Ready 0 e_vector (hasOp 0x40) (vectorGate 0) :=
  ready_of (by decide +kernel)
def e_collect : Entry := ent [(0, 0x41), (16, 3), (17, 1), (18, 1), (20, 1), (22, 1), (24, 0x3F800000), (28, 0x3F800000), (38, 1), (52, 8)]
def s_collect : State := oneCmd (board up) 0 e_collect
theorem witness_collect : s_collect.Ready 0 e_collect isCollect (collectGate 0) :=
  ready_of (by decide +kernel)
def e_finish : Entry := ent [(0, 0x41), (17, 1), (18, 1), (20, 1), (22, 1), (24, 0x3F800000), (28, 0x3F800000)]
def s_finish : State := oneCmd ((board up).modLcore 0 fun c => { c with vec := c.vec.clear 1 1 }) 0 e_finish
theorem witness_finish : s_finish.Ready 0 e_finish isFinish (finishGate 0) :=
  ready_of (by decide +kernel)
def e_score : Entry := ent [(0, 0x50), (20, 1), (23, 1), (24, 1), (27, 1), (34, 1)]
def s_score : State := oneCmd (board up) 0 e_score
theorem witness_score : s_score.Ready 0 e_score (hasOp 0x50) (streamGate 0) :=
  ready_of (by decide +kernel)
def e_value : Entry := ent [(0, 0x51), (20, 1), (23, 1), (24, 1), (27, 1), (34, 1)]
def s_value : State := oneCmd (board up) 0 e_value
theorem witness_value : s_value.Ready 0 e_value (hasOp 0x51) (streamGate 0) :=
  ready_of (by decide +kernel)
def e_wgrad : Entry := ent [(0, 0x52), (40, 1), (42, 1), (44, 1)]
def s_wgrad : State := oneCmd (board up) 0 e_wgrad
theorem witness_wgrad : s_wgrad.Ready 0 e_wgrad (hasOp 0x52) (streamGate 0) :=
  ready_of (by decide +kernel)
def e_gemm : Entry := ent [(0, 0x53), (22, 1), (30, 1), (38, 1)]
def s_gemm : State := oneCmd (board up) 0 e_gemm
theorem witness_gemm : s_gemm.Ready 0 e_gemm (hasOp 0x53) (streamGate 0) :=
  ready_of (by decide +kernel)
def e_ctx_commit : Entry := ent [(0, 0x70), (20, 1), (24, 4)]
def s_ctx_commit : State :=
  oneCmd ((board up).ctxWrite 0 fun c => { c with st := .opened, written := 5 }) 0 e_ctx_commit
theorem witness_ctx_commit : s_ctx_commit.Ready 0 e_ctx_commit (hasOp 0x70) (commitGate 0) :=
  ready_of (by decide +kernel)
def e_ctx_close : Entry := ent [(0, 0x7B), (24, 0xFFFFFFFFFFFF)]
def s_ctx_close : State := oneCmd (up.ctxWrite 0 fun c => { c with st := .opened, kvPages := 1 }) 512 e_ctx_close
theorem witness_ctx_close : s_ctx_close.Ready 512 e_ctx_close (hasOp 0x7B) (closeGate 512) :=
  ready_of (by decide +kernel)
def e_snapshot : Entry := ent [(0, 0x78)]
def s_snapshot : State := oneCmd (up.modSnap fun x => { x with stagingSize := 1 }) 512 e_snapshot
theorem witness_snapshot : s_snapshot.Ready 512 e_snapshot (hasOp 0x78) (fun s e => snapshotGate s e) :=
  ready_of (by decide +kernel)
def e_restore : Entry := ent [(0, 0x79)]
/-- An image in staging: its header (R588) with version 1, the complete flag and the part number. -/
def s_restore : State := oneCmd ((up.modSnap fun x => { x with stagingSize := 1 }).setMem
  (putMem [] 0 32 (blockOf 0 ([1, 0, 4] ++ List.replicate 25 0 ++ leBytes 4 0xB1010800)))) 512 e_restore
theorem witness_restore : s_restore.Ready 512 e_restore (hasOp 0x79) (restoreGate 512) :=
  ready_of (by decide +kernel)

/-! ### The other hypotheses of the statements about commands that issue -/

/-- A signal with a tag action on another core: tags 0 and 1 of core 1 are emptied. -/
def e_signal_tags : Entry := ent [(0, 2), (16, 1), (18, 2), (20, 1), (21, 1)]

theorem witness_signal_ok : signalOk 0 e_signal = true ∧
    (tagActs e_signal = true → tagRemote e_signal = true → (s_signal.fetchMarks 0).lfenced (tagCore 0 e_signal) = false) := by
  decide +kernel

theorem witness_stop_of_reserved_bytes : State.queueOperands (fun e => fzero e 20 44) 0 s_stop e_stop = .go := by decide +kernel

theorem witness_frame_mode_ok : frameModeOk e_frame_mode = true ∧ padZero e_frame_mode = true := by decide +kernel

theorem witness_scale_load_read :
    let u := s_scale_load.fetchMarks 0
    let r := ((u.issue 0).enterJob (u.newJob 0 e_scale_load) (tableAccess true e_scale_load)).read (quantWho 0)
      (scratchAddr 0 (tOffset e_scale_load)) (tBytes true e_scale_load)
    r.1.code = 0 ∧ loadBadIndex e_scale_load r.1.blk = none := by decide +kernel

theorem witness_stats_read_write :
    let u := s_stats_read.fetchMarks 0
    let v := (u.issue 0).enterJob (u.newJob 0 e_stats_read) (tableAccess false e_stats_read)
    (v.open_.2.writeBytes (quantWho 0) (scratchAddr 0 (tOffset e_stats_read)) ((v.lcore 0).quant.readOut e_stats_read v.open_.1)).2
      = 0 := by decide +kernel

theorem witness_vector_runs :
    let u := s_vector.fetchMarks 0
    let x := ((u.issue 0).enterJob (u.newJob 0 e_vector) (u.vectorAccess 0 e_vector)).vectorAux (u.newJob 0 e_vector)
    let a := x.1.vectorRun (u.newJob 0 e_vector) x.2.1
    x.2.2 = 0 ∧ vOp e_vector ≠ opAdamw ∧ a.fenced = false ∧ a.code = 0 := by decide +kernel

theorem witness_collect_reads :
    let u := s_collect.fetchMarks 0
    let v := (u.issue 0).enterJob (u.newJob 0 e_collect) (collectAccess e_collect)
    let v := if sClear e_collect then v.modVec 0 fun x => x.clear (sRows e_collect) (sK e_collect) else v
    (((upTo 0 (sBlocks e_collect)).flatMap fun i => (upTo 0 (sRows e_collect)).map fun r => (i, r)).foldl
      (fun (a : State × BitVec 16) x => if a.2 ≠ 0 then a else a.1.collectRow 0 e_collect x.1 x.2) (v, 0)).2 = 0 := by decide +kernel

theorem witness_finish_members :
    let u := s_finish.fetchMarks 0
    ((u.issue 0).enterJob (u.newJob 0 e_finish) (finishAccess (rankOf (sampleMask e_finish) 0) e_finish)).maskFenced 0
      (sampleMask e_finish) = false := by decide +kernel

theorem witness_restore_image :
    let u := (s_restore.fetchMarks 512).noteRead (deviceWho 512) (rsList e_restore) (8 * rsCount e_restore)
    rsFlash e_restore = false ∧ (u.stagedOk e_restore = true) ∧
      (u.rewinds e_restore).any (fun r => !rewindOk u.stagedCtxs r) = false := by decide +kernel

/-! ### Queues at large -/

theorem witness_next_state : ∃ t, step (up.setPending [.nop 0]) = .next t := ⟨_, rfl⟩

theorem witness_idle : State.reset.pending = [] := by decide

theorem witness_queue_held : issueRow (.restore 527) = some 527 ∧ (up.modQueue 527 fun x => { x with stopped := true }).mayIssue 527 = false := by
  decide +kernel

/-- A device queue never takes a NOP with a reserved bit of byte 1 set. -/
def s_bad_header : State := oneCmd up 511 (ent [(0, 0), (1, 0x80)])

theorem witness_bad_header : issueRow (.nop 511) = some 511 ∧ s_bad_header.mayIssue 511 = true ∧
    (s_bad_header.queue 511).passed.contains 0 = false ∧ s_bad_header.front 511 = .cmd (ent [(0, 0), (1, 0x80)]) ∧
    (s_bad_header.headerCheck 511 (ent [(0, 0), (1, 0x80)])).isSome = true := by decide +kernel

theorem witness_not_stopped : (527 : Nat) < 528 ∧ (State.reset.queue 527).stopped = false := by decide

theorem witness_signal_clamps : (0 : Int) ≤ (nget 0 (up.lcore 127).tally.value 63).toNat + 32767 ∧
    (nget 0 (up.lcore 127).tally.value 63).toNat + (-32768 : Int) < 0 ∧ (up.takeInjection (up.pgL 127 bTally)).2 = .sound ∧
    up.injectOpen = false := by decide +kernel

/-- A queue's own signal to tally 0 of core 127, with none in the fabric, an earlier one of it, or another's. -/
theorem witness_signal_meets : ∀ src ∈ [511, 512], let s := up.setFabric [⟨src, 127 * 64, 1, 2⟩]
    (∃ g ∈ s.fabric, g.src = src ∧ g.tally = 127 * 64) ∧ ∀ g ∈ s.fabric, ¬(g.src = 510 ∧ g.tally = 127 * 64) := by
  decide +kernel

theorem witness_signal_local : (511 : Nat) < 512 ∧ up.fabric = [] ∧ signalEn (ent [(1, 2), (8, 127 * 64)]) = true ∧
    tallyCore (signalTallyOf (ent [(1, 2), (8, 127 * 64)])) = 511 / 4 := by decide +kernel

theorem witness_signal_fabric : ¬((512 : Nat) < 512 ∧ 512 / 4 = tallyCore 0) := by decide

theorem witness_signal_arrives :
    let g : Signal := ⟨512, 8191, 1, 2⟩
    let s := up.setFabric ([⟨512, 0, 1, 2⟩] ++ g :: [])
    s.fabric = [⟨512, 0, 1, 2⟩] ++ g :: [] ∧ (∀ x ∈ [(⟨512, 0, 1, 2⟩ : Signal)], ¬(x.src = 512 ∧ x.tally = 8191)) ∧
      (∀ x ∈ s.fabric, x.tally = 8191 → x.src = 512) ∧ s.lfenced (tallyCore (8191 : BitVec 16).toNat) = false ∧
      (s.modLcore 127 fun c => { c with fence := .fenced }).lfenced (tallyCore (8191 : BitVec 16).toNat) = true ∧
      ownSource 127 512 = false ∧ ownSource 127 511 = true := by decide +kernel

def e_segment : Entry := ent [(0, 0xFE), (8, 0x2000), (16, 1)]
def s_segment : State := oneCmd up 527 e_segment

theorem witness_segment : s_segment.mayIssue 527 = true ∧ s_segment.front 527 = .segment e_segment ∧
    segmentOk 527 e_segment = true := by decide +kernel

def s_wake : State := oneCmd up 512 (ent [(0, 1), (1, 1)])

/-- A wait that is a BARRIER too, with nothing in flight. -/
theorem witness_wake_barrier : waitsAsBarrier (ent [(0, 1), (1, 0x21)]) = true ∧ (s_wake.queue 512).flight = [] := by decide +kernel

theorem witness_wake : (512 : Nat) ≤ 512 ∧ s_wake.mayIssue 512 = true ∧ s_wake.front 512 = .cmd (ent [(0, 1), (1, 1)]) ∧
    s_wake.headerCheck 512 (ent [(0, 1), (1, 1)]) = none ∧ waitEn (ent [(0, 1), (1, 1)]) = true ∧
    thresholdOf (ent [(0, 1), (1, 1)]) ≤ (s_wake.tallyAt (waitTallyOf (ent [(0, 1), (1, 1)]))).toNat := by decide +kernel

/-! ### Units at work -/

/-- A command of queue `q` with number 0. -/
def job (q : Nat) (e : Entry) : Job := ⟨0, q, e⟩

/-- `up` with core 127 changed. -/
def with127 (f : Core → Core) : State := up.modLcore 127 f

theorem witness_vector_unit :
    let s := with127 fun c => { c with vec := { c.vec with unit := [⟨job 508 0, .vector, false, []⟩, ⟨job 509 0, .collect, false, []⟩] } }
    (s.lcore 127).vec.unit = ⟨job 508 0, .vector, false, []⟩ :: [⟨job 509 0, .collect, false, []⟩] := by decide +kernel

theorem witness_collect_unit :
    let s := with127 fun c => { c with vec := { c.vec with unit := [⟨job 508 0, .collect, false, []⟩] } }
    (s.lcore 127).vec.unit = ⟨job 508 0, .collect, false, []⟩ :: [] := by decide +kernel

theorem witness_quant_unit : ∀ k ∈ [QuantKind.scaleLoad, .statsRead],
    let s := with127 fun c => { c with quant := { c.quant with unit := [⟨job 508 0, k, 1⟩] } }
    (s.lcore 127).quant.unit = ⟨job 508 0, k, 1⟩ :: [] := by decide +kernel

theorem witness_quantise_unit :
    let x : QuantJob := ⟨job 508 (ent [(16, 0x20)]), .quantise, 1⟩
    let s := with127 fun c => { c with quant := { c.quant with unit := [x] } }
    (s.lcore 127).quant.unit = x :: [] ∧ qLast x.job.cmd = false ∧ qDynamic x.job.cmd = true := by decide +kernel

theorem witness_ledger_port :
    let p : LedgerJob := ⟨job 508 (ent [(0, 0x28)]), true⟩
    let s := with127 fun c => { c with ledger := { c.ledger with port := [p] } }
    ((s.portAdvance 127).lcore 127).ledger.port = p :: [] ∧ p.done = true := by decide +kernel

theorem witness_dma_done :
    let d : DmaJob := ⟨job 511 (ent [(0, 0x10)]), .none, true, 0, 0, [], [], [], none⟩
    let s := with127 fun c => { c with dma := [d] }
    ((s.dmaAdvance 511).lcore (511 / 4)).dma.find? (fun d => d.job.q == 511) = some d ∧ d.done = true ∧ d.ra ≠ .unconfirmed ∧
      ((s.dmaAdvance 511).lcore (511 / 4)).planeDue d.job.cmd = false := by decide +kernel

theorem witness_commits :
    let d : CommitJob := ⟨job 511 0, 0⟩
    let s := with127 fun c => { c with commits := [d] }
    s.oldestCommit 511 = some d ∧ (s.commitAdvance d).oldestCommit 511 = some d ∧ d.job = d.job ∧ cCount d.job.cmd ≤ d.pos := by
  decide +kernel

/-- Stream 7 open with one image for core 127. -/
def stream7 (s : State) : State := s.modStream 7 fun x => { x with isOpen := true, interleave := 1, images := 1, takers := [127] }

/-- A take of image 0 of stream 7 into frame 0. -/
def e_take7 : Entry := ent [(0, 0x12), (16, 7), (17, 1), (28, 1), (30, 1), (31, 1)]

/-- Queue 508 with a take that waited at its front for its stream, which is open by now. -/
def s_take_held : State := (oneCmd (stream7 up) 508 e_take7).modQueue 508 fun x => { x with heldStep := 7 }

theorem witness_take_start : (s_take_held.queue 508).heldStep = 7 ∧ s_take_held.Ready 508 e_take7 (hasOp 0x12) (takeGate 508) :=
  ⟨by decide +kernel, ready_of (by decide +kernel)⟩

theorem witness_block_send :
    let t : Take := ⟨job 511 e_take7, .none, 0, [(0, true)], [0], [], false⟩
    let s := ((stream7 up).modLcore 127 fun c => { c with takes := [t] })
    (7 : Nat) < 8 ∧ (s.stream 7).isOpen = true ∧ (s.stream 7).position < (s.stream 7).length ∧ (s.railHolder 7).isNone = true := by
  decide +kernel

theorem witness_take_complete : ∀ poison : Bool,
    let t : Take := ⟨job 511 e_take7, .none, 0, [(0, true)], [], [], poison⟩
    let s := with127 fun c => { c with takes := [t] }
    s.takeAt 511 0 = some t ∧ t.planesLeft = [] ∧ t.scalesLeft = [] ∧ t.ra ≠ .unconfirmed ∧ t.ra ≠ .cancelled := by
  decide +kernel

theorem witness_stream_close :
    let s := (stream7 up).modStream 7 fun x => { x with position := 64, signals := true }
    (s.stream 7).isOpen = true ∧ (s.stream 7).position = (s.stream 7).length ∧ (s.stream 7).signals = true := by decide +kernel

/-- Queue 508: a NOP, then a take of stream 7 that may run ahead. -/
def e_ahead : Entry := ent [(0, 0x12), (1, 0x10), (16, 7), (17, 1), (28, 1), (30, 1), (31, 1)]
def s_ahead : State := ((stream7 up).setMem (putMem [] 0x1040 64 (blockOf 0 (leBytes 64 e_ahead.toNat)))).modQueue 508 fun x =>
  { x with ringBase := 0x1000, ringSize := 6, tail := 2 }

theorem witness_run_ahead : (15 : Nat) < lookAhead ∧ s_ahead.mayIssue 508 = true ∧ (s_ahead.queue 508).passed.contains 1 = false ∧
    (s_ahead.ahead 508 (s_ahead.queue 508) (1 + 1))[1]? = some e_ahead ∧ s_ahead.mayRunAhead 508 e_ahead = true ∧
    s_ahead.headerCheck 508 e_ahead = none ∧ barrier e_ahead = false ∧ waitEn e_ahead = false ∧
    (((s_ahead.ahead 508 (s_ahead.queue 508) (1 + 1)).take 1).zipIdx.all fun d =>
      s_ahead.mayPass 508 e_ahead d.1 ((s_ahead.queue 508).passed.contains d.2)) = true ∧
    ((s_ahead.lcore (508 / 4)).unconfirmed 508).length < 2 ∧ s_ahead.aheadReady 508 e_ahead = true ∧ opcode e_ahead = 0x12 := by
  decide +kernel

theorem witness_confirm :
    let s := (with127 fun c => { c with takes := [⟨job 511 e_take7, .unconfirmed, 0, [(0, true)], [0], [], false⟩] }).modQueue 511
      fun x => { x with passed := [0] }
    s.mayIssue 511 = true ∧ s.aheadFront 511 = some (job 511 e_take7) ∧
      ((s.enterFront 511).fetchMarks 511).verdictSteps 511 e_take7 = .go := by decide +kernel

/-- A run that core 0 and core 1 join: each takes stream 0, which core 0 publishes. -/
def e_join0 : Entry := ent [(0, 0x21), (16, 1), (48, 1), (50, 8), (51, 3), (54, 256)]
def e_join1 : Entry := ent [(0, 0x21), (16, 1), (48, 1), (51, 3)]
def s_join : State := (oneCmd ((planes (board up) .loaded .empty).modLcore 1 fun c => (c.modFrame 0 fun x =>
  { x with p0 := { x.p0 with st := .loaded } })) 0 e_join0).setMem (putMem (oneCmd up 0 e_join0).mem 0x2000 64
    (blockOf 0 (leBytes 64 e_join1.toNat))) |>.modQueue 4 fun x => { x with ringBase := 0x2000, ringSize := 6, tail := 1 }

theorem witness_join : (members 0 3).map (s_join.joinOf 0) = [(0, e_join0), (4, e_join1)].map some ∧
    [(0, e_join0), (4, e_join1)].any (fun x => runMask x.2 == 3) = true ∧ s_join.joinAgrees [(0, e_join0), (4, e_join1)] = true := by
  decide +kernel

/-- A run of frame 15, whose sums go to gang 3. -/
def run15 : Run := ⟨job 508 (ent [(0, 0x21), (16, 0x8000), (18, 0xC0000000), (48, 1), (51, 8)]), 508, 0, 1, 0, [], []⟩

theorem witness_promotion :
    let s := with127 fun c => { c with runs := [run15] }
    (s.lcore 127).fence = .inService ∧ (s.lcore 127).gangRun 3 = some run15 ∧ s.gangReady 127 run15 3 = true := by
  decide +kernel

theorem witness_exchange :
    let s := with127 fun c => c.modFrame 15 fun x => { x with swapPending := true, p1 := { x.p1 with st := .loaded } }
    (s.lcore 127).fence = .inService ∧ ((s.lcore 127).frame 15).swapPending = true ∧ ((s.lcore 127).frame 15).idle.st = .loaded ∧
      (s.lcore 127).runs.any (fun r => r.usesFrame 15) = false := by decide +kernel

theorem witness_plane_full :
    let s := with127 fun c => c.modFrame 15 fun x => { x with p1 := { x.p1 with st := .loading, rowsIn := 256 } }
    ((s.lcore 127).frame 15).idle.st = .loading ∧ ((s.lcore 127).frame 15).idle.rowsIn = 256 := by decide +kernel

/-- The last command of a pass over the mask of core 3 of a cluster alone. -/
def e_last : Entry := ent [(0, 0x30), (12, 5), (16, 2), (18, 8)]

theorem witness_quant_exchange :
    let s := with127 fun c => { c with quant := { c.quant with unit := [⟨job 508 e_last, .quantise, 1⟩] } }
    (members 31 8).map s.waitingLast = (job 508 e_last :: []).map some ∧
      (job 508 e_last :: []).any (fun j => quantMask j.cmd == 8) = true ∧ qDynamic e_last = false ∧
      (job 508 e_last :: []).all (fun j => verdictId j.cmd == verdictId e_last) = true ∧
      (job 508 e_last :: []).all (fun j => lastKey j.cmd == lastKey e_last) = true := by
  decide +kernel

theorem witness_quant_settle :
    let x : QuantJob := ⟨job 508 e_last, .quantise, 2⟩
    let s := with127 fun c => { c with quant := { c.quant with unit := [x] } }
    (s.lcore 127).quant.unit.find? (fun x => decide (x.kind = .quantise) && x.phase == 2) = some x ∧
      (s.slot 127 (verdictSlot x.job.cmd)).dynamic = false := by decide +kernel

def e_finish3 : Entry := ent [(0, 0x41), (17, 8), (18, 1), (20, 1), (22, 1), (24, 0x3F800000), (28, 0x3F800000)]

theorem witness_finish_join :
    let s := with127 fun c => { c with vec := { c.vec with unit := [⟨job 508 e_finish3, .finish, true, []⟩] } }
    (members 31 8).map s.waitingFinish = (job 508 e_finish3 :: []).map some ∧
      (job 508 e_finish3 :: []).any (fun j => sampleMask j.cmd == 8) = true ∧
      (job 508 e_finish3 :: []).all (fun j => finishKey j.cmd == finishKey e_finish3) = true := by decide +kernel

theorem witness_stream_complete :
    let g : StreamJob := { StreamJob.accept (job 508 (ent [(0, 0x53), (22, 1), (30, 1), (38, 1), (57, 8)])) 127 0 0 with done := true }
    let s := up.modCluster 31 fun c => { c with held := [g] }
    ((s.streamAdvance 31 4).cluster 31).held = g :: [] ∧ g.done = true := by decide +kernel

/-! ### Timeouts -/

/-- A VERSION_FENCE whose users tally has not come to 0. -/
def e_users : Entry := ent [(0, 9), (16, 0), (20, 1)]
def s_users : State := (oneCmd up 508 (ent [(0, 9), (16, 127 * 64), (20, 1)])).modLcore 127 fun c =>
  { c with tally := { c.tally with value := [(0, 1)] } }

theorem witness_fence_timeout :
    let e := ent [(0, 9), (16, 127 * 64), (20, 1)]
    s_users.timed 508 = true ∧ s_users.front 508 = .cmd e ∧ opcode e = 0x09 ∧ fld e 20 4 ≠ 0 ∧ s_users.headerCheck 508 e = none ∧
      s_users.headerSteps 508 e = .hold 2 ∧ waitEn e = false := by decide +kernel

theorem witness_join_timeout :
    let s := (s_join.modQueue 0 fun x => { x with heldStep := 7 }).modCluster 0 fun c => { c with joinTimeout := 1 }
    s.timed 0 = true ∧ s.front 0 = .cmd e_join0 ∧ (s.cluster (clusterOf (0 / 4))).joinTimeout ≠ 0 ∧ (s.queue 0).heldStep = 7 ∧
      (opcode e_join0 = 0x21 ∨ opcode e_join0 = 0x22) ∧ runAlone 0 e_join0 = false ∧ runGate 0 s e_join0 = .go := by decide +kernel

/-- A LEDGER_LOAD that waits for its slots to be full: slot tags, then the scoreboard. -/
def s_guard (mode : Bool) : State := ((oneCmd up 0 e_ledger_load).modQueue 0 fun x => { x with heldStep := 6 }).modLcore 0 fun c =>
  { c with scr := { c.scr with discipline := mode, guardTimeout := 1, sb := if mode then [⟨0, 1, 0, 2097151, true⟩] else [] } }

theorem witness_slot_timeout : (s_guard false).timed 0 = true ∧ (s_guard false).front 0 = .cmd e_ledger_load ∧
    (s_guard false).guardTimed 0 = true ∧ (s_guard false).guardHeld 0 = some e_ledger_load ∧
    ((s_guard false).lcore (0 / 4)).scr.discipline = false := by decide +kernel

theorem witness_scoreboard_timeout : (s_guard true).timed 0 = true ∧ (s_guard true).front 0 = .cmd e_ledger_load ∧
    (s_guard true).guardTimed 0 = true ∧ (s_guard true).guardHeld 0 = some e_ledger_load ∧
    ((s_guard true).lcore (0 / 4)).scr.discipline = true := by decide +kernel

theorem witness_quant_timeout :
    let s := with127 fun c => { c with quant := { c.quant with unit := [⟨job 508 e_last, .quantise, 1⟩], exchangeTimeout := 1 } }
    s.waitingLast 127 = some (job 508 e_last) ∧ s.timed (job 508 e_last).q = true ∧ (s.lcore 127).quant.exchangeTimeout ≠ 0 := by
  decide +kernel

theorem witness_sample_timeout :
    let s := with127 fun c => { c with vec := { c.vec with unit := [⟨job 508 e_finish3, .finish, true, []⟩], joinTimeout := 1 } }
    s.waitingFinish 127 = some (job 508 e_finish3) ∧ s.timed (job 508 e_finish3).q = true ∧ (s.lcore 127).vec.joinTimeout ≠ 0 := by
  decide +kernel

theorem witness_stall_timeout :
    let s := (stream7 up).setRail { (stream7 up).rail with stallTimeout := 1 }
    s.rail.stallTimeout ≠ 0 ∧ s.snap.phase = .idle ∧ (s.railHolder 7).isSome = true := by decide +kernel

/-! ### Closes and snapshots -/

theorem witness_close_holders :
    let c : Close := ⟨40959, 0, job 512 0, none, true, false⟩
    let s := up.setCloses [c]
    s.closes.find? (fun c => c.ctx == 40959 && !c.zeroing) = some c ∧ c.record = none ∧ s.ctxHeld 40959 = false ∧ (s.ctxRead 40959).2 = true := by
  decide +kernel

theorem witness_close_zeroed :
    let c : Close := ⟨40959, 0, job 512 0, none, true, true⟩
    (up.setCloses [c]).closes.find? (fun c => c.ctx == 40959 && c.zeroing) = some c ∧ c.signals = true := by decide +kernel

def inPhase (p : SnapPhase) : State := up.modSnap fun x => { x with phase := p }

theorem witness_quiesced : (inPhase .quiescing).snap.phase = .quiescing ∧ (inPhase .quiescing).quiesced = true := by decide +kernel
theorem witness_copying : (inPhase .copying).snap.phase = .copying ∧ (inPhase .copying).copyCtxs.2 = true := by decide +kernel
theorem witness_copy_lost : let s := (inPhase .copying).setCtxCond [(7, .uncorrectable)]
    s.snap.phase = .copying ∧ s.copyCtxs.2 = false := by decide +kernel
theorem witness_restoring : (inPhase .restoring).snap.phase = .restoring := by decide
theorem witness_draining : ∀ partner : Bool,
    let s := up.modSnap fun x => { x with flashDraining := true, partnerDraining := true }
    (if partner then s.snap.partnerDraining else s.snap.flashDraining) = true ∧ s.halted = false := by decide

/-! ### Messages and the data space -/

/-- `up` with connection 0 open as after a re-keying, and connection 4095. -/
def net : State := (up.modConn 0 fun c => { c with st := .opened, generation := 2 }).modConn 4095 fun c =>
  { c with st := .opened, generation := 1, cfg := { c.cfg with peerA := 0xFFFF0A000002, regEn := true }, keyOut := 1, keyIn := 2 }

theorem witness_requests :
    let h : MsgHdr := ⟨true, 7⟩
    net.side.on = true ∧ net.boot.phase = .running ∧ net.holdsWrites = false ∧ net.power.stop = .none ∧ net.snap.phase = .idle ∧
      net.err.deviceStopped = false ∧ net.arrives 4095 0x01 (reqHeader h ++ commandBody 527 [0]) = true ∧
      net.arrives 4095 0x02 (reqHeader h ++ dataBody 0 1 [1]) = true ∧
      net.arrives 4095 0x03 (reqHeader h ++ dataBody 0 ((2 ^ 32 - 1) % 2 ^ 32) []) = true ∧
      net.arrives 4095 0x06 (reqHeader h ++ regBody [⟨0, 0, 0⟩]) = true ∧
      net.arrives 4095 0x07 (reqHeader h ++ tallyBody [(8191, 1)]) = true ∧
      net.arrives 4095 0x08 (reqHeader h ++ chunkBody 0 false [0]) = true := by decide +kernel

theorem witness_applied :
    let u := net.modConn 4095 Conn.applied
    (u.applyCommand 4095 527 [0]).1.boot.phase = .running ∧ (u.applyWrite 4095 0 [1]).1.boot.phase = .running ∧
      (u.readWhileStopped 4095 0 (2 ^ 32 - 1)).1.boot.phase = .running ∧ (u.applyRegAccess 4095 [⟨0, 0, 0⟩]).1.boot.phase = .running ∧
      (u.applyTallies [(8191, 1)]).1.boot.phase = .running ∧ (u.applyChunk 4095 0 false [0]).1.boot.phase = .running := by
  decide +kernel

theorem witness_ring_takes :
    let s := up.modQueue 527 fun x => { x with ringBase := 0x1000, ringSize := 6, tail := 62 }
    s.ringTakes 527 [(0 : Entry), 0].length = true ∧ s.ringTakes 527 [(0 : Entry), 0, 0].length = false ∧ s.remap.ok ∧
      [(0 : Entry), 0] ≠ [] ∧ [(0 : Entry), 0, 0].length ≤ 141 ∧ s.injectOpen = false := by
  refine ⟨by decide +kernel, by decide +kernel, ?_, by decide, by decide, by decide +kernel⟩
  intro l n h
  exact absurd (show nget none ([] : NMap (Option Nat)) l = some n from h) (by simp [nget])

/-- The ring above, from entry 62 on, lies in Tier 1; that of queue 508 in its own scratchpad, whose entry 63 the next wraps. -/
def s_scratch_ring : State := up.modQueue 508 fun x =>
  { x with ringBase := BitVec.ofNat 48 (scratchAddr 127 4096), ringSize := 6, head := 63, tail := 63 }

theorem witness_ring_places :
    let x := (up.modQueue 527 fun x => { x with ringBase := 0x1000, ringSize := 6, tail := 62 }).queue 527
    let y := s_scratch_ring.queue 508
    [0, 1].all (fun i => (wholePlace (x.ringAddr (x.tail.toNat + i)) 64).any Place.isTier) = true ∧
      s_scratch_ring.ringTakes 508 2 = true ∧
      wholePlace (y.ringAddr y.tail.toNat) 64 = some (.scratch (508 / 4) (4096 + 63 * 64)) ∧
      wholePlace (y.ringAddr (y.tail.toNat + 1)) 64 = some (.scratch (508 / 4) 4096) ∧
      (up.lcore 127).scr.cond = [] := by decide +kernel

/-- Entries 1 and 2 stand at ring entries 63 and 0 of the scratchpad (R446, R447). -/
theorem test_ring_wraps_in_scratchpad :
    let m := ((s_scratch_ring.applyCommand 4095 508 [1, 2]).1.lcore 127).scr.mem
    byteAt m (4096 + 63 * 64) = 1 ∧ byteAt m 4096 = 2 ∧ byteAt m 4160 = 0 := by decide +kernel

theorem witness_tier_write : ([1] : List Byte) ≠ [] ∧ wholePlace (8 * tier1Size - 1) 1 = some (.tier1 7 (tier1Size - 1)) ∧
    (Place.tier1 7 (tier1Size - 1)).isTier = true ∧ ∀ k, lostWord (nget .sound up.memCond k) = false :=
  ⟨by decide, by decide +kernel, by decide, fun _ => rfl⟩

/-! ### Boot -/

/-- A record for slot 0 with a server hash that is not all zeros. -/
def record : List Byte :=
  let b := [1, 0] ++ List.replicate 118 0 ++ [1] ++ List.replicate 131 0
  b ++ leBytes 4 (crc32 b)

/-- The module in a phase of its boot. -/
def booting (p : BootPhase) (f : Boot → Boot) : State := up.setBoot (f { up.boot with phase := p })

set_option maxRecDepth 100000 in
theorem witness_provision :
    let s := booting .provisioning id
    s.side.on = true ∧ s.runsImages = true ∧ s.boot.phase = .provisioning ∧ s.openSilicon.fusesRead = true ∧ recordOk s.openSilicon record = true := by decide +kernel

def prov : Provision := ⟨0, false, 0, 0xFFFF0A000001, 0, 47712, List.replicate 48 1⟩

theorem witness_hello :
    let s := (booting .helloDue fun b => { b with provision := some prov }).modPort 4 fun x => { x with linkUp := true }
    s.boot.provision = some prov ∧ (s.boot.phase = .helloDue ∨ s.boot.phase = .helloSent) ∧
      ((s.port 0).linkUp || (s.port 4).linkUp) = true := by decide +kernel

theorem witness_offer :
    let s := (booting .helloSent fun b => { b with provision := some prov }).modConn 0 fun _ => Conn.boot
    let se := List.replicate 96 (0 : Byte)
    let m := reqHeader ⟨true, 7⟩ ++ bootBody 0x02 (se ++ se ++ se ++ leBytes 4 1)
    let w := (booting .verified id).modConn 0 fun _ => Conn.boot
    s.boot.provision = some prov ∧ s.boot.phase = .helloSent ∧ s.arrives 0 0x09 m = true ∧
      w.boot.phase ≠ .helloSent ∧ w.arrives 0 0x09 m = true := by decide +kernel

theorem witness_chunk :
    let s := (booting .fetching fun b => { b with imageLen := 8193, got := [(0, 8192)] }).modConn 0 fun _ => Conn.boot
    s.boot.phase = .fetching ∧ 8192 % 8192 = 0 ∧ 8192 / 8192 < fetchCount s.boot.imageLen ∧
      ([7] : List Byte).length = fetchLen s.boot.imageLen (8192 / 8192) ∧
      s.arrives 0 0x09 (reqHeader ⟨true, 7⟩ ++ bootBody 0x04 (leBytes 4 8192 ++ leBytes 4 1 ++ [7])) = true ∧
      s.boot.got.any (fun g => g.1 == 8192) = false := by decide +kernel

/-- A CHUNK that has come before, and one whose offset is no multiple of 8,192. -/
theorem witness_chunk_again :
    let s := (booting .fetching fun b => { b with imageLen := 8193, got := [(8192, 1)] }).modConn 0 fun _ => Conn.boot
    let m := fun off => reqHeader ⟨true, 7⟩ ++ bootBody 0x04 (leBytes 4 off ++ leBytes 4 1 ++ [7])
    s.arrives 0 0x09 (m 8192) = true ∧ s.boot.got.any (fun g => g.1 == 8192) = true ∧ s.arrives 0 0x09 (m 8191) = true ∧
      8191 % 8192 ≠ 0 := by decide +kernel

theorem witness_image_verify :
    let s := booting .fetching fun b => { b with imageLen := 1, got := [(0, 1)] }
    s.boot.phase = .fetching ∧ fetchCount s.boot.imageLen ≤ s.boot.got.length := by decide +kernel

theorem witness_zeroing : (booting .provisioning fun b => { b with wiping := true }).side.on = true ∧
    (booting .provisioning fun b => { b with wiping := true }).boot.wiping = true ∧
    (booting .provisioning fun b => { b with wiping := true }).boot.phase ≠ .held ∧ up.power.stop = .none := by decide

theorem witness_image_start :
    let s := booting .verified fun b => { b with zeroed := true }
    let t := booting .running fun b => { b with ready := false }
    s.boot.phase = .verified ∧ s.boot.zeroed = true ∧ s.side.loss = false ∧ t.boot.phase = .running ∧ t.boot.ready = false ∧
      t.halted = false := by decide

theorem witness_attest :
    let s := up.modConn 0 fun c => { c with st := .opened, generation := 2 }
    let m := reqHeader ⟨true, 7⟩ ++ bootBody 0x06 (List.replicate 32 0)
    let w := up.modConn 4095 fun c => { c with st := .opened, generation := 2 }
    s.recordOk ∧ (s.modConn 0 Conn.applied).regConn 0 = true ∧ s.arrives 0 0x09 m = true ∧
      (w.modConn 4095 Conn.applied).regConn 4095 = false ∧ w.arrives 4095 0x09 m = true := by
  refine ⟨?_, by decide +kernel, by decide +kernel, by decide +kernel, by decide +kernel⟩
  exact ⟨by decide +kernel, fun _ => .inl (by decide +kernel)⟩

/-- One epoch burned, its record in flash. -/
def lms : State := (net.setFuses { net.fuses with lmsEpochs := 1 }).setFlash { net.flash with lmsEpoch := some 0, lmsNext := 1023 }

theorem witness_index_held : lms.recordOk ∧ lms.recordHeld = true ∧ lms.lmsSpent = false :=
  ⟨⟨by decide +kernel, fun _ => .inl (by decide +kernel)⟩, by decide +kernel, by decide +kernel⟩

theorem witness_index_spent : (lms.setBoot { lms.boot with exhausted := true }).lmsSpent = true := by decide +kernel

/-! ### Network and time -/

theorem witness_relsen_packet :
    let s := net.modPort 7 fun x => { x with linkUp := true, ipv4 := 0x0A000001 }
    let p : RxPacket := ⟨0xFFFFFFFFFFFF, 0xFFFF0A000001, 0xFFFF0A000002, 47712, false, ent [(0, 1), (4, 4095), (8, 5)], [], 0⟩
    s.portUp 7 = true ∧ s.hasFamily 7 p.srcIp = true ∧ s.macOk 7 p.dstMac = true ∧ s.ownIp 7 p.dstIp = true ∧ hConn p.header < 4096 ∧ ((s.modPort 7 Port.rx).conn (hConn p.header)).st = .opened ∧
      p.srcIp = ((s.modPort 7 Port.rx).conn (hConn p.header)).cfg.peerA ∧
      p.srcPort = ((s.modPort 7 Port.rx).conn (hConn p.header)).cfg.port.toNat ∧ headerOk p.header = true ∧
      ((s.modPort 7 Port.rx).conn (hConn p.header)).hasReceived (hPacket p.header) = false ∧ hType p.header = 0 := by decide +kernel

def sent0 : Sent := ⟨0, some ⟨0, 5, []⟩, 0, false, false⟩

theorem witness_timers :
    let s := net.modConn 4095 fun c => { c with ackDue := 1, maxAcked := some 1, unacked := [sent0] }
    s.side.on = true ∧ (s.conn 4095).live = true ∧ (s.conn 4095).ackDue ≠ 0 ∧
      (s.conn 4095).maxAcked.any (fun a => decide (0 < a)) = true ∧ (s.conn 4095).unacked ≠ [] := by decide +kernel

/-- A message that may leave: port 0 is up, the peer is a neighbour, and only plane A is usable. -/
def s_pacing : State := ((net.modPort 0 fun x =>
    { x with linkUp := true, ipv4 := 0x0A000001, ipv4Prefix := 24, neighbours := [⟨0xFFFF0A000002, 1, 0⟩] }).modConn 4095 fun c =>
  { c with unsent := [⟨0, 5, [1]⟩] })

theorem witness_pacing : ((s_pacing.feedDrain 4095).conn 4095).unsent = ⟨0, 5, [1]⟩ :: [] ∧
    (((s_pacing.feedDrain 4095).conn 4095).unacked.map Sent.size).sum + 80 + [(1 : Byte)].length ≤
      ((s_pacing.feedDrain 4095).conn 4095).cwnd ∧
    (((s_pacing.feedDrain 4095).conn 4095).unacked.filter fun p => p.msg.isSome).length ≤
      ((s_pacing.feedDrain 4095).conn 4095).window := by decide +kernel

theorem witness_pacing_sends : ((s_pacing.feedDrain 4095).sendPacket 4095 (some ⟨0, 5, [1]⟩) none).1 = true := by
  decide +kernel

theorem witness_probe : net.side.on = true ∧ (net.setNet { net.net with planeA := false }).net.plane 0 = false ∧
    ((net.setNet { net.net with planeA := false }).modConn 0 fun _ => .reset).probeConn 0 = some 4095 := by decide +kernel

theorem witness_event_send :
    let s := net.modDie 1 fun d => { d with events := [⟨0x0804, 0, false, true, true, 10, 0, 0, 0, 0⟩] }
    s.side.on = true ∧ (s.die 1).events ≠ [] ∧ (s.conn 0).live = true ∧ 2 ≤ (s.conn 0).generation.toNat := by decide +kernel

/-- Port 7 up, with VLAN 4094 and both addresses. -/
def port7 : State := up.modPort 7 fun x =>
  { x with linkUp := true, vid := 4094, ipv4 := 0x0A000001, ipv6 := 1 }

theorem witness_link_up : up.side.on = true ∧ (up.port 7).enable = true ∧ (up.port 7).linkUp = false := by decide

/-- The last link of plane B, and one of two; a plane that is down already. -/
theorem witness_link_down : (port7.port 7).linkUp = true ∧ [4, 5, 6].all (fun k => !(port7.port k).linkUp) = true ∧
    port7.net.plane (7 / 4) = true ∧
    ((port7.modPort 6 fun x => { x with linkUp := true }).port 6).linkUp = true ∧
    (port7.setNet { port7.net with planeB := false }).net.plane (7 / 4) = false := by decide +kernel

theorem witness_fec :
    let s := port7.modPort 7 fun x => { x with fecAt := some 0 }
    (port7.port 7).fecLimit.toNat ≤ (port7.port 7).fecLimit.toNat ∧
    (port7.port 7).fecLimit.toNat < (port7.port 7).fecLimit.toNat + 1 ∧ port7.secondPast (port7.port 7).fecAt = true ∧
    s.secondPast (s.port 7).fecAt = false := by decide +kernel

/-- Frames of 64 and 9,216 B for the port: of no IP packet, for its own address, for a PTP group. -/
theorem witness_frame_taken :
    let f : EthFrame := ⟨64, false, some 4094, false, 0xFFFFFFFFFFFF, 0, false, none, false⟩
    let g : EthFrame := ⟨9216, false, some 4094, false, 0xFFFFFFFFFFFF, ipv4Mapped 0x0A000001, false, some 47712, false⟩
    port7.portUp 7 = true ∧ f.vid = some (port7.port 7).vid.toNat ∧ port7.macOk 7 f.dstMac = true ∧ f.dstIp = 0 ∧
      port7.ownIp 7 g.dstIp = true ∧ port7.ptpGroup 7 ptpGroup4 (some 319) = false ∧
      (port7.setTime { port7.time with port := 7 }).ptpGroup 7 ptpGroup4 (some 319) = true := by decide +kernel

/-- Frames that are too long, of another VLAN, untagged, too short, for another station or address, or for another UDP port. -/
theorem witness_frame_not_taken :
    ¬(9217 ≤ 9216) ∧ (4093 : Nat) ≠ (port7.port 7).vid.toNat ∧ (port7.port 7).acceptUntagged = false ∧ ¬(64 ≤ 63) ∧
      port7.macOk 7 0x020000000001 = false ∧ (allNodes ≠ 0 ∧ port7.ownIp 7 allNodes = false ∧
      port7.ptpGroup 7 allNodes (some 47712) = false) ∧ ((47711 : Nat) ≠ 47712 ∧ (47711 : Nat) ≠ 319 ∧ (47711 : Nat) ≠ 320) := by
  decide +kernel

theorem witness_port_addresses : (port7.port 7).ipv4 ≠ 0 ∧ (port7.port 7).ipv6 ≠ 0 ∧ (2 : Word) ≠ (port7.port 7).ipv4 ∧
    (2 : BitVec 128) ≠ (port7.port 7).ipv6 ∧ ((port7.modPort 7 fun x => { x with ipv6 := 0 }).port 7).ipv6 = 0 := by decide +kernel

/-- A cache of 256 neighbours that learns another, and one that it knows. -/
theorem witness_neighbours :
    let x : Port := { Port.reset with neighbours := (upTo 0 256).map fun i => ⟨BitVec.ofNat 128 i, 1, 0⟩ }
    x.neighbours.length ≤ 256 ∧ (x.learn 256 2 9).neighbours.length = 256 ∧ (x.learn 5 2 9).neighbours.length = 256 ∧
      (x.learn 256 2 9).neighbours.contains ⟨0, 1, 0⟩ = false := by decide +kernel

theorem witness_port_page : up.admits 1 (pgEth 7) = true ∧ (up.page (pgEth 7)).lock = false ∧ (up.port 7).enable = true ∧
    ((up.modPort 7 fun x => { x with enable := false }).port 7).enable = false := by decide +kernel

/-- Port 0 up, and PTP on. -/
def ptp : State := (up.modPort 0 fun x => { x with linkUp := true, ipv4 := 0x0A000001 }).setTime
  { up.time with ptpEn := true, syncSeq := some 65535, delaySeq := some 65535 }

theorem witness_ptp : ptp.ptpHears 0 ptp.time.domain.toNat = true ∧ ptp.time.syncSeq = some 65535 ∧ ptp.time.delaySeq = some 65535 ∧
    ptp.ptpUp ptp.ptpPort = true ∧ (after (.ptpFollowUp 0 ptp.time.domain.toNat 65535 100) ptp).time.state < 2 := by decide +kernel

/-! ### Scratchpads, tiers, power, heat -/

theorem witness_discipline : ((upTo 0 4).all fun i => ((up.lcore 127).queue i).flight.isEmpty) = true := by decide +kernel

theorem witness_writeback :
    let s := with127 fun c => { c with scr := { c.scr with writeback := [65535], cond := [(65535, .correctable)] } }
    (s.lcore 127).scr.writeback = 65535 :: [] ∧ nget .sound (s.lcore 127).scr.cond 65535 = .correctable ∧
      (s.takeInjection (s.pgL 127 bScratch)).2 = .sound := by decide +kernel

theorem witness_patrol : up.side.on = true ∧ up.power.stop = .none ∧ up.boot.wiping = false ∧ up.err.deviceStopped = false ∧
    (up.modRegion 7 fun r => { r with t2Scrub := 1 }).scrubPeriod 31 ≠ 0 := by decide +kernel

theorem witness_retired :
    let s := up.modCtl 31 fun c => { c with failing := [5] }
    s.power.stop = .none ∧ (s.ctl 31).failing = 5 :: [] ∧ (s.ctl 31).sparesUsed < spareTotal 31 := by decide +kernel

theorem witness_telemetry : (37 : Nat) < railCount ∧ up.side.on = true ∧ (up.supply 37).missed = false ∧
    ∃ k, k < railCount ∧ k ≠ 37 ∧ (up.supply k).missed = false := ⟨by decide, by decide, by decide, 0, by decide, by decide, by decide⟩

theorem witness_period : up.side.on = true ∧ up.powered = true ∧ (up.setPower { up.power with throttle := true }).powered = true ∧
    (booting .verified id).side.on = true ∧ (booting .verified id).powered = false := by decide +kernel

theorem witness_step : ∀ st ∈ [(⟨true, .dividers, false⟩ : PointStep), ⟨false, .voltage, false⟩],
    let s := (up.setPower { up.power with uniform := false }).modRegion 7 fun r => { r with step := some st }
    s.powered = true ∧ (s.region 7).step = some st ∧ s.stepReady 7 st = true ∧ s.power.uniform = false := by decide +kernel

theorem witness_stretch : up.powered = true ∧ (up.lcore 127).stretched = false ∧
    ((with127 fun c => { c with stretched := true }).lcore 127).stretched = true := by decide +kernel

theorem witness_region_free : up.regionStretched 7 = false := by decide +kernel

theorem witness_throttle : up.side.on = true ∧ up.side.throttleL = true ∧
    (up.setSide { up.side with throttleL := false }).side.throttleL = false := by decide

/-- Sensor 31 of region 7 has failed, and a sample gives the readings of the first two. -/
theorem witness_thermal :
    let s := up.modRegion 7 fun x => { x with sensorFault := [(31, true)], ceiling := 7, zone := 1600 }
    let u := [(-640 : BitVec 16), 2399].zipIdx.foldl (fun u v => u.sensorReads 7 v.2 v.1) s
    s.side.on = true ∧ (u.region 7).hottest 2 ≠ none ∧ s.power.stop = .none ∧ s.err.deviceStopped = false ∧
      nget false (s.region 7).faultSeen 0 = false ∧ (s.region 7).ceiling = 7 := by
  refine ⟨by decide, ?_, by decide, by decide, by decide +kernel, by decide +kernel⟩
  intro h
  simp [Region.hottest, upTo] at h

/-- The zone of a region below its limit comes to 105 °C, and the hottest of the module with it. -/
theorem witness_zone : (up.region 7).atLimit = false ∧ up.thermal.max.toInt < (1680 : BitVec 16).toInt ∧
    ((up.setZone 7 (1680 : BitVec 16).toInt 3).region 7).atLimit = true := by decide +kernel

/-- A ceiling that leaves 7: the zone is at THROTTLE_AT. -/
theorem witness_ceiling :
    let s := up.modRegion 7 fun x => { x with ceiling := 7, zone := 2000 }
    (s.region 7).ceiling = 7 ∧ ((after (.ceilingStep 7) s).region 7).ceiling < 7 := by decide +kernel

/-! ### Pins, resets, fences -/

theorem witness_inputs : up.side.on = true ∧ up.side.coolantOk = true ∧ up.side.leakL = true ∧ up.side.rawCoolant = true ∧
    up.side.rawLeak = true ∧ up.side.loss = false ∧ up.boot.phase = .running ∧ up.power.stop = .none := by decide

/-- Samples at the loss level: for 10 µs, and not yet. -/
def s_sampled (at_ : Nat) : State := (up.setTime { up.time with now := 20000 }).setSide
  { up.side with rawCoolant := false, rawLeak := false, coolantMoves := [at_], leakMoves := [at_] }

theorem witness_inputs_sampled : (s_sampled 10000).side.steady 0 20000 = true ∧ (s_sampled 10000).side.steady 1 20000 = true ∧
    (s_sampled 10001).side.steady 0 20000 = false ∧ (s_sampled 10001).side.coolantOk = true := by decide +kernel

/-- Eight transitions within 10 ms, so that the next is the ninth; with seven it is not. -/
def s_chatter (n : Nat) : State := up.setSide { up.side with coolantMoves := List.replicate n 0, leakMoves := List.replicate n 0 }

theorem witness_chatter : ∀ i : Fin 2, (s_chatter 8).side.chatters i = false ∧
    9 ≤ (((s_chatter 8).modSide fun x => x.transition i (s_chatter 8).time.now.toNat).side.moves i).length ∧
    (((s_chatter 7).modSide fun x => x.transition i (s_chatter 7).time.now.toNat).side.moves i).length < 9 ∧
    (s_chatter 8).err.deviceStopped = false := by decide +kernel

theorem witness_inputs_lost : ∀ i : Fin 2, ∀ raw : Bool,
    let s := up.setSide { up.side with coolantOk := false, leakL := false, rawCoolant := raw, rawLeak := raw }
    s.side.on = true ∧ s.side.level i = false ∧ s.side.raw i = raw ∧ s.side.steady i s.time.now.toNat = true := by decide +kernel

theorem witness_restart : ∀ c ∈ [StopCause.coolant, .leak, .trip],
    let s := up.setPower { up.power with stop := c, tripped := true }
    s.side.on = true ∧ s.side.loss = false ∧ s.boot.phase = .running ∧ s.power.stop ≠ .none ∧
      (s.power.tripped = true → s.zonesCool = true) := by
  decide +kernel

theorem witness_identities : (15 : BitVec 4) ≠ up.side.feed ∧ (63 : BitVec 6) ≠ up.side.slot ∧ up.time.ppsAt = none := by decide

theorem witness_vin : 4400 ≤ (4400 : BitVec 16).toNat ∧ (4599 : BitVec 16).toNat < 4600 ∧ up.secondPast up.side.vinAt = true :=
  ⟨by decide, by decide, rfl⟩

theorem witness_off : (up.setSide { up.side with on := false }).side.on = false ∧ up.side.retryHold = false := by decide +kernel

theorem witness_cold : (booting .off id).side.on = true ∧ (booting .off id).boot.phase = .off ∧ up.side.resetL = true ∧
    ((booting .off id).setSide { up.side with resetL := false }).boot.phase = .off := by decide

theorem witness_held :
    let s := (booting .held id).setSide { up.side with resetL := false }
    s.side.resetL = false ∧ s.boot.phase = .held := by decide

theorem witness_dies : up.side.on = true ∧ (1 : Nat) < 2 ∧ up.err.deviceStopped = false ∧ up.power.stop = .none := by decide

theorem witness_fence : (127 : Nat) < 132 ∧ up.logOf 127 = some 127 ∧ up.dark 127 = false ∧ up.side.on = true ∧
    up.err.deviceStopped = false ∧ (up.core 127).fence = .inService ∧ up.dark 131 = true ∧
    [0x0B02, 0x0A0B, 0x0102].all (fun c : BitVec 16 => !([0x0B03, 0x0B04, 0x0101, 0x0313].contains c)) = true ∧
    (up.cluster 31).fenced = false := by decide +kernel

/-- A core whose vector unit serves a VECTOR, ADD, when its check fails. -/
theorem witness_mismatch :
    let s := with127 fun c => { c with vec := { c.vec with unit := [⟨job 510 (ent [(0, 0x40), (16, 1)]), .vector, false, []⟩] } }
    (s.core 127).vec.unit = ⟨job 510 (ent [(0, 0x40), (16, 1)]), .vector, false, []⟩ :: [] ∧ s.dark 127 = false := by decide +kernel

theorem witness_fencing :
    let s := up.modCore 131 fun c => { c with fence := .fencing }
    (s.core 131).fence = .fencing ∧ s.power.stop = .none ∧ (s.setPower { s.power with stop := .leak }).power.stop ≠ .none := by
  decide +kernel

theorem witness_unfencing :
    let s := up.modCore 131 fun c => { c with fence := .unfencing }
    (s.core 131).fence = .unfencing ∧ s.halted = false ∧ s.inReset 131 = false ∧
      ((with127 fun c => { c with fence := .unfencing }).core 127).fence = .unfencing ∧
      (with127 fun c => { c with fence := .unfencing }).logOf 127 = some 127 := by decide +kernel

theorem witness_unfence :
    let s := up.modCore 0 fun c => { c with fence := .fenced }
    (s.core 0).fence = .fenced ∧ s.dark 0 = false ∧ s.inReset 0 = false ∧ s.admits 0 (pgCore 0 7) = true ∧
      (s.page (pgCore 0 7)).lock = false := by
  decide +kernel

theorem witness_core_page : up.admits 0 (pgCore 131 bSeq) = true ∧ (up.page (pgCore 131 bSeq)).lock = false ∧
    up.admits 1 (pgStream 31) = true ∧ (up.page (pgStream 31)).lock = false ∧
    ((up.modCluster 31 fun c => { c with fenced := true }).cluster 31).fenced = true := by decide +kernel

/-- Core 127 fenced, and spare 3 of its region free or serving it. -/
def spared (sp : Spare) : State :=
  let s := with127 fun c => { c with fence := .fenced }
  s.setRemap { s.remap with spares := [(3, sp)] }

theorem witness_map :
    let s := spared .reset
    s.admits 1 pgRemap = true ∧ (s.page pgRemap).lock = false ∧ (s.lcore 127).fence = .fenced ∧
      s.fuses.sparePresent.getLsbD 3 = true ∧ s.spare 3 = ⟨none, false⟩ ∧ s.physOf 127 = 127 ∧
      regionOfPhys 127 = regionOfPhys (128 + 3) := by decide +kernel

theorem witness_remapped : (spared ⟨some 127, true⟩).spare 3 = ⟨some 127, true⟩ ∧ (spared ⟨some 127, true⟩).halted = false ∧
    (spared ⟨some 127, true⟩).inReset (128 + 3) = false := by
  decide +kernel

theorem witness_unmap :
    let s := (spared ⟨some 127, false⟩).modCore 131 fun c => { c with fence := .fenced }
    s.admits 0 pgRemap = true ∧ (s.page pgRemap).lock = false ∧ s.spare 3 = ⟨some 127, false⟩ ∧
      (s.core (128 + 3)).fence = .fenced := by decide +kernel

theorem witness_partition :
    let s := up.setBoot { up.boot with partBusy := some 7 }
    s.boot.partBusy = some 7 ∧ s.halted = false ∧
      (physIn (s.partRegions 7)).any (fun p => !s.dark p && decide ((s.core p).fence ≠ .fenced)) = false := by decide +kernel

theorem witness_pairing :
    let s := up.modSnap fun x => { x with partnerEn := true, partnerState := 1 }
    s.side.on = true ∧ s.snap.partnerEn = true ∧ s.snap.partnerState = 1 ∧ (1 : BitVec 4) ≠ s.side.feed := by decide

theorem witness_tap :
    let s := after (.jtagInstruction 1 .idcode) (after (.jtagInstruction 0 .idcode) up)
    let t := after (.jtagInstruction 1 .highz) up
    (s.die 0).tap = .idcode ∧ (s.die 1).tap = .idcode ∧ (t.die 1).tap = .highz ∧ t.tapNow 1 = .highz ∧ up.auxUp = true ∧
      (up.modDie 1 fun x => { x with tap := .extest }).tapNow 1 = .extest := by decide +kernel

theorem witness_blank : (up.setFuses { up.fuses with lifecycle := 0 }).fuses.lifecycle = 0 := by decide

/-! ### Register rows -/

theorem witness_unreached : up.admits 4098 (up.pgQueue 527) = false ∧ up.admits 4098 (pgCore 131 bTally) = false ∧
    up.admits 4098 pgRemap = false ∧ up.admits 4098 pgSecurity = false ∧
    up.admits 4098 ((0xFFFFFFFF : Word).toNat / 4096) = false ∧ up.reaches 4098 ((0xFFFFFFFF : Word).toNat / 4096) = false ∧
    (net.modSnap fun x => { x with phase := .copying }).admits (3 + 4095) pgMode = false := by decide +kernel

theorem witness_locked :
    let s := (up.modPage pgRemap fun h => { h with lock := true }).modPage (up.pgQueue 527) fun h => { h with lock := true }
    (s.page (s.pgQueue 527)).lock = true ∧ (s.page pgRemap).lock = true := by decide +kernel

theorem witness_queue_page : ∀ q ∈ [0, 511, 512, 527], up.admits 0 (up.pgQueue q) = true ∧ (up.page (up.pgQueue q)).lock = false ∧
    (up.queue q).stopped = false ∧ up.queueState q = 0 := by decide +kernel

theorem witness_queue_stopped :
    let s := up.modQueue 527 fun x => { x with stopped := true, ringBase := 0x1000, ringSize := 6, tail := 1 }
    s.queueState 527 = 4 ∧ (s.queue 527).stopEnded = false ∧ (s.queue 527).frontAddr ≠ none ∧ s.power.stop = .none ∧
      s.err.deviceStopped = false ∧ s.injectOpen = false ∧ s.front 527 = .cmd 0 := by decide +kernel

/-- A queue stopped in front of a segment entry that it has not entered. -/
theorem witness_skip_in_segment :
    let s := s_segment.modQueue 527 fun x => { x with stopped := true }
    s.queueState 527 = 4 ∧ (s.queue 527).stopEnded = false ∧ s.front 527 = .segment e_segment ∧ segmentOk 527 e_segment = true := by
  decide +kernel

theorem witness_ring_size : ringSizeOk 0 = true ∧ ringSizeOk 6 = true ∧ ringSizeOk 16 = true := by decide

theorem witness_core_registers : up.admits 1 (pgCore 131 bScratch) = true ∧ (511 : Nat) + 1 ≤ 512 ∧
    up.admits 1 (pgCore 131 bTally) = true ∧ (up.page (pgCore 131 bTally)).lock = false ∧ up.injectOpen = false := by decide +kernel

theorem witness_clear : ∀ pg ∈ [pgErragg, pgPower, pgThermal, pgFabric 1], up.admits 1 pg = true ∧ (pageKind pg).isSome = true := by
  decide +kernel

theorem witness_inject :
    let s := (up.setErr { up.err with injectEn := true }).setBoot { up.boot with mode := 2 }
    s.injectOpen = true ∧ (s.page pgErragg).lock = false ∧ bitsAt (0x0000000A : Word) 0 3 < 3 ∧ (0x0000000A : Word).getLsbD 3 = true := by
  decide +kernel

theorem witness_power_restart :
    let s := up.setPower { up.power with stop := .trip, restartReady := true, tripped := true }
    s.admits 0 pgPower = true ∧ s.power.stop ≠ .none ∧ s.power.restartReady = true ∧
      (s.power.tripped = true → s.zonesCool = true) := by decide +kernel

theorem witness_mode : up.admits 0 pgMode = true ∧ net.admits (3 + 4095) pgMode = true := by
  decide +kernel

theorem witness_lifecycle : up.admits 0 pgSecurity = true ∧ transitionOk 2 4 false = true ∧
    (up.setFuses { up.fuses with lifecycle := 2 }).allQuiet = true ∧
    transitionOk (up.setFuses { up.fuses with lifecycle := 2 }).fuses.lifecycle.toNat 4 (decide (up.boot.unlockTarget = some 4)) = true ∧
    up.snap.phase = .idle ∧ up.snap.flashDraining = false ∧ up.snap.partnerDraining = false := by decide +kernel

theorem witness_conn_open : net.admits 0 pgTransport = true ∧ (net.setNet { net.net with sel := 4095 }).net.sel ≠ 0 := by decide +kernel

theorem witness_staging : up.admits 0 pgSnapshot = true ∧ (up.page pgSnapshot).lock = false ∧ up.snap.phase = .idle ∧
    up.snap.holdFilling = false ∧ bitsAt (0 : Word) 0 10 ≤ 768 ∧ regionOk up.snap.stagingBase.toNat (bitsAt (0 : Word) 0 10) = true ∧
    regionOk up.snap.holdBase.toNat up.snap.holdSize.toNat = true ∧
    overlaps up.snap.stagingBase.toNat (gib (bitsAt (0 : Word) 0 10)) up.snap.holdBase.toNat (gib up.snap.holdSize.toNat) = false := by
  decide +kernel

theorem witness_pair :
    let a : Word := BitVec.ofNat 32 (4096 * pgErragg + 0x018)
    pageKind (a.toNat / 4096) = some (.device pgErragg) ∧ a.toNat % 4 = 0 ∧ a.toNat / 4096 ≠ pgContext ∧
      up.pairAt (.device pgErragg) (a.toNat / 4096) (a.toNat % 4096) = some 0 ∧ up.reaches 2 (a.toNat / 4096) = false ∧
      up.reaches 1 (a.toNat / 4096) = true ∧ up.reaches 1 pgEnergy = true ∧ up.reaches 1 pgContext = true := by decide +kernel

theorem witness_hi_write : up.physOf (511 / 4) = 511 / 4 ∧ up.admits 1 (pgCore (511 / 4) bSeq) = true ∧
    (up.page (pgCore (511 / 4) bSeq)).lock = false ∧ up.queueState 511 = 0 ∧ up.injectOpen = false := by decide +kernel

/-! ### One family's rules -/

/-- FRAME_MODE with an empty mask, format 6, format 7, format 4 with a pad code of 16, and pad codes worth 1. -/
def e_mode_mask : Entry := ent [(0, 0x20), (18, 2)]
def e_mode_6 : Entry := ent [(0, 0x20), (16, 1), (18, 6)]
def e_mode_7 : Entry := ent [(0, 0x20), (16, 1), (18, 7)]
def e_mode_16 : Entry := ent [(0, 0x20), (16, 1), (18, 4), (19, 16)]
def e_mode_pad4 : Entry := ent [(0, 0x20), (16, 1), (18, 4), (24, 1)]
def e_mode_pad5 : Entry := ent [(0, 0x20), (16, 1), (18, 5), (24, 1)]
/-- Both at once: an empty mask, and a pad code worth 1. -/
def e_mode_both : Entry := ent [(0, 0x20), (18, 4), (24, 1)]

theorem witness_mode_mask : (oneCmd up 511 e_mode_mask).Ready 511 e_mode_mask (hasOp 0x20) (fun _ _ => .go) ∧ fld e_mode_mask 16 2 = 0 :=
  ⟨ready_of (by decide +kernel), by decide +kernel⟩
theorem witness_mode_6 : (oneCmd up 511 e_mode_6).Ready 511 e_mode_6 (hasOp 0x20) (fun _ _ => .go) ∧ modeFormat e_mode_6 = 6 :=
  ⟨ready_of (by decide +kernel), by decide +kernel⟩
theorem witness_mode_7 : (oneCmd up 511 e_mode_7).Ready 511 e_mode_7 (hasOp 0x20) (fun _ _ => .go) ∧ modeFormat e_mode_7 = 7 :=
  ⟨ready_of (by decide +kernel), by decide +kernel⟩
theorem witness_mode_16 : (oneCmd up 511 e_mode_16).Ready 511 e_mode_16 (hasOp 0x20) (fun _ _ => .go) ∧
    modeFormat e_mode_16 = 4 ∧ 16 ≤ modePad e_mode_16 := ⟨ready_of (by decide +kernel), by decide +kernel⟩
theorem witness_mode_pad4 : (oneCmd up 511 e_mode_pad4).Ready 511 e_mode_pad4 (hasOp 0x20) (fun _ _ => .go) ∧
    frameModeOk e_mode_pad4 = true ∧ modeFormat e_mode_pad4 = 4 ∧ modePad e_mode_pad4 < 16 ∧ cbEntry (modeC1 e_mode_pad4) (modePad e_mode_pad4) ≠ 0 :=
  ⟨ready_of (by decide +kernel), by decide +kernel⟩
theorem witness_mode_pad5 : (oneCmd up 511 e_mode_pad5).Ready 511 e_mode_pad5 (hasOp 0x20) (fun _ _ => .go) ∧
    frameModeOk e_mode_pad5 = true ∧ modeFormat e_mode_pad5 = 5 ∧
    cbEntry (modeC1 e_mode_pad5) (modePad e_mode_pad5 / 16) + cbEntry (modeC2 e_mode_pad5) (modePad e_mode_pad5 % 16) ≠ 0 :=
  ⟨ready_of (by decide +kernel), by decide +kernel⟩

theorem witness_mode_both : (oneCmd up 511 e_mode_both).Ready 511 e_mode_both (hasOp 0x20) (fun _ _ => .go) ∧
    fld e_mode_both 16 2 = 0 ∧ modeFormat e_mode_both = 4 ∧ modePad e_mode_both < 16 ∧
    cbEntry (modeC1 e_mode_both) (modePad e_mode_both) ≠ 0 := ⟨ready_of (by decide +kernel), by decide +kernel⟩
theorem witness_mode_pad_zero : [e_mode_mask, e_mode_6, e_mode_7, e_mode_16].all (fun e =>
    decide (modeFormat e ≠ 5) && !(decide (modeFormat e = 4) && decide (modePad e < 16))) = true := by decide +kernel

theorem witness_ledger_window : (32 : Nat) ≠ 0 ∧
    wholePlace (ledgerBase + 128 * ledgerSize - 32) 32 = some (.ledger 127 (ledgerSize - 32)) := by decide +kernel

theorem witness_ledger_range : ∀ k, -ledMax ≤ nget 0 Ledger.reset.entries k ∧ nget 0 Ledger.reset.entries k ≤ ledMax := by
  intro k
  exact ⟨by simp [Ledger.reset, nget, ledMax], by simp [Ledger.reset, nget, ledMax]⟩

/-! ### Results worked out by hand from the rules, one command each -/

/-- A word of core 0's scratchpad. -/
def word0 (s : State) (off : Nat) : Word := BitVec.ofNat 32 (blkNat (nblock (s.lcore 0).scr.mem off 4) 0 4)
def put0 (s : State) (off : Nat) (w : Word) : State := s.modLcore 0 fun c =>
  { c with scr := { c.scr with mem := putMem c.scr.mem off 4 (blockOf 0 (leBytes 4 w.toNat)) } }

/-- A NOP issues and completes: HEAD and the count of issued commands are 1 (R454). -/
theorem test_nop_advances :
    let x := (after (.nop 0) s_nop).queue 0
    x.head = 1 ∧ x.issued = 1 ∧ x.flight = [] := by decide +kernel

/-- STOP stops its queue with STOP_COMMAND before itself (R466). -/
theorem test_stop_keeps_head :
    let x := (after (.stop 0) s_stop).queue 0
    x.stopped = true ∧ x.stopCode = 0x0602 ∧ x.head = 0 := by decide +kernel

/-- A tally of 0 that takes -1 stays 0, and the clamp counts (R334). -/
theorem test_tally_clamps_low :
    let t := up.applySignal 3 5 (-1) 12
    nget 0 (t.lcore 3).tally.value 5 = 0 ∧ (t.lcore 3).tally.saturations = 1 := by decide +kernel

/-- A tally of 2^32 - 2 that takes 5 stops at 2^32 - 1 (R334). -/
theorem test_tally_clamps_high :
    let s := up.modLcore 3 fun c => { c with tally := { c.tally with value := [(5, 0xFFFFFFFE)] } }
    nget 0 ((s.applySignal 3 5 5 12).lcore 3).tally.value 5 = 0xFFFFFFFF := by decide +kernel

/-- R116: pad code 0 of format 4 with c1[0] = 1 is not worth zero. -/
theorem test_frame_mode_pad :
    ((after (.frameMode 511) (oneCmd up 511 e_mode_pad4)).queue 511).stopCode = 0x0126 := by decide +kernel

/-- R113: the pending mode of the frames in the mask, and of no other, becomes format 4 with pad code 2. -/
theorem test_frame_mode_sets :
    let c := (after (.frameMode 0) (oneCmd up 0 (ent [(0, 0x20), (16, 0x8000), (18, 4), (19, 2)]))).lcore 0
    (c.frame 15).pendFormat = 4 ∧ (c.frame 15).pendPad = 2 ∧ (c.frame 0).pendFormat = 2 := by decide +kernel

/-- R46 to R48: bits of W1 are +1 and -1, W2 and W4 are two's complement, the low lane in the low bits. -/
theorem test_weights : byteWeights 0 [] [] 0x05 = [-1, 1, -1, 1, 1, 1, 1, 1] ∧ byteWeights 1 [] [] 0xE4 = [0, 1, -2, -1] ∧
    byteWeights 2 [] [] 0x8F = [-1, -8] ∧ byteWeights 3 [] [] 0x80 = [-128] := by decide +kernel

/-- R60: an exchange makes the other plane active. -/
theorem test_plane_exchange :
    let s := up.modLcore 0 fun c => c.modFrame 3 fun x => { x with swapPending := true, p1 := { x.p1 with st := .loaded } }
    (((after (.planeExchange 0 3) s).lcore 0).frame 3).active1 = true := by decide +kernel

/-- R143: an addition past the top of the range stops at the top. -/
theorem test_ledger_clamps :
    ((({ Ledger.reset with entries := [((2 * 9 + 1) * 128 + 7, ledMax - 1)] } : Ledger).addRow 2 1 0 128 fun _ => 5).1).entry 2 1 7
      = ledMax := by decide +kernel

/-- ADD of 1.0 and 2.0 writes 3.0 (0x40400000). -/
theorem test_vector_add :
    let e := ent [(0, 0x40), (16, 1), (20, 1), (22, 1), (32, 32), (40, 64), (60, 0xFFFFFFFF)]
    let s := put0 (put0 (board (oneCmd up 0 e)) 0 0x3F800000) 32 0x40000000
    word0 (after (.vector 0) s) 64 = 0x40400000 := by decide +kernel

/-- MAX of +0 and -0 is +0, in either order. -/
theorem test_vector_max_of_zeros : vMax 0 0x80000000 = 0 ∧ vMax 0x80000000 0 = 0 ∧ vMin 0 0x80000000 = 0x80000000 := by decide +kernel

/-- A copy of 32 bytes from Tier 1 to Tier 1 at 0x3000. -/
theorem test_dma_copy :
    let e := ent [(0, 0x10), (20, 0x2000), (26, 0x3000), (32, 32), (36, 1)]
    let s := oneCmd (up.setMem (putMem [] 0x2000 32 (blockOf 0 (List.replicate 32 0xAB)))) 0 e
    byteAt (after (.dmaCopy 0) s).mem 0x301F = 0xAB ∧ byteAt (after (.dmaCopy 0) s).mem 0x3020 = 0 := by decide +kernel

/-- LEDGER_CLEAR zeroes the tile that it names, not the next. -/
theorem test_ledger_clear :
    let e := ent [(0, 0x28), (16, 5), (17, 1)]
    let s := (oneCmd up 0 e).modLcore 0 fun c =>
      { c with ledger := { c.ledger with entries := [((5 * 9 + 1) * 128, 7), ((6 * 9 + 1) * 128, 8)] } }
    let L := ((after (.ledgerClear 0) s).lcore 0).ledger
    L.entry 5 1 0 = 0 ∧ L.entry 6 1 0 = 8 := by decide +kernel

/-- SIGNAL with tag action 2 fills its tags (R323). -/
theorem test_signal_fills_tags :
    let c := ((after (.signal 0) (oneCmd up 0 (ent [(0, 2), (16, 510), (18, 2), (20, 2)]))).lcore 0).scr
    c.full 510 = true ∧ c.full 511 = true ∧ c.full 509 = false := by decide +kernel

/-- CTX_OPEN leaves an OPEN descriptor. -/
theorem test_ctx_open : ((after (.ctxOpen 512) s_ctx_open).ctx 0x0000).generation.toNat +
    ((after (.ctxOpen 512) s_ctx_open).ctxs.filter fun x => decide (x.2.st = .opened)).length = 1 := by decide +kernel

/-- A COMMAND of two entries moves `TAIL` by 2, and one to a queue with no ring is refused with 0x0609 (R447). -/
theorem test_command_fills_ring :
    let s := up.modQueue 527 fun x => { x with ringBase := 0x4000, ringSize := 6 }
    ((s.applyCommand 4095 527 [1, 2]).1.queue 527).tail = 2 ∧ (s.applyCommand 4095 526 [1]).2.status = 0x0609 ∧
      byteAt (s.applyCommand 4095 527 [1, 2]).1.mem 0x4040 = 2 := by decide +kernel

/-- A write of zeros leaves no entry, and a write of 7 one. -/
theorem test_memory_form : (up.applyWrite 4095 0 (List.replicate 32 0)).1.mem = [] ∧
    byteAt (up.applyWrite 4095 0 (7 :: List.replicate 31 0)).1.mem 0 = 7 := by decide +kernel

/-- `POWER.CAP` ignores 499 and 2201 and takes 500 and 2200 (R514). -/
theorem test_power_cap :
    let w := fun v : Word => (after (.registerWrite 0 (BitVec.ofNat 32 (4096 * pgPower + 0x100)) v) up).power.cap
    w 499 = 2200 ∧ w 500 = 500 ∧ w 2201 = 2200 ∧ w 2200 = 2200 := by decide +kernel

/-- A warm reset needs its key 0xA5 (R650). -/
theorem test_warm_reset_key : (after (.warmReset 0 0xA4) up).boot.phase = .running ∧
    (after (.warmReset 0 0xA5) up).boot.phase = .provisioning := by decide +kernel

/-- A lost link counts (R646), and the port is down. -/
theorem test_link_down :
    let p := (after (.linkDown 7) port7).port 7
    p.linkUp = false ∧ p.linkDowns = 1 := by decide +kernel

/-- CLUSTER_FENCED fences the four cores of cluster 31 and its stream engine, and no other core (R570, R741). -/
theorem test_cluster_fence :
    let s := after (.coreFence 127 0x0B03) up
    [124, 125, 126, 127].all (fun p => decide ((s.core p).fence = .fencing) && (s.core p).cause == 0x0B03) = true ∧
      (s.core 123).fence = .inService ∧ (s.cluster 31).fenced = true := by decide +kernel

/-- The ninth transition of COOLANT_OK within 10 ms stops the device, the eighth does not (R694). -/
theorem test_ninth_transition : (after (.sidebandChatter 0) (s_chatter 8)).power.stop = .coolant ∧
    (after (.sidebandChatter 0) (s_chatter 7)).power.stop = .none := by decide +kernel

/-- An untagged PAUSE frame is ignored, a frame of 63 B with a bad FCS counts as dropped (R618). -/
theorem test_pause_and_bad_fcs :
    let n := fun f : EthFrame => ((after (.frameReceive 7 f) port7).port 7).rxDropped
    n ⟨64, false, none, true, 0, 0, false, none, false⟩ = 0 ∧ n ⟨63, true, none, false, 0, 0, false, none, false⟩ = 1 := by
  decide +kernel

/-- An idle step is one period of 100 MHz, 10 ns. -/
theorem test_idle_tick : (match step State.reset with
    | .next t => t.time.now
    | _ => 0) = State.reset.time.now + 10 := by decide +kernel

/-- A BLANK module moves to lifecycle state 1 over JTAG, and no other module does (R673). -/
theorem test_jtag_transition : (after (.jtagTransition 1) (up.setFuses { up.fuses with lifecycle := 0 })).fuses.lifecycle = 1 ∧
    (after (.jtagTransition 1) up).fuses.lifecycle = 4 := by decide +kernel

/-- The throttle input takes issue to 1/16 and memory to 4/16 (R533). -/
theorem test_throttle :
    let p := (after .throttleAsserted up).power
    p.issue = 1 ∧ p.memory = 4 ∧ p.throttle = true := by decide +kernel

/-- A faulty sensor reads at least 105 degrees: 1680 sixteenths. -/
theorem test_sensor_fault : ((after (.thermalSensorFault 7 31) up).region 7).zone = 1680 := by decide +kernel

/-- RING_CONFIG with a reserved size changes nothing; with 6 it sets the ring (R477). -/
theorem test_ring_config : ((after (.ringConfig 0 0 0x1000 5) up).queue 0).ringSize = 0 ∧
    ((after (.ringConfig 0 0 0x1000 6) up).queue 0).ringSize = 6 := by decide +kernel

/-- CRC-32 of "123456789", the check value of that code. -/
theorem test_crc32 : crc32 [0x31, 0x32, 0x33, 0x34, 0x35, 0x36, 0x37, 0x38, 0x39] = 0xCBF43926 := by decide +kernel

/-- The worked example of SAMPLE: 12.0, 11.2 and twice 10.4 at inverse temperature 1.25, top-p 0.9 and draw bits 11,744,051 give
n = 3 and rank 1, with exp(-1) = 0.36787945 and exp(-2) = 0.13533528. -/
theorem test_sample_example :
    let r := rank [⟨0x41400000, 5021⟩, ⟨0x41333333, 177⟩, ⟨0x41266666, 3⟩, ⟨0x41266666, 90003⟩] 0x3FA00000 0x3F666666
    r.es = [0x3F800000, 0x3EBC5AB2, 0x3E0A9555, 0x3E0A9555] ∧ r.n = 3 ∧ r.pick (256 * 11744051) = 1 := by decide +kernel

/-- Instruction IDCODE shifts out 0x10800B5D, bit 0 first, from both TAPs (R701). -/
theorem test_idcode : (up.dataScan.foldr (fun b n => b2n b + 2 * n) 0) = 0x10800B5D10800B5D := by decide +kernel

/-- UDP checksum of RFC 768, by hand: 10.0.0.1 to 10.0.0.2, ports 1 and 2, payload 00 01. The words sum to 0x142C. -/
theorem test_udp_sum : udpSum ⟨ipv4Mapped 0x0A000001, ipv4Mapped 0x0A000002, 64, 0, 2, 1, 2⟩ [0, 1] = 0xEBD3 := by decide +kernel

/-- IEEE 754: 1/3 rounds to 0x3EAAAAAB, the square root of 2 to 0x3FB504F3, 2^-149 + 2^-149 is exact. -/
theorem test_binary32 : fDiv 0x3F800000 0x40400000 = 0x3EAAAAAB ∧ fSqrt 0x40000000 = 0x3FB504F3 ∧ fAdd 1 1 = 2 := by decide +kernel

end Sys2Proof.Tests
end

section
/-! SUPPORT. Register rows that do not reach their page, or whose page is locked (R18, R597, R710, R717). -/

namespace Sys2Proof.Machine

/-- Log entry 2: a write row whose initiator is not admitted to the page (R597, R710) leaves the state as it is. -/
theorem State.regRow_unreached {s : State} {ini pg : Nat} (h : s.admits ini pg = false) (lockable : Bool) (f : State → State) :
    s.regRow ini pg lockable f = .next s := by
  simp [State.regRow, h]

/-- R18, R717: so does one that writes an rw or w1s field of a locked page. -/
theorem State.regRow_silent {s : State} {ini pg : Nat} (h : s.admits ini pg = false ∨ (s.page pg).lock = true)
    (f : State → State) : s.regRow ini pg true f = .next s := by
  rcases h with h | h
  · exact State.regRow_unreached h true f
  · simp [State.regRow, h]

/-- R710: a read row whose initiator does not reach the page leaves the state as it is. -/
theorem State.regRead_unreached {s : State} {ini pg : Nat} (h : s.reaches ini pg = false) (f : State → State) :
    s.regRead ini pg f = .next s := by
  simp [State.regRead, h]

/-- A write of a HI word goes through the row of its page, or the address is of no pair and nothing is written. -/
theorem execHiWrite_unreached {s : State} {ini : Nat} {a : Word} (h : s.admits ini (a.toNat / 4096) = false) (v : Word) :
    execHiWrite ini a v s = .next s := by
  unfold execHiWrite
  split
  · split
    · exact State.regRow_unreached h false _
    · rfl
  · rfl

/-- A read of a LO word goes through the row of its page, or the address is of no pair and nothing is latched. -/
theorem execLoRead_unreached {s : State} {ini : Nat} {a : Word} (h : s.reaches ini (a.toNat / 4096) = false) :
    execLoRead ini a s = .next s := by
  unfold execLoRead
  split
  · exact State.regRead_unreached h _
  · rfl

end Sys2Proof.Machine

open Sys2Proof Sys2Proof.Machine

/-- Settles O50: every register row is one `regRow` or `regRead` of its page, and those are silent. -/
theorem unreachedPagesAreSilent : Obligations.UnreachedPagesAreSilent := by
  unfold Obligations.UnreachedPagesAreSilent
  intro s ini
  refine ⟨fun q => ⟨fun h => ?queueLockable, fun h => ?queueAction⟩, fun p n v h => ?tally, fun pg v h => ?page,
    fun a v h => ?write, fun a h => ?loRead, fun n l h => ?remap, fun n k h => ?lifecycle⟩
  case queueLockable => exact ⟨State.regRow_silent h _, fun b n => State.regRow_silent h _⟩
  case queueAction =>
    exact ⟨State.regRow_unreached h false _, State.regRow_unreached h false _, State.regRow_unreached h false _⟩
  case tally => exact State.regRow_silent h _
  case page =>
    exact ⟨show execErrInject ini pg v s = _ from State.regRow_silent h _,
      show execHostFence ini pg s = _ from State.regRow_silent h _,
      show execUnfence ini pg s = _ from State.regRow_silent h _⟩
  case write =>
    exact ⟨show s.writeRow ini a v = _ from State.regRow_unreached h false _, execHiWrite_unreached h v⟩
  case loRead => exact execLoRead_unreached h
  case remap => exact ⟨State.regRow_silent h _, State.regRow_silent h _⟩
  case lifecycle => exact show execLifecycleTransition ini n k s = _ from State.regRow_unreached h false _

end

section
/-! SUPPORT. A device-stop reaches the device queues, and the read of an unreadable context descriptor is one (R582, R727). -/

namespace Sys2Proof.Machine

theorem State.queue_firstDevice (s : State) : s.queue 512 = nget .reset s.devq 0 := rfl

/-- What each step of a loop keeps, the loop keeps. -/
theorem State.forEach_induction {P : State → Prop} {f : State → Nat → State} (hf : ∀ u k, P u → P (f u k)) (l : List Nat)
    {s : State} (h : P s) : P (s.forEach l f) := by
  induction l generalizing s with
  | nil => exact h
  | cons k l ih => exact ih (hf s k h)

theorem mem_upTo_of_lt {n k b : Nat} (hb : b ≤ k) (h : k < b + n) : k ∈ upTo b n := by
  induction n generalizing b with
  | zero => omega
  | succ n ih =>
    rcases eq_or_lt_of_le hb with rfl | hb
    · exact List.mem_cons_self
    · exact List.mem_cons_of_mem _ (ih hb (by omega))

/-- A loop that stops device queues leaves the ones that it names stopped, and the ones that were. -/
theorem State.forEach_deviceStop_stopped (code : BitVec 16) (rewind : Bool) {n : Nat} (l : List Nat) (s : State)
    (h : n ∈ l ∨ (nget .reset s.devq n).stopped = true) :
    (nget .reset (s.forEach l fun s m => s.setDevq (nmod .reset s.devq m fun x => x.deviceStop code rewind)).devq
      n).stopped = true := by
  induction l generalizing s with
  | nil => exact h.resolve_left List.not_mem_nil
  | cons m l ih =>
    refine ih _ ?_
    dsimp only [State.setDevq]
    by_cases e : n = m
    · subst e
      rw [nget_nmod_same]
      exact .inr rfl
    · rw [nget_nmod_other _ _ _ e]
      exact h.imp_left fun h => (List.mem_cons.1 h).resolve_left e

/-- R582: all device queues stop. -/
theorem State.stopEverything_stopped (s : State) (code : BitVec 16) (rewind : Bool) {n : Nat} (h : n < 16) :
    (nget .reset (s.stopEverything code rewind).devq n).stopped = true := by
  unfold State.stopEverything
  dsimp only
  refine State.forEach_induction (P := fun u => (nget .reset u.devq n).stopped = true) ?spares _
    (State.forEach_induction (P := fun u => (nget .reset u.devq n).stopped = true) ?clusters _ ?queues)
  case spares =>
    intro u k hu
    split
    · exact hu
    · exact hu
  case clusters => exact fun u k hu => hu
  case queues =>
    simp only [State.setRail_fields, State.setCloses_fields]
    exact State.forEach_deviceStop_stopped code rewind _ _ (.inl (mem_upTo_of_lt (Nat.zero_le n) (by omega)))

/-- R582: an error of severity device-stop stops a device that runs, each device queue with it. -/
theorem State.raiseStop_stopped {s : State} (hd : s.err.deviceStopped = false) (hp : s.power.stop = .none) (pg : Nat)
    (code : BitVec 16) (info : Nat) {n : Nat} (h : n < 16) : (nget .reset (s.raiseStop pg code info).devq n).stopped = true := by
  have runs : ¬((s.raise pg code deviceStopSev info).err.deviceStopped = true ∨
      (s.raise pg code deviceStopSev info).power.stop ≠ .none) := by
    simp [(s.raise_told pg code deviceStopSev info).more.1, hd, hp]
  unfold State.raiseStop State.deviceStop
  rw [if_neg runs]
  simpa using State.stopEverything_stopped _ _ _ h

/-- R727: a first word that cannot be corrected stops the device. -/
theorem State.ctxRead_uncorrectable {s : State} {n : Nat} (h : nget .sound s.ctxCond (2 * n) = .uncorrectable) :
    (s.ctxRead n).1 = s.raiseStop pgContext 0x0528 0 := by
  simp [State.ctxRead, h]

theorem SameQ.latch {s t : State} (h : SameQ s t) (ini : Nat) (a v : Word) : SameQ s (t.latch ini a v) :=
  h.trans (.of rfl rfl rfl)

/-- The latches that a descriptor read sets leave the queues as its check of the descriptor leaves them. -/
theorem State.readDesc_queue (s : State) (ini q : Nat) :
    (s.readDesc ini).queue q = (s.ctxRead s.ctxSel.toNat).1.queue q := by
  unfold State.readDesc
  exact (SameQ.forEach (fun u i h => h.latch _ _ _) _ (.refl _)).queue q

/-- A read of `CONTEXT.DESC_0` leaves what the read of the descriptor leaves. -/
theorem State.readReg_desc (s : State) (ini : Nat) :
    (s.readReg ini (BitVec.ofNat 32 (4096 * pgContext + 0x104))).2 = s.readDesc ini := rfl

/-- A module after reset whose context 0, the selected one, has an uncorrectable first word. -/
def unreadableContext : State := State.reset.setCtxCond [(0, .uncorrectable)]

/-- R582, R727: reading its descriptor stops the device queues. -/
theorem unreadableContext_readDesc_stopped (ini : Nat) : ((unreadableContext.readDesc ini).queue 512).stopped = true := by
  rw [State.readDesc_queue, State.ctxRead_uncorrectable rfl, State.queue_firstDevice]
  exact State.raiseStop_stopped rfl rfl _ _ _ (by omega)

end Sys2Proof.Machine

open Sys2Proof Sys2Proof.Machine

/-- Refutes O56: its third part says that DESC_READ leaves every queue as it was. Where a word of the selected descriptor cannot
be corrected, the read raises CONTEXT_TABLE_FAILED, a device-stop (R727), which stops all 528 queues (R582). -/
theorem not_pairsAreLatchedPerInitiator : ¬ Obligations.PairsAreLatchedPerInitiator := by
  unfold Obligations.PairsAreLatchedPerInitiator
  rintro ⟨-, -, descRead, -, -⟩
  obtain ⟨t, -, rfl, -, same⟩ := descRead unreadableContext 0 rfl
  have running : (unreadableContext.queue 512).stopped = false := rfl
  have stopped := unreadableContext_readDesc_stopped 0
  rw [← State.readReg_desc, same, running] at stopped
  exact Bool.false_ne_true stopped

end

section
/-! SUPPORT. A swap that completes signals its tally, and a word that the signal writes may be lost and fence the core, which ends
the swaps of every frame (R465, R569, R571, R584). -/

namespace Sys2Proof.Machine

/-- PLANE_SWAP of frame 0 that adds 1 to tally 0 of core 0 when it completes. -/
def signallingSwap : Entry := BitVec.ofNat 512 (0x23 + 2 * 2 ^ 8 + 1 * 2 ^ 80 + 0x0001 * 2 ^ 128)

/-- PLANE_SWAP of frame 1, without a signal. -/
def silentSwap : Entry := BitVec.ofNat 512 (0x23 + 0x0002 * 2 ^ 128)

/-- A frame whose swap has issued and whose idle plane is LOADED. -/
def swapDue : Frame := { Frame.reset with swapPending := true, p1 := { Plane.reset with st := .loaded } }

/-- A module in lifecycle state TEST with injection enabled, and armed for an uncorrectable word in the tallies of core 0 (R584).
Queue 0 of the core has issued both swaps. -/
def twoSwapsDue : State := { State.reset with
  fuses := { Fuses.reset with lifecycle := 1 }
  err := { ErrAgg.reset with injectEn := true }
  pages := [(pgCore 0 bTally, { PageHdr.reset with inject := 0xA })]
  cores := [(0, { Core.reset with
    frames := [(0, swapDue), (1, swapDue)]
    swaps := [⟨⟨0, 0, signallingSwap⟩, [0]⟩, ⟨⟨1, 0, silentSwap⟩, [1]⟩] })] }

/-- The exchange of frame 0 completes its swap; the signal meets the injection, and the fence of the core ends the other swap. -/
theorem twoSwapsDue_exchange : ∃ t, exec (.planeExchange 0 0) twoSwapsDue = .next t ∧
    (t.lcore 0).fence = .fencing ∧ ((t.lcore 0).frame 1).swapPending = false := by
  refine ⟨_, rfl, ?fence, ?swap⟩
  case fence => decide +kernel
  case swap => decide +kernel

end Sys2Proof.Machine

open Sys2Proof Sys2Proof.Machine

/-- Refutes O25: its third part says that a PLANE_EXCHANGE leaves every other frame as it was. The swap that it completes may
signal, an injection at the tally makes the word that the signal writes uncorrectable (R584), and that fences the core (R569),
which ends the swaps that wait in its other frames (R571). -/
theorem not_framesWork : ¬ Obligations.FramesWork := by
  unfold Obligations.FramesWork
  rintro ⟨-, -, exchange, -⟩
  obtain ⟨t, run, -, others⟩ := exchange twoSwapsDue 0 0 (by decide) (by decide) rfl rfl rfl rfl
  obtain ⟨u, run', -, ended⟩ := twoSwapsDue_exchange
  obtain rfl : t = u := Host.Outcome.next.inj (run.symm.trans run')
  have waits : ((twoSwapsDue.lcore 0).frame 1).swapPending = true := rfl
  rw [others 1 (by decide), waits] at ended
  exact Bool.false_ne_true ended.symm

end

section
/-! SUPPORT. Runs and swaps at issue: what `startRun`, `issue` and a fold over frames leave in a queue and in a core. -/

namespace Sys2Proof.Machine

/-! ### Frames of a core -/

@[simp] theorem Core.modFrame_same (c : Core) (f : Nat) (g : Frame → Frame) : (c.modFrame f g).frame f = g (c.frame f) :=
  nget_nmod_same _ _ _ _

theorem Core.modFrame_other (c : Core) (g : Frame → Frame) {f k : Nat} (h : k ≠ f) : (c.modFrame f g).frame k = c.frame k :=
  nget_nmod_other _ _ _ h

/-- A swap that issues on frames `fs` is pending in them, beside those that were. -/
theorem Core.foldl_pend_swapPending (fs : List Nat) (c : Core) (k : Nat) :
    ((fs.foldl (fun c f => c.modFrame f fun x => { x with swapPending := true }) c).frame k).swapPending =
      ((c.frame k).swapPending || fs.contains k) := by
  induction fs generalizing c with
  | nil => simp
  | cons f fs ih =>
    rw [List.foldl_cons, ih]
    by_cases h : k = f
    · subst h
      simp
    · simp [Core.modFrame_other _ _ h, h]

theorem Core.foldl_modFrame_swaps (g : Frame → Frame) (fs : List Nat) (c : Core) :
    (fs.foldl (fun c f => c.modFrame f g) c).swaps = c.swaps := by
  induction fs generalizing c with
  | nil => rfl
  | cons f fs ih => exact ih _

/-! ### Issue -/

theorem QState.advance_stopped (x : QState) : x.advance.stopped = x.stopped := by
  unfold QState.advance
  dsimp only
  split
  · split
    · rfl
    · rfl
  · rfl

/-- A change of a queue leaves every part of a core that is not its queues. -/
theorem State.modQueue_part {α : Type} (s : State) (q : Nat) (f : QState → QState) (g : Core → α)
    (hg : ∀ c m, g { c with queues := m } = g c) (l : Nat) : g ((s.modQueue q f).lcore l) = g (s.lcore l) := by
  unfold State.modQueue
  split
  · exact State.modLcore_part s _ _ g (fun c => hg c _) l
  · rfl

theorem State.issue_part {α : Type} (s : State) (q : Nat) (g : Core → α) (hg : ∀ c m, g { c with queues := m } = g c) (l : Nat) :
    g ((s.issue q).lcore l) = g (s.lcore l) := State.modQueue_part s q _ g hg l

theorem State.issue_stopped (s : State) (q : Nat) : ((s.issue q).queue q).stopped = (s.queue q).stopped := by
  unfold State.issue
  rw [State.modQueue_same]
  exact QState.advance_stopped _

/-- A run that starts leaves its queue running. -/
theorem State.startRun_stopped (s : State) (pubs : List StreamSrc) (lead : Nat × Nat) (q : Nat) (e : Entry) :
    ((s.startRun pubs lead q e).queue q).stopped = (s.queue q).stopped := by
  unfold State.startRun State.enterJob
  dsimp only
  rw [State.modLcore_queue, State.modLcore_queue, State.issue_stopped]
  · intro c
    rfl
  · intro c
    rfl

theorem State.mayIssue_running {s : State} {q : Nat} (h : s.mayIssue q = true) : (s.queue q).stopped = false := by
  simp only [State.mayIssue, Bool.and_eq_true, Bool.not_eq_true'] at h
  tauto

/-- No stop of the ledger's window is counted where the queue still runs. -/
theorem State.countWindow_running (s : State) {t : State} {q : Nat} (h : (t.queue q).stopped = false) : s.countWindow t q = t := by
  simp [State.countWindow, h]

/-- A frame run that is ready starts, whichever of the two rows it is. -/
theorem State.runTry_ready {s : State} {q op : Nat} {e : Entry} (h : s.Ready q e (hasOp op) (runRowGate q)) :
    s.runTry q op = (s.fetchMarks q).startRun ((s.fetchMarks q).runStreams q e) (q, ((s.fetchMarks q).queue q).nextId) q e := by
  unfold State.runTry
  rw [State.tryIssue_ready h]
  refine State.countWindow_running s ?_
  rw [State.startRun_stopped, ((SameQ.refl s).fetchMarks q).queue q]
  exact State.mayIssue_running h.may

/-- A command whose own steps 5 to 7 pass is as ready as one without such steps. -/
theorem State.Ready.withGate {s : State} {q : Nat} {e : Entry} {row : Entry → Bool} {l l' : State → Entry → Gate}
    (h : s.Ready q e row l) (hl : l' (s.fetchMarks q) e = .go) : s.Ready q e row l' :=
  ⟨h.may, h.unpassed, h.front, h.row, h.header, h.steps, hl⟩

end Sys2Proof.Machine

open Sys2Proof Sys2Proof.Machine

/-- Settles O15: each row is `tryIssue` of a ready command, and a run that starts leaves its queue running, so that no stop is
counted after it. -/
theorem frameCommandsIssue : Obligations.FrameCommandsIssue := by
  unfold Obligations.FrameCommandsIssue
  intro s q e
  refine ⟨fun h => ?run, fun h => ?runT, fun h operands pad => ?mode, fun h => ?swap⟩
  case run => exact congrArg Host.Outcome.next (State.runTry_ready h)
  case runT => exact congrArg Host.Outcome.next (State.runTry_ready h)
  case mode => exact congrArg Host.Outcome.next (State.tryIssue_ready (h.withGate (by simp [operands, pad])) _)
  case swap =>
    refine ⟨_, congrArg Host.Outcome.next (State.tryIssue_ready h _), ?_, fun f => ?_⟩
    · rw [State.modLcore_same]
      dsimp only
      rw [Core.foldl_modFrame_swaps, State.issue_part _ _ Core.swaps fun _ _ => rfl]
    · rw [State.modLcore_same]
      refine (Core.foldl_pend_swapPending _ _ f).trans ?_
      rw [State.issue_part _ _ (fun c => c.frame f) fun _ _ => rfl]

end

section
/-! SUPPORT. What a stop of queues, jobs and takes leaves alone: the fences of the cores and their causes, the count of fences, and
the clusters (R378, R393, R472). -/

namespace Sys2Proof.Machine

/-! ### In one core -/

/-- The fence of `c'` and its cause are those of `c`. -/
structure Core.SameFence (c c' : Core) : Prop where
  fence : c'.fence = c.fence
  cause : c'.cause = c.cause

theorem Core.SameFence.refl (c : Core) : c.SameFence c := ⟨rfl, rfl⟩

theorem Core.SameFence.trans {a b c : Core} (h : a.SameFence b) (h' : b.SameFence c) : a.SameFence c :=
  ⟨h'.fence.trans h.fence, h'.cause.trans h.cause⟩

theorem Core.SameFence.foldl {α : Type} {f : Core → α → Core} (hf : ∀ c a, Core.SameFence c (f c a)) (l : List α) (c : Core) :
    c.SameFence (l.foldl f c) := by
  induction l generalizing c with
  | nil => exact .refl c
  | cons a l ih => exact (hf c a).trans (ih _)

theorem Core.modFrame_sameFence (c : Core) (f : Nat) (g : Frame → Frame) : c.SameFence (c.modFrame f g) := ⟨rfl, rfl⟩

theorem Core.voidTargets_sameFence (c : Core) (fs : List Nat) : c.SameFence (c.voidTargets fs) := by
  unfold Core.voidTargets
  exact .foldl (fun c _ => c.modFrame_sameFence _ _) fs c

theorem Core.voidPlanes_sameFence (c : Core) (ps : List (Nat × Bool)) : c.SameFence (c.voidPlanes ps) := by
  unfold Core.voidPlanes
  exact .foldl (fun c _ => c.modFrame_sameFence _ _) ps c

theorem Core.endTake_sameFence (c : Core) (t : Take) : c.SameFence (c.endTake t) := by
  have voided := c.voidPlanes_sameFence t.targets
  unfold Core.endTake
  dsimp only
  split
  · exact ⟨voided.fence, voided.cause⟩
  · exact ⟨voided.fence, voided.cause⟩

theorem Core.cancelRunAhead_sameFence (c : Core) (i : Nat) : c.SameFence (c.cancelRunAhead i) := by
  have voided := c.voidTargets_sameFence
  exact ⟨(voided _).fence, (voided _).cause⟩

/-! ### In the device -/

/-- `t` has the fences of `s`, with their causes and their count, and its clusters. -/
structure KeepsFences (s t : State) : Prop where
  core : ∀ p, (s.core p).SameFence (t.core p)
  count : t.err.fences = s.err.fences
  clusters : t.clusters = s.clusters

theorem KeepsFences.refl (s : State) : KeepsFences s s := ⟨fun _ => .refl _, rfl, rfl⟩

theorem KeepsFences.trans {a b c : State} (h : KeepsFences a b) (h' : KeepsFences b c) : KeepsFences a c :=
  ⟨fun p => (h.core p).trans (h'.core p), h'.count.trans h.count, h'.clusters.trans h.clusters⟩

theorem KeepsFences.foldl {α : Type} {f : State → α → State} (hf : ∀ u a, KeepsFences u (f u a)) (l : List α) (s : State) :
    KeepsFences s (l.foldl f s) := by
  induction l generalizing s with
  | nil => exact .refl s
  | cons a l ih => exact (hf s a).trans (ih _)

theorem KeepsFences.cluster {s t : State} (h : KeepsFences s t) (c : Nat) : t.cluster c = s.cluster c := by
  unfold State.cluster
  rw [h.clusters]

theorem Told.keepsFences {s t : State} (h : Told s t) : KeepsFences s t := by
  have fields := h.fields
  have cores : t.cores = s.cores := by tauto
  refine ⟨fun p => ?core, ?count, ?clusters⟩
  case core =>
    unfold State.core
    rw [cores]
    exact .refl _
  case count => rw [h.reports.log]
  case clusters => tauto

theorem State.raiseFull_keepsFences (s : State) (pg : Nat) (code : BitVec 16) (sev info extra : Nat) (emit inj : Bool) :
    KeepsFences s (s.raiseFull pg code sev info extra emit inj) := (s.raiseFull_told _ _ _ _ _ _ _).keepsFences

theorem State.modCore_keepsFences (s : State) (p : Nat) {f : Core → Core} (hf : ∀ c, Core.SameFence c (f c)) :
    KeepsFences s (s.modCore p f) := by
  refine ⟨fun k => ?_, rfl, rfl⟩
  by_cases h : k = p
  · subst h
    rw [State.modCore_same]
    exact hf _
  · rw [State.modCore_other _ _ h]
    exact .refl _

theorem State.modLcore_keepsFences (s : State) (l : Nat) {f : Core → Core} (hf : ∀ c, Core.SameFence c (f c)) :
    KeepsFences s (s.modLcore l f) := s.modCore_keepsFences _ hf

theorem State.modQueue_keepsFences (s : State) (q : Nat) (f : QState → QState) : KeepsFences s (s.modQueue q f) := by
  unfold State.modQueue
  split
  · exact s.modLcore_keepsFences _ fun _ => ⟨rfl, rfl⟩
  · exact ⟨fun _ => .refl _, rfl, rfl⟩

theorem State.setRail_keepsFences (s : State) (v : Rail) : KeepsFences s (s.setRail v) := ⟨fun _ => .refl _, rfl, rfl⟩

theorem State.modStream_keepsFences (s : State) (n : Nat) (f : RailStream → RailStream) : KeepsFences s (s.modStream n f) :=
  s.setRail_keepsFences _

theorem State.endTakes_keepsFences (s : State) (l n : Nat) : KeepsFences s (s.endTakes l n) :=
  s.modLcore_keepsFences l fun _ => .foldl Core.endTake_sameFence _ _

theorem State.leaveStream_keepsFences (s : State) (l n : Nat) (fenced : Bool) : KeepsFences s (s.leaveStream l n fenced) := by
  unfold State.leaveStream
  split
  · exact .refl s
  · have left := (s.modStream_keepsFences n fun x => { x with takers := x.takers.filter (· ≠ l) }).trans
      (State.endTakes_keepsFences _ l n)
    dsimp only
    split
    · exact left.trans ((State.setRail_keepsFences _ _).trans (State.raiseFull_keepsFences _ _ _ _ _ _ _ _))
    · exact left

theorem State.stopOne_keepsFences (s : State) (q : Nat) (code : BitVec 16) (ended : Bool) :
    KeepsFences s (s.stopOne q code ended) := by
  unfold State.stopOne
  split
  · exact .refl s
  · have stopped := s.modQueue_keepsFences q fun x => x.stopAt code ended
    dsimp only
    split
    · exact (stopped.trans (State.modLcore_keepsFences _ _ fun c => c.cancelRunAhead_sameFence _)).trans
        (.foldl (fun u _ => u.leaveStream_keepsFences _ _ _) _ _)
    · exact stopped

theorem State.sweepSwaps_keepsFences (s : State) (l n : Nat) : KeepsFences s (s.sweepSwaps l n) := by
  induction n generalizing s with
  | zero => exact .refl s
  | succ n ih =>
    unfold State.sweepSwaps
    split
    · exact .refl s
    · exact ((s.raiseFull_keepsFences _ _ _ _ _ _ _).trans (State.stopOne_keepsFences _ _ _ _)).trans (ih _)

theorem State.stopQueue_keepsFences (s : State) (q : Nat) (code : BitVec 16) (ended : Bool) :
    KeepsFences s (s.stopQueue q code ended) := by
  have stopped := s.stopOne_keepsFences q code ended
  unfold State.stopQueue
  split
  · exact stopped.trans (State.sweepSwaps_keepsFences _ _ _)
  · exact stopped

theorem State.stopWith_keepsFences (s : State) (q : Nat) (st : Stop) : KeepsFences s (s.stopWith q st) :=
  (s.raiseFull_keepsFences _ _ _ _ _ _ _).trans (State.stopQueue_keepsFences _ _ _ _)

theorem State.releaseJob_keepsFences (s : State) (j : Job) : KeepsFences s (s.releaseJob j) :=
  s.modLcore_keepsFences _ fun _ => ⟨rfl, rfl⟩

theorem State.endJob_keepsFences (s : State) (j : Job) (st : Stop) : KeepsFences s (s.endJob j st) :=
  (((s.raiseFull_keepsFences _ _ _ _ _ _ _).trans (State.releaseJob_keepsFences _ _)).trans
    (State.modQueue_keepsFences _ _ _)).trans (State.stopQueue_keepsFences _ _ _ _)

end Sys2Proof.Machine

end

section
/-! SUPPORT. Timeouts at issue (R73, R332, R470): what the stop before a command leaves in its queue. -/

namespace Sys2Proof.Machine

theorem State.timed_running {s : State} {q : Nat} (h : s.timed q = true) : (s.queue q).stopped = false := by
  simp only [State.timed, Bool.and_eq_true, Bool.not_eq_true'] at h
  tauto

/-- R472: queue `q` of `t` has stopped with `code` before the command that is oldest in it in `s`. -/
structure State.StopsBefore (s t : State) (q : Nat) (code : BitVec 16) : Prop where
  stopped : (t.queue q).stopped = true
  stopCode : (t.queue q).stopCode = code
  head : (t.queue q).head = (s.queue q).head
  issued : (t.queue q).issued = (s.queue q).issued

/-- A check that fails stops a running queue so, whatever is changed elsewhere before it. -/
theorem State.stopWith_stopsBefore {s u : State} {q : Nat} (h : (s.queue q).stopped = false) (hu : u.queue q = s.queue q)
    (st : Stop) : s.StopsBefore (u.stopWith q st) q st.code := by
  obtain ⟨fl, e⟩ := u.stopWith_queue st (hu ▸ h)
  rw [hu] at e
  constructor <;> rw [e] <;> rfl

theorem State.countGuard_queue (s : State) (q k : Nat) : (s.countGuard q).queue k = s.queue k := by
  unfold State.countGuard
  rw [State.modLcore_queue]
  intro c
  rfl

end Sys2Proof.Machine

open Sys2Proof Sys2Proof.Machine

/-- Settles O27: each timeout is one `stopWith` of a queue that runs, behind a count that leaves the queue alone. -/
theorem issueTimeoutsStop : Obligations.IssueTimeoutsStop := by
  unfold Obligations.IssueTimeoutsStop
  intro s q e core timed front
  have running := State.timed_running timed
  refine ⟨fun op timeout header held noWait => ?fence, fun timeout held op partners gate => ?join,
    fun guard held => ⟨fun tags => ?slotTag, fun board => ?scoreboard⟩⟩
  case fence =>
    have stop := State.stopWith_stopsBefore running rfl (s.seqStop q e 0x0601 contained 0)
    refine ⟨_, ?_, stop.stopped, stop.stopCode, stop.head, stop.issued⟩
    show execVersionFenceTimeout q s = _
    simp [execVersionFenceTimeout, timed, front, op, timeout, header, held, noWait]
  case join =>
    let u := s.modCluster (clusterOf (q / 4)) fun x => { x with joinTimeouts := satInc x.joinTimeouts }
    have stop := State.stopWith_stopsBefore (u := u) running rfl (s.frameStop q 0x0125)
    refine ⟨_, ?_, stop.stopped, stop.stopCode, stop.head, stop.issued, ?_⟩
    · show execSliceJoinTimeout q s = _
      have expires : (decide (q < 512) && s.timed q && decide ((s.cluster (clusterOf (q / 4))).joinTimeout ≠ 0) &&
          decide ((s.queue q).heldStep = 7)) = true := by
        rw [decide_eq_true core, timed, decide_eq_true timeout, decide_eq_true held]
        rfl
      simp only [execSliceJoinTimeout, expires, front]
      rw [if_pos ⟨op, by rw [partners]; rfl, gate⟩]
    · rw [(u.stopWith_keepsFences q _).cluster, State.modCluster_same]
  case slotTag =>
    have stop := State.stopWith_stopsBefore running (s.countGuard_queue q q)
      (s.guardStop q 0x0430 (s.blockedWord q e) (sourceOf e))
    refine ⟨_, ?_, stop.stopped, stop.stopCode, stop.head, stop.issued⟩
    show execSlotTagTimeout q s = _
    simp [execSlotTagTimeout, guard, tags, held]
  case scoreboard =>
    have stop := State.stopWith_stopsBefore running (s.countGuard_queue q q)
      (s.guardStop q 0x0431 (s.heldWord q e) (sourceOf e))
    refine ⟨_, ?_, stop.stopped, stop.stopCode, stop.head, stop.issued⟩
    show execScoreboardTimeout q s = _
    simp [execScoreboardTimeout, guard, board, held]

end

section
/-! SUPPORT. The page of a register block names its core or cluster again (R707 to R709). -/

namespace Sys2Proof.Machine

/-- The fields of a page number of the third form come back from it. -/
theorem pageKind_pgForm {die reg cs ks b : Nat} (hd : die < 2) (hr : reg < 4) (hc : cs < 8) (hk : ks < 8) (hb : b < 8) :
    pageKind (pgForm die reg cs ks b) =
      let r := die * 4 + reg
      if cs < 4 ∧ ks < 4 then some (.core ((r * 4 + cs) * 4 + ks) b)
      else if ks = 4 ∧ reg = 0 ∧ cs = 0 then some (.core (128 + die * 2) b)
      else if ks = 4 ∧ reg = 3 ∧ cs = 3 then some (.core (129 + die * 2) b)
      else if cs < 4 ∧ ks = 7 ∧ b < 3 then some (.cluster (r * 4 + cs) b)
      else if cs = 7 ∧ ks = 0 ∧ b < 5 then some (.region r b)
      else none := by
  generalize hp : pgForm die reg cs ks b = pg
  unfold pgForm at hp
  have die' : (pg - 0x1000) / 0x800 = die := by omega
  have reg' : (pg - 0x1000) / 0x200 % 4 = reg := by omega
  have cs' : (pg - 0x1000) / 0x40 % 8 = cs := by omega
  have ks' : (pg - 0x1000) / 8 % 8 = ks := by omega
  have b' : (pg - 0x1000) % 8 = b := by omega
  unfold pageKind
  rw [if_neg (by omega), if_neg (by omega), if_pos (by omega)]
  simp only [die', reg', cs', ks', b']

theorem pageKind_pgCore {p b : Nat} (hp : p < 132) (hb : b < 8) : pageKind (pgCore p b) = some (.core p b) := by
  unfold pgCore
  split
  · rw [pageKind_pgForm (by omega) (by omega) (by omega) (by omega) hb, if_pos (by omega)]
    have number : ((p / 64 * 4 + p / 16 % 4) * 4 + p / 4 % 4) * 4 + p % 4 = p := by omega
    rw [number]
  · split
    · rw [pageKind_pgForm (by omega) (by omega) (by omega) (by omega) hb, if_neg (by omega), if_pos (by omega)]
      have number : 128 + (p - 128) / 2 * 2 = p := by omega
      rw [number]
    · rw [pageKind_pgForm (by omega) (by omega) (by omega) (by omega) hb, if_neg (by omega), if_neg (by omega),
        if_pos (by omega)]
      have number : 129 + (p - 128) / 2 * 2 = p := by omega
      rw [number]

theorem pageKind_pgStream {c : Nat} (hc : c < 32) : pageKind (pgStream c) = some (.cluster c 0) := by
  unfold pgStream pgCluster
  rw [pageKind_pgForm (by omega) (by omega) (by omega) (by omega) (by omega), if_neg (by omega), if_neg (by omega),
    if_neg (by omega), if_pos (by omega)]
  have number : (c / 16 * 4 + c / 4 % 4) * 4 + c % 4 = c := by omega
  rw [number]

/-- R18, R717: a write to a page that the initiator reaches and that is not locked takes effect. -/
theorem State.regRow_open {s : State} {ini pg : Nat} (reached : s.admits ini pg = true) (unlocked : (s.page pg).lock = false)
    (lockable : Bool) (f : State → State) : s.regRow ini pg lockable f = .next (f s) := by
  simp [State.regRow, reached, unlocked]

end Sys2Proof.Machine

end

section
/-! SUPPORT. Fences of cores and of stream engines (R272, R276, R570 to R576). -/

namespace Sys2Proof.Machine

/-! ### What a fence ends -/

theorem KeepsFences.forEach {f : State → Nat → State} (hf : ∀ u k, KeepsFences u (f u k)) (l : List Nat) (s : State) :
    KeepsFences s (s.forEach l f) := .foldl hf l s

theorem State.endShared_keepsFences (s : State) (l k : Nat) : KeepsFences s (s.endShared l k) := by
  unfold State.endShared
  dsimp only
  refine KeepsFences.trans ?_ (.foldl (fun u _ => u.endJob_keepsFences _ _) _ _)
  refine KeepsFences.trans ?_ (.foldl (fun u _ => u.endJob_keepsFences _ _) _ _)
  refine KeepsFences.trans ?_ (.foldl (fun u _ => u.endJob_keepsFences _ _) _ _)
  refine KeepsFences.trans ?units (.forEach (fun u q => ?joins) _ _)
  case units =>
    refine s.modLcore_keepsFences k fun c => ?_
    exact ⟨rfl, rfl⟩
  case joins =>
    split
    · split
      · exact u.stopWith_keepsFences _ _
      · exact .refl u
    · exact .refl u

/-! ### The fence of a core (R571) -/

/-- The fence of a core in service: what it ends leaves a state `u` in which the core is fencing, and the fence is then counted
and reported. -/
theorem State.startFence_inService {s : State} {p l : Nat} (cause : BitVec 16) (runs : s.err.deviceStopped = false)
    (serves : s.logOf p = some l) (inService : (s.core p).fence = .inService) :
    ∃ u : State, s.startFence p cause = (u.setErr { u.err with fences := satInc u.err.fences }).raiseFull pgErragg 0x0B02 fenceSev
        (errInfo l (clusterOf l) (regionOf l) cause) cause.toNat true false ∧
      (u.core p).fence = .fencing ∧ (u.core p).cause = cause ∧ u.err.fences = s.err.fences := by
  unfold State.startFence
  rw [runs, serves]
  dsimp only
  rw [inService]
  refine ⟨_, rfl, ?_⟩
  have left := KeepsFences.forEach (fun u n => u.leaveStream_keepsFences l n true) (upTo 0 8) s
  generalize s.forEach (upTo 0 8) (fun s n => s.leaveStream l n true) = a at left ⊢
  have fencing := State.modCore_same a p fun c => { c.endUnits with fence := .fencing, cause := cause }
  have count : (a.modCore p fun c => { c.endUnits with fence := .fencing, cause := cause }).err = a.err := rfl
  generalize (a.modCore p fun c => { c.endUnits with fence := .fencing, cause := cause }) = b at fencing count ⊢
  have unsignalled := KeepsFences.forEach (fun u n => u.modStream_keepsFences n fun x =>
    if x.isOpen ∧ x.q / 4 = l then { x with signals := false } else x) (upTo 0 8) b
  generalize b.forEach (upTo 0 8) _ = d at unsignalled ⊢
  have shared := KeepsFences.forEach (f := fun s k => if k = l then s else s.endShared l k)
    (fun u k => by
      split
      · exact .refl u
      · exact u.endShared_keepsFences l k)
    (members (clusterOf l) 15) (d.modCluster (clusterOf l) fun x => { x with held := x.held.filter fun j => j.core != l })
  refine ⟨?_, ?_, ?_⟩
  · rw [(shared.core p).fence]
    exact (unsignalled.core p).fence.trans (congrArg Core.fence fencing)
  · rw [(shared.core p).cause]
    exact (unsignalled.core p).cause.trans (congrArg Core.cause fencing)
  · rw [shared.count]
    exact (unsignalled.count.trans (congrArg ErrAgg.fences count)).trans left.count

/-- A fence cause during an unfence keeps the core fenced, and is counted and reported (R565; log entry 45). -/
theorem State.startFence_unfencing {s : State} {p l : Nat} (cause : BitVec 16) (runs : s.err.deviceStopped = false)
    (serves : s.logOf p = some l) (unfencing : (s.core p).fence = .unfencing) :
    s.startFence p cause = ((s.modCore p fun c => { c with fence := .fenced, cause := cause }).setErr
        { s.err with fences := satInc s.err.fences }).raiseFull pgErragg 0x0B02 fenceSev
      (errInfo l (clusterOf l) (regionOf l) cause) cause.toNat true false := by
  unfold State.startFence
  rw [runs, serves]
  dsimp only
  rw [unfencing]
  rfl

theorem State.startFence_fenced {s : State} {p : Nat} (cause : BitVec 16)
    (fenced : (s.core p).fence = .fencing ∨ (s.core p).fence = .fenced) : s.startFence p cause = s := by
  unfold State.startFence
  split
  · rfl
  · rfl
  · rcases fenced with h | h
    · rw [h]
    · rw [h]

theorem Told.core {s t : State} (h : Told s t) (p : Nat) : t.core p = s.core p := by
  have cores : t.cores = s.cores := h.fields.2.2.2.2.2.2.2.2.1
  unfold State.core
  rw [cores]

/-! ### Its end (R571), and the unfence (R575, R576) -/

theorem Core.modQueue_queue_same (c : Core) (i : Nat) (f : QState → QState) : (c.modQueue i f).queue i = f (c.queue i) :=
  nget_nmod_same _ _ _ _

theorem Core.modQueue_queue_other (c : Core) (f : QState → QState) {i k : Nat} (h : k ≠ i) : (c.modQueue i f).queue k = c.queue k :=
  nget_nmod_other _ _ _ h

/-- A change of each queue that a list names reaches those queues once, and no other. -/
theorem Core.foldl_modQueue_queue (f : QState → QState) {l : List Nat} (once : l.Nodup) (c : Core) (i : Nat) :
    (l.foldl (fun c i => c.modQueue i f) c).queue i = if i ∈ l then f (c.queue i) else c.queue i := by
  induction l generalizing c with
  | nil => rfl
  | cons k l ih =>
    obtain ⟨new, once⟩ := List.nodup_cons.1 once
    rw [List.foldl_cons, ih once]
    by_cases h : i = k
    · subst h
      simp [new, Core.modQueue_queue_same]
    · simp [h, Core.modQueue_queue_other _ _ h]

/-- Cycle 67 of a fence stops the four queues of the core. -/
theorem State.endFence_fencing {s : State} {p : Nat} (fencing : (s.core p).fence = .fencing) (runs : s.power.stop = .none) :
    s.endFence p = s.modCore p fun c =>
      { (upTo 0 4).foldl (fun c i => c.modQueue i fun x => x.stopAt 0x0B02 false) c with fence := .fenced } := by
  simp [State.endFence, fencing, runs]

theorem State.endFence_queue {s : State} {p i : Nat} (fencing : (s.core p).fence = .fencing) (runs : s.power.stop = .none)
    (queue : i < 4) : ((s.endFence p).core p).queue i = ((s.core p).queue i).stopAt 0x0B02 false := by
  have stopped := Core.foldl_modQueue_queue (fun x => x.stopAt 0x0B02 false) (l := upTo 0 4) (by decide) (s.core p) i
  rw [if_pos (mem_upTo_of_lt (Nat.zero_le i) (by omega))] at stopped
  rw [State.endFence_fencing fencing runs, State.modCore_same]
  generalize (upTo 0 4).foldl _ (s.core p) = c at stopped ⊢
  exact stopped

/-- The queues of a stopped device keep that stop (R548, R565). -/
theorem State.endFence_stopped {s : State} {p : Nat} (fencing : (s.core p).fence = .fencing) (stopped : s.power.stop ≠ .none) :
    s.endFence p = s.modCore p fun c => { c with fence := .fenced } := by
  simp [State.endFence, fencing, stopped]

theorem State.endUnfence_unfencing {s : State} {p : Nat} (unfencing : (s.core p).fence = .unfencing) (runs : s.halted = false)
    (free : s.inReset p = false) :
    s.endUnfence p = (s.modCore p fun c => { c.wipe with fence := .inService, cause := 0 }).raise pgErragg 0x0B05 noted
      (errInfo (s.logOr p) (clusterOf (s.logOr p)) (regionOf (s.logOr p)) 0) := by
  simp [State.endUnfence, unfencing, runs, free]

/-! ### Clusters and regions (R272, R276, R570) -/

theorem State.forEach_physOfAll {s t : State} (h : t.remap = s.remap) (u : State) (ls : List Nat) (f : State → Nat → State) :
    u.forEach (t.physOfAll ls) f = ls.foldl (fun a l => f a (s.physOf l)) u := by
  have same : t.physOf = s.physOf := funext (State.physOf_congr h)
  simp [State.forEach, State.physOfAll, List.foldl_map, same]

theorem State.fenceCluster_eq (s : State) (c : Nat) (cause : BitVec 16) : s.fenceCluster c cause =
    ((upTo (4 * c) 4).foldl (fun t l => t.startFence (s.physOf l) 0x0B03)
      (s.raiseFull pgErragg 0x0B03 fenceSev (errInfo 0 c (c / 4) cause) cause.toNat true false)).fenceEngine c := by
  unfold State.fenceCluster
  dsimp only
  rw [State.forEach_physOfAll (s := s) (by simp)]

theorem State.fenceRegion_eq (s : State) (r : Nat) (cause : BitVec 16) : s.fenceRegion r cause =
    (let u := s.raiseFull pgErragg 0x0B04 fenceSev (errInfo 0 0 r cause) cause.toNat true false
    (upTo (4 * r) 4).foldl State.fenceEngine ((upTo (16 * r) 16).foldl (fun t l => t.startFence (s.physOf l) 0x0B04)
      (if s.err.deviceStopped then u else u.modRegion r fun x => { x with fenced := true }))) := by
  have told := s.raiseFull_told pgErragg 0x0B04 fenceSev (errInfo 0 0 r cause) cause.toNat true false
  unfold State.fenceRegion
  dsimp only
  rw [told.more.1]
  rw [State.forEach_physOfAll (s := s) (by split <;> simp)]
  rfl

/-- The fence of an engine empties it, and the ends of what it held leave it fenced. -/
theorem State.fenceEngine_fences {s : State} {c : Nat} (runs : s.err.deviceStopped = false)
    (inService : (s.cluster c).fenced = false) :
    ((s.fenceEngine c).cluster c).fenced = true ∧ ((s.fenceEngine c).cluster c).held = [] := by
  have ended := KeepsFences.foldl (fun u (j : StreamJob) =>
      u.endJob_keepsFences j.job ⟨0x030A, pgStream c, contained, streamInfo j.job.q j.idx, 0⟩)
    (s.cluster c).held (s.modCluster c fun x => { x with fenced := true, held := [] })
  unfold State.fenceEngine
  rw [if_neg (by simp [runs, inService])]
  dsimp only
  rw [ended.cluster, State.modCluster_same]
  exact ⟨rfl, rfl⟩

/-- The unfence of an engine clears what it held. -/
theorem State.unfenceEngine_clears {s : State} {c : Nat} (fenced : (s.cluster c).fenced = true) :
    ((s.unfenceEngine c).cluster c).fenced = false ∧ ((s.unfenceEngine c).cluster c).held = [] := by
  have ended := KeepsFences.foldl (fun u (j : StreamJob) =>
      (u.releaseJob_keepsFences j.job).trans (State.modQueue_keepsFences _ j.job.q fun x => x.release j.job.id))
    (s.cluster c).held (s.modCluster c fun x => { x with fenced := false, held := [] })
  unfold State.unfenceEngine
  rw [if_neg (by simp [fenced])]
  dsimp only
  rw [ended.cluster, State.modCluster_same]
  exact ⟨rfl, rfl⟩

/-! ### The rows -/

/-- R570: a cause that neither names a cluster or a region nor is a check mismatch starts the fence of its core. -/
theorem execCoreFence_own {s : State} {p : Nat} {cause : BitVec 16} (core : p < 132) (serves : s.dark p = false)
    (on : s.side.on = true) (own : cause ∉ [0x0B03, 0x0B04, 0x0101, 0x0313]) :
    execCoreFence p cause s = .next (s.startFence p cause) := by
  simp only [List.mem_cons, List.not_mem_nil, or_false, not_or] at own
  obtain ⟨notCluster, notRegion, notFrames, notVector⟩ := own
  unfold execCoreFence
  rw [if_neg (by simp [core, serves, on]), if_neg notCluster, if_neg notRegion, if_neg notFrames, if_neg notVector]

theorem execCoreFence_cluster {s : State} {p : Nat} (core : p < 132) (serves : s.dark p = false) (on : s.side.on = true) :
    execCoreFence p 0x0B03 s = .next (s.fenceCluster (clusterOf (s.logOr p)) 0x0B03) := by
  unfold execCoreFence
  rw [if_neg (by simp [core, serves, on]), if_pos rfl]

theorem execCoreFence_region {s : State} {p : Nat} (core : p < 132) (serves : s.dark p = false) (on : s.side.on = true) :
    execCoreFence p 0x0B04 s = .next (s.fenceRegion (regionOf (s.logOr p)) 0x0B04) := by
  unfold execCoreFence
  rw [if_neg (by simp [core, serves, on]), if_neg (by decide), if_pos rfl]

/-- R93: a check mismatch of the frames is counted, and its information may hold an open value (log entry 86). -/
theorem execCoreFence_frames {s : State} {p : Nat} (core : p < 132) (serves : s.dark p = false) (on : s.side.on = true) :
    execCoreFence p 0x0101 s = .next (((s.setOracle (s.oracle + 1)).modCore p fun c =>
      { c with fr := { c.fr with mismatches := satInc c.fr.mismatches } }).raiseFence p bFrames 0x0101
        ((s.core p).mismatchInfo s.open_.1) false) := by
  unfold execCoreFence
  rw [if_neg (by simp [core, serves, on]), if_neg (by decide), if_neg (by decide), if_pos rfl]
  rfl

/-- R302: likewise of the vector unit. -/
theorem execCoreFence_vector {s : State} {p : Nat} (core : p < 132) (serves : s.dark p = false) (on : s.side.on = true) :
    execCoreFence p 0x0313 s = .next (((s.setOracle (s.oracle + 1)).modCore p fun c =>
      { c with vec := { c.vec with mismatches := satInc c.vec.mismatches } }).raiseFence p bVector 0x0313
        ((s.core p).vec.mismatchInfo s.open_.1) false) := by
  unfold execCoreFence
  rw [if_neg (by simp [core, serves, on]), if_neg (by decide), if_neg (by decide), if_neg (by decide), if_pos rfl]
  rfl

theorem execFenceComplete_core {p : Nat} (core : p < 132) (s : State) : execFenceComplete p s = .next (s.endFence p) := by
  simp [execFenceComplete, core]

theorem execUnfenceComplete_core {p : Nat} (core : p < 132) (s : State) : execUnfenceComplete p s = .next (s.endUnfence p) := by
  simp [execUnfenceComplete, core]

section
variable {s : State} {ini pg : Nat}

theorem execHostFence_open (reached : s.admits ini pg = true) (unlocked : (s.page pg).lock = false) :
    execHostFence ini pg s = .next (s.writeFence pg true) := State.regRow_open reached unlocked _ _

theorem execUnfence_open (reached : s.admits ini pg = true) (unlocked : (s.page pg).lock = false) :
    execUnfence ini pg s = .next (s.writeFence pg false) := State.regRow_open reached unlocked _ _

end

theorem State.writeFence_core (s : State) {p b : Nat} (core : p < 132) (block : b < 8) (on : Bool) :
    s.writeFence (pgCore p b) on = if on then s.startFence p 0x0B07 else s.startUnfence p (pgCore p b) := by
  simp [State.writeFence, pageKind_pgCore core block]

theorem State.writeFence_engine (s : State) {c : Nat} (cluster : c < 32) (on : Bool) :
    s.writeFence (pgStream c) on = if on then s.fenceEngine c else s.unfenceEngine c := by
  simp [State.writeFence, pageKind_pgStream cluster]

theorem State.writeQuiesce_seq (s : State) {p : Nat} (core : p < 132) (on : Bool) :
    s.writeQuiesce (pgCore p bSeq) on = s.modCore p fun c => { c with quiesce := on } := by
  simp [State.writeQuiesce, pageKind_pgCore core (show bSeq < 8 by decide)]

theorem execQuiesceSet_open {s : State} {ini p : Nat} (core : p < 132) (reached : s.admits ini (pgCore p bSeq) = true)
    (unlocked : (s.page (pgCore p bSeq)).lock = false) :
    execQuiesceSet ini p s = .next (s.modCore p fun c => { c with quiesce := true }) := by
  rw [execQuiesceSet, State.regRow_open reached unlocked, State.writeQuiesce_seq s core]

theorem execQuiesceRelease_open {s : State} {ini p : Nat} (core : p < 132) (reached : s.admits ini (pgCore p bSeq) = true)
    (unlocked : (s.page (pgCore p bSeq)).lock = false) :
    execQuiesceRelease ini p s = .next (s.modCore p fun c => { c with quiesce := false }) := by
  rw [execQuiesceRelease, State.regRow_open reached unlocked, State.writeQuiesce_seq s core]

end Sys2Proof.Machine

open Sys2Proof Sys2Proof.Machine

/-- Settles O47: each row is `startFence`, `fenceEngine` or the end of a fence or an unfence, and what a fence ends of shared work
keeps the fences of the cores and the clusters. -/
theorem fencesWork : Obligations.FencesWork := by
  unfold Obligations.FencesWork
  refine ⟨fun s p core serves on => ?causes, fun s p l cause serves runs => ?start, fun s c runs inService => ?engine,
    fun s p core fencing => ?complete, fun s p core unfencing runs free => ?unfence,
    fun s ini p b core block reached unlocked => ?hostCore, fun s ini c cluster reached unlocked => ?hostEngine,
    fun s ini p core reached unlocked => ?quiesce⟩
  case causes =>
    refine ⟨fun cause own => execCoreFence_own core serves on own, ?cluster, ?region, ?frames, ?vector⟩
    case cluster => exact (execCoreFence_cluster core serves on).trans (congrArg _ (State.fenceCluster_eq s _ _))
    case region => exact (execCoreFence_region core serves on).trans (congrArg _ (State.fenceRegion_eq s _ _))
    case frames => exact ⟨(s.setOracle (s.oracle + 1)).modCore p _, _, rfl, execCoreFence_frames core serves on⟩
    case vector =>
      refine ⟨(s.setOracle (s.oracle + 1)).modCore p _, _, rfl, fun j rest unit => ?_, execCoreFence_vector core serves on⟩
      simp [Vec.mismatchInfo, unit]
  case start =>
    refine ⟨fun inService => ?_, fun unfencing => ?_, fun fenced => State.startFence_fenced cause fenced⟩
    · obtain ⟨u, fenced, fencing, why, count⟩ := State.startFence_inService cause runs serves inService
      have told := (u.setErr { u.err with fences := satInc u.err.fences }).raiseFull_told pgErragg 0x0B02 fenceSev
        (errInfo l (clusterOf l) (regionOf l) cause) cause.toNat true false
      refine ⟨_, _, rfl, fenced, ?_⟩
      rw [fenced, told.core, told.keepsFences.count]
      exact ⟨fencing, why, congrArg satInc count⟩
    · exact ⟨_, _, rfl, State.startFence_unfencing cause runs serves unfencing, rfl⟩
  case engine => exact State.fenceEngine_fences runs inService
  case complete =>
    have row : exec (.fenceComplete p) s = .next (s.endFence p) := execFenceComplete_core core s
    refine ⟨fun powered => ?_, fun stopped => row.trans (congrArg _ (State.endFence_stopped fencing stopped))⟩
    refine ⟨s.endFence p, row, ?_, ?_, fun i hi => ?_⟩
    · rw [State.endFence_fencing fencing powered, State.modCore_same]
      rfl
    · rw [State.endFence_fencing fencing powered, State.modCore_same]
    · rw [State.endFence_queue fencing powered hi]
      exact ⟨rfl, rfl, rfl, rfl⟩
  case unfence =>
    have row : exec (.unfenceComplete p) s = .next (s.endUnfence p) := execUnfenceComplete_core core s
    have ended := State.endUnfence_unfencing unfencing runs free
    have told := (s.modCore p fun c => { c.wipe with fence := .inService, cause := 0 }).raise_told pgErragg 0x0B05 noted
      (errInfo (s.logOr p) (clusterOf (s.logOr p)) (regionOf (s.logOr p)) 0)
    rw [← ended] at told
    refine ⟨_, _, row, ended, ?_⟩
    rw [told.core, State.modCore_same]
    refine ⟨rfl, rfl, rfl, rfl, rfl, rfl, rfl, rfl, rfl, fun k other => ?_⟩
    rw [told.core, State.modCore_other _ _ other]
  case hostCore =>
    have off : exec (.unfence ini (pgCore p b)) s = .next (s.startUnfence p (pgCore p b)) :=
      (execUnfence_open reached unlocked).trans (congrArg _ (s.writeFence_core core block false))
    refine ⟨?_, fun fenced lit free => off.trans ?_, fun fencing => off.trans ?_⟩
    · exact (execHostFence_open reached unlocked).trans (congrArg _ (s.writeFence_core core block true))
    · simp [State.startUnfence, fenced, lit, free]
    · simp [State.startUnfence, fencing]
  case hostEngine =>
    refine ⟨?_, s.unfenceEngine c, ?_, State.unfenceEngine_clears⟩
    · exact (execHostFence_open reached unlocked).trans (congrArg _ (s.writeFence_engine cluster true))
    · exact (execUnfence_open reached unlocked).trans (congrArg _ (s.writeFence_engine cluster false))
  case quiesce => exact ⟨execQuiesceSet_open core reached unlocked, execQuiesceRelease_open core reached unlocked⟩

end

section
/-! SUPPORT. FRAME_MODE (R111 to R118): what a stop of a queue leaves in the frames of the cores, and which check of a FRAME_MODE
fails. -/

namespace Sys2Proof.Machine

/-! ### In one core -/

/-- The frames of `c'` are those of `c`, but for what their planes hold: their modes, beads and pending swaps stay. -/
def Core.KeepsFrames (c c' : Core) : Prop := ∀ f, ∃ p0 p1, c'.frame f = { c.frame f with p0 := p0, p1 := p1 }

theorem Core.KeepsFrames.of {c c' : Core} (h : c'.frames = c.frames) : c.KeepsFrames c' := fun f =>
  ⟨(c.frame f).p0, (c.frame f).p1, by unfold Core.frame; rw [h]⟩

theorem Core.KeepsFrames.refl (c : Core) : c.KeepsFrames c := .of rfl

theorem Core.KeepsFrames.trans {a b c : Core} (h : a.KeepsFrames b) (h' : b.KeepsFrames c) : a.KeepsFrames c := fun f => by
  obtain ⟨_, _, e⟩ := h f
  obtain ⟨p0, p1, e'⟩ := h' f
  exact ⟨p0, p1, by rw [e', e]⟩

theorem Core.KeepsFrames.foldl {α : Type} {f : Core → α → Core} (hf : ∀ c a, Core.KeepsFrames c (f c a)) (l : List α)
    (c : Core) : c.KeepsFrames (l.foldl f c) := by
  induction l generalizing c with
  | nil => exact .refl c
  | cons a l ih => exact (hf c a).trans (ih _)

theorem Core.modFrame_keepsFrames (c : Core) (f : Nat) {g : Frame → Frame}
    (hg : ∀ x, ∃ p0 p1, g x = { x with p0 := p0, p1 := p1 }) : c.KeepsFrames (c.modFrame f g) := fun k => by
  by_cases h : k = f
  · subst h
    rw [Core.modFrame_same]
    exact hg _
  · rw [Core.modFrame_other _ _ h]
    exact Core.KeepsFrames.refl c k

theorem Frame.setPlane_planes (x : Frame) (plane1 : Bool) (p : Plane) :
    ∃ p0 p1, x.setPlane plane1 p = { x with p0 := p0, p1 := p1 } := by
  cases plane1
  · exact ⟨p, x.p1, rfl⟩
  · exact ⟨x.p0, p, rfl⟩

theorem Frame.setIdle_planes (x : Frame) (p : Plane) : ∃ p0 p1, x.setIdle p = { x with p0 := p0, p1 := p1 } := by
  unfold Frame.setIdle
  split
  · exact ⟨p, x.p1, rfl⟩
  · exact ⟨x.p0, p, rfl⟩

theorem Core.voidTargets_keepsFrames (c : Core) (fs : List Nat) : c.KeepsFrames (c.voidTargets fs) := by
  unfold Core.voidTargets
  exact .foldl (fun c _ => c.modFrame_keepsFrames _ fun x => x.setIdle_planes _) fs c

theorem Core.voidPlanes_keepsFrames (c : Core) (ps : List (Nat × Bool)) : c.KeepsFrames (c.voidPlanes ps) := by
  unfold Core.voidPlanes
  exact .foldl (fun c _ => c.modFrame_keepsFrames _ fun x => x.setPlane_planes _ _) ps c

theorem Core.endTake_keepsFrames (c : Core) (t : Take) : c.KeepsFrames (c.endTake t) := by
  have voided := c.voidPlanes_keepsFrames t.targets
  unfold Core.endTake
  dsimp only
  split
  · exact voided.trans (.of rfl)
  · exact voided.trans (.of rfl)

theorem Core.cancelRunAhead_keepsFrames (c : Core) (i : Nat) : c.KeepsFrames (c.cancelRunAhead i) :=
  (c.voidTargets_keepsFrames _).trans (.of rfl)

/-! ### In the device -/

/-- `t` has the frames of `s`, but for what their planes hold, and its spare map. -/
structure KeepsFrames (s t : State) : Prop where
  core : ∀ p, (s.core p).KeepsFrames (t.core p)
  remap : t.remap = s.remap

theorem KeepsFrames.refl (s : State) : KeepsFrames s s := ⟨fun _ => .refl _, rfl⟩

theorem KeepsFrames.trans {a b c : State} (h : KeepsFrames a b) (h' : KeepsFrames b c) : KeepsFrames a c :=
  ⟨fun p => (h.core p).trans (h'.core p), h'.remap.trans h.remap⟩

theorem KeepsFrames.foldl {α : Type} {f : State → α → State} (hf : ∀ u a, KeepsFrames u (f u a)) (l : List α) (s : State) :
    KeepsFrames s (l.foldl f s) := by
  induction l generalizing s with
  | nil => exact .refl s
  | cons a l ih => exact (hf s a).trans (ih _)

theorem KeepsFrames.lcore {s t : State} (h : KeepsFrames s t) (l : Nat) : (s.lcore l).KeepsFrames (t.lcore l) := by
  unfold State.lcore
  rw [State.physOf_congr h.remap]
  exact h.core _

theorem Looked.keepsFrames {s t : State} (h : Looked s t) : KeepsFrames s t := by
  refine ⟨fun p => ?_, by have rest := h.rest; tauto⟩
  obtain ⟨_, _, _, _, _, _, _, e⟩ := h.core p
  rw [e]
  exact .of rfl

theorem State.raiseFull_keepsFrames (s : State) (pg : Nat) (code : BitVec 16) (sev info extra : Nat) (emit inj : Bool) :
    KeepsFrames s (s.raiseFull pg code sev info extra emit inj) :=
  ((Looked.refl s).told (s.raiseFull_told _ _ _ _ _ _ _)).keepsFrames

theorem State.modLcore_keepsFrames (s : State) (l : Nat) {f : Core → Core} (hf : ∀ c, Core.KeepsFrames c (f c)) :
    KeepsFrames s (s.modLcore l f) := by
  refine ⟨fun p => ?_, rfl⟩
  unfold State.modLcore
  by_cases h : p = s.physOf l
  · subst h
    rw [State.modCore_same]
    exact hf _
  · rw [State.modCore_other _ _ h]
    exact .refl _

theorem State.modQueue_keepsFrames (s : State) (q : Nat) (f : QState → QState) : KeepsFrames s (s.modQueue q f) := by
  unfold State.modQueue
  split
  · exact s.modLcore_keepsFrames _ fun _ => .of rfl
  · exact ⟨fun _ => .refl _, rfl⟩

theorem State.setRail_keepsFrames (s : State) (v : Rail) : KeepsFrames s (s.setRail v) := ⟨fun _ => .refl _, rfl⟩

theorem State.endTakes_keepsFrames (s : State) (l n : Nat) : KeepsFrames s (s.endTakes l n) :=
  s.modLcore_keepsFrames l fun _ => .foldl Core.endTake_keepsFrames _ _

theorem State.leaveStream_keepsFrames (s : State) (l n : Nat) (fenced : Bool) : KeepsFrames s (s.leaveStream l n fenced) := by
  unfold State.leaveStream
  split
  · exact .refl s
  · have left := (s.setRail_keepsFrames _).trans (State.endTakes_keepsFrames
      (s.modStream n fun x => { x with takers := x.takers.filter (· ≠ l) }) l n)
    dsimp only
    split
    · exact left.trans ((State.setRail_keepsFrames _ _).trans (State.raiseFull_keepsFrames _ _ _ _ _ _ _ _))
    · exact left

theorem State.stopOne_keepsFrames (s : State) (q : Nat) (code : BitVec 16) (ended : Bool) :
    KeepsFrames s (s.stopOne q code ended) := by
  unfold State.stopOne
  split
  · exact .refl s
  · have stopped := s.modQueue_keepsFrames q fun x => x.stopAt code ended
    dsimp only
    split
    · exact (stopped.trans (State.modLcore_keepsFrames _ _ fun c => c.cancelRunAhead_keepsFrames _)).trans
        (.foldl (fun u _ => u.leaveStream_keepsFrames _ _ _) _ _)
    · exact stopped

theorem State.sweepSwaps_keepsFrames (s : State) (l n : Nat) : KeepsFrames s (s.sweepSwaps l n) := by
  induction n generalizing s with
  | zero => exact .refl s
  | succ n ih =>
    unfold State.sweepSwaps
    split
    · exact .refl s
    · exact ((s.raiseFull_keepsFrames _ _ _ _ _ _ _).trans (State.stopOne_keepsFrames _ _ _ _)).trans (ih _)

theorem State.stopWith_keepsFrames (s : State) (q : Nat) (st : Stop) : KeepsFrames s (s.stopWith q st) := by
  have stopped := (s.raiseFull_keepsFrames st.pg st.code st.sev st.info st.extra true false).trans
    (State.stopOne_keepsFrames _ q st.code false)
  unfold State.stopWith State.stopQueue
  split
  · exact stopped.trans (State.sweepSwaps_keepsFrames _ _ _)
  · exact stopped

/-- A check that fails as a queue takes its command changes nothing of any frame but what its planes hold. -/
theorem State.fetchMarks_stopWith_keepsFrames (s : State) (q : Nat) (st : Stop) :
    KeepsFrames s ((s.fetchMarks q).stopWith q st) :=
  (s.fetchMarks_looked q).keepsFrames.trans (State.stopWith_keepsFrames _ q st)

/-! ### The checks of FRAME_MODE -/

/-- A command that passes its header and fails the row's own steps 5 to 7 stops its queue. -/
theorem State.tryIssue_stop {s : State} {q : Nat} {e : Entry} {r : Entry → Bool} {l : State → Entry → Gate} {st : Stop}
    (h : s.Ready q e r fun _ _ => .go) (hl : l (s.fetchMarks q) e = .stop st) (eff : State → Entry → State) :
    s.tryIssue q r l eff = (s.fetchMarks q).stopWith q st := by
  simp only [State.tryIssue, h.may, h.unpassed, h.front, h.header, h.row, h.steps, hl]
  simp

/-- R117: the operand limits that the chapter names, among those that a FRAME_MODE is tested for. -/
theorem frameModeOk_eq_false {e : Entry}
    (h : fld e 16 2 = 0 ∨ modeFormat e = 6 ∨ modeFormat e = 7 ∨ (modeFormat e = 4 ∧ 16 ≤ modePad e)) :
    frameModeOk e = false := by
  unfold frameModeOk
  rcases h with mask | format | format | ⟨format, pad⟩
  · simp [mask]
  · simp [format]
  · simp [format]
  · simp [format, Nat.not_lt.2 pad]

/-- R116: a pad code of format 4 or 5 that is not worth zero. -/
theorem padZero_eq_false {e : Entry} (h : (modeFormat e = 4 ∧ modePad e < 16 ∧ cbEntry (modeC1 e) (modePad e) ≠ 0) ∨
    (modeFormat e = 5 ∧ cbEntry (modeC1 e) (modePad e / 16) + cbEntry (modeC2 e) (modePad e % 16) ≠ 0)) :
    padZero e = false := by
  unfold padZero
  rcases h with ⟨format, -, worth⟩ | ⟨format, worth⟩
  · simp [format, worth]
  · simp [format, worth]

section
variable {s : State} {q : Nat} {e : Entry} (h : s.Ready q e (hasOp 0x20) fun _ _ => .go)
include h

theorem execFrameMode_invalid (operands : frameModeOk e = false) :
    execFrameMode q s = .next ((s.fetchMarks q).stopWith q ((s.fetchMarks q).frameStop q 0x0127)) :=
  congrArg Host.Outcome.next (State.tryIssue_stop h (by simp [operands]) _)

theorem execFrameMode_nonzeroPad (operands : frameModeOk e = true) (pad : padZero e = false) :
    execFrameMode q s = .next ((s.fetchMarks q).stopWith q ((s.fetchMarks q).frameStop q 0x0126)) :=
  congrArg Host.Outcome.next (State.tryIssue_stop h (by simp [operands, pad]) _)

end

end Sys2Proof.Machine

open Sys2Proof Sys2Proof.Machine

/-- Settles O58: each refusal is one `stopWith` of a queue that runs, and a stop touches of a frame its planes only. -/
theorem frameModeRefusals : Obligations.FrameModeRefusals := by
  unfold Obligations.FrameModeRefusals
  intro s q e core ready invalid nonzero stopsWith
  have running := State.mayIssue_running ready.may
  have stops (code : BitVec 16) (codes : List (BitVec 16)) (named : code ∈ codes)
      (row : exec (.frameMode q) s = .next ((s.fetchMarks q).stopWith q ((s.fetchMarks q).frameStop q code))) :
      stopsWith codes := by
    have stop := State.stopWith_stopsBefore running ((s.fetchMarks_looked q).sameQ.queue q) ((s.fetchMarks q).frameStop q code)
    refine ⟨_, _, row, rfl, rfl, named, stop.stopCode, stop.stopped, stop.issued, fun f => ?_⟩
    obtain ⟨_, _, frame⟩ := (s.fetchMarks_stopWith_keepsFrames q _).lcore (q / 4) f
    rw [frame]
    exact ⟨rfl, rfl, rfl, rfl⟩
  refine ⟨fun bad _ => ?operands, fun operands bad => ?pad, fun bad _ => ?both⟩
  case operands => exact stops 0x0127 _ (by simp) (execFrameMode_invalid ready (frameModeOk_eq_false bad))
  case pad => exact stops 0x0126 _ (by simp) (execFrameMode_nonzeroPad ready operands (padZero_eq_false bad))
  case both => exact stops 0x0127 _ (by simp) (execFrameMode_invalid ready (frameModeOk_eq_false bad))

end

section
/-! SUPPORT. What a reset leaves (R650, R651): a state without listed cores and device queues holds their reset values, and a reset
of the device lists none. -/

namespace Sys2Proof.Machine

theorem State.core_unlisted {s : State} (cores : s.cores = []) (p : Nat) : s.core p = .reset := by
  simp [State.core, cores, nget]

theorem State.queue_unlisted {s : State} (cores : s.cores = []) (devq : s.devq = []) (q : Nat) : s.queue q = .reset := by
  unfold State.queue State.lcore
  rw [State.core_unlisted cores, devq]
  split
  · rfl
  · rfl

theorem State.queueState_unlisted {s : State} (cores : s.cores = []) (devq : s.devq = []) (q : Nat) : s.queueState q = 0 := by
  unfold State.queueState State.lcore
  rw [State.queue_unlisted cores devq, State.core_unlisted cores]
  simp [QState.reset, Core.reset]

theorem Remap.reset_ok : Remap.reset.ok := fun _ _ h => nomatch h

/-- R670: the record that the model starts with lies in the first of the 1,024 epochs (log entry 4). -/
theorem State.reset_recordOk : State.reset.recordOk := ⟨by decide, fun _ => .inl (by decide)⟩

/-- A reset of the device lists no core and no device queue, whether or not the boot holds tier zeroing (R651, R657). -/
theorem State.deviceReset_unlisted (s : State) (last : Nat) (phase : BootPhase) :
    (s.deviceReset last phase).cores = [] ∧ (s.deviceReset last phase).devq = [] := by
  unfold State.deviceReset
  dsimp only
  split
  · simp [State.bootHold, State.reset]
  · split
    · simp [State.bootHold, State.reset]
    · exact ⟨rfl, rfl⟩

/-- A row of a field that no page lock protects (R717) takes effect wherever its page is reached. -/
theorem State.regRow_admitted {s : State} {ini pg : Nat} (reached : s.admits ini pg = true) (f : State → State) :
    s.regRow ini pg false f = .next (f s) := by
  simp [State.regRow, reached]

/-- R652: with its key, the write of `MODE.RESET_CTL` is a warm reset. -/
theorem execWarmReset_keyed {s : State} {ini : Nat} (reached : s.admits ini pgMode = true) :
    execWarmReset ini 0xA5 s = .next (s.deviceReset 2 .provisioning) :=
  State.regRow_admitted reached _

end Sys2Proof.Machine

open Sys2Proof Sys2Proof.Machine

/-- Settles O7: cores and queues that the state does not list hold their reset values, and neither `State.reset` nor a warm reset
lists any. -/
theorem resetLeavesZero : Obligations.ResetLeavesZero := by
  unfold Obligations.ResetLeavesZero
  refine ⟨rfl, Remap.reset_ok, State.reset_recordOk, fun s cores devq => ⟨fun p t row lane f k => ?core, fun q => ?queue⟩, rfl,
    rfl, fun s t ini reached row => ?warm⟩
  case core =>
    rw [State.core_unlisted cores]
    exact ⟨rfl, rfl, rfl, rfl, rfl, rfl, rfl, rfl⟩
  case queue =>
    refine ⟨State.queueState_unlisted cores devq q, ?_⟩
    rw [State.queue_unlisted cores devq]
    exact ⟨rfl, rfl, rfl⟩
  case warm =>
    obtain rfl : s.deviceReset 2 .provisioning = t :=
      Host.Outcome.next.inj ((execWarmReset_keyed reached).symm.trans row)
    exact s.deviceReset_unlisted 2 .provisioning

end

section
/-! SUPPORT. What an addition to a row of the ledger leaves in its entries (R133, R134, R142, R143). -/

namespace Sys2Proof.Machine

/-! ### Blocks of sparse storage -/

/-- A block holds what the storage holds in its range, counted from its base, and the default past its end. -/
theorem nget_nblock {α : Type} (d : α) (m : NMap α) (a n k : Nat) :
    nget d (nblock m a n) k = if k < n then nget d m (a + k) else d := by
  unfold nblock
  induction m with
  | nil => simp [nkeep, nget]
  | cons e m ih =>
    obtain ⟨j, v⟩ := e
    unfold nkeep at ih ⊢
    by_cases held : a ≤ j ∧ j < a + n
    · rw [List.filter_cons_of_pos (by simpa using held)]
      simp only [List.map_cons, nget, ih]
      by_cases hit : j = a + k
      · rw [if_pos (by omega), if_pos (by omega), if_pos hit]
      · rw [if_neg (by omega), if_neg hit]
    · rw [List.filter_cons_of_neg (by simpa using held), ih]
      by_cases inside : k < n
      · rw [if_pos inside, if_pos inside, nget, if_neg (by omega)]
      · rw [if_neg inside, if_neg inside]

/-- Values listed under their numbers, zeros left out, read back under those numbers, and as zero under all others. -/
theorem nget_listed (f : Nat → Int) (ls : List Nat) (k : Nat) :
    nget 0 (ls.filterMap fun l => if f l = 0 then none else some (l, f l)) k = if k ∈ ls then f k else 0 := by
  induction ls with
  | nil => rfl
  | cons l ls ih =>
    by_cases zero : f l = 0
    · rw [List.filterMap_cons_none (by simp [zero]), ih]
      by_cases same : k = l
      · simp [same, zero]
      · simp [same]
    · rw [List.filterMap_cons_some (b := (l, f l)) (by simp [zero]), nget, ih]
      by_cases same : l = k
      · simp [same]
      · simp [same, Ne.symm same]

theorem nget_rowOf (f : Nat → Int) {lane : Nat} (h : lane < 128) : nget 0 (rowOf f) lane = f lane :=
  (nget_listed f _ lane).trans (if_pos (mem_upTo_of_lt lane.zero_le (by omega)))

/-! ### Rows of the ledger -/

/-- R133: a tile has nine rows, so that tile and row come back from the key. -/
theorem ledRow_inj {t t' row row' : Nat} (h : row < 9) (h' : row' < 9) (e : ledRow t' row' = ledRow t row) :
    t' = t ∧ row' = row := by
  unfold ledRow at e
  omega

theorem Ledger.nget_row (L : Ledger) (t row : Nat) {lane : Nat} (h : lane < 128) :
    nget 0 (L.row t row) lane = L.entry t row lane :=
  (nget_nblock 0 _ _ _ _).trans (if_pos h)

theorem Ledger.setRow_entry_same (L : Ledger) (t row : Nat) (blk : NMap Int) {lane : Nat} (h : lane < 128) :
    (L.setRow t row blk).entry t row lane = nget 0 blk lane :=
  nget_nput_inside 0 _ _ _ _ _ h

theorem Ledger.setRow_entry_other (L : Ledger) {t t' row row' : Nat} (blk : NMap Int) {lane : Nat} (h : lane < 128)
    (other : ledRow t' row' ≠ ledRow t row) : (L.setRow t row blk).entry t' row' lane = L.entry t' row' lane :=
  nget_nput_outside 0 _ _ _ _ _ (by omega)

@[simp] theorem Ledger.freshWords_entry (L : Ledger) (t row lo hi : Nat) (keepBad : Bool) (t' row' lane : Nat) :
    (L.freshWords t row lo hi keepBad).entry t' row' lane = L.entry t' row' lane := rfl

/-- R134, R143: a value in range is not clamped. -/
theorem ledClamp_of_inRange {x : Int} (h : -ledMax ≤ x ∧ x ≤ ledMax) : ledClamp x = x := by
  rw [ledClamp, if_neg (by omega), if_neg (by omega)]

/-! ### Additions to a row -/

/-- R142, R143: each entry of the row takes the exact sum, clamped once; nothing is added outside the lanes added to. -/
theorem Ledger.addRow_entry_same (L : Ledger) (t row lo hi : Nat) (v : Nat → Int) {lane : Nat} (h : lane < 128) :
    (L.addRow t row lo hi v).1.entry t row lane =
      ledClamp (L.entry t row lane + if lo ≤ lane ∧ lane < hi then v lane else 0) := by
  unfold Ledger.addRow
  rw [Ledger.freshWords_entry, Ledger.setRow_entry_same _ _ _ _ h, nget_rowOf _ h]
  dsimp only
  rw [Ledger.nget_row _ _ _ h]

theorem Ledger.addRow_entry_other (L : Ledger) {t t' row row' : Nat} (lo hi : Nat) (v : Nat → Int) {lane : Nat}
    (h : lane < 128) (other : ledRow t' row' ≠ ledRow t row) :
    (L.addRow t row lo hi v).1.entry t' row' lane = L.entry t' row' lane := by
  unfold Ledger.addRow
  rw [Ledger.freshWords_entry, Ledger.setRow_entry_other _ _ h other]

end Sys2Proof.Machine

open Sys2Proof Sys2Proof.Machine

/-- Settles O60: the row takes its exact sums through one clamp, which leaves an entry in range as it is, and the keys of the other
rows lie outside the range written. -/
theorem ledgerAdditionsClamp : Obligations.LedgerAdditionsClamp := by
  unfold Obligations.LedgerAdditionsClamp
  intro L t row lo hi v lanes inRange
  refine ⟨fun lane low high => ?added, fun lane bound outside => ?notAdded,
    fun t' row' lane nine nine' bound other => ?otherRow⟩
  case added =>
    rw [L.addRow_entry_same t row lo hi v (by omega), if_pos ⟨low, high⟩]
    rfl
  case notAdded =>
    rw [L.addRow_entry_same t row lo hi v bound, if_neg (by omega), add_zero]
    exact ledClamp_of_inRange (inRange _)
  case otherRow =>
    refine L.addRow_entry_other lo hi v bound fun same => ?_
    obtain ⟨tile, row⟩ := ledRow_inj nine nine' same
    exact other.elim (· tile) (· row)

end

section
/-! SUPPORT. Ledger commands at issue (R160), and writes to the ledger's address window (R171). -/

namespace Sys2Proof.Machine

/-- A ledger command that is ready queues at the port, whichever of the three rows it is. -/
theorem State.ledgerTry_ready {s : State} {q op : Nat} {e : Entry} (h : s.Ready q e (hasOp op) (ledgerGate q)) :
    s.ledgerTry q op = s.countWindow ((s.fetchMarks q).ledgerIssue q e) q :=
  congrArg (s.countWindow · q) (State.tryIssue_ready h _)

/-- R171: a write whose whole range lies in the window of one core's ledger. -/
theorem State.write_ledger (s : State) (w : Who) {a n l off : Nat} (blk : NMap Byte) (nonempty : n ≠ 0)
    (place : wholePlace a n = some (.ledger l off)) :
    s.write w a n blk = (((s.countBridge w a n true).countBytes w a n).modLcore l fun c => { c with ledger := { c.ledger with
      addressWritesDropped := satInc c.ledger.addressWritesDropped } }, 0) := by
  simp [State.write, nonempty, place]

end Sys2Proof.Machine

open Sys2Proof Sys2Proof.Machine

/-- Settles O16: each of the three rows is one `ledgerTry` of a ready command. -/
theorem ledgerCommandsIssue : Obligations.LedgerCommandsIssue := by
  unfold Obligations.LedgerCommandsIssue
  intro s q e
  refine ⟨fun h => ?clear, fun h => ?drain, fun h => ?load⟩
  case clear => exact congrArg Host.Outcome.next (State.ledgerTry_ready h)
  case drain => exact congrArg Host.Outcome.next (State.ledgerTry_ready h)
  case load => exact congrArg Host.Outcome.next (State.ledgerTry_ready h)

/-- Settles O59: both halves are the two parts of what a write to the window gives. -/
theorem ledgerWindowIsReadOnly : Obligations.LedgerWindowIsReadOnly := by
  unfold Obligations.LedgerWindowIsReadOnly
  intro s w a n l off blk nonempty place
  rw [State.write_ledger s w blk nonempty place]
  exact ⟨rfl, rfl⟩

end

section
/-! SUPPORT. What the abort of a rail stream leaves alone: the count of stalls, and whether any other stream is open (R61, R378,
R382, R393). -/

namespace Sys2Proof.Machine

/-- `t` has counted the stalls that `s` has, and each stream is open in it where it is in `s`. -/
structure KeepsOpen (s t : State) : Prop where
  stalls : t.rail.stallTimeouts = s.rail.stallTimeouts
  opened : ∀ n, (t.stream n).isOpen = (s.stream n).isOpen

theorem KeepsOpen.of_rail {s t : State} (h : t.rail = s.rail) : KeepsOpen s t := by
  refine ⟨by rw [h], fun n => ?_⟩
  unfold State.stream
  rw [h]

theorem KeepsOpen.refl (s : State) : KeepsOpen s s := .of_rail rfl

theorem KeepsOpen.trans {a b c : State} (h : KeepsOpen a b) (h' : KeepsOpen b c) : KeepsOpen a c :=
  ⟨h'.stalls.trans h.stalls, fun n => (h'.opened n).trans (h.opened n)⟩

theorem KeepsOpen.foldl {α : Type} {f : State → α → State} (hf : ∀ u a, KeepsOpen u (f u a)) (l : List α) (s : State) :
    KeepsOpen s (l.foldl f s) :=
  List.foldlRecOn l f (.refl s) fun u h a _ => h.trans (hf u a)

theorem State.raiseFull_keepsOpen (s : State) (pg : Nat) (code : BitVec 16) (sev info extra : Nat) (emit inj : Bool) :
    KeepsOpen s (s.raiseFull pg code sev info extra emit inj) := .of_rail (by simp)

theorem State.modLcore_keepsOpen (s : State) (l : Nat) (f : Core → Core) : KeepsOpen s (s.modLcore l f) := .of_rail rfl

theorem State.modQueue_keepsOpen (s : State) (q : Nat) (f : QState → QState) : KeepsOpen s (s.modQueue q f) := by
  unfold State.modQueue
  split
  · exact s.modLcore_keepsOpen _ _
  · exact .of_rail rfl

/-- A stream that changes counts no stall. -/
theorem State.modStream_stalls (s : State) (n : Nat) (f : RailStream → RailStream) :
    (s.modStream n f).rail.stallTimeouts = s.rail.stallTimeouts := rfl

theorem State.setTakersDropped_keepsOpen (s : State) (n : Word) :
    KeepsOpen s (s.setRail { s.rail with takersDropped := n }) := ⟨rfl, fun _ => rfl⟩

theorem State.modStream_keepsOpen (s : State) (n : Nat) {f : RailStream → RailStream} (hf : ∀ x, (f x).isOpen = x.isOpen) :
    KeepsOpen s (s.modStream n f) := by
  refine ⟨s.modStream_stalls n f, fun k => ?_⟩
  by_cases h : k = n
  · subst h
    rw [State.modStream_same, hf]
  · rw [State.modStream_other _ _ h]

theorem State.endTakes_keepsOpen (s : State) (l n : Nat) : KeepsOpen s (s.endTakes l n) := s.modLcore_keepsOpen l _

theorem State.leaveStream_keepsOpen (s : State) (l n : Nat) (fenced : Bool) : KeepsOpen s (s.leaveStream l n fenced) := by
  unfold State.leaveStream
  split
  · exact .refl s
  · have left := (s.modStream_keepsOpen n (f := fun x => { x with takers := x.takers.filter (· ≠ l) }) fun _ => rfl).trans
      (State.endTakes_keepsOpen _ l n)
    dsimp only
    split
    · exact left.trans ((State.setTakersDropped_keepsOpen _ _).trans (State.raiseFull_keepsOpen _ _ _ _ _ _ _ _))
    · exact left

theorem State.stopOne_keepsOpen (s : State) (q : Nat) (code : BitVec 16) (ended : Bool) : KeepsOpen s (s.stopOne q code ended) := by
  unfold State.stopOne
  split
  · exact .refl s
  · have stopped := s.modQueue_keepsOpen q fun x => x.stopAt code ended
    dsimp only
    split
    · exact (stopped.trans (State.modLcore_keepsOpen _ _ _)).trans (.foldl (fun u _ => u.leaveStream_keepsOpen _ _ _) _ _)
    · exact stopped

theorem State.sweepSwaps_keepsOpen (s : State) (l n : Nat) : KeepsOpen s (s.sweepSwaps l n) := by
  induction n generalizing s with
  | zero => exact .refl s
  | succ n ih =>
    unfold State.sweepSwaps
    split
    · exact .refl s
    · exact ((s.raiseFull_keepsOpen _ _ _ _ _ _ _).trans (State.stopOne_keepsOpen _ _ _ _)).trans (ih _)

theorem State.stopQueue_keepsOpen (s : State) (q : Nat) (code : BitVec 16) (ended : Bool) :
    KeepsOpen s (s.stopQueue q code ended) := by
  have stopped := s.stopOne_keepsOpen q code ended
  unfold State.stopQueue
  split
  · exact stopped.trans (State.sweepSwaps_keepsOpen _ _ _)
  · exact stopped

theorem State.abortQueue_keepsOpen (s : State) (n q : Nat) : KeepsOpen s (s.abortQueue n q) := by
  unfold State.abortQueue
  split
  · exact .refl s
  · exact (s.raiseFull_keepsOpen _ _ _ _ _ _ _).trans (State.stopQueue_keepsOpen _ _ _ _)

theorem State.dropCancelled_keepsOpen (s : State) (n : Nat) (ls : List Nat) : KeepsOpen s (s.dropCancelled n ls) :=
  .foldl (fun u _ => u.modLcore_keepsOpen _ _) ls s

/-- R382: closing a stream counts no stall. -/
theorem State.closeStream_stalls (s : State) (n : Nat) : (s.closeStream n).rail.stallTimeouts = s.rail.stallTimeouts :=
  (State.modStream_stalls _ _ _).trans (s.dropCancelled_keepsOpen n (upTo 0 128)).stalls

theorem State.closeStream_closed (s : State) (n : Nat) : ((s.closeStream n).stream n).isOpen = false := by
  unfold State.closeStream
  rw [State.modStream_same]
  rfl

/-- R382: the stall of stream `n` has been counted and reported and the takes on it have ended; the stream is about to close. -/
def State.stallEnded (s : State) (n : Nat) : State :=
  let x := s.stream n
  x.takers.foldl (fun u l => u.endTakes l n) ((s.setRail { s.rail with stallTimeouts := satInc s.rail.stallTimeouts }).raise
    (pgRail (regionOf (x.q / 4))) 0x0452 contained (railInfo n (x.q / 4)))

theorem State.stallEnded_stalls (s : State) (n : Nat) : (s.stallEnded n).rail.stallTimeouts = satInc s.rail.stallTimeouts :=
  ((State.raiseFull_keepsOpen _ _ _ _ _ _ _ _).trans (.foldl (fun u l => u.endTakes_keepsOpen l n) (s.stream n).takers _)).stalls

/-- R382, R61: the stops and the sweeps of swaps that follow the close of a stalled stream count no stall and open no stream. -/
theorem execRailStallTimeout_closes {s : State} {n : Nat} (bound : n < 8) (timeout : s.rail.stallTimeout ≠ 0)
    (idle : s.snap.phase = .idle) (held : (s.railHolder n).isSome = true) :
    ∃ t, execRailStallTimeout n s = .next t ∧ KeepsOpen ((s.stallEnded n).closeStream n) t := by
  refine ⟨_, congrArg Host.Outcome.next (if_pos ⟨bound, timeout, idle, held⟩), ?_⟩
  have aborts := KeepsOpen.foldl fun u q => u.abortQueue_keepsOpen n q
  refine .trans ?_ (.foldl (fun u l => u.sweepSwaps_keepsOpen l 4) _ _)
  split
  · exact (aborts _ _).trans ((State.modQueue_keepsOpen _ _ _).trans (State.abortQueue_keepsOpen _ _ _))
  · exact aborts _ _

end Sys2Proof.Machine

open Sys2Proof Sys2Proof.Machine

/-- Settles O28: the first three timeouts are the row's own effect. A stall is counted once and closes its stream; the stops and
sweeps that follow open no stream again. -/
theorem workTimeoutsStop : Obligations.WorkTimeoutsStop := by
  unfold Obligations.WorkTimeoutsStop
  refine ⟨fun s core j bound waits timed timeout => ?exchange, fun s core j bound waits timed timeout => ?join,
    fun s quiescing => ?quiesce, fun s stream bound timeout idle holder => ?stall⟩
  case exchange =>
    show execQuantExchangeTimeout core s = _
    simp only [execQuantExchangeTimeout, decide_eq_true bound, waits, if_pos (And.intro timed timeout)]
  case join =>
    show execSampleJoinTimeout core s = _
    simp only [execSampleJoinTimeout, decide_eq_true bound, waits, if_pos (And.intro timed timeout)]
  case quiesce => exact congrArg Host.Outcome.next (if_pos quiescing)
  case stall =>
    obtain ⟨t, run, kept⟩ := execRailStallTimeout_closes bound timeout idle holder
    refine ⟨t, run, ?_, (kept.opened stream).trans (State.closeStream_closed _ stream)⟩
    calc t.rail.stallTimeouts = ((s.stallEnded stream).closeStream stream).rail.stallTimeouts := kept.stalls
      _ = (s.stallEnded stream).rail.stallTimeouts := State.closeStream_stalls _ stream
      _ = satInc s.rail.stallTimeouts := s.stallEnded_stalls stream

end

section
/-! SUPPORT. The stream engine's oldest command completes (R264), beside the joint work of a mask and the quantise unit at issue. -/

namespace Sys2Proof.Machine

/-- R264: the oldest command, done once the engine has gone as far as it can, completes. -/
theorem execStreamCommandComplete_done {s : State} {cluster : Nat} {g : StreamJob} {rest : List StreamJob} (bound : cluster < 32)
    (held : ((s.streamAdvance cluster 4).cluster cluster).held = g :: rest) (done : g.done = true) :
    execStreamCommandComplete cluster s = .next ((s.streamAdvance cluster 4).streamComplete cluster g) := by
  simp [execStreamCommandComplete, bound, held, done]

end Sys2Proof.Machine

open Sys2Proof Sys2Proof.Machine

/-- Settles O17: each row is `tryIssue` of a ready command. A QUANTISE is served at once; a SCALE_LOAD whose values are read and
pass the check of R221 loads them, and a STATS_READ whose bytes are written keeps the unit. -/
theorem quantCommandsIssue : Obligations.QuantCommandsIssue := by
  unfold Obligations.QuantCommandsIssue
  intro s q e
  refine ⟨fun h => ?quantise, fun h read good => ?load, fun h written => ?readOut⟩
  case quantise => exact congrArg Host.Outcome.next (State.tryIssue_ready h _)
  case load =>
    refine congrArg Host.Outcome.next ((State.tryIssue_ready h _).trans ?_)
    dsimp only
    rw [if_neg (not_not_intro read), good]
  case readOut =>
    exact congrArg Host.Outcome.next ((State.tryIssue_ready h _).trans (if_neg (not_not_intro written)))

/-- Settles O26: where all members wait, the jobs that the row finds are the members' own, and they agree. -/
theorem jointWorkCompletes : Obligations.JointWorkCompletes := by
  unfold Obligations.JointWorkCompletes
  refine ⟨fun s cluster mask lead js bound found masked named agree static => ?exchange,
    fun s core x bound final static => ?settle, fun s cluster mask lead js bound found masked agree => ?sample,
    fun s cluster g rest bound held done => ?stream⟩
  case exchange =>
    show execQuantExchange cluster mask s = _
    unfold execQuantExchange
    dsimp only
    rw [found, List.filterMap_map, Function.id_comp, List.filterMap_some]
    dsimp only
    rw [if_pos ⟨bound, (List.length_map _).symm, masked, named⟩, agree, static]
    rfl
  case settle =>
    show execQuantSettle core s = _
    simp [execQuantSettle, bound, final, static]
  case sample =>
    show execSampleFinishJoin cluster mask s = _
    unfold execSampleFinishJoin
    dsimp only
    rw [found, List.filterMap_map, Function.id_comp, List.filterMap_some]
    dsimp only
    rw [if_pos ⟨bound, (List.length_map _).symm, masked⟩, agree]
    rfl
  case stream => exact execStreamCommandComplete_done bound held done

end

section
/-! SUPPORT. Stream commands at their acceptance (R264, R265, R275), and a close up to its signal (R429, R430). -/

namespace Sys2Proof.Machine

/-! ### Stream commands -/

/-- A stream command that is ready is accepted, whichever of the four rows it is: with entry `n` of the KV geometry, the one that
an attention command names and entry 0 for the others. -/
theorem State.streamAccept_ready {s : State} {q op n : Nat} {e : Entry} (h : s.Ready q e (hasOp op) (streamGate q))
    (named : (if op = 0x50 ∨ op = 0x51 then aGeo e else 0) = n) :
    let u := s.fetchMarks q
    let cl := clusterOf (q / 4)
    let geo := u.kvGeo cl n
    s.streamAccept q op = (((u.issue q).enterJob (u.newJob q e) (u.streamAccess q e)).modCluster cl fun c =>
      { c with held := c.held ++ [.accept (u.newJob q e) (q / 4) geo.layerStride geo.headStride] }).streamAdvance cl 4 := by
  subst named
  exact State.tryIssue_ready h _

/-! ### Closes -/

/-- What a read of memory may change is neither memory, nor a context, nor a close. -/
theorem Looked.contexts {s t : State} (h : Looked s t) : t.mem = s.mem ∧ t.ctxs = s.ctxs ∧ t.closes = s.closes := by
  have rest := h.rest
  tauto

/-- A descriptor's write changes that context; beside it, check bits and an injection that fires (R584). -/
theorem State.ctxWrite_contexts (s : State) (n : Nat) (f : Ctx → Ctx) :
    (s.ctxWrite n f).mem = s.mem ∧ (s.ctxWrite n f).ctxs = (s.modCtx n f).ctxs ∧ (s.ctxWrite n f).closes = s.closes := by
  unfold State.ctxWrite
  dsimp only
  split
  · exact ((Looked.refl _).takeInjection pgContext).contexts
  · exact ((Looked.refl _).takeInjection pgContext).contexts

theorem State.ctxWrite_same (s : State) (n : Nat) (f : Ctx → Ctx) : (s.ctxWrite n f).ctx n = f (s.ctx n) := by
  unfold State.ctx
  rw [(s.ctxWrite_contexts n f).2.1]
  exact s.modCtx_same n f

/-- Steps 2 and 3 of a close without a record: once nothing holds the context, its zeroing is under way. -/
theorem State.closeRelease_unrecorded {s : State} {ctx : Nat} {c : Close} (free : s.ctxHeld ctx = false)
    (due : s.closes.find? (fun c => c.ctx == ctx && !c.zeroing) = some c) (readable : (s.ctxRead ctx).2 = true)
    (unrecorded : c.record = none) :
    s.closeRelease ctx = (s.ctxRead ctx).1.setCloses ((s.ctxRead ctx).1.closes.map fun x =>
      if x.ctx = ctx then { x with zeroing := true } else x) := by
  simp [State.closeRelease, free, due, readable, unrecorded]

/-- The KV area of a context is zeroed for the close `c`, with the bytes counted (R430, R549). -/
def State.zeroArea (s : State) (d : Ctx) (c : Close) : State :=
  ((s.zeroTier d.kvBase.toNat d.area).countTier d.kvBase.toNat d.area true).countBytes (deviceWho c.job.q) d.kvBase.toNat d.area

/-- What is counted leaves the zeroed memory, the contexts and the closes alone. -/
theorem State.zeroArea_contexts (s : State) (d : Ctx) (c : Close) :
    (s.zeroArea d c).mem = nclear s.mem d.kvBase.toNat d.area ∧ (s.zeroArea d c).ctxs = s.ctxs ∧ (s.zeroArea d c).closes = s.closes :=
  (((Looked.refl (s.zeroTier d.kvBase.toNat d.area)).countTier _ _ true).countBytes _ _ _).contexts

/-- The state that a close leaves before it signals: its area zero, its context CLOSED, its slot free. -/
def State.closed (s : State) (ctx : Nat) (c : Close) : State :=
  ((s.zeroArea (s.ctx ctx) c).ctxWrite ctx fun x => { x with st := .closed }).setCloses (s.closes.filter fun x => x.ctx != ctx)

/-- Steps 4 and 5 of a close that signals. -/
theorem State.closeZero_signals {s : State} {ctx : Nat} {c : Close}
    (due : s.closes.find? (fun c => c.ctx == ctx && c.zeroing) = some c) (signals : c.signals = true) :
    s.closeZero ctx = (s.closed ctx c).finish c.job := by
  have kept : ((s.zeroArea (s.ctx ctx) c).ctxWrite ctx fun x => { x with st := .closed }).closes = s.closes :=
    (State.ctxWrite_contexts _ _ _).2.2.trans (s.zeroArea_contexts _ c).2.2
  unfold State.closeZero State.closed
  rw [due, ← kept]
  exact if_pos signals

theorem State.closed_ctx (s : State) (ctx : Nat) (c : Close) : ((s.closed ctx c).ctx ctx).st = .closed :=
  congrArg Ctx.st (State.ctxWrite_same (s.zeroArea (s.ctx ctx) c) ctx _)

/-- R430: the area of the context is zero. -/
theorem State.closed_area (s : State) (ctx : Nat) (c : Close) {a : Nat} (low : (s.ctx ctx).kvBase.toNat ≤ a)
    (high : a < (s.ctx ctx).kvBase.toNat + (s.ctx ctx).area) : byteAt (s.closed ctx c).mem a = 0 := by
  have cleared : (s.closed ctx c).mem = nclear s.mem (s.ctx ctx).kvBase.toNat (s.ctx ctx).area :=
    (State.ctxWrite_contexts _ _ _).1.trans (s.zeroArea_contexts _ c).1
  rw [cleared, byteAt_nclear, if_neg (by omega)]

end Sys2Proof.Machine

open Sys2Proof Sys2Proof.Machine

/-- Settles O19: each of the four rows is one `streamAccept` of a ready command; only scores and values name a KV geometry entry. -/
theorem streamCommandsIssue : Obligations.StreamCommandsIssue := by
  unfold Obligations.StreamCommandsIssue
  intro s q e
  refine ⟨fun h => ?score, fun h => ?value, fun h => ?wgrad, fun h => ?gemm⟩
  case score => exact congrArg Host.Outcome.next (State.streamAccept_ready h (if_pos (.inl rfl)))
  case value => exact congrArg Host.Outcome.next (State.streamAccept_ready h (if_pos (.inr rfl)))
  case wgrad => exact congrArg Host.Outcome.next (State.streamAccept_ready h (if_neg (by decide)))
  case gemm => exact congrArg Host.Outcome.next (State.streamAccept_ready h (if_neg (by decide)))

/-- Settles O29: the zeroing starts in the state that the read of the descriptor leaves, and the close signals from the state in
which its area is zero, its context CLOSED and its slot free. -/
theorem closesComplete : Obligations.ClosesComplete := by
  unfold Obligations.ClosesComplete
  refine ⟨fun s ctx c due unrecorded free readable => ?starts, fun s ctx c due signals => ?ends⟩
  case starts =>
    exact ⟨_, congrArg Host.Outcome.next (State.closeRelease_unrecorded free due readable unrecorded), rfl⟩
  case ends =>
    exact ⟨s.closed ctx c, congrArg Host.Outcome.next (State.closeZero_signals due signals), s.closed_ctx ctx c, rfl,
      fun a low high => s.closed_area ctx c low high⟩

end

section
/-! SUPPORT. The moments of an ADAMW that a VECTOR may name in its record (R289, R291). -/

namespace Sys2Proof.Machine

/-- The check of the moments' offsets refuses no command whose offsets, where it is an ADAMW, are both good. -/
theorem moments_accepted {e : Entry} {m v : Nat} (good : vOp e = opAdamw → mvOk e m = true ∧ mvOk e v = true) :
    ¬ (vOp e = opAdamw ∧ !(mvOk e m && mvOk e v)) := by
  rintro ⟨adamw, bad⟩
  obtain ⟨hm, hv⟩ := good adamw
  simp [hm, hv] at bad

end Sys2Proof.Machine

open Sys2Proof Sys2Proof.Machine

/-- Settles O18: each of the three rows is `tryIssue` of a ready command. A VECTOR passes its four checks (its record read, its
moments good, no fence, no access failed), a collect reads all of its rows, and a finish has no fenced member in its mask. -/
theorem vectorCommandsIssue : Obligations.VectorCommandsIssue := by
  unfold Obligations.VectorCommandsIssue
  intro s q e
  refine ⟨fun h read moments unfenced accessed => ?vector, fun h collected => ?collect, fun h unfenced => ?finish⟩
  case vector =>
    refine congrArg Host.Outcome.next ((State.tryIssue_ready h _).trans ?_)
    exact (if_neg (not_not_intro read)).trans <| (if_neg (moments_accepted moments)).trans <|
      (if_neg (Bool.eq_false_iff.mp unfenced)).trans (if_neg (not_not_intro accessed))
  case collect =>
    exact congrArg Host.Outcome.next ((State.tryIssue_ready h _).trans (if_neg (not_not_intro collected)))
  case finish =>
    exact congrArg Host.Outcome.next ((State.tryIssue_ready h _).trans (if_neg (Bool.eq_false_iff.mp unfenced)))

end

section
/-! SUPPORT. Tallies and the signals that reach them (R334 to R341): what a signal leaves where no injection is armed at the tally
(R584), how it leaves the fabric, and with which others it lands. -/

namespace Sys2Proof.Machine

/-! ### Injection at the page of a tally (R584) -/

/-- A word that is stored sound has met no injection. -/
theorem State.takeInjection_of_sound {s : State} {pg : Nat} (h : (s.takeInjection pg).2 = .sound) :
    s.takeInjection pg = (s, .sound) := by
  unfold State.takeInjection at h ⊢
  dsimp only at h ⊢
  split_ifs at h with armed
  rw [if_neg armed]

/-- Whether an injection fires at a page rests on the page's register and on whether injection is open. -/
theorem State.takeInjection_congr {s t : State} {pg : Nat} (opened : t.injectOpen = s.injectOpen)
    (armed : (t.page pg).inject = (s.page pg).inject) : (t.takeInjection pg).2 = (s.takeInjection pg).2 := by
  simp only [State.takeInjection, opened, armed]
  split
  · rfl
  · rfl

theorem PageHdr.record_inject (h : PageHdr) (now : DWord) (code : BitVec 16) (sev info : Nat) :
    (h.record now code sev info).inject = h.inject := by
  unfold PageHdr.record
  split
  · rfl
  · rfl

/-- Of the pages' headers, one event touches its own page's only. -/
theorem State.raiseOne_pages (s : State) (pg : Nat) (code : BitVec 16) (sev info extra : Nat) (emit inj : Bool) :
    (s.raiseOne pg code sev info extra emit inj).pages = (s.modPage pg fun h => h.record s.time.now code sev info).pages := by
  simp only [State.raiseOne, apply_ite State.pages, State.setNet_fields, State.modDie_fields, State.setErr_fields, ite_self]

/-- Raising an event arms and fires no injection. -/
theorem State.raiseOne_inject (s : State) (pg : Nat) (code : BitVec 16) (sev info extra : Nat) (emit inj : Bool) (k : Nat) :
    ((s.raiseOne pg code sev info extra emit inj).page k).inject = (s.page k).inject := by
  rw [State.page, State.raiseOne_pages, ← State.page]
  by_cases h : k = pg
  · rw [h, State.modPage_same, PageHdr.record_inject]
  · rw [State.modPage_other _ _ h]

theorem State.infoOf_pages (s : State) (code : BitVec 16) (info : Nat) : (s.infoOf code info).2.pages = s.pages := by
  unfold State.infoOf
  split_ifs <;> rfl

theorem State.raise_inject (s : State) (pg : Nat) (code : BitVec 16) (sev info : Nat) (k : Nat) :
    ((s.raise pg code sev info).page k).inject = (s.page k).inject := by
  have same : ((s.infoOf code info).2.page k).inject = (s.page k).inject := by
    unfold State.page
    rw [State.infoOf_pages]
  unfold State.raise State.raiseFull
  dsimp only
  split_ifs
  · rw [State.raiseOne_inject, same]
  · rw [State.raiseOne_inject]
    exact (State.raiseOne_inject _ _ _ _ _ _ _ _ k).trans same
  · rw [State.raiseOne_inject, State.raiseOne_inject, same]

theorem State.strike_of_sound {s : State} {l block : Nat} (h : (s.takeInjection (s.pgL l block)).2 = .sound) :
    s.strike l block = s := by
  have unmet := State.takeInjection_of_sound h
  unfold State.pgL at unmet
  simp [State.strike, State.strikeAt, unmet]

/-! ### Adding to a tally (R334) -/

/-- R334: the sum, clamped to 32 unsigned bits. -/
theorem tallyAdd_value (v : Word) (inc : Int) : (tallyAdd v inc).1 =
    if 0xFFFFFFFF < (v.toNat : Int) + inc then 0xFFFFFFFF else if (v.toNat : Int) + inc < 0 then 0
      else BitVec.ofNat 32 ((v.toNat : Int) + inc).toNat := by
  unfold tallyAdd
  dsimp only
  split_ifs
  · rfl
  · rfl
  · rfl

theorem tallyAdd_exact {v : Word} {inc : Int} (low : 0 ≤ (v.toNat : Int) + inc) (high : (v.toNat : Int) + inc ≤ 0xFFFFFFFF) :
    (tallyAdd v inc).2 = false := by
  unfold tallyAdd
  dsimp only
  rw [if_neg (by omega), if_neg (by omega)]

theorem tallyAdd_clamps {v : Word} {inc : Int} : (tallyAdd v inc).2 = true ↔
    (v.toNat : Int) + inc < 0 ∨ 0xFFFFFFFF < (v.toNat : Int) + inc := by
  unfold tallyAdd
  dsimp only
  split_ifs with high low
  · simp [high]
  · simp [low]
  · simp only [false_iff]
    omega

/-- The tallies of logical core `l` after signals of the sources `srcs` have left value and clamp `r` in tally `n`. -/
def TallySt.added (t : TallySt) (l n : Nat) (r : Word × Bool) (srcs : List Nat) : TallySt :=
  { t with
    value := nset 0 t.value n r.1
    signalsLocal := satAdd t.signalsLocal (srcs.countP (ownSource l))
    signalsIn := satAdd t.signalsIn (srcs.countP fun x => !ownSource l x)
    saturations := if r.2 then satInc t.saturations else t.saturations }

theorem TallySt.added_saturations (t : TallySt) (l n : Nat) (r : Word × Bool) (srcs : List Nat) :
    (t.added l n r srcs).saturations = if r.2 then satInc t.saturations else t.saturations := rfl

/-- The state whose tally `n` of core `l` has been added to, before any event of it. -/
def State.tallied (s : State) (l n : Nat) (inc : Int) (srcs : List Nat) : State :=
  s.modLcore l fun c =>
    { c with tally := c.tally.added l n (tallyAdd (nget 0 (s.lcore l).tally.value n) inc) srcs }

@[simp] theorem State.tallied_tally (s : State) (l n : Nat) (inc : Int) (srcs : List Nat) :
    ((s.tallied l n inc srcs).lcore l).tally =
      (s.lcore l).tally.added l n (tallyAdd (nget 0 (s.lcore l).tally.value n) inc) srcs := by
  unfold State.tallied
  rw [State.modLcore_same]

/-- The information of TALLY_SATURATED (R347). -/
def saturatedInfo (l n : Nat) (srcs : List Nat) : Nat := l * 64 + n + 2 ^ 16 * (srcs.headD 0 % 4)

/-- A clamp raises TALLY_SATURATED, noted, and no other signal an event. -/
theorem State.applySignals_unstruck {s : State} {l : Nat} (unarmed : (s.takeInjection (s.pgL l bTally)).2 = .sound)
    (n : Nat) (inc : Int) (srcs : List Nat) : s.applySignals l n inc srcs =
      if (tallyAdd (nget 0 (s.lcore l).tally.value n) inc).2 then
        (s.tallied l n inc srcs).raise (s.pgL l bTally) 0x0420 noted (saturatedInfo l n srcs)
      else s.tallied l n inc srcs := by
  have unfolded : s.applySignals l n inc srcs = State.strike (if (tallyAdd (nget 0 (s.lcore l).tally.value n) inc).2 then
      (s.tallied l n inc srcs).raise (s.pgL l bTally) 0x0420 noted (saturatedInfo l n srcs)
      else s.tallied l n inc srcs) l bTally := rfl
  rw [unfolded]
  have tallied : ((s.tallied l n inc srcs).takeInjection (s.pgL l bTally)).2 = .sound :=
    (State.takeInjection_congr (s := s) (t := s.tallied l n inc srcs) rfl rfl).trans unarmed
  refine State.strike_of_sound ?_
  split
  · have told := (s.tallied l n inc srcs).raise_told (s.pgL l bTally) 0x0420 noted (saturatedInfo l n srcs)
    have page : ((s.tallied l n inc srcs).raise (s.pgL l bTally) 0x0420 noted (saturatedInfo l n srcs)).pgL l bTally =
        s.pgL l bTally := congrArg (pgCore · bTally) (State.physOf_congr (by simp [State.tallied, State.modLcore]) l)
    rw [page]
    exact (State.takeInjection_congr told.injectOpen (State.raise_inject _ _ _ _ _ _)).trans tallied
  · exact tallied

/-! ### Header signals of a core's own queue -/

theorem fld_two_lt (e : Entry) (i : Nat) : fld e i 2 < 2 ^ 16 := Nat.mod_lt _ (by decide)

theorem toNat_fld_two (e : Entry) (i : Nat) : (BitVec.ofNat 16 (fld e i 2)).toNat = fld e i 2 :=
  (BitVec.toNat_ofNat _ _).trans (Nat.mod_eq_of_lt (fld_two_lt e i))

/-- R334, R338: a signal to a tally of the queue's own core reaches it without the fabric. -/
theorem State.headerSignal_own {s : State} {q : Nat} {e : Entry} (core : q < 512) (signals : signalEn e = true)
    (own : tallyCore (signalTallyOf e) = q / 4) : s.headerSignal q e =
      s.reachTally q (BitVec.ofNat 16 (signalTallyOf e)) (BitVec.ofNat 16 (incrementOf e)) (opcode e) := by
  have ownSrc : ownSource (tallyCore (signalTallyOf e)) q = true := by simp [ownSource, core, own]
  unfold State.headerSignal State.performSignal
  rw [if_pos signals, if_pos ownSrc]

/-! ### Signals that land together (R335) -/

/-- The oldest signals of sources `others`, none of them `src`, wait in the fabric for a tally. -/
def State.OthersWait (s : State) (src : Nat) (tally : BitVec 16) (others : List Nat) : Prop :=
  ∀ k ∈ others, k ≠ src ∧ ∃ g ∈ s.fabric, g.src = k ∧ g.tally = tally

theorem State.mem_waitingSources {s : State} {src : Nat} {tally : BitVec 16} {k : Nat}
    (h : k ∈ ((s.fabric.filter fun g => g.tally == tally && g.src != src).map fun g => g.src).eraseDups) :
    k ≠ src ∧ ∃ g ∈ s.fabric, g.src = k ∧ g.tally = tally := by
  rw [List.mem_eraseDups, List.mem_map] at h
  obtain ⟨g, waits, rfl⟩ := h
  simp only [List.mem_filter, Bool.and_eq_true, beq_iff_eq, bne_iff_ne] at waits
  obtain ⟨mem, same, other⟩ := waits
  exact ⟨other, g, mem, rfl, same⟩

/-- Which of the other sources land in the cycle of `src` is a free choice among those that wait (log entry 23). -/
theorem State.sameCycle_waits (s : State) (src : Nat) (tally : BitVec 16) :
    s.OthersWait src tally (s.sameCycle src tally).1 ∧ (s.sameCycle src tally).2 = s.setOracle (s.sameCycle src tally).2.oracle := by
  unfold State.sameCycle
  dsimp only
  split
  · exact ⟨fun k h => absurd h List.not_mem_nil, rfl⟩
  · refine ⟨fun k h => ?_, rfl⟩
    obtain ⟨⟨src', i⟩, chosen, rfl⟩ := List.mem_map.1 h
    exact State.mem_waitingSources (List.fst_mem_of_mem_zipIdx (List.mem_of_mem_filter chosen))

/-- Where every signal that waits for the tally is of `src`, no other source lands with it. -/
theorem State.sameCycle_alone {s : State} {src : Nat} {tally : BitVec 16} (alone : ∀ g ∈ s.fabric, g.tally = tally → g.src = src) :
    s.sameCycle src tally = ([], s) := by
  have none : (s.fabric.filter fun g => g.tally == tally && g.src != src) = [] := by
    refine List.filter_eq_nil_iff.2 fun g mem => ?_
    simpa using alone g mem
  unfold State.sameCycle
  rw [none]
  rfl

theorem State.landSignal_alone {s : State} {src : Nat} {tally : BitVec 16} (alone : ∀ g ∈ s.fabric, g.tally = tally → g.src = src)
    (inc : Int) : s.landSignal src tally inc = s.applySignal (tallyCore tally.toNat) (tallyNum tally.toNat) inc src := by
  unfold State.landSignal
  rw [State.sameCycle_alone alone]
  exact congrArg (fun i => s.applySignals _ _ i [src]) (add_zero inc)

/-- R335: a signal lands with those of other sources that the fabric brings in its cycle, with one clamp. -/
theorem State.landSignal_joined (s : State) (src : Nat) (tally : BitVec 16) (inc : Int) :
    ∃ (others : List Nat) (u : State), u = s.setOracle u.oracle ∧ s.OthersWait src tally others ∧
      s.landSignal src tally inc = (u.takeSignals others tally).2.applySignals (tallyCore tally.toNat) (tallyNum tally.toNat)
        (inc + (u.takeSignals others tally).1) (src :: others) :=
  ⟨_, _, (s.sameCycle_waits src tally).2, (s.sameCycle_waits src tally).1, rfl⟩

/-! ### Signals that wait at their own tally (R335; log entry 23) -/

/-- The state in which a signal at its own tally waits behind those in the fabric. -/
def State.queued (s : State) (g : Signal) : State := s.setFabric (s.fabric ++ [g])

theorem State.reachTally_behind {s : State} {src : Nat} {tally : BitVec 16} (behind : ∃ g ∈ s.fabric, g.src = src ∧ g.tally = tally)
    (inc : BitVec 16) (op : Nat) : s.reachTally src tally inc op = s.queued ⟨src, tally, inc, op⟩ := by
  have waits : (s.fabric.any fun g => g.src == src && g.tally == tally) = true := by simpa using behind
  unfold State.reachTally State.awaitsOthers
  simp only [waits, if_true]
  rfl

section
variable {s : State} {src : Nat} {tally : BitVec 16} (first : ∀ g ∈ s.fabric, ¬(g.src = src ∧ g.tally = tally))
include first

theorem State.awaitsOthers_first (inc : Int) : s.awaitsOthers src tally inc =
    if (tallyAdd (nget 0 (s.lcore (tallyCore tally.toNat)).tally.value (tallyNum tally.toNat)) inc).2 then
      (s.open_.1 % 2 == 1, s.open_.2) else (false, s) := by
  have unblocked : (s.fabric.any fun g => g.src == src && g.tally == tally) = false := by simpa using first
  unfold State.awaitsOthers
  rw [unblocked]
  rfl

/-- A signal that no clamp would change lands at once. -/
theorem State.reachTally_exact {inc : BitVec 16}
    (unclamped : (tallyAdd (nget 0 (s.lcore (tallyCore tally.toNat)).tally.value (tallyNum tally.toNat)) (signed16 inc.toNat)).2 = false)
    (op : Nat) : s.reachTally src tally inc op = s.landSignal src tally (signed16 inc.toNat) := by
  unfold State.reachTally
  rw [State.awaitsOthers_first first, unclamped]
  rfl

/-- One that the clamp would change lands or waits, by an open choice. -/
theorem State.reachTally_clamped {inc : BitVec 16}
    (clamps : (tallyAdd (nget 0 (s.lcore (tallyCore tally.toNat)).tally.value (tallyNum tally.toNat)) (signed16 inc.toNat)).2 = true)
    (op : Nat) : s.reachTally src tally inc op = s.open_.2.landSignal src tally (signed16 inc.toNat) ∨
      s.reachTally src tally inc op = s.open_.2.queued ⟨src, tally, inc, op⟩ := by
  unfold State.reachTally
  rw [State.awaitsOthers_first first, clamps, if_pos rfl]
  dsimp only
  split
  · exact .inr rfl
  · exact .inl rfl

end

end Sys2Proof.Machine

open Sys2Proof Sys2Proof.Machine

/-- Settles O11: a signal is one addition with its clamp. An own signal reaches its tally and waits behind an earlier one of its
queue, or lands in its cycle, or, where the clamp would change it, does either by an open choice. -/
theorem signalsAddToTallies : Obligations.SignalsAddToTallies := by
  unfold Obligations.SignalsAddToTallies
  refine ⟨fun s l n inc src unarmed => ?adds, fun s q e core signals own => ?reaches⟩
  case adds =>
    intro x t
    have applied : t = _ := State.applySignals_unstruck unarmed n inc [src]
    have tally : (t.lcore l).tally =
        (s.lcore l).tally.added l n (tallyAdd (nget 0 (s.lcore l).tally.value n) inc) [src] := by
      rw [applied, ← State.tallied_tally]
      split
      · exact congrArg Core.tally (State.lcore_congr (by simp) (by simp) l)
      · rfl
    rw [tally]
    refine ⟨?value, fun k other => nget_nset_other _ _ _ other, fun ⟨low, high⟩ => ?unclamped, fun beyond => ?clamped⟩
    case value => exact (nget_nset_same _ _ _ _).trans (tallyAdd_value _ _)
    case unclamped =>
      have noClamp := tallyAdd_exact low high
      rw [noClamp] at applied
      rw [TallySt.added_saturations, noClamp, applied]
      exact ⟨rfl, rfl⟩
    case clamped =>
      have clamps := tallyAdd_clamps.2 beyond
      rw [clamps, if_pos rfl] at applied
      rw [TallySt.added_saturations, clamps]
      exact ⟨rfl, _, _, applied, rfl⟩
  case reaches =>
    intro tally n inc x waits
    have header := State.headerSignal_own (s := s) core signals own
    have index : tally.toNat = signalTallyOf e := toNat_fld_two e 8
    have amount : signed16 (BitVec.ofNat 16 (incrementOf e)).toNat = inc := congrArg signed16 (toNat_fld_two e 10)
    have place : tallyCore tally.toNat = q / 4 := by rw [index, own]
    have number : tallyNum tally.toNat = n := by rw [index]
    rw [header]
    refine ⟨fun free low high => ?alone, fun behind => State.reachTally_behind behind _ _, fun first => ?first⟩
    case alone =>
      have unclamped := tallyAdd_exact low high
      rw [← place, ← number, ← amount] at unclamped
      rw [State.reachTally_exact (fun g mem h => free g mem h.2) unclamped,
        State.landSignal_alone (fun g mem same => absurd same (free g mem)), place, number, amount]
    case first =>
      cases clamp : (tallyAdd (nget 0 (s.lcore (q / 4)).tally.value n) inc).2 with
      | false =>
        rw [← place, ← number, ← amount] at clamp
        obtain ⟨others, u, same, wait, landed⟩ := s.landSignal_joined q tally inc
        rw [State.reachTally_exact first clamp, amount]
        rw [place, number] at landed
        exact ⟨others, u, same, wait, .inl landed⟩
      | true =>
        have beyond := tallyAdd_clamps.1 clamp
        rw [← place, ← number, ← amount] at clamp
        rcases State.reachTally_clamped first clamp (opcode e) with lands | queues
        · obtain ⟨others, u, same, wait, landed⟩ := s.open_.2.landSignal_joined q tally inc
          rw [lands, amount]
          rw [place, number] at landed
          exact ⟨others, u, same, wait, .inl landed⟩
        · exact ⟨[], s.open_.2, rfl, fun k mem => absurd mem List.not_mem_nil, .inr ⟨beyond, queues⟩⟩

end

section
/-! SUPPORT. Signals in the fabric (R338, R340): what counting a request leaves of it, and how the oldest signal of a source leaves. -/

namespace Sys2Proof.Machine

/-! ### What leaves the fabric's signals alone -/

theorem State.forEach_fabric {f : State → Nat → State} (hf : ∀ u k, (f u k).fabric = u.fabric) (l : List Nat) (s : State) :
    (s.forEach l f).fabric = s.fabric :=
  State.forEach_induction (P := fun u => u.fabric = s.fabric) (fun u k h => (hf u k).trans h) l rfl

theorem State.ite_fabric {s a b : State} {c : Prop} [Decidable c] (ha : a.fabric = s.fabric) (hb : b.fabric = s.fabric) :
    (if c then a else b).fabric = s.fabric := by
  split
  · exact ha
  · exact hb

theorem State.stopEverything_fabric (s : State) (code : BitVec 16) (rewind : Bool) :
    (s.stopEverything code rewind).fabric = s.fabric := by
  unfold State.stopEverything
  dsimp only
  rw [State.forEach_fabric ?spares, State.forEach_fabric ?clusters]
  simp only [State.setRail_fields, State.setCloses_fields]
  rw [State.forEach_fabric ?queues, State.forEach_fabric ?cores]
  case clusters => exact fun _ _ => rfl
  case queues => exact fun _ _ => rfl
  case spares => exact fun u k => State.ite_fabric rfl rfl
  case cores => exact fun u k => State.ite_fabric rfl (by simp only [State.modCore_fields])

theorem State.voidStaging_fabric (s : State) : s.voidStaging.fabric = s.fabric := by
  unfold State.voidStaging
  dsimp only
  split
  · rfl
  · rfl

theorem State.abandonSnap_fabric (s : State) : s.abandonSnap.fabric = s.fabric := by
  unfold State.abandonSnap
  split
  · simpa using s.voidStaging_fabric
  · simpa using s.voidStaging_fabric
  · rfl
  · rfl

/-- A stop of the device leaves the signals that are under way. -/
theorem State.raiseStop_fabric (s : State) (pg : Nat) (code : BitVec 16) (info : Nat) :
    (s.raiseStop pg code info).fabric = s.fabric := by
  have raised : (s.raise pg code deviceStopSev info).fabric = s.fabric := by simp
  unfold State.raiseStop State.deviceStop
  split
  · exact raised
  · dsimp only
    simp only [State.raiseFull_fields, State.setErr_fields]
    rw [State.stopEverything_fabric, State.abandonSnap_fabric, raised]

theorem State.takeInjection_fabric (s : State) (pg : Nat) : (s.takeInjection pg).1.fabric = s.fabric := by
  have rest := ((Looked.refl s).takeInjection pg).rest
  tauto

theorem State.fabricWord_fabric (s : State) (d : Nat) : (s.fabricWord d).fabric = s.fabric := by
  have taken := s.takeInjection_fabric (pgFabric d)
  unfold State.fabricWord
  dsimp only
  split
  · exact taken
  · simpa using taken
  · exact (State.raiseStop_fabric _ _ _ _).trans taken

theorem State.countFabric_fabric (s : State) (d : Nat) : (s.countFabric d).fabric = s.fabric :=
  State.fabricWord_fabric _ d

/-- R338: a signal that leaves its core, or is of a device queue, enters the fabric behind the earlier ones. -/
theorem State.performSignal_fabric {s : State} {q tally : Nat} (leaves : ¬(q < 512 ∧ q / 4 = tallyCore tally)) (inc op : Nat) :
    (s.performSignal q tally inc op).fabric = s.fabric ++ [⟨q, BitVec.ofNat 16 tally, BitVec.ofNat 16 inc, op⟩] := by
  have foreign : ownSource (tallyCore tally) q = false := by simpa [ownSource] using leaves
  unfold State.performSignal
  rw [foreign]
  simp only [Bool.false_eq_true, if_false]
  split
  · exact State.countFabric_fabric _ _
  · exact State.countFabric_fabric _ _

/-! ### The oldest signal of a source to a tally -/

/-- Signal `g` is the oldest of its source to its tally: those of the fabric before it, `older`, are others. -/
structure State.Oldest (s : State) (g : Signal) (older newer : List Signal) : Prop where
  fabric : s.fabric = older ++ g :: newer
  first : ∀ x ∈ older, ¬(x.src = g.src ∧ x.tally = g.tally)

section
variable {s : State} {g : Signal} {older newer : List Signal} (oldest : s.Oldest g older newer)
include oldest

theorem State.Oldest.not_older : ∀ x ∈ older, ¬(x.src == g.src && x.tally == g.tally) = true := fun x mem => by
  simpa using oldest.first x mem

theorem State.Oldest.find : s.fabric.find? (fun x => x.src == g.src && x.tally == g.tally) = some g := by
  rw [oldest.fabric, List.find?_append, List.find?_eq_none.2 oldest.not_older, List.find?_cons_of_pos (by simp)]
  rfl

theorem State.Oldest.erase : s.fabric.eraseP (fun x => x.src == g.src && x.tally == g.tally) = older ++ newer := by
  rw [oldest.fabric, List.eraseP_append_right _ oldest.not_older, List.eraseP_cons_of_pos (by simp)]

/-- R338: it leaves the fabric with its increment. -/
theorem State.takeSignal_oldest : s.takeSignal g.src g.tally = (signed16 g.inc.toNat, s.setFabric (older ++ newer)) := by
  unfold State.takeSignal
  rw [oldest.find, oldest.erase]

theorem State.Oldest.rest_mem {x : Signal} (mem : x ∈ older ++ newer) : x ∈ s.fabric := by
  rw [oldest.fabric, List.mem_append, List.mem_cons]
  exact (List.mem_append.1 mem).imp_right .inr

/-- It arrives: at a fenced core it is dropped, or goes with the core; elsewhere it lands. -/
theorem State.Oldest.arrives : execRemoteSignal g.src g.tally s = .next (if s.lfenced (tallyCore g.tally.toNat) then
      if ownSource (tallyCore g.tally.toNat) g.src then s.setFabric (older ++ newer)
      else (s.setFabric (older ++ newer)).dropSignal g.src g.tally g.op
    else (s.setFabric (older ++ newer)).landSignal g.src g.tally (signed16 g.inc.toNat)) := by
  unfold execRemoteSignal
  rw [oldest.find]
  dsimp only
  rw [State.takeSignal_oldest oldest]

end

end Sys2Proof.Machine

open Sys2Proof Sys2Proof.Machine

/-- Settles O12: what a signal that leaves its core counts leaves the fabric alone, and the oldest one of a source to a tally is
the one that the row finds. -/
theorem signalsTravelInOrder : Obligations.SignalsTravelInOrder := by
  unfold Obligations.SignalsTravelInOrder
  refine ⟨fun s q tally inc op leaves => State.performSignal_fabric leaves inc op, ?_⟩
  rintro s _ _ g a b fabric rfl rfl first l
  have oldest : s.Oldest g a b := ⟨fabric, first⟩
  refine ⟨State.takeSignal_oldest oldest, fun fenced => ?dropped, fun alone serves => ?alone, fun serves => ?joined⟩
  case dropped => exact oldest.arrives.trans (congrArg _ (if_pos fenced))
  case alone =>
    refine oldest.arrives.trans (congrArg _ ((if_neg (by simp [serves, l])).trans ?_))
    exact State.landSignal_alone (fun x mem => alone x (oldest.rest_mem mem)) _
  case joined =>
    obtain ⟨others, u, same, waits, landed⟩ := (s.setFabric (a ++ b)).landSignal_joined g.src g.tally (signed16 g.inc.toNat)
    refine ⟨others, u, same, fun k mem => ?_, oldest.arrives.trans (congrArg _ ((if_neg (by simp [serves, l])).trans landed))⟩
    obtain ⟨other, y, wait, of⟩ := waits k mem
    exact ⟨other, y, oldest.rest_mem wait, of⟩

end

section
/-! SUPPORT. Control commands at issue (R454, R466 to R469), segment entries (R448), and that a fetch opens no injection (R584). -/

namespace Sys2Proof.Machine

/-! ### What leaves open whether injection is open -/

/-- Injection is open in `t` where it is in `s`. -/
def SameInjection (s t : State) : Prop := t.injectOpen = s.injectOpen

theorem SameInjection.refl (s : State) : SameInjection s s := Eq.refl s.injectOpen

theorem SameInjection.trans {a b c : State} (h : SameInjection a b) (h' : SameInjection b c) : SameInjection a c := Eq.trans h' h

theorem SameInjection.of {s t : State} (fuses : t.fuses = s.fuses) (boot : t.boot = s.boot) (err : t.err = s.err) :
    SameInjection s t := State.injectOpen_congr fuses boot err

theorem SameInjection.ite {s a b : State} {c : Prop} [Decidable c] (ha : SameInjection s a) (hb : SameInjection s b) :
    SameInjection s (if c then a else b) := by
  split
  · exact ha
  · exact hb

theorem SameInjection.foldl {α : Type} {f : State → α → State} (hf : ∀ u a, SameInjection u (f u a)) (l : List α) (s : State) :
    SameInjection s (l.foldl f s) :=
  List.foldlRecOn l f (.refl s) fun u h a _ => h.trans (hf u a)

theorem State.raiseFull_sameInjection (s : State) (pg : Nat) (code : BitVec 16) (sev info extra : Nat) (emit inj : Bool) :
    SameInjection s (s.raiseFull pg code sev info extra emit inj) := (s.raiseFull_told pg code sev info extra emit inj).injectOpen

theorem State.modLcore_sameInjection (s : State) (l : Nat) (f : Core → Core) : SameInjection s (s.modLcore l f) := .of rfl rfl rfl

theorem State.modCtl_sameInjection (s : State) (k : Nat) (f : Ctl → Ctl) : SameInjection s (s.modCtl k f) := .of rfl rfl rfl

theorem State.modRegion_sameInjection (s : State) (r : Nat) (f : Region → Region) : SameInjection s (s.modRegion r f) :=
  .of rfl rfl rfl

theorem State.modDie_sameInjection (s : State) (d : Nat) (f : Die → Die) : SameInjection s (s.modDie d f) := .of rfl rfl rfl

theorem State.setMemCond_sameInjection (s : State) (v : NMap WordCond) : SameInjection s (s.setMemCond v) := .of rfl rfl rfl

theorem State.failPage_sameInjection (s : State) (a : Nat) : SameInjection s (s.failPage a) := s.modCtl_sameInjection _ _

/-- An injection that fires disarms, and stays open. -/
theorem State.takeInjection_sameInjection (s : State) (pg : Nat) : SameInjection s (s.takeInjection pg).1 := by
  unfold State.takeInjection
  dsimp only
  split
  · exact .ite (.refl s) (.of rfl rfl rfl)
  · exact .refl s

/-! ### Reads -/

theorem State.noteScratchWord_sameInjection (s : State) (l : Nat) (w : Who) (k : Nat) (c : WordCond) :
    SameInjection s (s.noteScratchWord l w k c) := by
  unfold State.noteScratchWord
  dsimp only
  exact .ite ((s.modLcore_sameInjection _ _).trans (State.raiseFull_sameInjection _ _ _ _ _ _ _ _))
    ((s.modLcore_sameInjection _ _).trans (State.raiseFull_sameInjection _ _ _ _ _ _ _ _))

theorem State.writeBackTier_sameInjection (s : State) (k : Nat) : SameInjection s (s.writeBackTier k) := by
  have written (v : NMap WordCond) :=
    (s.takeInjection_sameInjection (ctlPage (s.ctlOf (32 * k)))).trans (State.setMemCond_sameInjection _ v)
  exact .ite (written _) ((written _).trans (State.failPage_sameInjection _ _))

theorem State.noteTierWord_sameInjection (s : State) (k : Nat) (c : WordCond) : SameInjection s (s.noteTierWord k c) := by
  unfold State.noteTierWord
  dsimp only
  split
  · exact ((s.modCtl_sameInjection _ _).trans (State.raiseFull_sameInjection _ _ _ _ _ _ _ _)).trans
      (State.writeBackTier_sameInjection _ _)
  · refine .trans ?_ (State.raiseFull_sameInjection _ _ _ _ _ _ _ _)
    exact .ite (s.modCtl_sameInjection _ _) ((s.modCtl_sameInjection _ _).trans (State.failPage_sameInjection _ _))

theorem State.checkLine_sameInjection (s : State) (line : Nat) : SameInjection s (s.checkLine line) := by
  unfold State.checkLine
  dsimp only
  have counted := s.modRegion_sameInjection (ctlRegion (s.ctlOf (line * 1024))) fun r => { r with checkMisses := satInc r.checkMisses }
  have opened (u : State) : SameInjection u u.open_.2 := .of rfl rfl rfl
  exact .ite (.refl s) (.ite (counted.trans (State.modCtl_sameInjection _ _ _))
    ((counted.trans (opened _)).trans (State.modCtl_sameInjection _ _ _)))

theorem State.countTier_sameInjection (s : State) (a len : Nat) (write : Bool) : SameInjection s (s.countTier a len write) := by
  have checked : SameInjection s (s.checkAccess a len) := .ite (.refl s) (.foldl State.checkLine_sameInjection _ s)
  exact checked.trans (.foldl (fun u _ => u.modRegion_sameInjection _ _) _ _)

theorem State.noteLedgerWord_sameInjection (s : State) (l : Nat) (w : Who) (x : Nat × Nat × Nat) (c : WordCond) :
    SameInjection s (s.noteLedgerWord l w x c) := by
  exact .ite (State.raiseFull_sameInjection _ _ _ _ _ _ _ _)
    ((s.modLcore_sameInjection _ _).trans (State.raiseFull_sameInjection _ _ _ _ _ _ _ _))

/-- Words that are read from inside, without a request of the fabric, open no injection and close none. -/
theorem State.noteWords_sameInjection (s : State) {w : Who} (inside : w.inbound = false) (a len : Nat) :
    SameInjection s (s.noteWords w a len) := by
  have tier : SameInjection s (s.noteTier a len) :=
    (SameInjection.foldl (fun u _ => u.noteTierWord_sameInjection _ _) _ s).trans (State.countTier_sameInjection _ _ _ _)
  unfold State.noteWords
  split
  · exact tier
  · exact tier
  · simp only [State.countInbound, inside, Bool.false_eq_true, if_false]
    exact .foldl (fun u _ => u.noteScratchWord_sameInjection _ _ _ _) _ s
  · simp only [State.noteRemote, inside, Bool.false_eq_true, if_false]
    exact (s.modLcore_sameInjection _ _).trans
      (.foldl (fun u _ => .ite (.refl u) (u.noteLedgerWord_sameInjection _ _ _ _)) _ _)
  · exact .refl s

theorem State.countBridge_sameInjection (s : State) (w : Who) (a len : Nat) (write : Bool) :
    SameInjection s (s.countBridge w a len write) := by
  unfold State.countBridge
  split
  · exact .refl s
  · exact .ite (.refl s) (s.modDie_sameInjection _ _)

theorem State.countBytes_sameInjection (s : State) (w : Who) (a len : Nat) : SameInjection s (s.countBytes w a len) := by
  have counted (q kind : Nat) : SameInjection s (s.countWork q kind len) := .ite (.refl s) (.of rfl rfl rfl)
  unfold State.countBytes
  split
  · exact counted _ _
  · exact counted _ _
  · exact counted _ _
  · exact .refl s

theorem State.read_sameInjection (s : State) {w : Who} (inside : w.inbound = false) (a len : Nat) :
    SameInjection s (s.read w a len).2 :=
  .ite (.refl s) (((s.noteWords_sameInjection inside a _).trans (State.countBridge_sameInjection _ _ _ _ _)).trans
    (State.countBytes_sameInjection _ _ _ _))

theorem State.fetchMarks_sameInjection (s : State) (q : Nat) : SameInjection s (s.fetchMarks q) := by
  unfold State.fetchMarks
  split
  · exact s.read_sameInjection rfl _ _
  · exact .refl s

theorem State.modQueue_sameInjection (s : State) (q : Nat) (f : QState → QState) : SameInjection s (s.modQueue q f) :=
  .ite (s.modLcore_sameInjection _ _) (.of rfl rfl rfl)

/-- Where injection is not open, the sequencer's state is stored sound. -/
theorem State.strikeSeq_shut {s : State} (shut : s.injectOpen = false) (q : Nat) : s.strikeSeq q = s := by
  unfold State.strikeSeq
  rw [State.strike_shut shut, State.takeInjection_shut shut]
  exact ite_self s

/-! ### Rows -/

/-- R323, R324: a SIGNAL whose operands are good, and that acts on no tags of a fenced core, is ready for its effect. -/
theorem execSignal_ready {s : State} {q : Nat} {e : Entry} (h : s.Ready q e (hasOp 0x02) fun _ _ => .go) (good : signalOk q e = true)
    (serves : tagActs e = true → tagRemote e = true → (s.fetchMarks q).lfenced (tagCore q e) = false) :
    execSignal q s = .next ((if tagActs e then
      (s.fetchMarks q).setTags (tagCore q e) (upTo (tagFirst e) (tagCount e)) (tagAction e == 2) else s.fetchMarks q).issueFinish q e) := by
  have unfenced : ¬(tagActs e = true ∧ tagRemote e = true ∧ (s.fetchMarks q).lfenced (tagCore q e) = true) := by
    rintro ⟨acts, remote, fenced⟩
    exact Bool.false_ne_true ((serves acts remote).symm.trans fenced)
  refine congrArg Host.Outcome.next (State.tryIssue_ready (h.withGate ?_) _)
  rw [if_neg (by simp [good]), if_neg unfenced]

/-- R448: a queue in front of a sound segment entry takes its commands from the segment. -/
theorem execSegmentEntry_enters {s : State} {q : Nat} {e : Entry} (may : s.mayIssue q = true) (front : s.front q = .segment e)
    (sound : segmentOk q e = true) :
    execSegmentEntry q s = .next (((s.fetchMarks q).modQueue q fun x => x.enter e).strikeSeq q) := by
  simp [execSegmentEntry, may, front, sound]

/-- R455, R459: the wake of a device queue whose command has passed step 1. -/
theorem execDeviceQueueWake_meets {s : State} {q : Nat} {e : Entry} (device : 512 ≤ q) (may : s.mayIssue q = true)
    (front : s.front q = .cmd e) (header : s.headerCheck q e = none)
    (passed : waitsAsBarrier e = true → (s.queue q).flight = []) (waits : waitEn e = true)
    (met : thresholdOf e ≤ (s.tallyAt (waitTallyOf e)).toNat) :
    execDeviceQueueWake q s = .next (s.modQueue q fun x => { x with woken := true }) := by
  have step1 : (!waitsAsBarrier e) = true ∨ (s.queue q).flight.isEmpty = true := by
    cases barrier : waitsAsBarrier e with
    | false => exact .inl rfl
    | true => exact .inr (by rw [passed barrier]; rfl)
  have ready : (decide (512 ≤ q) && s.mayIssue q) = true := by rw [decide_eq_true device, may]; rfl
  unfold execDeviceQueueWake
  rw [ready, front]
  exact congrArg Host.Outcome.next (if_pos ⟨header, step1, waits, met⟩)

end Sys2Proof.Machine

open Sys2Proof Sys2Proof.Machine

/-- Settles O13: each control command is `tryIssue` of a ready one. A fetch leaves it open whether injection is open, so that a
segment's entry strikes no sequencer state where it is not. -/
theorem controlCommandsComplete : Obligations.ControlCommandsComplete := by
  unfold Obligations.ControlCommandsComplete
  refine ⟨fun s q e => ⟨fun h => ?nop, fun h => ?wait, fun h => ?fence, fun h => ?forecast, fun h good serves => ?signal,
    fun h => ?stop⟩, fun s q e may front sound => ?segment,
    fun s q e device may front header passed waits met => execDeviceQueueWake_meets device may front header passed waits met⟩
  case nop => exact congrArg Host.Outcome.next (State.tryIssue_ready h _)
  case wait => exact congrArg Host.Outcome.next (State.tryIssue_ready h _)
  case fence => exact congrArg Host.Outcome.next (State.tryIssue_ready h _)
  case forecast => exact congrArg Host.Outcome.next (State.tryIssue_ready h _)
  case signal => exact execSignal_ready h good serves
  case stop => exact congrArg Host.Outcome.next (State.tryIssue_ready h _)
  case segment =>
    refine ⟨_, rfl, execSegmentEntry_enters may front sound, fun shut => State.strikeSeq_shut (Eq.trans ?_ shut) q⟩
    exact (s.fetchMarks_sameInjection q).trans (State.modQueue_sameInjection _ _ _)

end

section
/-! SUPPORT. Completions (R322, R329, R394, R427, R454): what a unit's row does with the command that is due to complete. -/

namespace Sys2Proof.Machine

section
variable {s : State} {core : Nat} (bound : core < 128)
include bound

/-- The vector unit's oldest command completes in the row of its kind. -/
theorem State.vecComplete_oldest {x : VecJob} {rest : List VecJob} (unit : (s.lcore core).vec.unit = x :: rest) :
    s.vecComplete core x.kind =
      (s.modVec core fun v => { v with unit := rest, commands := satInc v.commands }).finishJob x.job x.fills := by
  unfold State.vecComplete
  rw [decide_eq_true bound, unit]
  exact if_pos rfl

/-- R192: the quantise unit's oldest table command completes in the row of its kind. -/
theorem State.tableComplete_served {x : QuantJob} (served : (s.lcore core).quant.served = some x) (load : Bool) :
    s.tableComplete core x.kind load = (s.modQuant core fun u => { u with unit := u.unit.erase x }).finishJob x.job
      (writeSlots (tableAccess load x.job.cmd)) := by
  unfold State.tableComplete
  rw [decide_eq_true bound, served]
  exact if_pos rfl

/-- R216: so does a QUANTISE without `LAST`; the statistics that a dynamic pass has yet to write fill no slots. -/
theorem execQuantiseCommandComplete_oldest {x : QuantJob} {rest : List QuantJob} (unit : (s.lcore core).quant.unit = x :: rest)
    (quantise : x.kind = .quantise) (more : qLast x.job.cmd = false) :
    execQuantiseCommandComplete core s = .next (let u := s.modQuant core fun u => { u with unit := rest }
      (((if qDynamic x.job.cmd then u else u.fillSlots core (slotsIn (statRanges x.job.cmd))).releasePart x.job).finish x.job)) := by
  unfold execQuantiseCommandComplete
  rw [decide_eq_true bound, unit]
  exact congrArg Host.Outcome.next (if_pos ⟨quantise, by rw [more]; rfl⟩)

/-- R151: the command that holds the ledger's port, once done, leaves it to the next one. -/
theorem execLedgerCommandComplete_done {p : LedgerJob} {rest : List LedgerJob}
    (port : ((s.portAdvance core).lcore core).ledger.port = p :: rest) (done : p.done = true) :
    execLedgerCommandComplete core s = .next ((((s.portAdvance core).modLedger core fun L => { L with port := rest }).finishJob
      p.job (writeSlots (ledAccess p.job.cmd))).portAdvance core) := by
  unfold execLedgerCommandComplete
  rw [if_pos bound, decide_eq_true bound]
  dsimp only
  rw [port]
  exact congrArg Host.Outcome.next (if_pos done)

end

section
variable {s : State} {q : Nat} (bound : q < 512)
include bound

/-- R394: a DMA command whose data has been moved completes, a run-ahead one only once it is confirmed. -/
theorem execDmaComplete_done {d : DmaJob} (oldest : ((s.dmaAdvance q).lcore (q / 4)).dma.find? (fun d => d.job.q == q) = some d)
    (done : d.done = true) (confirmed : d.ra ≠ .unconfirmed)
    (loaded : ((s.dmaAdvance q).lcore (q / 4)).planeDue d.job.cmd = false) :
    execDmaComplete q s = .next ((((s.dmaAdvance q).modLcore (q / 4) fun c =>
      { c with dma := c.dma.filter fun x => x.job.q != q }).fillPairs d.wrote).finishJob d.job []) := by
  unfold execDmaComplete
  rw [if_pos bound, decide_eq_true bound]
  dsimp only
  rw [oldest]
  exact congrArg Host.Outcome.next (if_pos ⟨done, confirmed, by rw [loaded]; rfl⟩)

/-- R427: a CTX_COMMIT completes once the engine has committed all of its entries. -/
theorem execCtxCommitComplete_done {c d : CommitJob} (before : s.oldestCommit q = some c)
    (after : (s.commitAdvance c).oldestCommit q = some d) (same : d.job = c.job) (done : cCount d.job.cmd ≤ d.pos) :
    execCtxCommitComplete q s = .next (((s.commitAdvance c).modLcore (q / 4) fun x =>
      { x with commits := x.commits.filter fun y => !y.isOf d.job }).finishJob d.job []) := by
  unfold execCtxCommitComplete
  rw [decide_eq_true bound, before]
  dsimp only
  rw [after]
  exact congrArg Host.Outcome.next (if_pos ⟨same, done⟩)

end

end Sys2Proof.Machine

open Sys2Proof Sys2Proof.Machine

/-- Settles O22: each row finds the command that its unit has due, and completes it. -/
theorem completionsSignal : Obligations.CompletionsSignal := by
  unfold Obligations.CompletionsSignal
  refine ⟨fun s core bound => ⟨fun x rest unit kind => ?vector, fun x rest unit kind => ?collect, fun x served kind => ?scaleLoad,
      fun x served kind => ?statsRead, fun x rest unit kind more => ?quantise, fun p rest port done => ?ledger⟩,
    fun s q bound => ⟨fun d oldest done confirmed loaded => ?dma, fun c d before after same done => ?commit⟩⟩
  case vector => exact congrArg Host.Outcome.next (kind ▸ State.vecComplete_oldest bound unit)
  case collect => exact congrArg Host.Outcome.next (kind ▸ State.vecComplete_oldest bound unit)
  case scaleLoad => exact congrArg Host.Outcome.next (kind ▸ State.tableComplete_served bound served true)
  case statsRead => exact congrArg Host.Outcome.next (kind ▸ State.tableComplete_served bound served false)
  case quantise => exact execQuantiseCommandComplete_oldest bound unit kind more
  case ledger => exact execLedgerCommandComplete_done bound port done
  case dma => exact execDmaComplete_done bound oldest done confirmed loaded
  case commit => exact execCtxCommitComplete_done bound before after same done

end

section
/-! SUPPORT. Write-backs of a scratchpad (R315), the patrol and retirement of memory pages (R408 to R412), and the stop of the device
over a lost stack, channel or rail root (R414, R569, R582). -/

namespace Sys2Proof.Machine

/-! ### Scratchpads -/

/-- R317: a core whose queues hold no issued command takes its pending discipline. -/
theorem execDisciplineSwitch_idle {s : State} {core : Nat} (bound : core < 128)
    (idle : ((upTo 0 4).all fun i => ((s.lcore core).queue i).flight.isEmpty) = true) :
    execDisciplineSwitch core s = .next (s.modLcore core fun c => { c with scr := c.scr.switch }) :=
  congrArg Host.Outcome.next (if_pos ⟨bound, idle⟩)

/-- The scratchpad after its oldest corrected word, `k`, has been written back sound. -/
def Scratch.writtenBack (c : Scratch) (k : Nat) (rest : List Nat) : Scratch :=
  { c with writeback := rest, cond := nset .sound c.cond k .sound }

theorem Scratch.writtenBack_cond (c : Scratch) (k : Nat) (rest : List Nat) :
    (c.writtenBack k rest).cond = nset .sound c.cond k .sound := rfl

/-- R315: where no injection meets the write. -/
theorem execCorrectedWriteback_sound {s : State} {core k : Nat} {rest : List Nat} (bound : core < 128)
    (queued : (s.lcore core).scr.writeback = k :: rest) (correctable : nget .sound (s.lcore core).scr.cond k = .correctable)
    (unarmed : (s.takeInjection (s.pgL core bScratch)).2 = .sound) :
    ∃ t, execCorrectedWriteback core s = .next t ∧ (t.lcore core).scr = (s.lcore core).scr.writtenBack k rest := by
  let u := s.modLcore core fun c => { c with scr := { c.scr with writeback := rest } }
  have still : (u.takeInjection (u.pgL core bScratch)).2 = .sound :=
    (State.takeInjection_congr (s := s) (t := u) rfl rfl).trans unarmed
  have cond : nget .sound (u.lcore core).scr.cond k = .correctable := by
    rw [State.modLcore_same]
    exact correctable
  refine ⟨u.modLcore core fun c => { c with scr := { c.scr with cond := nset .sound c.scr.cond k .sound } }, ?_, ?_⟩
  · unfold execCorrectedWriteback
    rw [decide_eq_true bound, queued]
    refine congrArg Host.Outcome.next ((if_pos cond).trans ?_)
    rw [State.takeInjection_of_sound still]
  · rw [State.modLcore_same, State.modLcore_same]
    rfl

/-! ### The patrol and the retirement of memory pages -/

theorem Looked.patrolWord {s t : State} (h : Looked s t) (k : Nat) (c : WordCond) : Looked s (t.patrolWord k c) := by
  unfold State.patrolWord
  split
  · exact ((h.modCtl _ _).failPage _).tierEvent _ _ _
  · exact h.noteTierWord _ _
  · exact h

/-- R408: the patrol of a controller goes on to its next memory page, and its reads change no data. -/
theorem execTierPatrol_reads {s : State} {k : Nat} (bound : k < 32) (on : s.side.on = true) (runs : s.power.stop = .none)
    (zeroed : s.boot.wiping = false) (patrols : s.scrubPeriod k ≠ 0) :
    ∃ u, Looked s u ∧ execTierPatrol k s = .next (u.modCtl k fun x => { x with patrol := ((s.ctl k).patrol + 1) % ctlPages }) := by
  refine ⟨_, ?reads, congrArg Host.Outcome.next (if_neg ?due)⟩
  case reads => exact .foldl (fun u e h => h.patrolWord e.1 e.2) _ ((Looked.refl s).checkAccess _ _)
  case due => simp [bound, on, runs, zeroed, patrols]

/-- The state that the retirement of the oldest failing page, `g`, of controller `k` leaves in its controller, in the conditions of
the page's words and in the flash (R410, R412). -/
def State.spared (s : State) (k g : Nat) (rest : List Nat) : State :=
  ((s.modCtl k fun x =>
    { x with
      failing := rest, retired := satInc x.retired, sparesUsed := x.sparesUsed + 1
      lastRetired := BitVec.ofNat 24 (s.memPage (4096 * g)) }).setMemCond (spareConds s.memCond (4096 * g))).setFlash
    { s.flash with retired := nset [] s.flash.retired k (nget [] s.flash.retired k ++ [s.memPage (4096 * g)]) }

theorem State.spared_ctl (s : State) (k g : Nat) (rest : List Nat) : (s.spared k g rest).ctl k = { s.ctl k with
    failing := rest, retired := satInc (s.ctl k).retired, sparesUsed := (s.ctl k).sparesUsed + 1
    lastRetired := BitVec.ofNat 24 (s.memPage (4096 * g)) } := by
  simp only [State.spared, State.ctl, State.modCtl, State.setFlash_fields, State.setMemCond_fields, State.setCtls_fields,
    nget_nmod_same]

theorem State.spared_flash (s : State) (k g : Nat) (rest : List Nat) : (s.spared k g rest).flash =
    { s.flash with retired := nset [] s.flash.retired k (nget [] s.flash.retired k ++ [s.memPage (4096 * g)]) } := rfl

/-- R410: while a spare is left, the oldest failing page goes to it; the page registers of Tier 2 and an event tell of it. -/
theorem execPageRetired_spares {s : State} {k g : Nat} {rest : List Nat} (bound : k < 32) (on : s.side.on = true)
    (runs : s.power.stop = .none) (failing : (s.ctl k).failing = g :: rest) (spares : (s.ctl k).sparesUsed < spareTotal k) :
    ∃ t, execPageRetired k s = .next t ∧ t.ctls = (s.spared k g rest).ctls ∧ t.mem = s.mem ∧
      t.flash = (s.spared k g rest).flash := by
  have due : ¬(!decide (k < 32) || !s.side.on || decide (s.power.stop ≠ .none)) = true := by simp [bound, on, runs]
  let told := fun r : Region =>
    { r with t2LastChannel := BitVec.ofNat 2 ((k - 8) % 3), t2LastPage := BitVec.ofNat 24 (s.memPage (4096 * g)) }
  let u := if k < 8 then s.spared k g rest else (s.spared k g rest).modRegion (ctlRegion k) told
  refine ⟨u.tierEvent (4096 * g) 0x0503 noted, ?row, ?fields⟩
  case row =>
    unfold execPageRetired
    rw [if_neg due, failing]
    exact congrArg Host.Outcome.next (if_pos spares)
  case fields =>
    have kept : u.ctls = (s.spared k g rest).ctls ∧ u.mem = s.mem ∧ u.flash = (s.spared k g rest).flash := by
      dsimp only [u]
      split
      · exact ⟨rfl, rfl, rfl⟩
      · exact ⟨rfl, rfl, rfl⟩
    simpa [State.tierEvent] using kept

/-! ### Lost stacks, channels and roots -/

/-- R582: a device that runs stops with the code of the error. -/
theorem State.deviceStop_stops {s : State} (runs : s.err.deviceStopped = false) (powered : s.power.stop = .none)
    (cause : BitVec 16) : (s.deviceStop cause).err.deviceStopped = true ∧ (s.deviceStop cause).err.stopCode = cause := by
  unfold State.deviceStop
  rw [if_neg (by simp [runs, powered])]
  dsimp only
  generalize s.abandonSnap.stopEverything 0x0B01 false = u
  obtain ⟨stopped, code, -⟩ := ((u.setErr { u.err with deviceStopped := true, stopCode := cause }).raiseFull_told
    pgErragg 0x0B01 deviceStopSev (errInfo 0 0 0 cause) cause.toNat true false).more
  exact ⟨stopped, code⟩

theorem State.raiseStop_stops {s : State} (runs : s.err.deviceStopped = false) (powered : s.power.stop = .none) (pg : Nat)
    (code : BitVec 16) (info : Nat) :
    (s.raiseStop pg code info).err.deviceStopped = true ∧ (s.raiseStop pg code info).err.stopCode = code := by
  have raised := s.raise_told pg code deviceStopSev info
  exact State.deviceStop_stops (raised.more.1.trans runs) (by simpa using powered) code

/-- R414: a stack or channel that is lost stops the device. -/
theorem execTierChannelFailed_channel {s : State} {k : Nat} (bound : k < 32) (on : s.side.on = true) :
    ∃ info, execTierChannelFailed k s = .next (s.open_.2.raiseStop (ctlPage k) 0x0506 info) := by
  refine ⟨_, congrArg Host.Outcome.next ((if_neg ?_).trans (if_pos bound))⟩
  simp [on, Nat.lt_trans bound (by decide : 32 < 40)]

/-- R569: so does a rail root that fails; its code is open (log entry 112). -/
theorem execTierChannelFailed_root {s : State} {r : Nat} (bound : r < 8) (on : s.side.on = true) :
    ∃ code info, execTierChannelFailed (32 + r) s = .next (s.open_.2.open_.2.raiseStop (pgRail (32 + r - 32)) code info) := by
  refine ⟨_, _, congrArg Host.Outcome.next ((if_neg ?_).trans (if_neg (by omega)))⟩
  have root : 32 + r < 40 := by omega
  simp [on, root]

end Sys2Proof.Machine

open Sys2Proof Sys2Proof.Machine

/-- Settles O39: a write-back stores one word sound, the patrol's reads change no data, a retirement is told after the spare has
taken the page, and a lost stack, channel or root is one error of severity device-stop. -/
theorem scratchpadsAndTiersWork : Obligations.ScratchpadsAndTiersWork := by
  unfold Obligations.ScratchpadsAndTiersWork
  refine ⟨⟨fun s core bound idle => ?switches, fun s core k rest bound queued correctable unarmed => ?writesBack⟩,
    fun s k bound on => ⟨fun runs zeroed patrols => ?patrols, fun g rest runs failing spares => ?retires,
      fun stands runs => ?stops⟩, fun s r bound on stands runs => ?rootStops⟩
  case switches => exact execDisciplineSwitch_idle bound idle
  case writesBack =>
    obtain ⟨t, run, scr⟩ := execCorrectedWriteback_sound bound queued correctable unarmed
    refine ⟨t, run, ?_⟩
    rw [scr, Scratch.writtenBack_cond]
    exact ⟨rfl, nget_nset_same _ _ _ _, fun j other => nget_nset_other _ _ _ other, rfl⟩
  case patrols =>
    obtain ⟨u, reads, run⟩ := execTierPatrol_reads bound on runs zeroed patrols
    exact ⟨_, run, by rw [State.modCtl_same], reads.contexts.1⟩
  case retires =>
    obtain ⟨t, run, ctls, mem, flash⟩ := execPageRetired_spares bound on runs failing spares
    have ctl : t.ctl k = (s.spared k g rest).ctl k := congrArg (nget Ctl.reset · k) ctls
    refine ⟨t, run, ?_⟩
    rw [ctl, State.spared_ctl, flash, State.spared_flash]
    exact ⟨rfl, rfl, rfl, mem, nget_nset_same _ _ _ _⟩
  case stops =>
    obtain ⟨info, run⟩ := execTierChannelFailed_channel bound on
    exact ⟨_, run, State.raiseStop_stops (s := s.open_.2) stands runs _ _ _⟩
  case rootStops =>
    obtain ⟨code, info, run⟩ := execTierChannelFailed_root bound on
    exact ⟨_, run, (State.raiseStop_stops (s := s.open_.2.open_.2) stands runs _ _ _).1⟩

end

section
/-! SUPPORT. Registers of a core's pages: slot tags (R323) and tally values (R341). -/

namespace Sys2Proof.Machine

/-- A slot that an action names holds the tag that it sets, and another slot keeps its own. -/
theorem Scratch.setTags_full (c : Scratch) (slots : List Nat) (full : Bool) (k : Nat) :
    (c.setTags slots full).full k = if k ∈ slots then full else c.full k := by
  unfold Scratch.setTags Scratch.full
  dsimp only
  generalize c.tags = m
  induction slots generalizing m with
  | nil => simp
  | cons a slots ih =>
    rw [List.foldl_cons, ih, nget_nset]
    by_cases later : k ∈ slots
    · simp [later]
    · simp [later, List.mem_cons]

theorem mem_upTo_iff {b n k : Nat} : k ∈ upTo b n ↔ b ≤ k ∧ k < b + n := ⟨mem_upTo, fun ⟨low, high⟩ => mem_upTo_of_lt low high⟩

/-- R323: action 1 empties the slots of its range and action 2 fills them. -/
theorem State.tagAction_sets {p first count act : Nat} (range : first + count ≤ 512) (acts : act = 1 ∨ act = 2) (s : State) :
    s.tagAction p first count act = s.modCore p fun c => { c with scr := c.scr.setTags (upTo first count) (act == 2) } := by
  unfold State.tagAction
  rw [if_neg (by omega), if_neg (by omega)]

/-- What the action leaves: the tags of its range, and every byte as it was. -/
theorem State.tagAction_scratch {p first count act : Nat} (range : first + count ≤ 512) (acts : act = 1 ∨ act = 2) (s : State) :
    (∀ k, ((s.tagAction p first count act).core p).scr.full k =
      if first ≤ k ∧ k < first + count then act == 2 else (s.core p).scr.full k) ∧
    ((s.tagAction p first count act).core p).scr.mem = (s.core p).scr.mem := by
  rw [State.tagAction_sets range acts, State.modCore_same]
  refine ⟨fun k => (Scratch.setTags_full _ _ _ k).trans ?_, rfl⟩
  simp only [mem_upTo_iff]

/-- `TALLY.VALUE_n` stands at offset 0x100 + 4n of the page. -/
theorem State.rwCore_tally (s : State) (p off : Nat) (v : Word) : s.rwCore p bTally off v =
    if 0x100 ≤ off ∧ off < 0x200 then some ((s.modCore p fun c =>
      { c with tally := { c.tally with value := nset 0 c.tally.value ((off - 0x100) / 4) v } }).strikeAt p bTally)
    else none := rfl

theorem State.strikeAt_shut {s : State} (shut : s.injectOpen = false) (p block : Nat) : s.strikeAt p block = s := by
  simp [State.strikeAt, State.takeInjection_shut shut]

section
variable {s : State} {ini p : Nat} (core : p < 132)
include core

theorem execTagEmpty_admitted (reached : s.admits ini (pgCore p bScratch) = true) (first count : Nat) :
    execTagEmpty ini p first count s = .next (s.tagAction p first count 1) :=
  (State.regRow_admitted reached _).trans (congrArg _ (if_pos core))

theorem execTagFill_admitted (reached : s.admits ini (pgCore p bScratch) = true) (first count : Nat) :
    execTagFill ini p first count s = .next (s.tagAction p first count 2) :=
  (State.regRow_admitted reached _).trans (congrArg _ (if_pos core))

/-- R341: where injection is not open, a write sets the tally and does no more. -/
theorem execTallyValueWrite_open (reached : s.admits ini (pgCore p bTally) = true) (unlocked : (s.page (pgCore p bTally)).lock = false)
    (shut : s.injectOpen = false) {n : Nat} (bound : n < 64) (v : Word) :
    execTallyValueWrite ini p n v s =
      .next (s.modCore p fun c => { c with tally := { c.tally with value := nset 0 c.tally.value n v } }) := by
  refine (State.regRow_open reached unlocked true _).trans (congrArg _ ((if_pos ⟨core, bound⟩).trans ?_))
  have offset : 0x100 ≤ 0x100 + 4 * n ∧ 0x100 + 4 * n < 0x200 := by omega
  have number : (0x100 + 4 * n - 0x100) / 4 = n := by omega
  rw [State.rwCore_tally, if_pos offset, number]
  exact State.strikeAt_shut (s := s.modCore p _) shut p bTally

end

end Sys2Proof.Machine

open Sys2Proof Sys2Proof.Machine

/-- Settles O52: a tag action sets the tags of its range, and a write to a tally sets it alone. -/
theorem coreRegistersWork : Obligations.CoreRegistersWork := by
  unfold Obligations.CoreRegistersWork
  refine fun s ini p core => ⟨fun reached first count range => ⟨?empty, ?fill⟩,
    fun reached unlocked shut n v bound => ?tally⟩
  case empty => exact ⟨_, execTagEmpty_admitted core reached first count, State.tagAction_scratch range (.inl rfl) s⟩
  case fill => exact ⟨_, execTagFill_admitted core reached first count, State.tagAction_scratch range (.inr rfl) s⟩
  case tally =>
    refine ⟨_, execTallyValueWrite_open core reached unlocked shut bound v, ?_⟩
    rw [State.modCore_same]
    exact ⟨nget_nset_same _ _ _ _, fun k other => nget_nset_other _ _ _ other⟩

end

section
/-! SUPPORT. The engine and the rail: how a ready DMA command starts, what a take leaves in its core, what the read of a block
leaves alone, and the rows that send blocks, end takes and streams, and run ahead (R361 to R394). -/

namespace Sys2Proof.Machine

/-! ### Issue (R366, R377, R386) -/

/-- R366, R440: a DMA command that is ready, of whichever row, enters the engine with its ranges. -/
theorem State.dmaTry_ready {s : State} {q : Nat} {e : Entry} {row : Entry → Bool} (h : s.Ready q e row (dmaGate q)) :
    s.dmaTry q row = (((s.fetchMarks q).issue q).enterJob ((s.fetchMarks q).newJob q e) ((s.fetchMarks q).dmaAccess q e)).dmaStart
      ((s.fetchMarks q).newJob q e) .none := State.tryIssue_ready h _

theorem State.takeTry_ready {s : State} {q : Nat} {e : Entry} (h : s.Ready q e (hasOp 0x12) (takeGate q)) :
    s.takeTry q = ((s.fetchMarks q).issue q).startTake ((s.fetchMarks q).newJob q e) .none := State.tryIssue_ready h _

@[simp] theorem State.issue_lfenced (s : State) (q l : Nat) : (s.issue q).lfenced l = s.lfenced l := by
  unfold State.lfenced
  rw [State.issue_part s q Core.fence fun _ _ => rfl]

/-! ### A take's target planes (R58, R386) -/

theorem Frame.startLoad_loading (x : Frame) : x.startLoad.idle.st = .loading := by
  cases active : x.active1 <;> simp [Frame.startLoad, Frame.setIdle, Frame.idle, active]

/-- A load that starts at frame `f` takes no other frame out of LOADING. -/
theorem Core.startLoad_loading {c : Core} {f k : Nat} (h : k = f ∨ (c.frame k).idle.st = .loading) :
    ((c.startLoad f).frame k).idle.st = .loading := by
  show ((c.modFrame f Frame.startLoad).frame k).idle.st = .loading
  by_cases same : k = f
  · subst same
    rw [Core.modFrame_same]
    exact Frame.startLoad_loading _
  · rw [Core.modFrame_other _ _ same]
    exact h.resolve_left same

theorem Core.foldl_startLoad_loading {fs : List Nat} {c : Core} {k : Nat} (h : k ∈ fs ∨ (c.frame k).idle.st = .loading) :
    ((fs.foldl Core.startLoad c).frame k).idle.st = .loading := by
  induction fs generalizing c with
  | nil => simpa using h
  | cons f fs ih =>
    refine ih ?_
    rw [List.mem_cons] at h
    obtain (first | rest) | loading := h
    · exact .inr (Core.startLoad_loading (.inl first))
    · exact .inl rest
    · exact .inr (Core.startLoad_loading (.inr loading))

/-- R386: the take that starts is its core's youngest. -/
theorem State.startTake_youngest (s : State) (j : Job) (ra : RunAhead) :
    ((s.startTake j ra).lcore (j.q / 4)).takes.getLast? = some (s.newTake j ra) := by
  unfold State.startTake
  rw [State.modLcore_same]
  exact List.getLast?_concat

/-- R58: its target planes are LOADING. -/
theorem State.startTake_loading (s : State) (j : Job) (ra : RunAhead) {f : Nat} (target : f ∈ takeFrames j.cmd) :
    (((s.startTake j ra).lcore (j.q / 4)).frame f).idle.st = .loading := by
  unfold State.startTake
  rw [State.modLcore_same]
  exact Core.foldl_startLoad_loading (.inl target)

/-! ### The read of a block (R380, R401) -/

theorem State.noteRead_sameInjection (s : State) {w : Who} (inside : w.inbound = false) (a len : Nat) :
    SameInjection s (s.noteRead w a len) :=
  .ite (.refl s) (((s.noteWords_sameInjection inside a len).trans (State.countBridge_sameInjection _ _ _ _ _)).trans
    (State.countBytes_sameInjection _ _ _ _))

/-- The region whose root reads the next block of a stream (R380). -/
def State.blockRegion (s : State) (stream : Nat) : Nat :=
  ctlRegion (s.ctlOf ((s.stream stream).source + 256 * (s.stream stream).position))

/-- The marks that the read of the next block of a stream leaves, those of the bridge among them where a taker sits on the other
die (R380). -/
def State.blockRead (s : State) (stream : Nat) : State :=
  let x := s.stream stream
  let u := s.noteRead ⟨0, 0, false, none, some x.q⟩ (x.source + 256 * x.position) 256
  if x.takers.any fun l => dieOf l != s.blockRegion stream / 4 then
    u.modDie (s.blockRegion stream / 4) fun y => { y with bridgeTx := y.bridgeTx + 256 } else u

/-- What an armed injection of the root's page does to the block (R584). -/
def State.blockInjection (s : State) (stream : Nat) : State × WordCond :=
  (s.blockRead stream).takeInjection (pgRail (s.blockRegion stream))

/-- The block has left its root, which has counted it, and has not yet reached a taker (R380, R383). -/
def State.blockLeft (s : State) (stream : Nat) : State :=
  let x := s.stream stream
  let lost := ((condsIn s.memCond (x.source + 256 * x.position) 256).filter fun e => lostWord e.2).length
  (s.blockInjection stream).1.modRegion (s.blockRegion stream) fun y =>
    { y with rootBytes := y.rootBytes + 256, poisonedWords := satAdd y.poisonedWords lost }

theorem State.blockRead_looked (s : State) (stream : Nat) : Looked s (s.blockRead stream) :=
  .ite (((Looked.refl s).noteRead rfl _ _).modDie _ _) ((Looked.refl s).noteRead rfl _ _)

/-- The memory and the rail are as they were until the block reaches its takers. -/
theorem State.blockLeft_looked (s : State) (stream : Nat) : Looked s (s.blockLeft stream) :=
  ((s.blockRead_looked stream).takeInjection _).modRegion _ _

theorem State.blockRead_sameInjection (s : State) (stream : Nat) : SameInjection s (s.blockRead stream) :=
  .ite ((s.noteRead_sameInjection rfl _ _).trans (State.modDie_sameInjection _ _ _)) (s.noteRead_sameInjection rfl _ _)

theorem State.blockInjection_shut {s : State} (shut : s.injectOpen = false) (stream : Nat) :
    (s.blockInjection stream).2 = .sound :=
  congrArg Prod.snd (State.takeInjection_shut (Eq.trans (s.blockRead_sameInjection stream) shut) _)

/-! ### Rows -/

/-- R386, log entry 96: a take that waited at step 7 starts as the next of its queue's takes. -/
theorem execTakeStart_ready {s : State} {q : Nat} {e : Entry} (waited : (s.queue q).heldStep = 7)
    (h : s.Ready q e (hasOp 0x12) (takeGate q)) : execTakeStart q (s.takesOf q).length s =
      .next (((s.fetchMarks q).issue q).startTake ((s.fetchMarks q).newJob q e) .none) :=
  congrArg Host.Outcome.next ((if_pos ⟨waited, rfl⟩).trans (State.takeTry_ready h))

/-- R379, R380: a block that no taker holds goes to every taker, and the stream moves on by one. -/
theorem execRailBlockSend_unheld {s : State} {stream : Nat} (bound : stream < 8) (opened : (s.stream stream).isOpen = true)
    (left : (s.stream stream).position < (s.stream stream).length) (unheld : (s.railHolder stream).isNone = true) :
    let x := s.stream stream
    let r := s.peek (x.source + 256 * x.position) 256
    let inj := (s.blockInjection stream).2
    execRailBlockSend stream s = .next ((x.takers.foldl (fun t l => t.takeBlock stream l x.position r.blk
      (decide (r.code ≠ 0 ∨ inj = .uncorrectable)) (b2n (inj == .correctable))) (s.blockLeft stream)).modStream stream fun y =>
        { y with position := x.position + 1 }) :=
  congrArg Host.Outcome.next (if_pos ⟨bound, opened, left, unheld⟩)

/-- R381: a take that has all of its blocks, and that no confirmation and no skip holds back, completes or stops its queue. -/
theorem execRailTakeComplete_full {s : State} {q i : Nat} {t : Take} (at_ : s.takeAt q i = some t) (planes : t.planesLeft = [])
    (scales : t.scalesLeft = []) (confirmed : t.ra ≠ .unconfirmed) (kept : t.ra ≠ .cancelled) :
    let n := takeStream t.job.cmd
    let u := s.modLcore (q / 4) fun c => c.dropTake t.job
    let v := if t.scalePoison then u.endJob t.job (railStop q n 0x0455) else u.finishJob t.job []
    execRailTakeComplete q i s = .next (if takeLast t.job.cmd ∧ (v.stream n).isOpen ∧ (v.stream n).gen = t.gen then
      (v.leaveStream (q / 4) n false).sweepSwaps (q / 4) 4 else v) := by
  unfold execRailTakeComplete
  rw [at_]
  exact congrArg Host.Outcome.next (if_pos ⟨planes, scales, confirmed, kept⟩)

/-- R388: a stream that has sent all of its blocks closes, and completes its launch where that has not been stopped. -/
theorem execRailStreamClose_sent {s : State} {stream : Nat} (bound : stream < 8) (opened : (s.stream stream).isOpen = true)
    (sent : (s.stream stream).position = (s.stream stream).length) :
    let x := s.stream stream
    execRailStreamClose stream s =
      .next (if x.signals then (s.closeStream stream).finish ⟨x.id, x.q, x.cmd⟩ else s.closeStream stream) :=
  congrArg Host.Outcome.next (if_pos ⟨bound, opened, sent⟩)

theorem State.closeStream_reset (s : State) (n : Nat) : (s.closeStream n).stream n = .reset := by
  unfold State.closeStream
  exact State.modStream_same _ _ _

/-- A command `i` entries ahead that its queue has fetched and not yet started (R450). -/
structure State.FetchedAhead (s : State) (q i : Nat) (e : Entry) : Prop where
  core : q < 512
  near : i < lookAhead
  may : s.mayIssue q = true
  unpassed : (s.queue q).passed.contains i = false
  fetched : (s.ahead q (s.queue q) (i + 1))[i]? = some e

/-- What lets a command start before it issues: its kind and header (R389), the commands that it passes (R390), and its unit
(R391). -/
structure State.Startable (s : State) (q i : Nat) (e : Entry) : Prop where
  kind : s.mayRunAhead q e = true
  header : s.headerCheck q e = none
  free : barrier e = false
  met : waitEn e = false ∨ s.waitMet q e = true
  passes : (((s.ahead q (s.queue q) (i + 1)).take i).zipIdx.all fun d =>
    s.mayPass q e d.1 ((s.queue q).passed.contains d.2)) = true
  few : ((s.lcore (q / 4)).unconfirmed q).length < 2
  unit : s.aheadReady q e = true

/-- The command `i` entries ahead has been passed to its unit, and its core has counted it (R391). -/
def State.passAhead (s : State) (q i : Nat) : State :=
  (s.modQueue q fun y => { y with nextId := y.nextId + 1, passed := y.passed ++ [i] }).modLcore (q / 4) fun c =>
    { c with scr := { c.scr with raStarted := satInc c.scr.raStarted } }

/-- R389 to R391: the command becomes a take, or enters the engine, unconfirmed. -/
theorem execRunAheadStart_startable {s : State} {q i : Nat} {e : Entry} (h : s.FetchedAhead q i e) (start : s.Startable q i e) :
    execRunAheadStart q i s = .next (if opcode e = 0x12 then (s.passAhead q i).startTake (s.newJob q e) .unconfirmed
      else ((s.passAhead q i).enterJob (s.newJob q e) ((s.passAhead q i).dmaAccess q e)).dmaStart (s.newJob q e) .unconfirmed) := by
  obtain ⟨core, near, may, unpassed, fetched⟩ := h
  obtain ⟨kind, header, free, met, passes, few, unit⟩ := start
  unfold execRunAheadStart
  simp only [core, near, may, unpassed, fetched, decide_true, Bool.not_false, Bool.and_self]
  refine congrArg Host.Outcome.next (if_pos ⟨kind, header, ?_, ?_, passes, few, unit⟩)
  · simp [free]
  · simpa using met

/-- R392: the queue passes a command that has run ahead and has become its oldest one as an issue does, and confirms it. -/
theorem execRunAheadConfirm_go {s : State} {q : Nat} {j : Job} (may : s.mayIssue q = true) (oldest : s.aheadFront q = some j)
    (go : ((s.enterFront q).fetchMarks q).verdictSteps q j.cmd = .go) : execRunAheadConfirm q s =
      .next ((((s.enterFront q).fetchMarks q).modQueue q fun x => x.issueAs j.id).modLcore (q / 4) fun c =>
        c.setAhead j .confirmed) := by
  simp only [execRunAheadConfirm, may, oldest, go]

end Sys2Proof.Machine

open Sys2Proof Sys2Proof.Machine

/-- Settles O14: each row is `tryIssue` of a ready command; the stream that a launch opens takes the cores that were unfenced
before the issue, which fences none. -/
theorem dmaAndRailCommandsIssue : Obligations.DmaAndRailCommandsIssue := by
  unfold Obligations.DmaAndRailCommandsIssue
  have enters {s : State} {q : Nat} {e : Entry} {row : Entry → Bool} (h : s.Ready q e row (dmaGate q)) :
      (.next (s.dmaTry q row) : Res) = .next _ := congrArg _ (State.dmaTry_ready h)
  refine ⟨fun s q e => ⟨enters, enters, enters, enters, enters, enters, enters⟩,
    fun s q e => ⟨fun h => ?launch, fun h => ?take⟩⟩
  case launch =>
    refine ⟨_, congrArg Host.Outcome.next (State.tryIssue_ready h _), ?opens, ?stream⟩
    case opens => simp only [State.modStream_same]
    case stream =>
      dsimp only
      rw [State.modStream_same]
      refine ⟨rfl, rfl, BitVec.toNat_ofNat _ _, rfl, rfl, rfl, rfl, fun l => ?_⟩
      have unfenced : State.lfenced (((s.fetchMarks q).issue q).setRail { (s.fetchMarks q).rail with
        launches := (s.fetchMarks q).rail.launches + 1 }) l = (s.fetchMarks q).lfenced l := State.issue_lfenced _ q l
      simp [unfenced]
  case take => exact congrArg Host.Outcome.next (State.takeTry_ready h)

/-- Settles O23: a take that starts is its core's youngest and its planes are loading; the read of a block leaves the memory and
the rail as they were; takes and streams end by their rows' own effect. -/
theorem railWorks : Obligations.RailWorks := by
  unfold Obligations.RailWorks
  refine ⟨fun s q e waited h => ?start, fun s stream bound opened left unheld => ?send,
    fun s q i t at_ planes scales confirmed kept => ?complete, fun s stream bound opened sent => ?close⟩
  case start =>
    exact ⟨_, execTakeStart_ready waited h, rfl, _, State.startTake_youngest _ _ _, rfl, rfl, rfl,
      fun f target => State.startTake_loading _ _ _ target⟩
  case send =>
    obtain ⟨-, -, -, memory, -, -, -, -, rail, -⟩ := (s.blockLeft_looked stream).rest
    exact ⟨_, _, rail, memory, fun shut => State.blockInjection_shut shut stream,
      execRailBlockSend_unheld bound opened left unheld⟩
  case complete => exact execRailTakeComplete_full at_ planes scales confirmed kept
  case close => exact ⟨s.closeStream_reset stream, execRailStreamClose_sent bound opened sent⟩

/-- Settles O24: a command that its queue has fetched and that may pass starts unconfirmed; once it is the oldest one and its
verdict lets it go, the queue issues it. -/
theorem runAheadWorks : Obligations.RunAheadWorks := by
  unfold Obligations.RunAheadWorks
  refine ⟨fun s q i e core near may unpassed fetched kind header free unwaited passes few unit => ?start,
    fun s q j core may oldest go => ?confirm⟩
  case start =>
    exact execRunAheadStart_startable ⟨core, near, may, unpassed, fetched⟩
      ⟨kind, header, free, .inl unwaited, passes, few, unit⟩
  case confirm => exact execRunAheadConfirm_go may oldest go

end

section
/-! SUPPORT. Every command, and so every step, keeps what each meaning keeps (`Kept`): the fuses burn one way, the one-time index
rises, and memory and the spare map keep their form. -/

namespace Sys2Proof.Machine

/-- What holds along a run holds after any command, whichever arm of the dispatch it takes. -/
theorem exec_kept {s0 s : State} (c : Instr) (h : Kept s0 s) : KeptRes s0 (exec c s) :=
  match c with
  | .nop q => execNop_kept q h
  | .wait q => execWait_kept q h
  | .signal q => execSignal_kept q h
  | .stop q => execStop_kept q h
  | .forecast q => execForecast_kept q h
  | .versionFence q => execVersionFence_kept q h
  | .versionFenceTimeout q => execVersionFenceTimeout_kept q h
  | .segmentEntry q => execSegmentEntry_kept q h
  | .dmaCopy q => execDmaCopy_kept q h
  | .planeCopy q => execPlaneCopy_kept q h
  | .scaleCopy q => execScaleCopy_kept q h
  | .railLaunch q => execRailLaunch_kept q h
  | .tableGather q => execTableGather_kept q h
  | .kvWrite q => execKvWrite_kept q h
  | .dmaComplete q => execDmaComplete_kept q h
  | .railTake q => execRailTake_kept q h
  | .takeStart q n => execTakeStart_kept q n h
  | .railBlockSend stream => execRailBlockSend_kept stream h
  | .railTakeComplete q n => execRailTakeComplete_kept q n h
  | .railStreamClose stream => execRailStreamClose_kept stream h
  | .railStallTimeout stream => execRailStallTimeout_kept stream h
  | .runAheadStart q n => execRunAheadStart_kept q n h
  | .runAheadConfirm q => execRunAheadConfirm_kept q h
  | .frameMode q => execFrameMode_kept q h
  | .frameRun q => execFrameRun_kept q h
  | .frameRunT q => execFrameRunT_kept q h
  | .joinedRunStart cluster mask tag => execJoinedRunStart_kept cluster mask tag h
  | .sliceJoinTimeout q => execSliceJoinTimeout_kept q h
  | .promotion core gang => execPromotion_kept core gang h
  | .planeSwap q => execPlaneSwap_kept q h
  | .planeExchange core frame => execPlaneExchange_kept core frame h
  | .planeLoadComplete core frame => execPlaneLoadComplete_kept core frame h
  | .ledgerClear q => execLedgerClear_kept q h
  | .ledgerDrain q => execLedgerDrain_kept q h
  | .ledgerLoad q => execLedgerLoad_kept q h
  | .quantise q => execQuantise_kept q h
  | .quantExchange cluster mask => execQuantExchange_kept cluster mask h
  | .quantSettle core => execQuantSettle_kept core h
  | .quantExchangeTimeout core => execQuantExchangeTimeout_kept core h
  | .scaleLoad q => execScaleLoad_kept q h
  | .statsRead q => execStatsRead_kept q h
  | .vector q => execVector_kept q h
  | .sampleCollect q => execSampleCollect_kept q h
  | .sampleFinish q => execSampleFinish_kept q h
  | .sampleFinishJoin cluster mask => execSampleFinishJoin_kept cluster mask h
  | .sampleJoinTimeout core => execSampleJoinTimeout_kept core h
  | .streamScore q => execStreamScore_kept q h
  | .streamValue q => execStreamValue_kept q h
  | .streamWgrad q => execStreamWgrad_kept q h
  | .streamGemm q => execStreamGemm_kept q h
  | .streamCommandComplete cluster => execStreamCommandComplete_kept cluster h
  | .stashSave q => execStashSave_kept q h
  | .stashLoad q => execStashLoad_kept q h
  | .ctxCommit q => execCtxCommit_kept q h
  | .ctxOpen q => execCtxOpen_kept q h
  | .ctxClose q => execCtxClose_kept q h
  | .closeHoldersReleased ctx => execCloseHoldersReleased_kept ctx h
  | .kvAreaZeroed ctx => execKvAreaZeroed_kept ctx h
  | .snapshot q => execSnapshot_kept q h
  | .quiesceEnd => execQuiesceEnd_kept h
  | .snapQuiesceTimeout => execSnapQuiesceTimeout_kept h
  | .snapshotCopyComplete => execSnapshotCopyComplete_kept h
  | .flashDrainComplete => execFlashDrainComplete_kept h
  | .snapDrainFailed partner => execSnapDrainFailed_kept partner h
  | .restore q => execRestore_kept q h
  | .command conn hdr q entries => execCommand_kept conn hdr q entries h
  | .dataWrite conn hdr addr data => execDataWrite_kept conn hdr addr data h
  | .dataRead conn hdr addr len => execDataRead_kept conn hdr addr len h
  | .regAccess conn hdr ops => execRegAccess_kept conn hdr ops h
  | .tallyRemote conn hdr pairs => execTallyRemote_kept conn hdr pairs h
  | .snapshotChunk conn hdr offset header data => execSnapshotChunk_kept conn hdr offset header data h
  | .offer hdr keys signature imageLen => execOffer_kept hdr keys signature imageLen h
  | .chunk hdr piece => execChunk_kept hdr piece h
  | .attestReq conn hdr nonce => execAttestReq_kept conn hdr nonce h
  | .relsenPacket port pkt => execRelsenPacket_kept port pkt h
  | .ackTimer conn => execAckTimer_kept conn h
  | .lossDetectionTimer conn packet => execLossDetectionTimer_kept conn packet h
  | .retransmissionTimer conn => execRetransmissionTimer_kept conn h
  | .connectionLost conn => execConnectionLost_kept conn h
  | .planeProbe plane => execPlaneProbe_kept plane h
  | .eventSend die => execEventSend_kept die h
  | .frameReceive port f => execFrameReceive_kept port f h
  | .arpRequest port senderMac senderIp targetIp => execArpRequest_kept port senderMac senderIp targetIp h
  | .arpReply port senderMac senderIp => execArpReply_kept port senderMac senderIp h
  | .neighbourSolicitation port senderMac senderIp targetIp => execNeighbourSolicitation_kept port senderMac senderIp targetIp h
  | .neighbourAdvertisement port targetMac targetIp => execNeighbourAdvertisement_kept port targetMac targetIp h
  | .neighbourExpiry port ip => execNeighbourExpiry_kept port ip h
  | .ptpSync port domain seq => execPtpSync_kept port domain seq h
  | .ptpFollowUp port domain seq origin => execPtpFollowUp_kept port domain seq origin h
  | .ptpDelayResp port domain seq receive => execPtpDelayResp_kept port domain seq receive h
  | .ptpDelayReq => execPtpDelayReq_kept h
  | .linkUp port cr1 => execLinkUp_kept port cr1 h
  | .linkDown port => execLinkDown_kept port h
  | .fecDegraded port corrected uncorrectable => execFecDegraded_kept port corrected uncorrectable h
  | .remoteSignal src tally => execRemoteSignal_kept src tally h
  | .correctedWriteback core => execCorrectedWriteback_kept core h
  | .slotTagTimeout q => execSlotTagTimeout_kept q h
  | .scoreboardTimeout q => execScoreboardTimeout_kept q h
  | .disciplineSwitch core => execDisciplineSwitch_kept core h
  | .tierPatrol ctl => execTierPatrol_kept ctl h
  | .pageRetired ctl => execPageRetired_kept ctl h
  | .tierChannelFailed ctl => execTierChannelFailed_kept ctl h
  | .powerPeriod => execPowerPeriod_kept h
  | .avsbusSample rail mv ma => execAvsbusSample_kept rail mv ma h
  | .powerTelemetryLost rail => execPowerTelemetryLost_kept rail h
  | .opPointStep region failing => execOpPointStep_kept region failing h
  | .droopStretch core => execDroopStretch_kept core h
  | .stretchEnd core => execStretchEnd_kept core h
  | .clampEnd core => execClampEnd_kept core h
  | .stepUpResume region => execStepUpResume_kept region h
  | .throttleAsserted => execThrottleAsserted_kept h
  | .throttleReleased => execThrottleReleased_kept h
  | .thermalSample region readings => execThermalSample_kept region readings h
  | .ceilingStep region => execCeilingStep_kept region h
  | .thermalSensorFault region sensor => execThermalSensorFault_kept region sensor h
  | .thermalTrip region sensor => execThermalTrip_kept region sensor h
  | .coolantStop => execCoolantStop_kept h
  | .leakStop => execLeakStop_kept h
  | .sidebandChatter input => execSidebandChatter_kept input h
  | .chatterClear input => execChatterClear_kept input h
  | .restartReady => execRestartReady_kept h
  | .feedIdChange v => execFeedIdChange_kept v h
  | .slotIdChanged v => execSlotIdChanged_kept v h
  | .ppsEdge => execPpsEdge_kept h
  | .vinOutOfRange mv10 stays => execVinOutOfRange_kept mv10 stays h
  | .pwrEnRise => execPwrEnRise_kept h
  | .powerUpTimeout => execPowerUpTimeout_kept h
  | .powerOff railFault => execPowerOff_kept railFault h
  | .coldReset byResetL => execColdReset_kept byResetL h
  | .clockFailed die domain => execClockFailed_kept die domain h
  | .bridgeReplay die failed => execBridgeReplay_kept die failed h
  | .mgmtFailed die => execMgmtFailed_kept die h
  | .provisionRead record => execProvisionRead_kept record h
  | .hello => execHello_kept h
  | .tierZeroingComplete => execTierZeroingComplete_kept h
  | .imageVerify => execImageVerify_kept h
  | .imageStart => execImageStart_kept h
  | .coreFence phys cause => execCoreFence_kept phys cause h
  | .fenceComplete phys => execFenceComplete_kept phys h
  | .unfenceComplete phys => execUnfenceComplete_kept phys h
  | .coreRemapped spare => execCoreRemapped_kept spare h
  | .partitionResetComplete => execPartitionResetComplete_kept h
  | .pairingExchange feed index hold refuses => execPairingExchange_kept feed index hold refuses h
  | .jtagInstruction die ins => execJtagInstruction_kept die ins h
  | .jtagTransition target => execJtagTransition_kept target h
  | .stopRequest ini q => execStopRequest_kept ini q h
  | .actionRetry ini q => execActionRetry_kept ini q h
  | .actionSkip ini q => execActionSkip_kept ini q h
  | .actionFlush ini q => execActionFlush_kept ini q h
  | .ringConfig ini q base size => execRingConfig_kept ini q base size h
  | .tagEmpty ini phys first count => execTagEmpty_kept ini phys first count h
  | .tagFill ini phys first count => execTagFill_kept ini phys first count h
  | .tallyValueWrite ini phys n v => execTallyValueWrite_kept ini phys n v h
  | .hostFence ini page => execHostFence_kept ini page h
  | .unfence ini page => execUnfence_kept ini page h
  | .quiesceSet ini phys => execQuiesceSet_kept ini phys h
  | .quiesceRelease ini phys => execQuiesceRelease_kept ini phys h
  | .portEnable ini port on => execPortEnable_kept ini port on h
  | .errClearRecord ini page => execErrClearRecord_kept ini page h
  | .errClearCount ini page => execErrClearCount_kept ini page h
  | .errInject ini page v => execErrInject_kept ini page v h
  | .erraggClear ini => execErraggClear_kept ini h
  | .remapMap ini spare logical => execRemapMap_kept ini spare logical h
  | .remapUnmap ini spare => execRemapUnmap_kept ini spare h
  | .powerRestart ini => execPowerRestart_kept ini h
  | .peakClear ini => execPeakClear_kept ini h
  | .maxClear ini => execMaxClear_kept ini h
  | .latencyClear ini die => execLatencyClear_kept ini die h
  | .warmReset ini key => execWarmReset_kept ini key h
  | .partitionReset ini part key => execPartitionReset_kept ini part key h
  | .lifecycleTransition ini target key => execLifecycleTransition_kept ini target key h
  | .unlockToken ini last => execUnlockToken_kept ini last h
  | .connOpen ini => execConnOpen_kept ini h
  | .connClose ini => execConnClose_kept ini h
  | .stagingWrite ini offset v => execStagingWrite_kept ini offset v h
  | .loRead ini addr => execLoRead_kept ini addr h
  | .queueLoRead ini => execQueueLoRead_kept ini h
  | .descRead ini => execDescRead_kept ini h
  | .hiWrite ini addr value => execHiWrite_kept ini addr value h
  | .registerWrite ini addr value => execRegisterWrite_kept ini addr value h
  | .ledgerCommandComplete core => execLedgerCommandComplete_kept core h
  | .vectorCommandComplete core => execVectorCommandComplete_kept core h
  | .quantiseCommandComplete core => execQuantiseCommandComplete_kept core h
  | .sampleCollectComplete core => execSampleCollectComplete_kept core h
  | .scaleLoadComplete core => execScaleLoadComplete_kept core h
  | .statsReadComplete core => execStatsReadComplete_kept core h
  | .ctxCommitComplete q => execCtxCommitComplete_kept q h
  | .restoreComplete => execRestoreComplete_kept h
  | .resetLRelease => execResetLRelease_kept h
  | .stoppingInputReturn input => execStoppingInputReturn_kept input h
  | .deviceQueueWake q => execDeviceQueueWake_kept q h
  | .packetPacing conn => execPacketPacing_kept conn h

/-- It holds after a step: an idle one is a tick, another one runs the command at the front. -/
theorem step_follows {s t : State} (run : step s = .next t) : s.Follows t := by
  unfold step at run
  split at run
  next => exact (kept_res run (State.tick_kept (.refl s))).follows
  next c rest _ =>
    obtain ⟨fuses, record, memory, map⟩ := (kept_res run (exec_kept c (.refl (s.setPending rest)))).follows
    exact ⟨fuses, record, memory, map⟩

end Sys2Proof.Machine

open Sys2Proof Sys2Proof.Machine

/-- Settles O6: both forms are among what every meaning keeps. -/
theorem stepsKeepForm : Obligations.StepsKeepForm := by
  unfold Obligations.StepsKeepForm
  intro s t run
  have follows := step_follows run
  exact ⟨follows.memory, follows.map⟩

end

section
/-! SUPPORT. Context commands at issue (R420 to R429), and that an issue leaves the closes under way. -/

namespace Sys2Proof.Machine

theorem State.modQueue_closes (s : State) (q : Nat) (f : QState → QState) : (s.modQueue q f).closes = s.closes := by
  unfold State.modQueue
  split
  · rfl
  · rfl

/-- R429: the issue of a CTX_CLOSE and the write of its descriptor leave the closes under way. -/
theorem State.issue_ctxWrite_closes (s : State) (q n : Nat) (f : Ctx → Ctx) :
    ((s.issue q).ctxWrite n f).closes = s.closes :=
  ((s.issue q).ctxWrite_contexts n f).2.2.trans (s.modQueue_closes q _)

end Sys2Proof.Machine

open Sys2Proof Sys2Proof.Machine

/-- Settles O20: each row is `tryIssue` of a ready command, and a CTX_CLOSE adds its close behind those under way. -/
theorem contextCommandsIssue : Obligations.ContextCommandsIssue := by
  unfold Obligations.ContextCommandsIssue
  refine fun s q e => ⟨fun h => ?opens, fun h => ?commits, fun h => ?closes⟩
  case opens => exact congrArg Host.Outcome.next (State.tryIssue_ready h _)
  case commits => exact congrArg Host.Outcome.next (State.tryIssue_ready h _)
  case closes =>
    exact ⟨_, congrArg Host.Outcome.next (State.tryIssue_ready h _), rfl,
      congrArg (· ++ [_]) (State.issue_ctxWrite_closes _ q _ _)⟩

end

section
/-! SUPPORT. A read from outside the core crosses the fabric (R731); where injection is not open (R584), it changes no more than a
read from inside. -/

namespace Sys2Proof.Machine

theorem SameInjection.shut {s t : State} (h : SameInjection s t) (shut : s.injectOpen = false) : t.injectOpen = false :=
  Eq.trans h shut

/-- The fabric carries every word sound. -/
theorem State.fabricWord_shut {s : State} (shut : s.injectOpen = false) (d : Nat) : s.fabricWord d = s := by
  simp [State.fabricWord, State.takeInjection_shut shut]

theorem Looked.countFabric {s t : State} (h : Looked s t) (shut : t.injectOpen = false) (d : Nat) :
    Looked s (t.countFabric d) := by
  unfold State.countFabric
  rw [State.fabricWord_shut ((t.modDie_sameInjection d _).shut shut)]
  exact h.modDie _ _

theorem Looked.noteRemote_shut {s t : State} (h : Looked s t) (shut : t.injectOpen = false) (l : Nat) (w : Who) :
    Looked s (t.noteRemote l w) := .ite (h.countFabric shut _) h

theorem Looked.countInbound_shut {s t : State} (h : Looked s t) (shut : t.injectOpen = false) (l n : Nat) (w : Who) :
    Looked s (t.countInbound l n w) := by
  have counted := h.modLcore l (fun c => { c with scr := { c.scr with inboundBytes := c.scr.inboundBytes + BitVec.ofNat 64 n } })
    fun _ => ⟨_, _, _, _, _, _, _, rfl⟩
  exact .ite (counted.countFabric ((t.modLcore_sameInjection l _).shut shut) _) h

section
variable {s : State} (shut : s.injectOpen = false) (w : Who) (a n : Nat)
include shut

theorem State.noteWords_looked : Looked s (s.noteWords w a n) := by
  unfold State.noteWords
  split
  · exact (Looked.refl s).noteTier _ _
  · exact (Looked.refl s).noteTier _ _
  · refine Looked.countInbound_shut (.foldl (fun _ _ h => h.noteScratchWord _ _ _ _) _ (.refl s)) ?_ _ _ _
    exact (SameInjection.foldl (fun u _ => u.noteScratchWord_sameInjection _ _ _ _) _ s).shut shut
  · have stale := (Looked.refl s).noteStale
    exact .foldl (fun _ _ h => .ite h (h.noteLedgerWord _ _ _ _)) _
      ((stale _ _ _).noteRemote_shut ((s.modLcore_sameInjection _ _).shut shut) _ _)
  · exact .refl s

theorem State.read_looked_shut : Looked s (s.read w a n).2 :=
  .ite (.refl s) (((State.noteWords_looked shut w a _).countBridge _ _ _ _).countBytes _ _ _)

/-- R640: a DATA_READ reads, or its status lets it go no further. -/
theorem State.applyRead_looked (conn : Nat) : Looked s (s.applyRead conn a n).1 := by
  have read := State.read_looked_shut shut (s.rxWho conn) a n
  unfold State.applyRead
  split
  · dsimp only
    split
    · exact read
    · exact read
  · exact .refl s

end

theorem Looked.remap {s t : State} (h : Looked s t) : t.remap = s.remap := h.sameQ.2

/-- What a read may change in the core that serves a logical one. -/
theorem Looked.lcore {s t : State} (h : Looked s t) (l : Nat) : (s.lcore l).Looked (t.lcore l) := by
  unfold State.lcore
  rw [State.physOf_congr h.remap]
  exact h.core _

/-- A read changes no data of a core. -/
theorem Core.Looked.data {c c' : Core} (h : c.Looked c') : c'.scr.mem = c.scr.mem ∧ c'.scr.tags = c.scr.tags ∧
    c'.ledger.entries = c.ledger.entries ∧ c'.tally = c.tally := by
  obtain ⟨_, _, _, _, _, _, _, rfl⟩ := h
  exact ⟨rfl, rfl, rfl, rfl⟩

end Sys2Proof.Machine

open Sys2Proof Sys2Proof.Machine

/-- Settles O33: a DATA_READ changes no more than a read from inside the core, which is no data. -/
theorem dataReadsChangeNoData : Obligations.DataReadsChangeNoData := by
  unfold Obligations.DataReadsChangeNoData
  intro s n a len shut t
  have looked : Looked s t := State.applyRead_looked shut a len n
  obtain ⟨memory, contexts, -⟩ := looked.contexts
  have rest := looked.rest
  have fuses : t.fuses = s.fuses := by tauto
  have snap : t.snap = s.snap := by tauto
  exact ⟨memory, contexts, fuses, snap, looked.sameQ.queue, fun l => (looked.lcore l).data⟩

end

section
/-! SUPPORT. A write of part of a correctable tier word corrects the word first (R406, R408), and an injection armed at the tier's
page fires at that write-back (R584; log entry 101): the word is lost, and drops the part that it was to take. -/

namespace Sys2Proof.Machine

/-- A module in lifecycle state TEST with injection enabled, armed for an uncorrectable word in stack 0 of Tier 1 (R584). One
symbol of the stack's first word is wrong. -/
def correctionStruck : State := { State.reset with
  fuses := { Fuses.reset with lifecycle := 1 }
  err := { ErrAgg.reset with injectEn := true }
  pages := [(pgTier1 0, { PageHdr.reset with inject := 0xA })]
  memCond := [(0, .correctable)] }

/-- No word of the tiers has been lost. -/
theorem correctionStruck_readable (k : Nat) : lostWord (nget .sound correctionStruck.memCond k) = false := by
  simp only [correctionStruck, nget]
  split
  · rfl
  · rfl

/-- The word is corrected, and the correction struck; it drops the byte that it was to take. -/
theorem correctionStruck_write : byteAt (correctionStruck.writeBytes netWho 0 [1]).1.mem 0 = 0 := by decide +kernel

end Sys2Proof.Machine

open Sys2Proof Sys2Proof.Machine

/-- Refutes O34: a byte may be dropped although no word was lost when the write came. A correctable word that is written in part
is first corrected and written back; an injection armed at its page makes it uncorrectable there (R584), and it drops its part
(R406). -/
theorem not_tierWritesStayInRange : ¬ Obligations.TierWritesStayInRange := by
  unfold Obligations.TierWritesStayInRange
  intro h
  obtain ⟨written, -⟩ := h correctionStruck netWho 0 [1] (.tier1 0 0) (by simp) (by decide) rfl correctionStruck_readable
  exact absurd (correctionStruck_write.symm.trans (written 0 (by simp))) (by decide)

end

section
/-! SUPPORT. What a stop leaves in its queue (R472), and what the three ways past a command leave in the queues (R449, R459,
R461). -/

namespace Sys2Proof.Machine

/-- Of the queues of `s`, only queue `q` has changed in `t`, to `x`. That no other has is said of a spare map that is one to one. -/
structure SetsQueue (s t : State) (q : Nat) (x : QState) : Prop where
  queue : t.queue q = x
  others : s.remap.ok → ∀ k, k ≠ q → t.queue k = s.queue k
  remap : t.remap = s.remap

theorem SetsQueue.refl (s : State) (q : Nat) : SetsQueue s s q (s.queue q) := ⟨rfl, fun _ _ _ => rfl, rfl⟩

theorem SetsQueue.sameQ {s t u : State} {q : Nat} {x : QState} (h : SetsQueue s t q x) (same : SameQ t u) : SetsQueue s u q x :=
  ⟨(same.queue q).trans h.queue, fun map k ne => (same.queue k).trans (h.others map k ne), same.remap.trans h.remap⟩

theorem State.modQueue_remap (s : State) (q : Nat) (f : QState → QState) : (s.modQueue q f).remap = s.remap := by
  unfold State.modQueue
  split
  · rfl
  · rfl

theorem SetsQueue.modQueue {s t : State} {q : Nat} {x : QState} (h : SetsQueue s t q x) (f : QState → QState) :
    SetsQueue s (t.modQueue q f) q (f x) :=
  ⟨(t.modQueue_same q f).trans (congrArg f h.queue),
    fun map k ne => (State.modQueue_ne (h.remap.symm ▸ map) f ne).trans (h.others map k ne),
    (t.modQueue_remap q f).trans h.remap⟩

/-- R454: where injection is not open (R584), a command that is passed with its header signal changes its own queue alone. -/
theorem State.modQueue_headerSignal_sets {s : State} (shut : s.injectOpen = false) (q : Nat) (f : QState → QState) (e : Entry) :
    SetsQueue s ((s.modQueue q f).headerSignal q e) q (f (s.queue q)) :=
  ((SetsQueue.refl s q).modQueue f).sameQ ((SameQ.refl _).headerSignal ((s.modQueue_sameInjection q f).shut shut) q e)

end Sys2Proof.Machine

open Sys2Proof Sys2Proof.Machine

/-- Settles O9: a stop leaves its queue as `stopAt` does, but for commands in progress that it ends. -/
theorem stopsLeaveTheCommand : Obligations.StopsLeaveTheCommand := by
  unfold Obligations.StopsLeaveTheCommand
  intro s q st _ running x
  obtain ⟨_, stopped⟩ := s.stopWith_queue st running
  have left : x = _ := stopped
  rw [left]
  exact ⟨rfl, rfl, rfl, rfl, rfl, rfl, rfl, rfl⟩

/-- Settles O10: each way past a command is one change of its queue; the fetch before it and the signal after it change no queue. -/
theorem commandsPass : Obligations.CommandsPass := by
  unfold Obligations.CommandsPass
  intro s q e _
  have issued := (SetsQueue.refl s q).modQueue fun x => { x.issueAs x.nextId with nextId := x.nextId + 1 }
  refine ⟨((SameQ.refl s).fetchMarks q).queue q, issued.queue, fun map k _ ne => issued.others map k ne, fun shut => ?signalled⟩
  case signalled =>
    have finished := State.modQueue_headerSignal_sets shut q
      (fun x => { x.advance with issued := satInc x.issued, nextId := x.nextId + 1 }) e
    have skipped := State.modQueue_headerSignal_sets shut q (fun x => { x.advance with skipped := satInc x.skipped }) e
    exact ⟨finished.queue, skipped.queue, fun map k _ ne => ⟨finished.others map k ne, skipped.others map k ne⟩⟩

end

section
/-! SUPPORT. What every row that takes a queue's oldest command does first (R457, R472, R571, R582, R595, R716). -/

namespace Sys2Proof.Machine

/-- A row that takes the oldest command of queue `q`: it tries to issue it, and the ledger's and the runs' rows count a window stop
(R148). -/
def Issues (c : Instr) (q : Nat) : Prop :=
  ∃ (row : Entry → Bool) (later : State → Entry → Gate) (effect : State → Entry → State), ∀ s : State,
    exec c s = .next (s.tryIssue q row later effect) ∨ exec c s = .next (s.countWindow (s.tryIssue q row later effect) q)

theorem issues_of_issueRow {c : Instr} {q : Nat} (row : issueRow c = some q) : Issues c q := by
  cases c with
  | ledgerClear | ledgerDrain | ledgerLoad | frameRun | frameRunT =>
    cases row
    exact ⟨_, _, _, fun s => .inr rfl⟩
  | nop | wait | signal | stop | forecast | versionFence | dmaCopy | planeCopy | scaleCopy | railLaunch | tableGather | kvWrite
  | railTake | frameMode | planeSwap | quantise | scaleLoad | statsRead | vector | sampleCollect | sampleFinish | streamScore
  | streamValue | streamWgrad | streamGemm | stashSave | stashLoad | ctxCommit | ctxOpen | ctxClose | snapshot | restore =>
    cases row
    exact ⟨_, _, _, fun s => .inl rfl⟩
  | _ => cases row

/-- A queue that did not stop in the attempt, or that stopped with another code, has no window stop. -/
theorem State.countWindow_other {s t : State} {q : Nat} (other : (t.queue q).stopped = true → (s.queue q).stopped = true ∨
    (t.queue q).stopCode ≠ 0x0110) : s.countWindow t q = t := by
  unfold State.countWindow
  refine if_neg fun ⟨stopped, running, code⟩ => ?_
  rcases other stopped with before | differs
  · simp [before] at running
  · exact differs code

/-- A check that stops its queue, if it does, with another code than that of a window stop. -/
def NoWindowStop (check : Option Stop) : Prop := ∀ st ∈ check, st.code ≠ 0x0110

theorem NoWindowStop.ite {fails : Prop} [Decidable fails] {st : Stop} {rest : Option Stop} (differs : st.code ≠ 0x0110)
    (passes : NoWindowStop rest) : NoWindowStop (if fails then some st else rest) := by
  split
  · rintro _ ⟨⟩
    exact differs
  · exact passes

/-- R457: the checks of the header have nothing to do with the ledger's window. -/
theorem State.headerCheck_noWindowStop (s : State) (q : Nat) (e : Entry) : NoWindowStop (s.headerCheck q e) := by
  have seq {code : BitVec 16} (differs : code ≠ 0x0110) : (s.seqStop q e code contained 0).code ≠ 0x0110 := differs
  have quant {slot : Nat} {code : BitVec 16} (differs : code ≠ 0x0110) : (s.quantStop q slot code).code ≠ 0x0110 := differs
  have tally {t : Nat} : (s.tallyStop q e t).code ≠ 0x0110 := by
    unfold State.tallyStop
    split
    · exact seq (code := 0x0421) (by decide)
    · exact seq (by decide)
  exact .ite (seq (by decide)) <| .ite (seq (by decide)) <| .ite (seq (by decide)) <| .ite tally <| .ite tally <| .ite tally <|
    .ite (quant (by decide)) <| .ite (seq (by decide)) <| .ite (seq (by decide)) nofun

end Sys2Proof.Machine

open Sys2Proof Sys2Proof.Machine

/-- Settles O8: every such row is an attempt to issue, which ends at a held queue and at a header that fails, before it looks at
what the row would do. -/
theorem queuesCheckFirst : Obligations.QueuesCheckFirst := by
  unfold Obligations.QueuesCheckFirst
  refine ⟨fun c q s row held => ?held, fun c q s e st row may unpassed front fails => ?bad⟩
  case held =>
    obtain ⟨_, _, effect, tries⟩ := issues_of_issueRow row
    have attempt := tries s
    rw [State.tryIssue_held held effect, State.countWindow_other .inl] at attempt
    exact attempt.elim id id
  case bad =>
    obtain ⟨_, _, effect, tries⟩ := issues_of_issueRow row
    have attempt := tries s
    rw [State.tryIssue_bad may unpassed front fails effect, State.countWindow_other fun _ => .inr ?code] at attempt
    · exact attempt.elim id id
    · have running : ((s.fetchMarks q).queue q).stopped = false :=
        (congrArg QState.stopped (((SameQ.refl s).fetchMarks q).queue q)).trans (State.mayIssue_running may)
      obtain ⟨_, stopped⟩ := (s.fetchMarks q).stopWith_queue st running
      rw [stopped]
      exact State.headerCheck_noWindowStop s q e st fails

end

section
/-! SUPPORT. Requests that nothing holds back (R636, R639, R546, R597). -/

namespace Sys2Proof.Machine

/-- A request of connection `n` is answered with what it gave (R639), and the messages behind it are looked at. -/
def State.answer (n : Nat) (type : Byte) (hdr : MsgHdr) (always : Bool) (r : State × Answer) : State :=
  (r.1.respond n type hdr always r.2).refuseMalformed n

section
variable {s : State} {n : Nat} {type : Byte} {hdr : MsgHdr} {body : List Byte} {held : Bool}
variable (on : s.side.on = true) (running : s.boot.phase = .running) (arrives : s.arrives n type (reqHeader hdr ++ body) = true)
  (free : held = false)
include on running arrives free

/-- R636, R639: a request that comes next while the image runs, that nothing holds back and that does not reset the device is
applied once, and answered. -/
theorem State.request_answered {always : Bool} (f : State → State × Answer)
    (runs : (f (s.modConn n Conn.applied)).1.boot.phase = .running) :
    s.request n type hdr body held always f = .next (State.answer n type hdr always (f (s.modConn n Conn.applied))) := by
  have taken : (s.modConn n Conn.applied).boot.phase = .running := running
  unfold State.request State.answer
  rw [on, arrives, free]
  dsimp only
  simp only [taken, runs, Bool.not_true, Bool.or_self, Bool.false_eq_true, if_false, ne_eq, not_true_eq_false]

/-- R546: so is one that a power stop would fail, while none holds the device. -/
theorem State.request_unstopped (powered : s.power.stop = .none) {always : Bool} {failed : List Byte}
    (f : State → State × Answer)
    (runs : (f (s.modConn n Conn.applied)).1.boot.phase = .running) :
    s.request n type hdr body held always (fun s => s.whileStopped failed f) =
      .next (State.answer n type hdr always (f (s.modConn n Conn.applied))) := by
  have applied : (s.modConn n Conn.applied).whileStopped failed f = f (s.modConn n Conn.applied) := if_pos powered
  rw [← applied] at runs ⊢
  exact State.request_answered on running arrives free (fun s => s.whileStopped failed f) runs

end

end Sys2Proof.Machine

open Sys2Proof Sys2Proof.Machine

/-- Settles O31: each row is a request that nothing holds back; four of them a power stop would fail, and none holds the device. -/
theorem requestsAreAnswered : Obligations.RequestsAreAnswered := by
  unfold Obligations.RequestsAreAnswered
  intro s n hdr on running u answered
  refine ⟨fun q es powered free arrives runs => ?command, fun a d powered free arrives runs => ?write,
    fun a len arrives runs => ?read, fun ops idle arrives runs => ?registers, fun ps powered free arrives runs => ?tallies,
    fun off h d powered arrives runs => ?chunk⟩
  case command => exact State.request_unstopped on running arrives free powered (State.applyCommand · n q es) runs
  case write => exact State.request_unstopped on running arrives free powered (State.applyWrite · n (a % 2 ^ 48) d) runs
  case read =>
    exact State.request_answered on running arrives rfl (State.readWhileStopped · n (a % 2 ^ 48) (len % 2 ^ 32)) runs
  case registers => exact State.request_answered on running arrives (by rw [idle]; rfl) (State.applyRegAccess · n ops) runs
  case tallies => exact State.request_unstopped on running arrives free powered (State.applyTallies · ps) runs
  case chunk => exact State.request_unstopped on running arrives rfl powered (State.applyChunk · n off h d) runs

end

section
/-! SUPPORT. `STOP_REQUEST`, `ACTION` and the ring registers of a queue (R475 to R477). -/

namespace Sys2Proof.Machine

/-! ### Rows of a queue's registers -/

section
variable {s : State} {ini q : Nat} (bound : q < 528) (reached : s.admits ini (s.pgQueue q) = true)
include bound reached

/-- A register of a queue that no page lock protects (R717). -/
theorem State.queueRow_admitted (f : State → State) : s.queueRow ini q false f = .next (f s) :=
  (State.regRow_admitted reached _).trans (by rw [if_pos bound])

/-- One that the page lock protects, while it is open (R18). -/
theorem State.queueRow_open (unlocked : (s.page (s.pgQueue q)).lock = false) (f : State → State) :
    s.queueRow ini q true f = .next (f s) :=
  (State.regRow_open reached unlocked true _).trans (by rw [if_pos bound])

/-- A row without a page lock that sets its queue. -/
theorem State.queueRow_sets {f : State → State} {x : QState} (sets : SetsQueue s (f s) q x) :
    ∃ t, s.queueRow ini q false f = .next t ∧ t.queue q = x ∧
      (s.remap.ok → ∀ k, k < 528 → k ≠ q → t.queue k = s.queue k) :=
  ⟨f s, State.queueRow_admitted bound reached f, sets.queue, fun map k _ ne => sets.others map k ne⟩

end

/-! ### STOP_REQUEST (R475) -/

theorem State.queueState_running {s : State} {q : Nat} (running : (s.queue q).stopped = false) : s.queueState q ≠ 4 := by
  unfold State.queueState
  dsimp only
  rw [running, if_neg (show ¬((s.queue q).flight.isEmpty = true ∧ false = true) from nofun)]
  repeat' split
  all_goals decide

/-- A running queue stops with QUEUE_STOP_REQUEST (0x0608) before its oldest unissued command; commands in progress may end. -/
theorem State.writeStop_stops {s : State} {q : Nat} (bound : q < 528) (running : (s.queue q).stopped = false) :
    ∃ flight, (s.writeStop q).queue q = { (s.queue q).stopAt 0x0608 false with flight := flight, stopRequest := true } := by
  have request : s.writeStop q = (s.requestStop q).modQueue q fun x => { x with stopRequest := true } :=
    if_neg (not_or.2 ⟨State.queueState_running running, by omega⟩)
  have raised (op : Nat) : SameQ s (s.raise (s.pgQueue q) 0x0608 noted (queueInfo s q op)) := (SameQ.refl s).raise _ _ _ _
  obtain ⟨op, stops⟩ : ∃ op, s.requestStop q = (s.raise (s.pgQueue q) 0x0608 noted (queueInfo s q op)).stopQueue q 0x0608 false :=
    ⟨_, if_pos ⟨bound, by rw [running]; rfl⟩⟩
  have runs : ((s.raise (s.pgQueue q) 0x0608 noted (queueInfo s q op)).queue q).stopped = false :=
    (congrArg QState.stopped ((raised op).queue q)).trans running
  obtain ⟨flight, stopped⟩ := State.stopQueue_queue _ 0x0608 false runs
  rw [(raised op).queue q] at stopped
  rw [request, stops, State.modQueue_same, stopped]
  exact ⟨flight, rfl⟩

/-! ### ACTION (R476) -/

/-- A skip steps over the oldest command, unless the stop came from an issued one. -/
theorem QState.resume_skip {x : QState} (before : x.stopEnded = false) (front : x.frontAddr ≠ none) :
    x.resume 2 = { x.advance with stopped := false } := if_neg (by simp [before, front])

section
variable {s : State} {q : Nat} (bound : q < 528) (stopped : s.queueState q = 4) (powered : s.power.stop = .none)
  (runs : s.err.deviceStopped = false)
include bound stopped powered runs

/-- A STOPPED queue of a running device takes an action; where a skip enters no segment, it acts on the queue as it stands. -/
theorem State.writeAction_sets {act : Nat} (stays : act = 2 → (s.queue q).stopEnded = false → s.enterFront q = s) :
    SetsQueue s (s.writeAction q act) q ((s.queue q).resume act).rerun := by
  have acts : s.queueAction q act = s.modQueue q fun x => x.resume act := by
    unfold State.queueAction
    rw [if_neg (by simp [stopped, powered, runs]; omega)]
    congr 1
    split
    next skips => exact stays skips.1 (by simpa using skips.2)
    next => rfl
  unfold State.writeAction
  rw [acts]
  exact ((SetsQueue.refl s q).modQueue _).modQueue _

/-- A skip at a sound segment entry first enters the segment. -/
theorem State.writeAction_enters {e : Entry} (before : (s.queue q).stopEnded = false) (front : s.front q = .segment e)
    (sound : segmentOk q e = true) : SetsQueue s (s.writeAction q 2) q (((s.queue q).enter e).resume 2).rerun := by
  have acts : s.queueAction q 2 = ((s.fetchMarks q).modQueue q fun x => x.enter e).modQueue q fun x => x.resume 2 := by
    have enters : s.enterFront q = (s.fetchMarks q).modQueue q fun x => x.enter e := by
      unfold State.enterFront
      rw [front]
      exact if_pos sound
    unfold State.queueAction
    rw [if_neg (by simp [stopped, powered, runs]; omega), if_pos ⟨rfl, by rw [before]; rfl⟩, enters]
  unfold State.writeAction
  rw [acts]
  exact ((((SetsQueue.refl s q).sameQ ((SameQ.refl s).fetchMarks q)).modQueue _).modQueue _).modQueue _

end

/-- A queue that stands at no sound segment entry enters no segment. -/
theorem State.enterFront_stays {s : State} {q : Nat} (command : ∀ e, s.front q = .segment e → segmentOk q e = false) :
    s.enterFront q = s := by
  unfold State.enterFront
  split
  next e front => rw [command e front]; rfl
  next => rfl

/-! ### The ring (R477) -/

/-- Where injection is not open (R584), an IDLE or STOPPED queue takes its new ring, and stands at its first entry. -/
theorem State.setRing_sets {s : State} {q : Nat} (quiet : s.queueState q = 0 ∨ s.queueState q = 4) (shut : s.injectOpen = false)
    (base : BitVec 48) (size : Nat) : SetsQueue s (s.setRing q base size) q
      { s.queue q with ringBase := base &&& 0xFFFFFFFFFFC0, ringSize := size, head := 0, tail := 0, seg := none } := by
  unfold State.setRing
  rw [if_pos quiet, State.strikeSeq_shut ((s.modQueue_sameInjection q _).shut shut)]
  exact (SetsQueue.refl s q).modQueue _

end Sys2Proof.Machine

open Sys2Proof Sys2Proof.Machine

/-- Settles O51: each row reaches its queue and changes no other; what it makes of the queue is `writeStop`, `writeAction` and
`setRing`. -/
theorem queueRegistersWork : Obligations.QueueRegistersWork := by
  unfold Obligations.QueueRegistersWork
  intro s ini q bound reached
  refine ⟨fun unlocked running => ?request, fun stopped powered runs => ⟨?retry, fun before front command => ?skip,
    fun e before front sound => ?skipIn, ?flush⟩, fun base size unlocked quiet sizeOk shut => ?ring⟩
  case request =>
    obtain ⟨_, stops⟩ := State.writeStop_stops bound running
    refine ⟨_, State.queueRow_open bound reached unlocked (State.writeStop · q), ?_⟩
    rw [stops]
    exact ⟨rfl, rfl, rfl, rfl, rfl, rfl⟩
  case retry =>
    have acts := State.writeAction_sets bound stopped powered runs (act := 1) nofun
    exact State.queueRow_sets bound reached (f := (State.writeAction · q 1)) acts
  case skip =>
    have acts := State.writeAction_sets bound stopped powered runs (act := 2) fun _ _ => State.enterFront_stays command
    rw [QState.resume_skip before front] at acts
    exact State.queueRow_sets bound reached (f := (State.writeAction · q 2)) acts
  case skipIn =>
    have acts := State.writeAction_enters bound stopped powered runs before front sound
    rw [QState.resume_skip (x := (s.queue q).enter e) before nofun] at acts
    exact State.queueRow_sets bound reached (f := (State.writeAction · q 2)) acts
  case flush =>
    have acts := State.writeAction_sets bound stopped powered runs (act := 3) nofun
    exact State.queueRow_sets bound reached (f := (State.writeAction · q 3)) acts
  case ring =>
    have set := State.setRing_sets quiet shut base size
    refine ⟨s.setRing q base size, ?_, set.queue, fun map k _ ne => set.others map k ne⟩
    refine (State.queueRow_open bound reached unlocked fun s => s.setRing q base (if ringSizeOk size then size else _)).trans ?_
    rw [if_pos sizeOk]

end

section
/-! SUPPORT. Lists of bytes that are written one after another into a memory. -/

namespace Sys2Proof.Machine

/-! ### A list of bytes as a block -/

theorem leBytes_length (n v : Nat) : (leBytes n v).length = n := by
  induction n generalizing v with
  | zero => rfl
  | succ n ih => exact congrArg (· + 1) (ih _)

theorem le_of_mem_blockOf {i : Nat} {bs : List Byte} {e : Nat × Byte} (mem : e ∈ blockOf i bs) : i ≤ e.1 := by
  induction bs generalizing i with
  | nil => cases mem
  | cons b bs ih =>
    unfold blockOf at mem
    split at mem
    · exact (Nat.le_succ i).trans (ih mem)
    · rcases List.mem_cons.1 mem with rfl | later
      · exact le_rfl
      · exact (Nat.le_succ i).trans (ih later)

/-- The block of a list of bytes has the canonical form. -/
theorem blockOf_wf (i : Nat) (bs : List Byte) : NMap.wf 0 (blockOf i bs) = true := by
  induction bs generalizing i with
  | nil => rfl
  | cons b bs ih =>
    unfold blockOf
    split
    · exact ih (i + 1)
    · rename_i nonzero
      obtain ⟨rises, nonzeros⟩ := (NMap.wf_iff 0 _).1 (ih (i + 1))
      refine (NMap.wf_iff 0 _).2 ⟨List.pairwise_cons.2 ⟨fun e mem => le_of_mem_blockOf mem, rises⟩, fun e mem => ?_⟩
      rcases List.mem_cons.1 mem with rfl | later
      · exact nonzero
      · exact nonzeros e later

theorem nget_blockOf (i j : Nat) (bs : List Byte) : nget 0 (blockOf i bs) (i + j) = bs.getD j 0 := by
  induction bs generalizing i j with
  | nil => rfl
  | cons b bs ih =>
    cases j with
    | zero =>
      unfold blockOf
      split
      next zero => exact (nget_eq_of_not_mem 0 _ _ fun e mem => (Nat.ne_of_lt (le_of_mem_blockOf mem)).symm).trans zero.symm
      next => exact if_pos rfl
    | succ j =>
      have rest := ih (i + 1) j
      rw [Nat.add_right_comm] at rest
      unfold blockOf
      split
      · exact rest
      · exact (if_neg (by omega)).trans rest

/-- A list of bytes that is written into a memory stands there. -/
theorem byteAt_putMem_bytes (m : List Host.Cell) (a : Nat) (bs : List Byte) {j : Nat} (inside : j < bs.length) :
    byteAt (putMem m a bs.length (blockOf 0 bs)) (a + j) = bs.getD j 0 := by
  have canonical : canonBlock (blockOf 0 bs) = blockOf 0 bs := if_pos (blockOf_wf 0 bs)
  unfold byteAt putMem
  rw [canonical, nget_nput_inside 0 m a _ _ j inside]
  simpa using nget_blockOf 0 j bs

/-! ### Several lists, each at a place of its own -/

/-- A memory after the lists `bytes i`, for each `i` of `is` in turn, have been written at `at_ i`. -/
def putEach (at_ : Nat → Nat) (bytes : Nat → List Byte) (m : List Host.Cell) (is : List Nat) : List Host.Cell :=
  is.foldl (fun m i => putMem m (at_ i) (bytes i).length (blockOf 0 (bytes i))) m

theorem byteAt_putEach_outside {at_ : Nat → Nat} {bytes : Nat → List Byte} {is : List Nat} {a : Nat}
    (outside : ∀ i ∈ is, a < at_ i ∨ at_ i + (bytes i).length ≤ a) (m : List Host.Cell) :
    byteAt (putEach at_ bytes m is) a = byteAt m a := by
  induction is generalizing m with
  | nil => rfl
  | cons i is ih =>
    obtain ⟨here, later⟩ := List.forall_mem_cons.1 outside
    exact (ih later _).trans (byteAt_putMem_outside m _ _ _ a here)

/-- Lists that do not meet stand side by side. -/
theorem byteAt_putEach_inside {at_ : Nat → Nat} {bytes : Nat → List Byte} {is : List Nat}
    (apart : is.Pairwise fun i k => at_ i + (bytes i).length ≤ at_ k ∨ at_ k + (bytes k).length ≤ at_ i)
    {i j : Nat} (mem : i ∈ is) (inside : j < (bytes i).length) (m : List Host.Cell) :
    byteAt (putEach at_ bytes m is) (at_ i + j) = (bytes i).getD j 0 := by
  induction is generalizing m with
  | nil => cases mem
  | cons k is ih =>
    obtain ⟨first, rest⟩ := List.pairwise_cons.1 apart
    rcases List.mem_cons.1 mem with rfl | later
    · have outside (k : Nat) (mem : k ∈ is) : at_ i + j < at_ k ∨ at_ k + (bytes k).length ≤ at_ i + j := by
        have := first k mem
        omega
      exact (byteAt_putEach_outside outside _).trans (byteAt_putMem_bytes m (at_ i) (bytes i) inside)
    · exact ih rest later _

end Sys2Proof.Machine
end

section
/-! SUPPORT. A write is its marks, then what it stores, then what it counts; where injection is not open (R584), the marks of a
write lose no word (R406, R408). -/

namespace Sys2Proof.Machine

/-! ### Marks -/

/-- No word has been lost: none is uncorrectable, and none holds the poison pattern (R406, R410). -/
def Readable (conds : NMap WordCond) : Prop := ∀ k, lostWord (nget .sound conds k) = false

/-- What the marks and counts of an access leave: they change no more than a read does, open no injection and close none, and lose
no word of the tiers. -/
structure Marked (s t : State) : Prop where
  looked : Looked s t
  injection : SameInjection s t
  readable : Readable s.memCond → Readable t.memCond

theorem Looked.trans {a b c : State} (h : Looked a b) (h' : Looked b c) : Looked a c := by
  obtain ⟨work, energy⟩ := h.energy
  obtain ⟨work', energy'⟩ := h'.energy
  exact ⟨fun p => (h.core p).trans (h'.core p), ⟨work', by rw [energy', energy]⟩, by simpa only [h.rest] using h'.rest⟩

theorem Marked.refl (s : State) : Marked s s := ⟨.refl s, .refl s, id⟩

theorem Marked.trans {a b c : State} (h : Marked a b) (h' : Marked b c) : Marked a c :=
  ⟨h.looked.trans h'.looked, h.injection.trans h'.injection, h'.readable ∘ h.readable⟩

theorem Marked.of_memCond {s t : State} (looked : Looked s t) (injection : SameInjection s t) (same : t.memCond = s.memCond) :
    Marked s t := ⟨looked, injection, fun readable => same ▸ readable⟩

theorem Marked.shut {s t : State} (h : Marked s t) (shut : s.injectOpen = false) : t.injectOpen = false := h.injection.shut shut

theorem Marked.foldl {α : Type} {f : State → α → State} (hf : ∀ u a, u.injectOpen = false → Marked u (f u a)) (l : List α)
    {s : State} (shut : s.injectOpen = false) : Marked s (l.foldl f s) := by
  induction l generalizing s with
  | nil => exact .refl s
  | cons a l ih => exact (hf s a shut).trans (ih ((hf s a shut).shut shut))

theorem State.checkLine_memCond (s : State) (line : Nat) : (s.checkLine line).memCond = s.memCond := by
  unfold State.checkLine
  dsimp only
  split
  · rfl
  · split
    · rfl
    · rfl

theorem State.countTier_marked {s : State} (shut : s.injectOpen = false) (a n : Nat) (write : Bool) :
    Marked s (s.countTier a n write) := by
  have line (u : State) (k : Nat) (_ : u.injectOpen = false) : Marked u (u.checkLine k) :=
    .of_memCond ((Looked.refl u).checkLine k) (u.checkLine_sameInjection k) (u.checkLine_memCond k)
  have part (u : State) (p : Nat × Nat) (_ : u.injectOpen = false) : Marked u (u.countPart write p) :=
    .of_memCond ((Looked.refl u).countPart write p) (u.modRegion_sameInjection _ _) rfl
  have lines : Marked s (s.checkAccess a n) := by
    unfold State.checkAccess
    split
    · exact .refl s
    · exact .foldl line _ shut
  exact lines.trans (.foldl part _ (lines.shut shut))

theorem State.countBridge_marked (s : State) (w : Who) (a n : Nat) (write : Bool) : Marked s (s.countBridge w a n write) := by
  refine .of_memCond ((Looked.refl s).countBridge w a n write) (s.countBridge_sameInjection w a n write) ?_
  unfold State.countBridge
  split
  · rfl
  · dsimp only
    split
    · rfl
    · rfl

theorem State.countBytes_marked (s : State) (w : Who) (a n : Nat) : Marked s (s.countBytes w a n) := by
  refine .of_memCond ((Looked.refl s).countBytes w a n) (s.countBytes_sameInjection w a n) ?_
  have counted (q kind : Nat) : (s.countWork q kind n).memCond = s.memCond := by
    unfold State.countWork
    split
    · rfl
    · rfl
  unfold State.countBytes
  split
  · exact counted _ _
  · exact counted _ _
  · exact counted _ _
  · rfl

theorem State.countInbound_marked {s : State} (shut : s.injectOpen = false) (l n : Nat) (w : Who) :
    Marked s (s.countInbound l n w) := by
  refine .of_memCond ((Looked.refl s).countInbound_shut shut l n w) ?_ ?_
  all_goals
    unfold State.countInbound State.countFabric
    rw [State.fabricWord_shut (by exact shut)]
    split
  · exact .of rfl rfl rfl
  · exact .refl s
  · rfl
  · rfl

theorem State.writeBackTier_memCond {s : State} (shut : s.injectOpen = false) (k : Nat) :
    (s.writeBackTier k).memCond = nset .sound s.memCond k .sound := by
  unfold State.writeBackTier
  rw [State.takeInjection_shut shut]
  rfl

/-- A word of a tier that is corrected is written back sound (R408); one that is lost stays so. -/
theorem State.noteTierWord_marked {s : State} (shut : s.injectOpen = false) (k : Nat) (c : WordCond) :
    Marked s (s.noteTierWord k c) := by
  refine ⟨(Looked.refl s).noteTierWord k c, s.noteTierWord_sameInjection k c, fun readable j => ?_⟩
  unfold State.noteTierWord
  dsimp only
  split
  next =>
    have back (u : State) (closed : u.injectOpen = false) (same : u.memCond = s.memCond) :
        lostWord (nget .sound (u.writeBackTier k).memCond j) = false := by
      rw [State.writeBackTier_memCond closed, same, nget_nset]
      split
      · rfl
      · exact readable j
    exact back _ (((s.modCtl_sameInjection _ _).trans (State.raiseFull_sameInjection _ _ _ _ _ _ _ _)).shut shut)
      (State.raiseRare_fields _ _ _ _ _).2.2.2.2.1
  next =>
    have same (u : State) (kept : u.memCond = s.memCond) : (u.tierEvent (32 * k) 0x0502 contained).memCond = s.memCond :=
      (State.raise_fields _ _ _ _ _).2.2.2.2.1.trans kept
    rw [same]
    · exact readable j
    · split
      · rfl
      · rfl

theorem State.noteScratchWord_marked (s : State) (l : Nat) (w : Who) (k : Nat) (c : WordCond) :
    Marked s (s.noteScratchWord l w k c) := by
  refine .of_memCond ((Looked.refl s).noteScratchWord l w k c) (s.noteScratchWord_sameInjection l w k c) ?_
  unfold State.noteScratchWord
  dsimp only
  split
  · exact (State.raise_fields _ _ _ _ _).2.2.2.2.1
  · exact (State.raiseRare_fields _ _ _ _ _).2.2.2.2.1

/-! ### What a write stores -/

/-- What a write to a tier stores: the parts in lost words are dropped (R406). -/
def State.storeTier (s : State) (a n : Nat) (blk : NMap Byte) : State :=
  (s.setMem (putBytes s.mem s.memCond a n blk)).setMemCond (putConds s.memCond a n)

/-- What a write to the scratchpad of logical core `l` stores: the parts in lost words are dropped (R313), and its
words are written back no more (R315). -/
def State.storeScratch (s : State) (l off n : Nat) (blk : NMap Byte) : State :=
  s.modLcore l fun c => { c with scr := { c.scr with
    mem := putBytes c.scr.mem c.scr.cond off n blk
    cond := putConds c.scr.cond off n
    writeback := c.scr.writeback.filter fun k => !(decide (off / 32 ≤ k) && decide (k ≤ (off + n - 1) / 32)) } }

/-- What a write of `n` bytes at `a` stores, without its marks and counts. -/
def State.store (s : State) (a n : Nat) (blk : NMap Byte) : State :=
  match wholePlace a n with
  | some (.tier1 _ _) | some (.tier2 _) => s.storeTier a n blk
  | some (.scratch l off) => s.storeScratch l off n blk
  | some (.ledger l _) => s.modLcore l fun c =>
      { c with ledger := { c.ledger with addressWritesDropped := satInc c.ledger.addressWritesDropped } }
  | none => s

section
variable {s : State} (shut : s.injectOpen = false)
include shut

theorem State.writeTier_stores (a n : Nat) (blk : NMap Byte) :
    ∃ u, Marked s u ∧ Marked (u.storeTier a n blk) (s.writeTier a n blk).1 := by
  let soft := (partialWords a n).filter fun k => decide (nget .sound s.memCond k = .correctable)
  let corrected := soft.foldl (fun u k => u.noteTierWord k .correctable) s
  let noted := (lostPartial s.memCond a n).foldl (fun u k => u.noteTierWord k (nget .sound u.memCond k)) corrected
  have corrections : Marked s corrected := .foldl (fun u k shut => State.noteTierWord_marked shut k _) _ shut
  have marks : Marked s noted :=
    corrections.trans (.foldl (fun u k shut => State.noteTierWord_marked shut k _) _ (corrections.shut shut))
  refine ⟨noted, marks, ?_⟩
  let stored := noted.storeTier a n blk
  have closed : stored.injectOpen = false := marks.shut shut
  let struck := stored.takeInjection (ctlPage (stored.ctlOf a))
  have written : (s.writeTier a n blk).1 = (if struck.2 = .sound then struck.1 else
      struck.1.setMemCond (nset .sound struck.1.memCond (a / 32) struck.2)).countTier a n true := rfl
  rw [written, show struck = (stored, .sound) from State.takeInjection_shut closed _, if_pos rfl]
  exact State.countTier_marked closed a n true

theorem State.writeScratch_stores (w : Who) (l off n : Nat) (blk : NMap Byte) :
    ∃ u, Marked s u ∧ Marked (u.storeScratch l off n blk) (s.writeScratch w l off n blk).1 := by
  let soft := (partialWords off n).filter fun k => decide (nget .sound (s.lcore l).scr.cond k = .correctable)
  let corrected := soft.foldl (fun u k => u.noteScratchWord l w k .correctable) s
  let noted := (lostPartial (s.lcore l).scr.cond off n).foldl (fun u k => u.noteScratchWord l w k .uncorrectable) corrected
  have corrections : Marked s corrected := .foldl (fun u k _ => u.noteScratchWord_marked l w k _) _ shut
  have marks : Marked s noted :=
    corrections.trans (.foldl (fun u k _ => u.noteScratchWord_marked l w k _) _ (corrections.shut shut))
  refine ⟨noted, marks, ?_⟩
  let stored := noted.storeScratch l off n blk
  have closed : stored.injectOpen = false := marks.shut shut
  let struck := stored.takeInjection (stored.pgL l bScratch)
  have written : (s.writeScratch w l off n blk).1 = (if struck.2 = .sound then struck.1 else struck.1.modLcore l fun c =>
      { c with scr := { c.scr with cond := nset .sound c.scr.cond (off / 32) struck.2 } }).countInbound l n w := rfl
  rw [written, show struck = (stored, .sound) from State.takeInjection_shut closed _, if_pos rfl]
  exact State.countInbound_marked closed l n w

/-- A write stores what it stores in the state that its marks leave; what it then counts is nothing of that. -/
theorem State.write_stores (w : Who) (a : Nat) {n : Nat} (blk : NMap Byte) (nonempty : n ≠ 0) :
    ∃ u, Marked s u ∧ Marked (u.store a n blk) (s.write w a n blk).1 := by
  let counted := (s.countBridge w a n true).countBytes w a n
  have counts : Marked s counted := (s.countBridge_marked w a n true).trans (State.countBytes_marked _ w a n)
  unfold State.write State.store
  rw [if_neg nonempty]
  dsimp only
  cases wholePlace a n with
  | none => exact ⟨counted, counts, .refl _⟩
  | some place =>
    cases place with
    | tier1 r off =>
      obtain ⟨u, marks, stored⟩ := State.writeTier_stores (counts.shut shut) a n blk
      exact ⟨u, counts.trans marks, stored⟩
    | tier2 off =>
      obtain ⟨u, marks, stored⟩ := State.writeTier_stores (counts.shut shut) a n blk
      exact ⟨u, counts.trans marks, stored⟩
    | scratch l off =>
      obtain ⟨u, marks, stored⟩ := State.writeScratch_stores (counts.shut shut) w l off n blk
      exact ⟨u, counts.trans marks, stored⟩
    | ledger l off => exact ⟨counted, counts, .refl _⟩

end

end Sys2Proof.Machine
end

section
/-! SUPPORT. Writes one after another, where no word has been lost (R313, R406) and injection is not open (R584). -/

namespace Sys2Proof.Machine

/-! ### What is stored where no word has been lost -/

theorem lostPartial_readable {conds : NMap WordCond} (readable : Readable conds) (a n : Nat) : lostPartial conds a n = [] :=
  List.filter_eq_nil_iff.2 fun k _ => by simp [readable k]

theorem putBytes_readable {conds : NMap WordCond} (readable : Readable conds) (m : List Host.Cell) (a n : Nat) (blk : NMap Byte) :
    putBytes m conds a n blk = putMem m a n blk := by
  unfold putBytes
  rw [lostPartial_readable readable]
  rfl

theorem putConds_readable {conds : NMap WordCond} (readable : Readable conds) (a n : Nat) :
    Readable (putConds conds a n) := fun k => by
  unfold putConds
  rw [nget_nkeep]
  split
  · exact readable k
  · rfl

/-- A store changes no queue and opens no injection. -/
theorem State.store_sameQ (s : State) (a n : Nat) (blk : NMap Byte) : SameQ s (s.store a n blk) := by
  unfold State.store
  split
  · exact .of rfl rfl rfl
  · exact .of rfl rfl rfl
  · exact (SameQ.refl s).modLcore _ _ fun _ => rfl
  · exact (SameQ.refl s).modLcore _ _ fun _ => rfl
  · exact .refl s

theorem State.store_sameInjection (s : State) (a n : Nat) (blk : NMap Byte) : SameInjection s (s.store a n blk) := by
  unfold State.store
  split
  · exact .of rfl rfl rfl
  · exact .of rfl rfl rfl
  · exact s.modLcore_sameInjection _ _
  · exact s.modLcore_sameInjection _ _
  · exact .refl s

theorem State.store_tier {a n : Nat} (place : (wholePlace a n).any Place.isTier = true) (s : State) (blk : NMap Byte) :
    s.store a n blk = s.storeTier a n blk := by
  unfold State.store
  split
  · rfl
  · rfl
  all_goals simp_all [Place.isTier]

theorem State.store_scratch {a n l off : Nat} (place : wholePlace a n = some (.scratch l off)) (s : State) (blk : NMap Byte) :
    s.store a n blk = s.storeScratch l off n blk := by
  unfold State.store
  rw [place]

/-- A read leaves the bytes of a scratchpad and the conditions of its words. -/
theorem Core.Looked.scratch {c c' : Core} (h : c.Looked c') : c'.scr.mem = c.scr.mem ∧ c'.scr.cond = c.scr.cond := by
  obtain ⟨_, _, _, _, _, _, _, rfl⟩ := h
  exact ⟨rfl, rfl⟩

/-! ### One list of bytes -/

/-- Where injection is not open, the tiers of `t` hold `m` and no word of theirs is lost; the scratchpads are those of `s`. -/
structure InTiers (s t : State) (m : List Host.Cell) : Prop where
  shut : t.injectOpen = false
  readable : Readable t.memCond
  mem : t.mem = m
  scratch : ∀ p, (t.core p).scr.mem = (s.core p).scr.mem

/-- The same of the scratchpad of logical core `l`; the tiers and the other scratchpads are those of `s`. -/
structure InScratch (s t : State) (l : Nat) (m : List Host.Cell) : Prop where
  shut : t.injectOpen = false
  remap : t.remap = s.remap
  readable : Readable (t.lcore l).scr.cond
  mem : (t.lcore l).scr.mem = m
  tiers : t.mem = s.mem
  others : ∀ p, p ≠ s.physOf l → (t.core p).scr.mem = (s.core p).scr.mem

section
variable {s t : State} (w : Who) {a : Nat} {bs : List Byte} (nonempty : bs ≠ [])
include nonempty

theorem State.writeBytes_stores (shut : s.injectOpen = false) : ∃ u, Marked s u ∧
    Marked (u.store a bs.length (blockOf 0 bs)) (s.writeBytes w a bs).1 :=
  State.write_stores shut w a (blockOf 0 bs) (List.length_pos_iff.2 nonempty).ne'

/-- A write changes no queue and opens no injection, wherever it goes. -/
theorem State.writeBytes_sameQ (shut : s.injectOpen = false) :
    SameQ s (s.writeBytes w a bs).1 ∧ (s.writeBytes w a bs).1.injectOpen = false := by
  obtain ⟨u, marks, counts⟩ := State.writeBytes_stores w (a := a) nonempty shut
  refine ⟨(marks.looked.sameQ.trans (u.store_sameQ _ _ _)).trans counts.looked.sameQ, ?_⟩
  exact counts.shut ((u.store_sameInjection _ _ _).shut (marks.shut shut))

theorem InTiers.writeBytes {m : List Host.Cell} (h : InTiers s t m) (place : (wholePlace a bs.length).any Place.isTier = true) :
    InTiers s (t.writeBytes w a bs).1 (putMem m a bs.length (blockOf 0 bs)) := by
  obtain ⟨u, marks, counts⟩ := State.writeBytes_stores w (a := a) nonempty h.shut
  rw [State.store_tier place] at counts
  have readable := marks.readable h.readable
  refine ⟨(State.writeBytes_sameQ w nonempty h.shut).2, counts.readable (putConds_readable readable _ _), ?mem, fun p => ?scratch⟩
  case mem =>
    refine counts.looked.contexts.1.trans ?_
    rw [← h.mem, ← marks.looked.contexts.1]
    exact putBytes_readable readable _ _ _ _
  case scratch =>
    calc ((t.writeBytes w a bs).1.core p).scr.mem
      _ = (u.core p).scr.mem := (counts.looked.core p).scratch.1
      _ = (t.core p).scr.mem := (marks.looked.core p).scratch.1
      _ = (s.core p).scr.mem := h.scratch p

theorem InScratch.writeBytes {l off : Nat} {m : List Host.Cell} (h : InScratch s t l m)
    (place : wholePlace a bs.length = some (.scratch l off)) :
    InScratch s (t.writeBytes w a bs).1 l (putMem m off bs.length (blockOf 0 bs)) := by
  obtain ⟨u, marks, counts⟩ := State.writeBytes_stores w (a := a) nonempty h.shut
  rw [State.store_scratch place] at counts
  obtain ⟨markedMem, markedCond⟩ := (marks.looked.lcore l).scratch
  obtain ⟨countedMem, countedCond⟩ := (counts.looked.lcore l).scratch
  have readable : Readable (u.lcore l).scr.cond := markedCond ▸ h.readable
  have remap : u.remap = s.remap := marks.looked.remap.trans h.remap
  refine ⟨(State.writeBytes_sameQ w nonempty h.shut).2, counts.looked.remap.trans remap, ?readable, ?mem, ?tiers,
    fun p ne => ?others⟩
  case readable =>
    rw [countedCond, State.storeScratch, State.modLcore_same]
    exact putConds_readable readable _ _
  case mem =>
    rw [countedMem, State.storeScratch, State.modLcore_same, ← h.mem, ← markedMem]
    exact putBytes_readable readable _ _ _ _
  case tiers =>
    calc (t.writeBytes w a bs).1.mem
      _ = u.mem := counts.looked.contexts.1
      _ = t.mem := marks.looked.contexts.1
      _ = s.mem := h.tiers
  case others =>
    have other : p ≠ u.physOf l := State.physOf_congr remap l ▸ ne
    calc ((t.writeBytes w a bs).1.core p).scr.mem
      _ = ((u.storeScratch l off bs.length (blockOf 0 bs)).core p).scr.mem := (counts.looked.core p).scratch.1
      _ = (u.core p).scr.mem := congrArg (fun c => c.scr.mem) (State.modCore_other u _ other)
      _ = (t.core p).scr.mem := (marks.looked.core p).scratch.1
      _ = (s.core p).scr.mem := h.others p ne

end

/-! ### Several lists -/

/-- The network writes the lists `bytes i`, for each `i` of `is` in turn, at `at_ i`, through connection `conn`. -/
def State.writeEach (conn : Nat) (at_ : Nat → Nat) (bytes : Nat → List Byte) (s : State) (is : List Nat) : State :=
  is.foldl (fun s i => (s.writeBytes (s.rxWho conn) (at_ i) (bytes i)).1) s

section
variable {s t : State} (conn : Nat) {at_ : Nat → Nat} {bytes : Nat → List Byte} {is : List Nat} (nonempty : ∀ i, bytes i ≠ [])
include nonempty

theorem State.writeEach_sameQ (shut : s.injectOpen = false) :
    SameQ s (s.writeEach conn at_ bytes is) ∧ (s.writeEach conn at_ bytes is).injectOpen = false := by
  induction is generalizing s with
  | nil => exact ⟨.refl s, shut⟩
  | cons i is ih =>
    obtain ⟨same, closed⟩ := State.writeBytes_sameQ (s.rxWho conn) (a := at_ i) (nonempty i) shut
    obtain ⟨rest, stays⟩ := ih closed
    exact ⟨same.trans rest, stays⟩

theorem InTiers.writeEach {m : List Host.Cell} (h : InTiers s t m)
    (places : ∀ i ∈ is, (wholePlace (at_ i) (bytes i).length).any Place.isTier = true) :
    InTiers s (t.writeEach conn at_ bytes is) (putEach at_ bytes m is) := by
  induction is generalizing t m with
  | nil => exact h
  | cons i is ih =>
    obtain ⟨place, rest⟩ := List.forall_mem_cons.1 places
    exact ih (h.writeBytes (t.rxWho conn) (nonempty i) place) rest

theorem InScratch.writeEach {l : Nat} {off : Nat → Nat} {m : List Host.Cell} (h : InScratch s t l m)
    (places : ∀ i ∈ is, wholePlace (at_ i) (bytes i).length = some (.scratch l (off i))) :
    InScratch s (t.writeEach conn at_ bytes is) l (putEach off bytes m is) := by
  induction is generalizing t m with
  | nil => exact h
  | cons i is ih =>
    obtain ⟨place, rest⟩ := List.forall_mem_cons.1 places
    exact ih (h.writeBytes (t.rxWho conn) (nonempty i) place) rest

end

end Sys2Proof.Machine
end

section
/-! SUPPORT. The entries of a ring (R445), and how COMMAND appends to it (R447). -/

namespace Sys2Proof.Machine

/-! ### A change of a queue, and memory -/

theorem State.modQueue_memory (s : State) (q : Nat) (f : QState → QState) :
    (s.modQueue q f).mem = s.mem ∧ (s.modQueue q f).memCond = s.memCond := by
  unfold State.modQueue
  split
  · exact ⟨rfl, rfl⟩
  · exact ⟨rfl, rfl⟩

theorem State.modQueue_scr (s : State) (q : Nat) (f : QState → QState) (p : Nat) :
    ((s.modQueue q f).core p).scr = (s.core p).scr := by
  unfold State.modQueue
  split
  · unfold State.modLcore
    by_cases own : p = s.physOf (q / 4)
    · rw [own, State.modCore_same]
    · rw [State.modCore_other s _ own]
  · rfl

section
variable {s t : State} (q : Nat) (f : QState → QState)

theorem InTiers.modQueue {m : List Host.Cell} (h : InTiers s t m) : InTiers s (t.modQueue q f) m := by
  obtain ⟨mem, conds⟩ := t.modQueue_memory q f
  exact ⟨(t.modQueue_sameInjection q f).shut h.shut, conds ▸ h.readable, mem.trans h.mem,
    fun p => (congrArg Scratch.mem (t.modQueue_scr q f p)).trans (h.scratch p)⟩

theorem InScratch.modQueue {l : Nat} {m : List Host.Cell} (h : InScratch s t l m) : InScratch s (t.modQueue q f) l m := by
  have scr : ((t.modQueue q f).lcore l).scr = (t.lcore l).scr := t.modQueue_part q f Core.scr (fun _ _ => rfl) l
  exact ⟨(t.modQueue_sameInjection q f).shut h.shut, (t.modQueue_remap q f).trans h.remap, scr ▸ h.readable,
    (congrArg Scratch.mem scr).trans h.mem, (t.modQueue_memory q f).1.trans h.tiers,
    fun p ne => (congrArg Scratch.mem (t.modQueue_scr q f p)).trans (h.others p ne)⟩

end

/-! ### The places of a ring's entries -/

theorem upTo_rises (b n : Nat) : (upTo b n).Pairwise (· < ·) := by
  induction n generalizing b with
  | zero => exact .nil
  | succ n ih => exact List.pairwise_cons.2 ⟨fun k mem => (mem_upTo mem).1, ih (b + 1)⟩

/-- Entries that a ring holds at the same time have places of their own (R445). -/
theorem QState.ringAddr_apart (x : QState) (first : Nat) {i k n : Nat} (fits : n ≤ 2 ^ x.ringSize) (hi : i < n) (hk : k < n)
    (ne : i ≠ k) :
    x.ringAddr (first + i) + 64 ≤ x.ringAddr (first + k) ∨ x.ringAddr (first + k) + 64 ≤ x.ringAddr (first + i) := by
  have apart : (first + i) % 2 ^ x.ringSize ≠ (first + k) % 2 ^ x.ringSize := fun same =>
    ne (Nat.ModEq.eq_of_lt_of_lt (Nat.ModEq.add_left_cancel' first same) (hi.trans_le fits) (hk.trans_le fits))
  unfold QState.ringAddr
  omega

/-- The address of a place in a scratchpad (R400). -/
theorem wholePlace_scratch {a n l off : Nat} (place : wholePlace a n = some (.scratch l off)) : a = scratchAddr l off := by
  have first : placeOf a = some (.scratch l off) := by
    unfold wholePlace at place
    split at place
    case h_3 first _ =>
      split at place
      · cases place
        exact first
      · cases place
    all_goals simp at place
  unfold placeOf at first
  split at first
  · cases first
  split at first
  · cases first
  split at first
  · cases first
    unfold scratchAddr
    have whole := Nat.div_add_mod (a - scratchBase) scratchSize
    omega
  split at first
  · cases first
  · cases first

/-- A ring that takes the entries has room for them. -/
theorem State.ringTakes_fits {s : State} {q n : Nat} (takes : s.ringTakes q n = true) : n ≤ 2 ^ (s.queue q).ringSize := by
  simp only [State.ringTakes, Bool.and_eq_true, decide_eq_true_eq] at takes
  omega

/-! ### COMMAND (R447) -/

/-- Entry `i` of a COMMAND as its 64 bytes. -/
def entryBytes (es : List Entry) (i : Nat) : List Byte := leBytes 64 (es.getD i 0).toNat

theorem entryBytes_length (es : List Entry) (i : Nat) : (entryBytes es i).length = 64 := leBytes_length 64 _

theorem entryBytes_ne_nil (es : List Entry) (i : Nat) : entryBytes es i ≠ [] :=
  List.ne_nil_of_length_pos (by rw [entryBytes_length]; decide)

/-- A memory after the entries `es` have been written, entry `i` at `at_ i`. -/
def putEntries (at_ : Nat → Nat) (es : List Entry) (m : List Host.Cell) : List Host.Cell :=
  putEach at_ (entryBytes es) m (upTo 0 es.length)

section
variable {at_ : Nat → Nat} {es : List Entry} (m : List Host.Cell)

theorem byteAt_putEntries_outside {a : Nat} (outside : ∀ i, i < es.length → a < at_ i ∨ at_ i + 64 ≤ a) :
    byteAt (putEntries at_ es m) a = byteAt m a :=
  byteAt_putEach_outside (fun i mem => by
    rw [entryBytes_length]
    exact outside i (by have := mem_upTo mem; omega)) m

theorem byteAt_putEntries_inside
    (apart : ∀ i k, i < es.length → k < es.length → i ≠ k → at_ i + 64 ≤ at_ k ∨ at_ k + 64 ≤ at_ i)
    {i j : Nat} (entry : i < es.length) (inside : j < 64) :
    byteAt (putEntries at_ es m) (at_ i + j) = (entryBytes es i).getD j 0 := by
  refine byteAt_putEach_inside ?_ (mem_upTo_of_lt (Nat.zero_le i) (by omega)) (by rw [entryBytes_length]; exact inside) m
  refine (upTo_rises 0 es.length).imp_of_mem fun {i k} memI memK rises => ?_
  rw [entryBytes_length, entryBytes_length]
  exact apart i k (by have := mem_upTo memI; omega) (by have := mem_upTo memK; omega) (Nat.ne_of_lt rises)

end

/-- The queue whose ring has taken `n` entries. -/
def QState.took (x : QState) (n : Nat) : QState := { x with tail := x.tail + BitVec.ofNat 32 n }

/-- The queue that has refused one message more. -/
def QState.refuse (x : QState) : QState := { x with refused := satInc x.refused }

/-- Address of the entry that stands `i` behind the one that `TAIL` names. -/
def QState.tailAddr (x : QState) (i : Nat) : Nat := x.ringAddr (x.tail.toNat + i)

section
variable {s : State} (shut : s.injectOpen = false) (conn q : Nat) (es : List Entry)
include shut

/-- Where injection is not open, the entries are written at `TAIL` in order, and `TAIL` advances by their count. -/
theorem State.appendEntries_shut : s.appendEntries conn q es =
    (s.writeEach conn (s.queue q).tailAddr (entryBytes es) (upTo 0 es.length)).modQueue q (QState.took · es.length) := by
  obtain ⟨-, closed⟩ :=
    State.writeEach_sameQ conn (at_ := (s.queue q).tailAddr) (is := upTo 0 es.length) (entryBytes_ne_nil es) shut
  exact State.strikeSeq_shut ((State.modQueue_sameInjection _ q _).shut closed) q

theorem State.appendEntries_sets : SetsQueue s (s.appendEntries conn q es) q ((s.queue q).took es.length) := by
  rw [State.appendEntries_shut shut]
  exact ((SetsQueue.refl s q).sameQ (State.writeEach_sameQ conn (entryBytes_ne_nil es) shut).1).modQueue _

theorem State.appendEntries_tiers (readable : Readable s.memCond)
    (places : ∀ i, i < es.length → (wholePlace ((s.queue q).tailAddr i) 64).any Place.isTier = true) :
    InTiers s (s.appendEntries conn q es) (putEntries (s.queue q).tailAddr es s.mem) := by
  have before : InTiers s s s.mem := ⟨shut, readable, rfl, fun _ => rfl⟩
  rw [State.appendEntries_shut shut]
  refine (before.writeEach conn (entryBytes_ne_nil es) fun i mem => ?_).modQueue q _
  rw [entryBytes_length]
  exact places i (by have := mem_upTo mem; omega)

theorem State.appendEntries_scratch {l : Nat} {off : Nat → Nat} (readable : Readable (s.lcore l).scr.cond)
    (places : ∀ i, i < es.length → wholePlace ((s.queue q).tailAddr i) 64 = some (.scratch l (off i))) :
    InScratch s (s.appendEntries conn q es) l (putEntries off es (s.lcore l).scr.mem) := by
  have before : InScratch s s l (s.lcore l).scr.mem := ⟨shut, rfl, readable, rfl, rfl, fun _ _ => rfl⟩
  rw [State.appendEntries_shut shut]
  refine (before.writeEach conn (entryBytes_ne_nil es) fun i mem => ?_).modQueue q _
  rw [entryBytes_length]
  exact places i (by have := mem_upTo mem; omega)

end

section
variable {s : State} (conn : Nat) {q : Nat} {es : List Entry} (bound : q < 528) (nonempty : es ≠ []) (most : es.length ≤ 141)
include bound nonempty most

theorem State.applyCommand_taken (takes : s.ringTakes q es.length = true) :
    s.applyCommand conn q es = (s.appendEntries conn q es, ⟨0, []⟩) := by
  unfold State.applyCommand
  rw [if_neg (by simp only [nonempty, false_or]; omega), if_pos takes]

/-- R447: a COMMAND that the ring cannot take is counted, raises its event and is answered with COMMAND_REFUSED (0x0609). -/
theorem State.applyCommand_refused (full : s.ringTakes q es.length = false) :
    (s.applyCommand conn q es).2.status = 0x0609 ∧ Told (s.modQueue q QState.refuse) (s.applyCommand conn q es).1 := by
  unfold State.applyCommand
  rw [if_neg (by simp only [nonempty, false_or]; omega), full]
  exact ⟨rfl, State.raiseRare_told _ _ _ _ _⟩

end

end Sys2Proof.Machine

open Sys2Proof Sys2Proof.Machine

/-- Settles O32: a COMMAND that is taken writes its entries one after another, each sound and at a place of its own, and then moves
`TAIL`; one that is not is counted and raises its event. -/
theorem commandsFillTheRing : Obligations.CommandsFillTheRing := by
  unfold Obligations.CommandsFillTheRing
  intro s n q es bound nonempty most shut x t at_ bytes
  refine ⟨fun takes => ?taken, fun full => ?refused⟩
  case taken =>
    have applied := State.applyCommand_taken n bound nonempty most takes
    have appended : t = s.appendEntries n q es := congrArg Prod.fst applied
    have sets := State.appendEntries_sets shut n q es
    have apart (i k : Nat) (hi : i < es.length) (hk : k < es.length) (ne : i ≠ k) :
        at_ i + 64 ≤ at_ k ∨ at_ k + 64 ≤ at_ i :=
      x.ringAddr_apart x.tail.toNat (State.ringTakes_fits takes) hi hk ne
    rw [appended, sets.queue]
    refine ⟨congrArg (fun r => r.2.status) applied, rfl, rfl, fun map k _ ne => sets.others map k ne,
      fun places readable => ?tiers, fun off places readable => ?scratch⟩
    case tiers =>
      have held := State.appendEntries_tiers shut n q es readable places
      rw [held.mem]
      exact ⟨fun i j entry inside => byteAt_putEntries_inside s.mem apart entry inside,
        fun a outside => byteAt_putEntries_outside s.mem outside, held.scratch⟩
    case scratch =>
      have held := State.appendEntries_scratch shut n q es readable places
      have offApart (i k : Nat) (hi : i < es.length) (hk : k < es.length) (ne : i ≠ k) :
          off i + 64 ≤ off k ∨ off k + 64 ≤ off i := by
        have apart := apart i k hi hk ne
        rw [wholePlace_scratch (places i hi), wholePlace_scratch (places k hk)] at apart
        unfold scratchAddr at apart
        omega
      rw [held.mem]
      exact ⟨fun i j entry inside => byteAt_putEntries_inside _ offApart entry inside,
        fun a outside => byteAt_putEntries_outside _ outside, held.tiers, held.others⟩
  case refused =>
    obtain ⟨status, told⟩ := State.applyCommand_refused n bound nonempty most full
    have sets := ((SetsQueue.refl s q).modQueue QState.refuse).sameQ ((SameQ.refl _).told told)
    have mem : t.mem = (s.modQueue q QState.refuse).mem := told.fields.2.2.2.1
    refine ⟨status, sets.queue, mem.trans (s.modQueue_memory q _).1, fun p => ?_⟩
    rw [told.core p, State.modQueue_scr]

end

section
/-! SUPPORT. Every step: what an idle one leaves (R698, R732), that every command answers a next state, and the report that takes a
one-time signature index (R669 to R671). -/

namespace Sys2Proof.Machine

/-! ### Idle steps -/

/-- A step that may have moved the heartbeats of the dies, and nothing else. -/
structure Beats (s t : State) : Prop where
  rest : t = s.setDies t.dies
  die : ∀ d, t.die d = { s.die d with heartbeat := (t.die d).heartbeat }

theorem Beats.refl (s : State) : Beats s s := ⟨rfl, fun _ => rfl⟩

theorem Beats.trans {a b c : State} (h : Beats a b) (h' : Beats b c) : Beats a c := by
  refine ⟨?rest, fun d => ?die⟩
  case rest =>
    rw [h'.rest, h.rest]
    rfl
  case die => rw [h'.die d, h.die d]

theorem State.beat_beats (s : State) (d : Nat) : Beats s (s.beat d) := by
  unfold State.beat
  split
  next =>
    refine ⟨rfl, fun k => ?_⟩
    rcases eq_or_ne k d with rfl | other
    · rw [State.modDie_same]
    · rw [State.modDie_other _ _ other]
  next => exact .refl s

theorem State.tick_beats (s : State) : Beats (s.setTime { s.time with now := s.time.now + 10 }) s.tick := by
  unfold State.tick
  dsimp only
  split
  · exact (State.beat_beats _ 0).trans (State.beat_beats _ 1)
  · exact .refl _

theorem step_idle {s : State} (idle : s.pending = []) : step s = .next s.tick := by
  unfold step
  rw [idle]

/-! ### Every command answers -/

theorem execLatencyClear_answers (ini d : Nat) (s : State) : ∃ t, execLatencyClear ini d s = .next t := by
  unfold execLatencyClear
  split
  · exact ⟨_, rfl⟩
  · exact ⟨_, rfl⟩

theorem execStagingWrite_answers (ini off : Nat) (v : Word) (s : State) : ∃ t, execStagingWrite ini off v s = .next t := by
  unfold execStagingWrite
  split
  · exact ⟨_, rfl⟩
  · exact ⟨_, rfl⟩

theorem execHiWrite_answers (ini : Nat) (a v : Word) (s : State) : ∃ t, execHiWrite ini a v s = .next t := by
  unfold execHiWrite
  split
  · split
    · exact ⟨_, rfl⟩
    · exact ⟨_, rfl⟩
  · exact ⟨_, rfl⟩

theorem execLoRead_answers (ini : Nat) (a : Word) (s : State) : ∃ t, execLoRead ini a s = .next t := by
  unfold execLoRead
  split
  · exact ⟨_, rfl⟩
  · exact ⟨_, rfl⟩

/-- Four rows choose between a register access and nothing; every other meaning is a next state by its form. -/
theorem exec_answers (c : Instr) (s : State) : ∃ t, exec c s = .next t := by
  cases c
  case latencyClear ini d => exact execLatencyClear_answers ini d s
  case stagingWrite ini off v => exact execStagingWrite_answers ini off v s
  case hiWrite ini a v => exact execHiWrite_answers ini a v s
  case loRead ini a => exact execLoRead_answers ini a s
  all_goals exact ⟨_, rfl⟩

/-! ### The report of ATTEST_REQ -/

/-- The state after the signatures of a report: with the key spent, fresh bytes alone are drawn; otherwise the index is taken too. -/
def State.signed (s : State) : State := if s.lmsSpent then s.freshScalar.2 else s.freshScalar.2.takeIndex

theorem State.signed_spent {s : State} (spent : s.lmsSpent = true) : s.signed = s.freshScalar.2 := if_pos spent

theorem State.signed_left {s : State} (left : s.lmsSpent = false) : s.signed = s.freshScalar.2.takeIndex :=
  if_neg (Bool.eq_false_iff.1 left)

/-- R671: the epoch that follows starts at its first index, past every index of the epochs before; with all bits burned, nothing
but the report of the spent key is left. -/
theorem State.nextEpoch_nextIndex (s : State) (full : s.fuses.lmsEpochs.toNat ≤ 1024) :
    (s.fuses.lmsEpochs.toNat < 1024 → s.nextEpoch.nextIndex = 1024 * s.fuses.lmsEpochs.toNat) ∧
    (s.fuses.lmsEpochs.toNat = 1024 → s.nextEpoch.nextIndex = s.nextIndex) := by
  refine ⟨fun burns => ?burns, fun all => ?all⟩
  case burns =>
    have epochs : (BitVec.ofNat 11 (s.fuses.lmsEpochs.toNat + 1)).toNat = s.fuses.lmsEpochs.toNat + 1 :=
      Nat.mod_eq_of_lt (by omega)
    simp [State.nextEpoch, burns, State.nextIndex, State.recordHeld, epochs, State.setFuses, State.setFlash]
  case all =>
    simp [State.nextEpoch, all, State.nextIndex, State.recordHeld, State.modBoot]

/-- R671: while a signature is left, taking an index leaves only greater ones. -/
theorem State.takeIndex_rises {s : State} (ok : s.recordOk) (held : s.recordHeld = true) (left : s.lmsSpent = false) :
    s.flash.lmsNext < s.takeIndex.nextIndex := by
  obtain ⟨most, within⟩ := ok
  have inside : s.flash.lmsNext < 1024 * s.fuses.lmsEpochs.toNat := by
    rcases within held with inside | ⟨all, last⟩
    · exact inside
    · simp [State.lmsSpent, all, last] at left
  have taken : (s.setFlash { s.flash with lmsNext := s.flash.lmsNext + 1 }).nextIndex = s.flash.lmsNext + 1 := if_pos held
  have next := (s.setFlash { s.flash with lmsNext := s.flash.lmsNext + 1 }).nextEpoch_nextIndex most
  unfold State.takeIndex
  dsimp only at next ⊢
  split
  next last =>
    rcases Nat.lt_or_eq_of_le most with burns | all
    · rw [next.1 burns]
      exact inside
    · rw [next.2 all, taken]
      exact Nat.lt_succ_self _
  next =>
    rw [taken]
    exact Nat.lt_succ_self _

/-- R669: a request for attestation that comes next, on a connection with register access, is answered with a report. -/
theorem execAttestReq_reports {s : State} {conn : Nat} {hdr : MsgHdr} {nonce : List Byte}
    (arrives : s.arrives conn 0x09 (reqHeader hdr ++ bootBody 0x06 nonce) = true)
    (access : (s.modConn conn Conn.applied).regConn conn = true) : ∃ body, execAttestReq conn hdr nonce s =
      .next (((s.modConn conn Conn.applied).signed.sendMsg conn 0x09
        (msgHeader true 0 hdr.tag.toNat ++ bootBody 0x07 body)).refuseMalformed conn) := by
  unfold execAttestReq
  rw [arrives]
  dsimp only
  rw [access]
  exact ⟨_, rfl⟩

/-- R639: on another connection, such a request is answered with NET_OPERAND_INVALID (0x0811). -/
theorem execAttestReq_refused {s : State} {conn : Nat} {hdr : MsgHdr} {nonce : List Byte}
    (arrives : s.arrives conn 0x09 (reqHeader hdr ++ bootBody 0x06 nonce) = true)
    (access : (s.modConn conn Conn.applied).regConn conn = false) : execAttestReq conn hdr nonce s =
      .next ((s.modConn conn Conn.applied).bootAnswer conn hdr 0x0811) := by
  unfold execAttestReq
  rw [arrives]
  dsimp only
  rw [access]
  rfl

end Sys2Proof.Machine

open Sys2Proof Sys2Proof.Machine

/-- Settles O4: what a step follows from keeps its fuses burned. -/
theorem stepsBurnFusesOneWay : Obligations.StepsBurnFusesOneWay := by
  unfold Obligations.StepsBurnFusesOneWay
  exact fun s t run => (step_follows run).fuses

/-- Settles O5: the record is among what every step keeps, and the report takes its index before it is sent. -/
theorem oneTimeIndexOnlyRises : Obligations.OneTimeIndexOnlyRises := by
  unfold Obligations.OneTimeIndexOnlyRises
  refine ⟨fun s t ok run => (step_follows run).record ok, fun s conn hdr nonce arrives =>
    ⟨fun access => ?reports, execAttestReq_refused arrives⟩⟩
  obtain ⟨body, run⟩ := execAttestReq_reports arrives access
  refine ⟨_, body, run, fun spent => ?spent, fun ok held left => ?left⟩
  case spent =>
    rw [State.signed_spent (s := s.modConn conn Conn.applied) spent]
    rfl
  case left =>
    rw [State.signed_left (s := s.modConn conn Conn.applied) left]
    exact State.takeIndex_rises (s := (s.modConn conn Conn.applied).freshScalar.2) ok held left

/-- Settles O3: every meaning ends in a next state, and the commands that wait are among what it keeps. -/
theorem everyCommandAnswers : Obligations.EveryCommandAnswers := by
  unfold Obligations.EveryCommandAnswers
  intro c s
  obtain ⟨t, run⟩ := exec_answers c s
  exact ⟨t, run, (kept_res run (exec_kept c (.refl s))).pending⟩

/-- Settles O1: the step takes the command from the front and hands it the rest. -/
theorem stepRunsFront : Obligations.StepRunsFront := by
  unfold Obligations.StepRunsFront
  exact fun s c rest => rfl

/-- Settles O2: an idle step is a tick, which moves the time and then at most the heartbeats. -/
theorem idleStepIsATick : Obligations.IdleStepIsATick := by
  unfold Obligations.IdleStepIsATick
  intro s idle
  have beats := s.tick_beats
  have time : s.tick.time = { s.time with now := s.time.now + 10 } := by rw [beats.rest]; rfl
  refine ⟨_, step_idle idle, time, ?rest, beats.die⟩
  case rest =>
    rw [time]
    exact beats.rest

end

section
/-! SUPPORT. The actuators of the regions: what the next step of an operating point, new targets and a zone's temperature leave, and
that they leave everything but the regions alone (R511, R517, R540). -/

namespace Sys2Proof.Machine

/-! ### What moves regions and nothing else -/

/-- `t` is `s` but for the regions. -/
structure MovesRegions (s t : State) : Prop where
  rest : t = s.setRegions t.regions

theorem MovesRegions.refl (s : State) : MovesRegions s s := ⟨rfl⟩

theorem MovesRegions.trans {a b c : State} (h : MovesRegions a b) (h' : MovesRegions b c) : MovesRegions a c := by
  refine ⟨?_⟩
  rw [h'.rest, h.rest]
  rfl

/-- A part of the state that no write of the regions reaches stays. -/
theorem MovesRegions.same {α : Type} {s t : State} (h : MovesRegions s t) (g : State → α)
    (blind : ∀ (u : State) (v : NMap Region), g (u.setRegions v) = g u) : g t = g s := by
  rw [h.rest, blind]

theorem MovesRegions.power {s t : State} (h : MovesRegions s t) : t.power = s.power := h.same State.power fun _ _ => rfl

theorem MovesRegions.thermal {s t : State} (h : MovesRegions s t) : t.thermal = s.thermal := h.same State.thermal fun _ _ => rfl

theorem MovesRegions.modRegion (s : State) (r : Nat) (f : Region → Region) : MovesRegions s (s.modRegion r f) := ⟨rfl⟩

theorem MovesRegions.forEach {f : State → Nat → State} (hf : ∀ u k, MovesRegions u (f u k)) (l : List Nat) (s : State) :
    MovesRegions s (s.forEach l f) :=
  State.forEach_induction (P := MovesRegions s) (fun u k h => h.trans (hf u k)) l (.refl s)

theorem upTo_nodup (b n : Nat) : (upTo b n).Nodup := by
  induction n generalizing b with
  | zero => exact List.nodup_nil
  | succ n ih =>
    refine List.nodup_cons.2 ⟨fun mem => ?_, ih (b + 1)⟩
    have := (mem_upTo mem).1
    omega

/-- A loop over regions that touches only the region it stands at does to each named region what its one turn does. -/
theorem State.forEach_region {f : State → Nat → State} {Q : Nat → Region → Region → Prop}
    (others : ∀ (u : State) (k j : Nat), j ≠ k → (f u k).region j = u.region j)
    (turn : ∀ (u : State) (k : Nat), Q k (u.region k) ((f u k).region k)) {l : List Nat} (once : l.Nodup) {r : Nat} (mem : r ∈ l)
    (s : State) : Q r (s.region r) ((s.forEach l f).region r) := by
  have untouched : ∀ (l : List Nat) (u : State), r ∉ l → (u.forEach l f).region r = u.region r := by
    intro l
    induction l with
    | nil => exact fun u _ => rfl
    | cons k l ih =>
      intro u out
      obtain ⟨ne, out⟩ := not_or.1 (mt List.mem_cons.2 out)
      exact (ih (f u k) out).trans (others u k r ne)
  induction l generalizing s with
  | nil => exact absurd mem List.not_mem_nil
  | cons k l ih =>
    obtain ⟨out, once⟩ := List.nodup_cons.1 once
    rcases eq_or_ne r k with rfl | ne
    · rw [show s.forEach (r :: l) f = (f s r).forEach l f from rfl, untouched l (f s r) out]
      exact turn s r
    · rw [← others s k r ne]
      exact ih once ((List.mem_cons.1 mem).resolve_left ne) (f s k)

/-- Every region of the module is named by the loop over all eight. -/
theorem State.forEach_regions {f : State → Nat → State} {Q : Nat → Region → Region → Prop}
    (others : ∀ (u : State) (k j : Nat), j ≠ k → (f u k).region j = u.region j)
    (turn : ∀ (u : State) (k : Nat), Q k (u.region k) ((f u k).region k)) {r : Nat} (bound : r < 8) (s : State) :
    Q r (s.region r) ((s.forEach (upTo 0 8) f).region r) :=
  State.forEach_region others turn (upTo_nodup 0 8) (mem_upTo_of_lt (Nat.zero_le r) bound) s

theorem Told.region {s t : State} (h : Told s t) (r : Nat) : t.region r = s.region r := by
  have fields := h.fields
  unfold State.region
  rw [show t.regions = s.regions by tauto]

/-! ### The next step of an operating point (R511) -/

/-- What starting or moving a step changes in a region: its rail, its step and its point. -/
def Region.Stepped (x y : Region) : Prop := ∃ mv st p, y = { x with railMv := mv, step := st, point := p }

theorem Region.Stepped.refl (x : Region) : x.Stepped x := ⟨_, _, _, rfl⟩

theorem Region.switchDown_stepped (x : Region) (st : Option PointStep) : x.Stepped { x with step := st }.switchDown := by
  unfold Region.switchDown
  split
  · split
    · exact ⟨_, _, _, rfl⟩
    · exact ⟨_, _, _, rfl⟩
  · exact ⟨_, _, _, rfl⟩

/-- Region `r` may have stepped, and nothing else has changed. -/
structure Steps (s t : State) (r : Nat) : Prop where
  moves : MovesRegions s t
  region : (s.region r).Stepped (t.region r)
  others : ∀ k, k ≠ r → t.region k = s.region k

theorem Steps.refl (s : State) (r : Nat) : Steps s s r := ⟨.refl s, .refl _, fun _ _ => rfl⟩

theorem Steps.modRegion (s : State) {r : Nat} {f : Region → Region} (hf : ∀ x : Region, x.Stepped (f x)) :
    Steps s (s.modRegion r f) r :=
  ⟨.modRegion s r f, by rw [State.modRegion_same]; exact hf _, fun _ ne => State.modRegion_other s f ne⟩

theorem State.startStep_steps (s : State) (r : Nat) : Steps s (s.startStep r) r := by
  unfold State.startStep
  dsimp only
  split
  · exact .refl s r
  · split
    · split
      · exact .refl s r
      · exact .modRegion s fun x => ⟨_, _, _, rfl⟩
    · exact .modRegion s fun x => x.switchDown_stepped _

/-- A region that takes a new target within what it may have, and then may step. -/
theorem State.setTargets_region {r : Nat} (bound : r < 8) (s : State) (points : List Nat) :
    ((s.setTargets points).region r).target = min (points.getD r 0) (s.region r).top ∧
    ((s.setTargets points).region r).filler = (s.region r).filler := by
  refine State.forEach_regions (Q := fun k x y => y.target = min (points.getD k 0) x.top ∧ y.filler = x.filler)
    ?others ?turn bound s
  case others =>
    intro u k j ne
    rw [(State.startStep_steps _ k).others j ne, State.modRegion_other _ _ ne]
  case turn =>
    intro u k
    obtain ⟨mv, st, p, stepped⟩ := (State.startStep_steps (u.modRegion k fun x =>
      { x with target := min (points.getD k 0) x.top }) k).region
    rw [stepped, State.modRegion_same]
    exact ⟨rfl, rfl⟩

theorem State.setTargets_moves (s : State) (points : List Nat) : MovesRegions s (s.setTargets points) :=
  .forEach (fun u k => (MovesRegions.modRegion u k _).trans (State.startStep_steps _ k).moves) _ s

/-! ### Filler activity -/

theorem State.endFiller_region {r : Nat} (bound : r < 8) (s : State) :
    ((s.forEach (upTo 0 8) fun s r => s.modRegion r fun x => { x with filler := false }).region r).filler = false :=
  State.forEach_regions (Q := fun _ _ y => y.filler = false) (fun _ _ _ ne => State.modRegion_other _ _ ne)
    (fun _ _ => by rw [State.modRegion_same]) bound s

theorem State.stopFiller_moves (s : State) : MovesRegions s s.stopFiller := .forEach (fun _ _ => .modRegion _ _ _) _ s

/-! ### The temperature of a zone (R540) -/

/-- A region whose zone takes temperature `t` from sensor `k`, before it steps. -/
def Region.zoned (x : Region) (t : Int) (k : Nat) : Region :=
  let y : Region := { x with
    zone := BitVec.ofInt 16 t, hot := k, atLimit := decide (1680 ≤ t) || (x.atLimit && decide (1600 ≤ t))
    ceiling := if x.atLimit ∧ t < 1600 then 0 else x.ceiling }
  { y with target := min y.target y.top, filler := y.filler && !y.atLimit }

theorem State.setPower_ite (s : State) (c : Prop) [Decidable c] (p : Power) :
    (if c then s.setPower p else s) = s.setPower (if c then p else s.power) := by
  split
  · rfl
  · rfl

theorem State.setThermal_region (s : State) (x : Thermal) (r : Nat) : (s.setThermal x).region r = s.region r := rfl

theorem State.setThermal_ite (s : State) (c : Prop) [Decidable c] (x : Thermal) :
    (if c then s.setThermal x else s) = s.setThermal (if c then x else s.thermal) := by
  split
  · rfl
  · rfl

/-- A zone's temperature reaches its region and the highest temperature seen; entry to the limit raises THERMAL_LIMIT. -/
theorem State.setZone_zoned (s : State) (r : Nat) (t : Int) (k : Nat) : ∃ v : State,
    s.setZone r t k =
      (if (v.region r).atLimit ∧ !(s.region r).atLimit then v.raise pgThermal 0x0722 noted (powerInfo r k) else v) ∧
    ((s.region r).zoned t k).Stepped (v.region r) ∧
    v.thermal = (if s.thermal.max.toInt < t then { s.thermal with max := BitVec.ofInt 16 t, maxZone := BitVec.ofNat 3 r }
      else s.thermal) := by
  unfold State.setZone
  dsimp only
  rw [State.setThermal_ite, State.setPower_ite]
  refine ⟨_, rfl, ?region, ?thermal⟩
  case region =>
    obtain ⟨mv, st, p, stepped⟩ := (State.startStep_steps _ r).region
    refine ⟨mv, st, p, stepped.trans ?_⟩
    rw [State.modRegion_same, State.setThermal_region, State.modRegion_same]
    rfl
  case thermal => exact (State.startStep_steps _ r).moves.thermal

section
variable (s : State) (r : Nat) (t : Int) (k : Nat)

theorem State.setZone_region : ((s.region r).zoned t k).Stepped ((s.setZone r t k).region r) := by
  obtain ⟨v, zone, region, -⟩ := s.setZone_zoned r t k
  rw [zone]
  split
  · rw [(v.raise_told _ _ _ _).region]
    exact region
  · exact region

theorem State.setZone_thermal : (s.setZone r t k).thermal =
    if s.thermal.max.toInt < t then { s.thermal with max := BitVec.ofInt 16 t, maxZone := BitVec.ofNat 3 r } else s.thermal := by
  obtain ⟨v, zone, -, thermal⟩ := s.setZone_zoned r t k
  rw [zone, ← thermal]
  split
  · simp only [State.raise_fields]
  · rfl

theorem State.setZone_raises (limit : ((s.setZone r t k).region r).atLimit = true) (before : (s.region r).atLimit = false) :
    ∃ x : State, s.setZone r t k = x.raise pgThermal 0x0722 noted (powerInfo r k) := by
  obtain ⟨v, zone, -, -⟩ := s.setZone_zoned r t k
  rw [zone] at limit ⊢
  split at limit
  next entry => exact ⟨v, if_pos entry⟩
  next stays =>
    rw [limit, before] at stays
    exact absurd ⟨rfl, rfl⟩ stays

end

/-! ### Sensors and the ceiling (R539, R542) -/

theorem State.raiseEach_once (s : State) (pg : Nat) (code : BitVec 16) (info : Nat) :
    s.raiseEach pg code info true 1 = s.raise pg code noted info := rfl

/-- A faulty sensor, marked as reported. -/
def Region.faulted (x : Region) (k : Nat) : Region :=
  { x with sensorFault := nset false x.sensorFault k true, faultSeen := nset false x.faultSeen k true }

theorem State.sensorFails_region (s : State) (r k : Nat) : (s.sensorFails r k).region r = (s.region r).faulted k :=
  ((State.raiseEach_told _ _ _ _ _ _).region r).trans (State.modRegion_same s r _)

/-- R542: the failure of a sensor is reported once. -/
theorem State.sensorFails_raises {s : State} {r k : Nat} (unseen : nget false (s.region r).faultSeen k = false) :
    ∃ x : State, s.sensorFails r k = x.raise pgThermal 0x0723 noted (powerInfo r k) := by
  unfold State.sensorFails
  rw [unseen]
  exact ⟨_, rfl⟩

theorem Region.sensorAt_faulty {x : Region} {k : Nat} (faulty : nget false x.sensorFault k = true) : x.sensorAt k = 1680 :=
  if_pos faulty

theorem Region.sensorAt_sound {x : Region} {k : Nat} (sound : nget false x.sensorFault k = false) :
    x.sensorAt k = (nget 0 x.sensors k).toInt :=
  if_neg (Bool.eq_false_iff.1 sound)

section
variable (s : State) (r k : Nat) (v : BitVec 16)

theorem State.sensorReads_sensor : nget 0 ((s.sensorReads r k v).region r).sensors k = v := by
  unfold State.sensorReads
  dsimp only
  split
  · rw [State.sensorFails_region, State.modRegion_same]
    exact nget_nset_same _ _ _ _
  · split
    · rw [State.modRegion_same]
      exact nget_nset_same _ _ _ _
    · rw [State.modRegion_same, State.modRegion_same]
      exact nget_nset_same _ _ _ _

variable {v}

/-- R542: a reading outside the range makes its sensor faulty. -/
theorem State.sensorReads_outside (outside : Config.sensorInRange v = false) :
    nget false ((s.sensorReads r k v).region r).sensorFault k = true := by
  unfold State.sensorReads
  dsimp only
  rw [outside, if_pos (show (!false) = true from rfl), State.sensorFails_region]
  exact nget_nset_same false _ k true

/-- R542: a changed reading inside the range ends the fault of its sensor. -/
theorem State.sensorReads_changed (inside : Config.sensorInRange v = true) (changed : v ≠ nget 0 (s.region r).sensors k) :
    nget false ((s.sensorReads r k v).region r).sensorFault k = false := by
  unfold State.sensorReads
  dsimp only
  rw [inside, if_neg (show ¬(!true) = true from nofun), if_neg changed, State.modRegion_same]
  exact nget_nset_same false _ k false

end

/-- The hottest of sensors `ks`, beside one that stands for a sensor already. -/
theorem Region.foldl_hottest (x : Region) (ks : List Nat) (a : Int × Nat) (stands : a.1 = x.sensorAt a.2) :
    let z := ks.foldl (fun a k => if a.1 < x.sensorAt k then (x.sensorAt k, k) else a) a
    z.1 = x.sensorAt z.2 ∧ a.1 ≤ z.1 ∧ ∀ k ∈ ks, x.sensorAt k ≤ z.1 := by
  induction ks generalizing a with
  | nil => exact ⟨stands, le_refl _, fun _ mem => absurd mem List.not_mem_nil⟩
  | cons k ks ih =>
    rw [List.foldl_cons]
    split
    next hotter =>
      obtain ⟨at_, low, most⟩ := ih (x.sensorAt k, k) rfl
      exact ⟨at_, hotter.le.trans low, List.forall_mem_cons.2 ⟨low, most⟩⟩
    next cooler =>
      obtain ⟨at_, low, most⟩ := ih a stands
      exact ⟨at_, low, List.forall_mem_cons.2 ⟨(not_lt.1 cooler).trans low, most⟩⟩

/-- R538: the hottest sensor reads the zone's temperature, and no sensor that counts reads more. -/
theorem Region.hottest_most {x : Region} {n : Nat} {z : Int × Nat} (found : x.hottest n = some z) : z.1 = x.sensorAt z.2 ∧
    ∀ k, k < 32 → (k < n ∨ nget false x.sensorFault k = true) → x.sensorAt k ≤ z.1 := by
  have counts (k : Nat) (bound : k < 32) (counted : k < n ∨ nget false x.sensorFault k = true) :
      k ∈ (upTo 0 32).filter fun k => decide (k < n) || nget false x.sensorFault k :=
    List.mem_filter.2 ⟨mem_upTo_of_lt (Nat.zero_le k) (by omega), by simpa using counted⟩
  unfold Region.hottest at found
  split at found
  next => exact absurd found nofun
  next k ks named =>
    rw [named] at counts
    obtain rfl := Option.some.inj found
    obtain ⟨at_, low, most⟩ := x.foldl_hottest ks (x.sensorAt k, k) rfl
    have most : ∀ j ∈ k :: ks, x.sensorAt j ≤ _ := List.forall_mem_cons.2 ⟨low, most⟩
    exact ⟨at_, fun j bound counted => most j (counts j bound counted)⟩

/-! ### What a stop of the device leaves (R543 to R545, R582) -/

/-- What the stop of every queue and unit, and the end of a snapshot, leave alone: the power and thermal state, the side-band inputs,
the boot, the fuses, the regions, whether a device-stop holds the device, and the dies but for their events. -/
structure Stopping (s t : State) : Prop where
  power : t.power = s.power
  thermal : t.thermal = s.thermal
  side : t.side = s.side
  boot : t.boot = s.boot
  fuses : t.fuses = s.fuses
  regions : t.regions = s.regions
  stopped : t.err.deviceStopped = s.err.deviceStopped
  die : ∀ d, ∃ x y, t.die d = { s.die d with events := x, evSeq := y }

theorem Stopping.refl (s : State) : Stopping s s := ⟨rfl, rfl, rfl, rfl, rfl, rfl, rfl, fun _ => ⟨_, _, rfl⟩⟩

theorem Stopping.trans {a b c : State} (h : Stopping a b) (h' : Stopping b c) : Stopping a c := by
  refine ⟨h'.power.trans h.power, h'.thermal.trans h.thermal, h'.side.trans h.side, h'.boot.trans h.boot, h'.fuses.trans h.fuses,
    h'.regions.trans h.regions, h'.stopped.trans h.stopped, fun d => ?_⟩
  obtain ⟨x, y, first⟩ := h.die d
  obtain ⟨x', y', second⟩ := h'.die d
  exact ⟨x', y', by rw [second, first]⟩

theorem Told.stopping {s t : State} (h : Told s t) : Stopping s t := by
  have fields := h.fields
  obtain ⟨stopped, -, -, -, die⟩ := h.more
  exact ⟨by tauto, by tauto, by tauto, by tauto, by tauto, by tauto, stopped, die⟩

theorem Stopping.forEach {f : State → Nat → State} (hf : ∀ u k, Stopping u (f u k)) (l : List Nat) (s : State) :
    Stopping s (s.forEach l f) :=
  State.forEach_induction (P := Stopping s) (fun u k h => h.trans (hf u k)) l (.refl s)

theorem Stopping.ite {s a b : State} {c : Prop} [Decidable c] (ha : Stopping s a) (hb : Stopping s b) :
    Stopping s (if c then a else b) := by
  split
  · exact ha
  · exact hb

/-- A write that reaches none of these parts. -/
theorem Stopping.of {s t : State} (h : t = { s with
    mem := t.mem, cores := t.cores, devq := t.devq, closes := t.closes, rail := t.rail, clusters := t.clusters,
    remap := t.remap, snap := t.snap }) : Stopping s t := by
  rw [h]
  exact ⟨rfl, rfl, rfl, rfl, rfl, rfl, rfl, fun _ => ⟨_, _, rfl⟩⟩

theorem Stopping.modCore (s : State) (p : Nat) (f : Core → Core) : Stopping s (s.modCore p f) := .of rfl

theorem State.voidStaging_stopping (s : State) : Stopping s s.voidStaging := by
  unfold State.voidStaging
  exact .ite (.refl s) (.of rfl)

theorem State.abandonSnap_stopping (s : State) : Stopping s s.abandonSnap := by
  have abandoned (u : State) : Stopping u ((u.setSnap { s.snap with phase := .idle, stagingValid := false }).raise pgSnapshot 0x0907
      noted (s.nextSequence.toNat % 65536)) :=
    (Stopping.of rfl).trans (State.raise_told _ _ _ _ _).stopping
  unfold State.abandonSnap
  split
  · exact s.voidStaging_stopping.trans (abandoned _)
  · exact s.voidStaging_stopping.trans (abandoned _)
  · exact .of rfl
  · exact .refl s

theorem State.stopEverything_stopping (s : State) (code : BitVec 16) (rewind : Bool) : Stopping s (s.stopEverything code rewind) := by
  have spares (u : State) : Stopping u (u.forEach (upTo 0 4) fun s n =>
      if (s.spare n).starting then s.setRemap (s.remap.put n .reset) else s) := .forEach (fun _ _ => .ite (.of rfl) (.refl _)) _ u
  have clusters (u : State) : Stopping u (u.forEach (upTo 0 32) fun s c => s.modCluster c fun x => { x with held := [] }) :=
    .forEach (fun _ _ => .of rfl) _ u
  have queues (u : State) : Stopping u (u.forEach (upTo 0 16) fun s n =>
      s.setDevq (nmod .reset s.devq n fun x => x.deviceStop code rewind)) := .forEach (fun _ _ => .of rfl) _ u
  unfold State.stopEverything
  dsimp only
  generalize cores : s.forEach allPhys _ = u
  have ended : Stopping s u := by
    rw [← cores]
    exact .forEach (fun u p => .ite (.refl u) (.modCore u p _)) _ s
  have emptied (v : State) (rail : Rail) : Stopping v ((v.setCloses []).setRail rail) := .of rfl
  exact (ended.trans (queues u)).trans ((emptied _ _).trans ((clusters _).trans (spares _)))

/-- R543 to R545: a stop for `why` takes a device that runs; one that is stopped already stays as it is. -/
theorem State.powerStop_power (s : State) (why : StopCause) (code : BitVec 16) :
    (s.powerStop why code).side = s.side ∧ (s.powerStop why code).thermal = s.thermal ∧
    (s.powerStop why code).power.tripped = s.power.tripped ∧
    (s.power.restartReady = false → (s.powerStop why code).power.restartReady = false) ∧
    (s.power.stop = .none → s.err.deviceStopped = false → (s.powerStop why code).power.stop = why) := by
  unfold State.powerStop
  split
  next holds => exact ⟨rfl, rfl, rfl, id, fun none runs => absurd holds (by simp [none, runs])⟩
  next =>
    dsimp only
    have stops := s.abandonSnap_stopping.trans (s.abandonSnap.stopEverything_stopping code true)
    generalize s.abandonSnap.stopEverything code true = u at stops
    have retention : MovesRegions u (u.forEach (upTo 0 8) fun s r => s.modRegion r fun x =>
        { x with filler := false, railMv := Config.retentionMv, target := x.point, step := none }) :=
      .forEach (fun _ _ => .modRegion _ _ _) _ u
    generalize u.forEach _ _ = v at retention ⊢
    refine ⟨(retention.same State.side fun _ _ => rfl).trans stops.side, retention.thermal.trans stops.thermal, ?tripped,
      fun _ => rfl, fun _ _ => rfl⟩
    case tripped =>
      show v.power.tripped = _
      rw [retention.power, stops.power]

/-! ### The rows of the thermal sensors -/

theorem execThermalSample_short {s : State} {r : Nat} (bound : r < 8) (on : s.side.on = true) {rs : List (BitVec 16)}
    (short : rs.length ≤ 32) {z : Int × Nat}
    (found : ((rs.zipIdx.foldl (fun u v => u.sensorReads r v.2 v.1) s).region r).hottest rs.length = some z) :
    execThermalSample r rs s = .next ((rs.zipIdx.foldl (fun u v => u.sensorReads r v.2 v.1) s).setZone r z.1 z.2) := by
  unfold execThermalSample
  rw [decide_eq_true bound, on, List.take_of_length_le short]
  simp [found]

/-- R539: the ceiling of a zone, one point on. -/
def Region.nextCeiling (x : Region) (throttleAt : BitVec 8) : Nat :=
  if 16 * throttleAt.toNat ≤ x.zone.toInt then x.ceiling - 1
  else if x.zone.toInt ≤ 16 * throttleAt.toNat - 48 then min 7 (x.ceiling + 1)
  else x.ceiling

/-- R539: the ceiling moves by one point, no target passes it, and THERMAL_THROTTLE is raised when it leaves 7. -/
theorem execCeilingStep_moves {s : State} {r : Nat} (bound : r < 8) (on : s.side.on = true) : ∃ v : State,
    execCeilingStep r s = .next (if (s.region r).ceiling = 7 ∧ (v.region r).ceiling < 7 then
      v.raise pgThermal 0x0721 noted (powerInfo r (s.region r).hot) else v) ∧
    (v.region r).ceiling = (s.region r).nextCeiling s.thermal.throttleAt ∧
    (v.region r).target = min (s.region r).target (v.region r).top := by
  obtain ⟨mv, st, p, stepped⟩ := (State.startStep_steps (s.modRegion r fun y =>
    { y with
      ceiling := (s.region r).nextCeiling s.thermal.throttleAt
      target := min y.target (if y.atLimit then 0 else (s.region r).nextCeiling s.thermal.throttleAt) }) r).region
  rw [State.modRegion_same] at stepped
  refine ⟨_, ?runs, congrArg Region.ceiling stepped, ?target⟩
  case runs =>
    rw [stepped]
    unfold execCeilingStep
    rw [decide_eq_true bound, on]
    exact congrArg Host.Outcome.next (if_neg nofun)
  case target =>
    rw [stepped]
    rfl

/-- R542: a faulty sensor reads 105 °C, which its zone takes unless it is hotter already. -/
theorem execThermalSensorFault_zone {s : State} {r k : Nat} (bound : r < 8) (sensor : k < 32) (on : s.side.on = true) :
    ∃ (t : BitVec 16) (j : Nat), execThermalSensorFault r k s = .next ((s.sensorFails r k).setZone r t.toInt j) ∧
      t.toInt = max 1680 (s.region r).zone.toInt := by
  have zone : ((s.sensorFails r k).region r).zone = (s.region r).zone := by
    rw [s.sensorFails_region]
    rfl
  unfold execThermalSensorFault
  rw [decide_eq_true bound, decide_eq_true sensor, on]
  dsimp only
  rw [zone]
  rcases lt_or_ge (s.region r).zone.toInt 1680 with cooler | hot
  · exact ⟨1680, k, congrArg Host.Outcome.next ((if_neg nofun).trans (if_pos cooler)), (max_eq_left cooler.le).symm⟩
  · exact ⟨_, _, congrArg Host.Outcome.next ((if_neg nofun).trans (if_neg (not_lt.2 hot))), (max_eq_right hot).symm⟩

/-- R543: a trip counts, ends the readiness to restart, and stops the device. -/
def State.tripped (s : State) : State :=
  (s.setThermal { s.thermal with trips := satInc s.thermal.trips }).setPower
    { s.power with tripped := true, restartReady := false }

theorem execThermalTrip_stops {s : State} {r k : Nat} (bound : r < 8) (sensor : k < 32) (on : s.side.on = true) :
    execThermalTrip r k s = .next ((s.tripped.raise pgThermal 0x0720 deviceStopSev (powerInfo r k)).powerStop .trip 0x0720) := by
  unfold execThermalTrip
  rw [decide_eq_true bound, decide_eq_true sensor, on]
  exact congrArg Host.Outcome.next (if_neg nofun)

end Sys2Proof.Machine

open Sys2Proof Sys2Proof.Machine
/-- Settles O42: readings, the ceiling and faulty sensors reach their region through `setZone` and a step, a trip through `powerStop`. -/
theorem heatWorks : Obligations.HeatWorks := by
  unfold Obligations.HeatWorks
  intro s r bound on
  refine ⟨fun rs z short => ?sample, fun k v => ⟨s.sensorReads_sensor r k v, fun outside => ?outside, fun inside changed => ?inside⟩,
    fun t k => ?zone, ?ceiling, fun k sensor => ?fault, fun k sensor => ?trip⟩
  case sample =>
    intro u found
    exact ⟨execThermalSample_short bound on short found, Region.hottest_most found⟩
  case outside =>
    have faulty := s.sensorReads_outside r k outside
    exact ⟨faulty, Region.sensorAt_faulty faulty⟩
  case inside =>
    have sound := s.sensorReads_changed r k inside changed
    exact ⟨sound, (Region.sensorAt_sound sound).trans (congrArg BitVec.toInt (s.sensorReads_sensor r k v))⟩
  case zone =>
    obtain ⟨mv, st, p, zoned⟩ := s.setZone_region r t.toInt k
    have thermal := s.setZone_thermal r t.toInt k
    refine ⟨?reading, ?hot, ?limit, ?point, ?target, fun hotter => ?max, s.setZone_raises r t.toInt k⟩
    case max =>
      rw [thermal, if_pos hotter]
      exact ⟨BitVec.ofInt_toInt, Nat.mod_eq_of_lt bound⟩
    all_goals rw [zoned]
    case reading => exact BitVec.ofInt_toInt
    all_goals rfl
  case ceiling =>
    obtain ⟨v, runs, ceiling, target⟩ := execCeilingStep_moves bound on
    refine ⟨_, runs, ?_⟩
    have same : (if (s.region r).ceiling = 7 ∧ (v.region r).ceiling < 7 then
        v.raise pgThermal 0x0721 noted (powerInfo r (s.region r).hot) else v).region r = v.region r := by
      split
      · exact (v.raise_told _ _ _ _).region r
      · rfl
    rw [same]
    exact ⟨ceiling, target, fun full leaves => ⟨v, if_pos ⟨full, leaves⟩⟩⟩
  case fault =>
    obtain ⟨t, j, runs, hot⟩ := execThermalSensorFault_zone bound sensor on
    obtain ⟨mv, st, p, zoned⟩ := (s.sensorFails r k).setZone_region r t.toInt j
    rw [s.sensorFails_region] at zoned
    refine ⟨_, runs, ?_, ?_, ?_, State.sensorFails_raises⟩
    all_goals rw [zoned]
    · exact nget_nset_same false _ k true
    · exact (congrArg BitVec.toInt BitVec.ofInt_toInt).trans hot
    · simp [Region.zoned, hot]
  case trip =>
    have told := s.tripped.raise_told pgThermal 0x0720 deviceStopSev (powerInfo r k)
    obtain ⟨side, thermal, tripped, ready, stops⟩ := State.powerStop_power
      (s.tripped.raise pgThermal 0x0720 deviceStopSev (powerInfo r k)) .trip 0x0720
    rw [told.stopping.power] at tripped ready stops
    rw [told.stopping.stopped] at stops
    exact ⟨_, _, execThermalTrip_stops bound sensor on, rfl, by rw [thermal, told.stopping.thermal]; rfl, tripped, ready rfl, stops⟩

end

section
/-! SUPPORT. Droop (R526 to R530) and `THROTTLE_L` (R521): the rows of the clamps, of frozen steps and of the floor. -/

namespace Sys2Proof.Machine

theorem Told.lcore {s t : State} (h : Told s t) (l : Nat) : t.lcore l = s.lcore l := by
  have fields := h.fields
  exact State.lcore_congr (by tauto) (by tauto) l

theorem State.modRegion_lcore (s : State) (r : Nat) (f : Region → Region) (l : Nat) : (s.modRegion r f).lcore l = s.lcore l :=
  State.lcore_congr rfl rfl l

/-! ### Droop -/

/-- R526, R527, R528: a stretch clamps its core, counts, and freezes the step of its region. -/
def State.stretch (s : State) (core : Nat) (at_ : Option Nat) : State :=
  ((s.modLcore core fun c => { c with stretched := true, clamped := true, droopAt := at_ }).setPower
      { s.power with droopEvents := satInc s.power.droopEvents }).modRegion (regionOfPhys (s.physOf core)) fun x =>
    { x with upHold := true, step := x.step.map fun st => { st with frozen := true } }

theorem State.stretch_lcore (s : State) (core : Nat) (at_ : Option Nat) : (s.stretch core at_).lcore core =
    { s.lcore core with stretched := true, clamped := true, droopAt := at_ } :=
  (State.lcore_congr rfl rfl core).trans
    (State.modLcore_same s core fun c => { c with stretched := true, clamped := true, droopAt := at_ })

theorem State.stretch_region (s : State) (core : Nat) (at_ : Option Nat) : (s.stretch core at_).region (regionOfPhys (s.physOf core)) =
    { s.region (regionOfPhys (s.physOf core)) with
      upHold := true
      step := (s.region (regionOfPhys (s.physOf core))).step.map fun st => { st with frozen := true } } :=
  State.modRegion_same _ _ _

section
variable {s : State} {core : Nat} (bound : core < 128)
include bound

theorem execDroopStretch_stretches (powered : s.powered = true) (calm : (s.lcore core).stretched = false) :
    ∃ (at_ : Option Nat) (say : Bool), execDroopStretch core s =
      .next ((s.stretch core at_).raiseFull pgPower 0x0702 noted (powerInfo (regionOfPhys (s.physOf core)) core) 0 say false) := by
  unfold execDroopStretch
  rw [decide_eq_true bound, powered, calm]
  exact ⟨_, _, congrArg Host.Outcome.next (if_neg nofun)⟩

theorem execStretchEnd_stretched (stretched : (s.lcore core).stretched = true) : ∃ t, execStretchEnd core s = .next t ∧
    t.lcore core = { s.lcore core with stretched := false } := by
  unfold execStretchEnd
  rw [decide_eq_true bound, stretched]
  refine ⟨_, congrArg Host.Outcome.next (if_neg nofun), ?_⟩
  dsimp only
  split
  · exact State.modLcore_same s core _
  · rw [State.modRegion_lcore]
    exact State.modLcore_same s core _

theorem execClampEnd_calm (calm : (s.lcore core).stretched = false) :
    execClampEnd core s = .next (s.modLcore core fun c => { c with clamped := false }) := by
  unfold execClampEnd
  rw [decide_eq_true bound, calm]
  rfl

end

theorem execStepUpResume_calm {s : State} {r : Nat} (bound : r < 8) (calm : s.regionStretched r = false) :
    execStepUpResume r s = .next ((s.modRegion r fun x =>
      (Region.switchDown { x with upHold := false, step := x.step.map fun st => { st with frozen := false } }).resumeUp
        (s.pointMv r (x.point + 1))).startStep r) := by
  unfold execStepUpResume
  rw [decide_eq_true bound, calm]
  exact congrArg Host.Outcome.next (if_neg nofun)

/-! ### THROTTLE_L -/

/-- R521: the power manager at the floor, with the accepted level and its count. -/
def State.floored (s : State) : State :=
  (s.setSide { s.side with throttleL := false, throttleAssertions := satInc s.side.throttleAssertions }).setPower
    { s.power with throttle := true, issue := 1, memory := 4, fillerNext := false, fillerMw := 0 }

/-- The regions at the floor: filler activity ends, and every target is point 0. -/
def State.regionsFloored (s : State) : State :=
  (s.forEach (upTo 0 8) fun s r => s.modRegion r fun x => { x with filler := false }).setTargets Setting.floor.points

theorem State.regionsFloored_moves (s : State) : MovesRegions s s.regionsFloored :=
  (MovesRegions.forEach (fun _ _ => .modRegion _ _ _) _ s).trans (State.setTargets_moves _ _)

theorem State.regionsFloored_region {r : Nat} (bound : r < 8) (s : State) :
    (s.regionsFloored.region r).target = 0 ∧ (s.regionsFloored.region r).filler = false := by
  obtain ⟨target, filler⟩ := State.setTargets_region bound
    (s.forEach (upTo 0 8) fun s r => s.modRegion r fun x => { x with filler := false }) Setting.floor.points
  refine ⟨target.trans ?_, filler.trans (State.endFiller_region bound s)⟩
  have floor : Setting.floor.points.getD r 0 = 0 := List.getD_replicate (x := 0) (y := 0) bound
  rw [floor, Nat.zero_min]

theorem execThrottleAsserted_floors {s : State} (on : s.side.on = true) (high : s.side.throttleL = true) :
    execThrottleAsserted s = .next (s.floored.regionsFloored.raise pgPower 0x0713 noted 0) := by
  unfold execThrottleAsserted
  rw [on, high]
  exact congrArg Host.Outcome.next (if_neg nofun)

theorem execThrottleReleased_lifts {s : State} (on : s.side.on = true) (low : s.side.throttleL = false) :
    execThrottleReleased s = .next ((s.setSide { s.side with throttleL := true }).setPower { s.power with throttle := false }) := by
  unfold execThrottleReleased
  rw [on, low]
  rfl

end Sys2Proof.Machine

open Sys2Proof Sys2Proof.Machine

/-- Settles O41: a stretch reaches its core and its region, and the floor reaches the power manager and each region. -/
theorem droopAndThrottleWork : Obligations.DroopAndThrottleWork := by
  unfold Obligations.DroopAndThrottleWork
  refine ⟨⟨fun s core bound powered calm => ?stretch, fun s core bound stretched => ?ends,
    fun s core bound calm => execClampEnd_calm bound calm, fun s r bound calm => execStepUpResume_calm bound calm⟩,
    fun s on high => ?asserted, fun s on low => ⟨_, execThrottleReleased_lifts on low, rfl, rfl⟩⟩
  case stretch =>
    obtain ⟨at_, say, runs⟩ := execDroopStretch_stretches bound powered calm
    have told := (s.stretch core at_).raiseFull_told pgPower 0x0702 noted (powerInfo (regionOfPhys (s.physOf core)) core) 0 say false
    refine ⟨_, runs, ?_⟩
    rw [told.lcore, told.region, told.stopping.power, State.stretch_lcore, State.stretch_region]
    exact ⟨rfl, rfl, rfl, rfl, rfl⟩
  case ends =>
    obtain ⟨t, runs, lcore⟩ := execStretchEnd_stretched bound stretched
    refine ⟨t, runs, ?_⟩
    rw [lcore]
    exact ⟨rfl, rfl⟩
  case asserted =>
    have told := s.floored.regionsFloored.raise_told pgPower 0x0713 noted 0
    have moves := s.floored.regionsFloored_moves
    refine ⟨_, execThrottleAsserted_floors on high, ?_⟩
    rw [told.stopping.power, told.stopping.side, moves.power, moves.same State.side fun _ _ => rfl]
    refine ⟨rfl, rfl, rfl, rfl, rfl, rfl, rfl, fun r bound => ?_⟩
    rw [told.region]
    exact State.regionsFloored_region bound _

end

section
/-! SUPPORT. Measurement and the period (R502 to R504, R511, R515, R521): what attribution and the next period's settings leave of the
power manager's readings. -/

namespace Sys2Proof.Machine

/-! ### Readings and settings of the power manager -/

/-- The readings and the settings in force stay. -/
structure KeepsReadings (s t : State) : Prop where
  measured : t.power.measured = s.power.measured
  peak : t.power.peak = s.power.peak
  fillerActive : t.power.fillerActive = s.power.fillerActive
  budget : t.power.budget = s.power.budget
  issue : t.power.issue = s.power.issue
  memory : t.power.memory = s.power.memory

theorem KeepsReadings.of_power {s t : State} (h : t.power = s.power) : KeepsReadings s t := by
  constructor
  all_goals rw [h]

theorem KeepsReadings.refl (s : State) : KeepsReadings s s := .of_power rfl

theorem KeepsReadings.trans {a b c : State} (h : KeepsReadings a b) (h' : KeepsReadings b c) : KeepsReadings a c :=
  ⟨h'.measured.trans h.measured, h'.peak.trans h.peak, h'.fillerActive.trans h.fillerActive, h'.budget.trans h.budget,
    h'.issue.trans h.issue, h'.memory.trans h.memory⟩

theorem KeepsReadings.ite {s a b : State} {c : Prop} [Decidable c] (ha : KeepsReadings s a) (hb : KeepsReadings s b) :
    KeepsReadings s (if c then a else b) := by
  split
  · exact ha
  · exact hb

theorem MovesRegions.readings {s t : State} (h : MovesRegions s t) : KeepsReadings s t := .of_power h.power

theorem Told.readings {s t : State} (h : Told s t) : KeepsReadings s t := .of_power h.stopping.power

theorem State.raiseRegion_told (s : State) (code : BitVec 16) (r : Option Nat) : Told s (s.raiseRegion code r) := by
  unfold State.raiseRegion
  split
  · exact s.raise_told _ _ _ _
  · exact (Told.refl.opened).raiseFull _ _ _ _ _ _ _

theorem KeepsReadings.raise {s t : State} (h : KeepsReadings s t) (pg : Nat) (code : BitVec 16) (sev info : Nat) :
    KeepsReadings s (t.raise pg code sev info) := h.trans (t.raise_told pg code sev info).readings

theorem KeepsReadings.regions {s t : State} (h : KeepsReadings s t) (f : Nat → Region → Region) :
    KeepsReadings s (t.forEach (upTo 0 8) fun s r => s.modRegion r (f r)) :=
  h.trans (MovesRegions.forEach (fun v r => .modRegion v r (f r)) _ t).readings

theorem State.attainability_readings (s : State) (low : Bool) : KeepsReadings s (s.attainability low) := by
  unfold State.attainability
  dsimp only
  refine .ite (.ite ?_ (.raise ?_ _ _ _ _)) (.ite ?_ (.refl s))
  all_goals exact ⟨rfl, rfl, rfl, rfl, rfl, rfl⟩

theorem State.setDeparted_readings (s : State) (cond : Bool) (r : Option Nat) : KeepsReadings s (s.setDeparted cond r) := by
  have marked : KeepsReadings s (s.setPower { s.power with departed := cond }) := ⟨rfl, rfl, rfl, rfl, rfl, rfl⟩
  unfold State.setDeparted
  exact .ite (marked.trans (State.raiseRegion_told _ _ _).readings) marked

theorem State.planFiller_readings (s : State) (n : Basis) (draw budget : Nat) (x : Setting) (low : Bool) :
    KeepsReadings s (s.planFiller n draw budget x low) := by
  unfold State.planFiller
  dsimp only
  refine .ite (.raise (.regions ?_ _) _ _ _ _) (.regions ?_ _)
  all_goals exact ⟨rfl, rfl, rfl, rfl, rfl, rfl⟩

/-! ### Attribution (R549 to R553) -/

/-- The power manager, the boot and the fuses stay. -/
structure KeepsPower (s t : State) : Prop where
  power : t.power = s.power
  boot : t.boot = s.boot
  fuses : t.fuses = s.fuses

theorem KeepsPower.refl (s : State) : KeepsPower s s := ⟨rfl, rfl, rfl⟩

theorem KeepsPower.trans {a b c : State} (h : KeepsPower a b) (h' : KeepsPower b c) : KeepsPower a c :=
  ⟨h'.power.trans h.power, h'.boot.trans h.boot, h'.fuses.trans h.fuses⟩

theorem KeepsPower.setEnergy (s : State) (x : Energy) : KeepsPower s (s.setEnergy x) := ⟨rfl, rfl, rfl⟩

theorem KeepsPower.foldl {α : Type} {f : State → α → State} (hf : ∀ u a, KeepsPower u (f u a)) (l : List α) (s : State) :
    KeepsPower s (l.foldl f s) := by
  induction l generalizing s with
  | nil => exact .refl s
  | cons a l ih => exact (hf s a).trans (ih (f s a))

theorem Looked.power {s t : State} (h : Looked s t) : KeepsPower s t := by
  have rest := h.rest
  exact ⟨by tauto, by tauto, by tauto⟩

theorem MovesRegions.keepsPower {s t : State} (h : MovesRegions s t) : KeepsPower s t :=
  ⟨h.power, h.same State.boot fun _ _ => rfl, h.same State.fuses fun _ _ => rfl⟩

theorem State.ctxWrite_power (s : State) (n : Nat) (f : Ctx → Ctx) : KeepsPower s (s.ctxWrite n f) := by
  have written (u : State) (v : NMap WordCond) : KeepsPower u (u.setCtxCond v) := ⟨rfl, rfl, rfl⟩
  have marked (u : State) : KeepsPower u (u.takeInjection pgContext).1 := ((Looked.refl u).takeInjection pgContext).power
  have changed : KeepsPower s (s.modCtx n f) := ⟨rfl, rfl, rfl⟩
  unfold State.ctxWrite
  dsimp only
  split
  · exact changed.trans ((written _ _).trans (marked _))
  · exact changed.trans ((written _ _).trans ((marked _).trans (written _ _)))

theorem State.chargeContexts_power (s : State) (k : Int × Int) : KeepsPower s (s.chargeContexts k) := by
  unfold State.chargeContexts
  dsimp only
  refine (KeepsPower.setEnergy s _).trans (.foldl (fun u c => ?_) _ _)
  split
  · exact .refl u
  · exact (KeepsPower.setEnergy u _).trans (State.ctxWrite_power _ _ _)

theorem State.attribute_power (s : State) (n uw : Nat) : KeepsPower s (s.attribute n uw) := by
  unfold State.attribute
  exact (KeepsPower.setEnergy s _).trans (State.chargeContexts_power _ _)

/-! ### The next period (R515 to R522) -/

/-- What a budget goes by: the limits of the power manager and the fused voltages. -/
theorem State.budget_congr {s t : State} (power : t.power = s.power) (fuses : t.fuses = s.fuses) (k draw : Nat) :
    t.budget (t.basis k) draw = s.budget (s.basis k) draw := by
  unfold State.budget State.baseLimit State.basis
  rw [power, fuses]

theorem State.plan_floor {s : State} (low : s.power.throttle = true) (n : Basis) (draw budget : Nat) :
    s.plan n draw budget = .floor := if_pos (.inl low)

/-- The power manager with a budget and the limits of a setting. -/
def Power.planned (p : Power) (budget : Nat) (x : Setting) : Power :=
  { p with budget := BitVec.ofNat 12 (min 4095 (budget / 1000)), issue := x.k, memory := x.j }

/-- The settings of the next period: the budget, and an issue and a memory limit, at the floor under `THROTTLE_L` (R521). -/
theorem State.manage_readings (s : State) (k draw : Nat) : ∃ x : Setting,
    KeepsReadings (s.setPower (s.power.planned (s.budget (s.basis k) draw) x)) (s.manage k draw) ∧
      (s.power.throttle = true → x = .floor) := by
  have counted : MovesRegions s s.countHolds := .forEach (fun _ _ => .modRegion _ _ _) _ s
  refine ⟨s.countHolds.plan (s.basis k) draw (s.budget (s.basis k) draw), ?readings, fun low => State.plan_floor ?throttle _ _ _⟩
  case throttle =>
    rw [counted.power]
    exact low
  case readings =>
    unfold State.manage
    dsimp only
    generalize departs : (s.countHolds.attainability _).setDeparted _ _ = u
    have before : KeepsReadings s u := by
      rw [← departs]
      exact (counted.readings.trans (State.attainability_readings _ _)).trans (State.setDeparted_readings _ _ _)
    generalize s.countHolds.plan (s.basis k) draw (s.budget (s.basis k) draw) = x
    have set (hold : Bool) : KeepsReadings (s.setPower (s.power.planned (s.budget (s.basis k) draw) x))
        (u.setPower { u.power.planned (s.budget (s.basis k) draw) x with rampHold := hold }) :=
      ⟨before.measured, before.peak, before.fillerActive, rfl, rfl, rfl⟩
    refine (((set _).trans (MovesRegions.readings (.forEach (fun v r => ?_) _ _))).trans
      (State.setTargets_moves _ _).readings).trans (State.planFiller_readings _ _ _ _ _ _)
    split
    · exact .refl v
    · exact .modRegion v r _

/-! ### The rows -/

theorem State.modSupply_same (s : State) (rail : Nat) (f : Supply → Supply) : (s.modSupply rail f).supply rail = f (s.supply rail) :=
  nget_nmod_same _ _ _ _

theorem State.modSupply_other (s : State) {rail k : Nat} (f : Supply → Supply) (other : k ≠ rail) :
    (s.modSupply rail f).supply k = s.supply k :=
  nget_nmod_other _ _ _ other

theorem State.supply_congr {s t : State} (h : t.power = s.power) (rail : Nat) : t.supply rail = s.supply rail := by
  unfold State.supply
  rw [h]

section
variable {s : State} {rail : Nat} (bound : rail < railCount) (on : s.side.on = true)
include bound on

/-- R502, R511: a sample reaches its rail, and the step of the region whose core rail it is. -/
theorem execAvsbusSample_samples (mv ma : Nat) : ∃ f : Supply → Supply,
    (∀ x, (f x).mv = BitVec.ofNat 16 mv ∧ (f x).ma = BitVec.ofNat 32 ma ∧ (f x).missed = false) ∧
    execAvsbusSample rail mv ma s =
      .next (if rail < 8 then (s.modSupply rail f).modRegion rail fun x => x.reported (mv % 65536) else s.modSupply rail f) := by
  unfold execAvsbusSample
  rw [if_pos ⟨bound, on⟩]
  exact ⟨_, fun x => ⟨rfl, rfl, rfl⟩, rfl⟩

/-- R504: a rail that has missed four samples is counted; while another rail is measured, the device goes on (R569). -/
theorem execPowerTelemetryLost_counts (measured : (s.supply rail).missed = false)
    (another : ∃ k, k < railCount ∧ k ≠ rail ∧ (s.supply k).missed = false) : execPowerTelemetryLost rail s =
      .next (((s.setPower { s.power with telemetryLost := satInc s.power.telemetryLost }).modSupply rail fun x =>
        { x with missed := true }).raiseRegion 0x0706 (railRegion rail)) := by
  obtain ⟨k, count, other, sees⟩ := another
  unfold execPowerTelemetryLost
  rw [decide_eq_true bound, on, measured]
  refine congrArg Host.Outcome.next ((if_neg nofun).trans ((if_pos rfl).trans (if_neg fun all => ?_)))
  have told := State.raiseRegion_told ((s.setPower { s.power with telemetryLost := satInc s.power.telemetryLost }).modSupply rail
    fun x => { x with missed := true }) 0x0706 (railRegion rail)
  have lost := List.all_eq_true.1 all k (mem_upTo_of_lt (Nat.zero_le k) (by omega))
  rw [State.supply_congr told.stopping.power, State.modSupply_other _ _ other] at lost
  exact Bool.false_ne_true (sees.symm.trans lost)

end

/-- What the end of a period measures (R503), before its energy is attributed. -/
structure State.Measures (s t : State) : Prop where
  fillerActive : t.power.fillerActive = s.power.fillerNext
  measured : t.power.measured = BitVec.ofNat 12 (min 4095 (s.draw / 1000000))
  peak : t.power.peak = if s.power.peak.toNat < t.power.measured.toNat then t.power.measured else s.power.peak
  budget : t.power.budget = s.power.budget
  issue : t.power.issue = s.power.issue
  memory : t.power.memory = s.power.memory
  throttle : t.power.throttle = s.power.throttle
  powered : t.powered = s.powered
  limits : ∀ k draw, t.budget (t.basis k) draw = s.budget (s.basis k) draw

/-- POWER_PERIOD: measurement, attribution, and the next period's settings where the power manager sets them. -/
theorem execPowerPeriod_measures {s : State} (on : s.side.on = true) : ∃ x : State, s.Measures x ∧ execPowerPeriod s =
    .next (if (x.attribute s.oracle s.draw).stopFiller.powered then
      (x.attribute s.oracle s.draw).stopFiller.manage s.oracle (s.draw / 1000) else (x.attribute s.oracle s.draw).stopFiller) := by
  unfold execPowerPeriod
  rw [on]
  refine ⟨_, ?measures, congrArg Host.Outcome.next (if_neg nofun)⟩
  case measures => exact ⟨rfl, rfl, rfl, rfl, rfl, rfl, rfl, rfl, fun _ _ => rfl⟩

theorem State.attribute_stopFiller_power (s : State) (n uw : Nat) : KeepsPower s (s.attribute n uw).stopFiller :=
  (State.attribute_power s n uw).trans (State.stopFiller_moves _).keepsPower

/-- R511: the last stage of a step that is ready; without a failing core and outside uniform mode, the margin check leaves the region
as that stage does. -/
theorem execOpPointStep_ends {s : State} {r : Nat} {st : PointStep} (bound : r < 8) (powered : s.powered = true)
    (step : (s.region r).step = some st) (ready : s.stepReady r st = true) : execOpPointStep r [] s =
      .next (((s.lastStage r st).marginCheck r []).startStep r) := by
  unfold execOpPointStep
  rw [decide_eq_true bound, powered, step]
  exact congrArg Host.Outcome.next (if_neg (by rw [ready]; decide))

theorem State.marginCheck_free {s : State} {r : Nat} (free : s.power.uniform = false) :
    ((s.marginCheck r []).region r) = s.region r := by
  unfold State.marginCheck
  dsimp only
  generalize checked : s.forEach (s.regionCores r) _ = u
  have kept : u.regions = s.regions ∧ u.power = s.power := by
    rw [← checked]
    refine State.forEach_induction (P := fun u => u.regions = s.regions ∧ u.power = s.power) (fun u l h => ?_) _ ⟨rfl, rfl⟩
    rw [if_neg (show ¬([] : List Nat).contains l = true from nofun)]
    exact h
  rw [kept.2, free, if_neg (fun h => Bool.false_ne_true h.1)]
  unfold State.region
  rw [kept.1]

end Sys2Proof.Machine

open Sys2Proof Sys2Proof.Machine

/-- Settles O40: the period measures, then attributes and plans, which keep what it measured. -/
theorem powerWorks : Obligations.PowerWorks := by
  unfold Obligations.PowerWorks
  refine ⟨fun s rail mv ma bound on => ?sample, fun s rail bound on measured another => ?lost, fun s on => ?period,
    fun s r st bound powered step ready free => ?point⟩
  case sample =>
    obtain ⟨f, sets, runs⟩ := execAvsbusSample_samples bound on mv ma
    refine ⟨_, runs, ?_⟩
    have supply (k : Nat) : (if rail < 8 then (s.modSupply rail f).modRegion rail fun x => x.reported (mv % 65536)
        else s.modSupply rail f).supply k = (s.modSupply rail f).supply k := by
      split
      · rfl
      · rfl
    rw [supply, State.modSupply_same]
    refine ⟨(sets _).1, (sets _).2.1, (sets _).2.2, fun k other => (supply k).trans (State.modSupply_other s f other), ?_⟩
    split
    · rfl
    · rfl
  case lost =>
    have told := State.raiseRegion_told ((s.setPower { s.power with telemetryLost := satInc s.power.telemetryLost }).modSupply rail
      fun x => { x with missed := true }) 0x0706 (railRegion rail)
    refine ⟨_, execPowerTelemetryLost_counts bound on measured another, ?_, ?_⟩
    · rw [State.supply_congr told.stopping.power, State.modSupply_same]
    · rw [told.stopping.power]
      rfl
  case period =>
    obtain ⟨x, measures, runs⟩ := execPowerPeriod_measures on
    have keeps := x.attribute_stopFiller_power s.oracle s.draw
    generalize (x.attribute s.oracle s.draw).stopFiller = u at keeps runs
    have powered : u.powered = s.powered := by
      rw [← measures.powered]
      unfold State.powered
      rw [keeps.boot, keeps.power]
    have reads (t : State) (filler : t.power.fillerActive = u.power.fillerActive) (measured : t.power.measured = u.power.measured)
        (peak : t.power.peak = u.power.peak) : t.power.fillerActive = s.power.fillerNext ∧
        t.power.measured = BitVec.ofNat 12 (min 4095 (s.draw / 1000000)) ∧
        t.power.peak = (if s.power.peak.toNat < t.power.measured.toNat then t.power.measured else s.power.peak) := by
      rw [filler, measured, peak, keeps.power]
      exact ⟨measures.fillerActive, measures.measured, measures.peak⟩
    rw [powered] at runs
    refine ⟨_, runs, ?_⟩
    split
    next sets =>
      obtain ⟨y, planned, floor⟩ := u.manage_readings s.oracle (s.draw / 1000)
      obtain ⟨filler, measured, peak⟩ := reads _ planned.fillerActive planned.measured planned.peak
      refine ⟨filler, measured, peak, fun _ => ⟨planned.budget.trans ?_, fun low => ?_⟩,
        fun rests => absurd sets (by rw [rests]; nofun)⟩
      · show BitVec.ofNat 12 (min 4095 (u.budget _ _ / 1000)) = _
        rw [State.budget_congr keeps.power keeps.fuses, measures.limits]
      · have floor := floor (by rw [keeps.power, measures.throttle, low])
        rw [planned.issue, planned.memory, floor]
        exact ⟨rfl, rfl⟩
    next rests =>
      obtain ⟨filler, measured, peak⟩ := reads u rfl rfl rfl
      refine ⟨filler, measured, peak, fun sets => absurd sets rests, fun _ => ?_⟩
      rw [keeps.power]
      exact ⟨measures.issue, measures.memory, measures.budget⟩
  case point =>
    refine ⟨_, execOpPointStep_ends bound powered step ready, ?_⟩
    rw [State.marginCheck_free (s := s.lastStage r st) free, State.lastStage, State.modRegion_same]
    generalize st.up = up
    cases up
    · exact ⟨rfl, rfl, rfl⟩
    · exact ⟨rfl, rfl, rfl⟩

end

section
/-! SUPPORT. Failures of the clocks, of the bridge and of the management processors (R728, R730, R732): a device-stop holds the device
with its code, and leaves the dies but for their events. -/

namespace Sys2Proof.Machine

section
variable {s : State} (runs : s.err.deviceStopped = false) (free : s.power.stop = .none)
include runs free

theorem State.deviceStop_leaves (cause : BitVec 16) :
    (s.deviceStop cause).err.deviceStopped = true ∧ (s.deviceStop cause).err.stopCode = cause ∧
    ∀ d, ∃ x y, (s.deviceStop cause).die d = { s.die d with events := x, evSeq := y } := by
  have stops := s.abandonSnap_stopping.trans (s.abandonSnap.stopEverything_stopping 0x0B01 false)
  unfold State.deviceStop
  rw [if_neg (by simp [runs, free])]
  dsimp only
  generalize s.abandonSnap.stopEverything 0x0B01 false = u at stops
  have told := (u.setErr { u.err with deviceStopped := true, stopCode := cause }).raiseFull_told pgErragg 0x0B01 deviceStopSev
    (errInfo 0 0 0 cause) cause.toNat true false
  obtain ⟨stopped, code, -, -, events⟩ := told.more
  refine ⟨stopped, code, fun d => ?_⟩
  obtain ⟨x, y, die⟩ := events d
  obtain ⟨x', y', before⟩ := stops.die d
  refine ⟨x, y, ?_⟩
  have same (e : ErrAgg) : (u.setErr e).die d = u.die d := rfl
  rw [die, same, before]

theorem State.raiseStop_leaves (pg : Nat) (code : BitVec 16) (info : Nat) :
    (s.raiseStop pg code info).err.deviceStopped = true ∧ (s.raiseStop pg code info).err.stopCode = code ∧
    ∀ d, ∃ x y, (s.raiseStop pg code info).die d = { s.die d with events := x, evSeq := y } := by
  have told := (s.raise_told pg code deviceStopSev info).stopping
  obtain ⟨stopped, stopCode, events⟩ := State.deviceStop_leaves (told.stopped.trans runs)
    ((congrArg Power.stop told.power).trans free) code
  refine ⟨stopped, stopCode, fun d => ?_⟩
  obtain ⟨x, y, die⟩ := events d
  obtain ⟨x', y', before⟩ := told.die d
  refine ⟨x, y, die.trans ?_⟩
  rw [before]

end

section
variable {s : State} {d : Nat} (on : s.side.on = true) (bound : d < 2)
include on bound

theorem execClockFailed_stops (x : BitVec 7) : execClockFailed d x s = .next ((s.modDie d fun y =>
    if x = 0x7F then { y with refPresent := false } else { y with pllLocked := false, unlocks := satInc y.unlocks }).raiseStop
      (pgClock d) 0x0B10 x.toNat) := by
  unfold execClockFailed
  rw [on, decide_eq_true bound]
  exact congrArg Host.Outcome.next (if_neg nofun)

theorem execBridgeReplay_fails : execBridgeReplay d true s = .next (((s.modDie 0 fun y => { y with bridgeUp := false }).modDie 1
    fun y => { y with bridgeUp := false }).raiseStop (pgBridge d) 0x0B11 0) := by
  unfold execBridgeReplay
  rw [on, decide_eq_true bound]
  exact congrArg Host.Outcome.next ((if_neg nofun).trans (if_pos rfl))

theorem execBridgeReplay_counts : execBridgeReplay d false s = .next ((s.modDie d fun y => { y with replays := satInc y.replays }).raiseRare
    (pgBridge d) 0x0B15 0 (s.die d).replays) := by
  unfold execBridgeReplay
  rw [on, decide_eq_true bound]
  exact congrArg Host.Outcome.next ((if_neg nofun).trans (if_neg nofun))

theorem execMgmtFailed_stops : execMgmtFailed d s =
    .next ((s.modDie d fun y => { y with imageRunning := false }).raiseStop (pgDiemgt d) 0x0B14 0) := by
  unfold execMgmtFailed
  rw [on, decide_eq_true bound]
  exact congrArg Host.Outcome.next (if_neg nofun)

end

end Sys2Proof.Machine

open Sys2Proof Sys2Proof.Machine

/-- Settles O46: each failure marks its die, and then stops the device; a replay is an event of its die and no more. -/
theorem dieFailuresStop : Obligations.DieFailuresStop := by
  unfold Obligations.DieFailuresStop
  intro s d on bound runs free
  refine ⟨fun x => ?clock, ?bridge, ?replay, ?management⟩
  case clock =>
    obtain ⟨stopped, code, events⟩ := State.raiseStop_leaves (s := s.modDie d fun y =>
      if x = 0x7F then { y with refPresent := false } else { y with pllLocked := false, unlocks := satInc y.unlocks })
      runs free (pgClock d) 0x0B10 x.toNat
    obtain ⟨_, _, die⟩ := events d
    refine ⟨_, execClockFailed_stops on bound x, stopped, code, ?_⟩
    rw [die, State.modDie_same]
    split
    · rfl
    · rfl
  case bridge =>
    obtain ⟨stopped, code, events⟩ := State.raiseStop_leaves (s := (s.modDie 0 fun y => { y with bridgeUp := false }).modDie 1
      fun y => { y with bridgeUp := false }) runs free (pgBridge d) 0x0B11 0
    obtain ⟨_, _, west⟩ := events 0
    obtain ⟨_, _, east⟩ := events 1
    refine ⟨_, execBridgeReplay_fails on bound, stopped, code, ?_, ?_⟩
    · rw [west, State.modDie_other _ _ (by decide), State.modDie_same]
    · rw [east, State.modDie_same]
  case replay =>
    obtain ⟨stopped, -, -, -, events⟩ := ((s.modDie d fun y => { y with replays := satInc y.replays }).raiseRare_told (pgBridge d)
      0x0B15 0 (s.die d).replays).more
    obtain ⟨_, _, die⟩ := events d
    refine ⟨_, execBridgeReplay_counts on bound, ?_, stopped.trans runs⟩
    rw [die, State.modDie_same]
  case management =>
    obtain ⟨stopped, code, events⟩ := State.raiseStop_leaves (s := s.modDie d fun y => { y with imageRunning := false })
      runs free (pgDiemgt d) 0x0B14 0
    obtain ⟨_, _, die⟩ := events d
    refine ⟨_, execMgmtFailed_stops on bound, stopped, code, ?_⟩
    rw [die, State.modDie_same]

end

section
/-! SUPPORT. The stopping inputs (R544, R547, R692, R694, R695): what a transition and an accepted level leave of an input, and
what a loss does to a device whose image runs. -/

namespace Sys2Proof.Machine

/-! ### The record of the inputs -/

section
variable (x : Sideband) (i now : Nat) (v : Bool)

theorem Sideband.level_setLevel : (x.setLevel i v).level i = v := by
  unfold Sideband.setLevel Sideband.level
  split
  · rfl
  · rfl

theorem Sideband.raw_setLevel : (x.setLevel i v).raw i = x.raw i := by
  unfold Sideband.setLevel Sideband.raw
  split
  · rfl
  · rfl

theorem Sideband.chatters_setLevel : (x.setLevel i v).chatters i = x.chatters i := by
  unfold Sideband.setLevel Sideband.chatters
  split
  · rfl
  · rfl

theorem Sideband.chatters_setChatter : (x.setChatter i v).chatters i = v := by
  unfold Sideband.setChatter Sideband.chatters
  split
  · rfl
  · rfl

theorem Sideband.raw_setChatter : (x.setChatter i v).raw i = x.raw i := by
  unfold Sideband.setChatter Sideband.raw
  split
  · rfl
  · rfl

theorem Sideband.chatterEvents_setChatter : (x.setChatter i v).chatterEvents = x.chatterEvents := by
  unfold Sideband.setChatter
  split
  · rfl
  · rfl

theorem Sideband.raw_transition : (x.transition i now).raw i = !x.raw i := by
  unfold Sideband.transition Sideband.raw
  split
  · rfl
  · rfl

theorem Sideband.level_transition : (x.transition i now).level i = x.level i := by
  unfold Sideband.transition Sideband.level
  split
  · rfl
  · rfl

theorem Sideband.chatters_transition : (x.transition i now).chatters i = x.chatters i := by
  unfold Sideband.transition Sideband.chatters
  split
  · rfl
  · rfl

theorem Sideband.chatterEvents_transition : (x.transition i now).chatterEvents = x.chatterEvents := by
  unfold Sideband.transition
  split
  · rfl
  · rfl

theorem Sideband.moves_transition :
    (x.transition i now).moves i = (x.moves i).filter (fun t => decide (now < t + 10000000)) ++ [now] := by
  unfold Sideband.transition Sideband.moves
  split
  · rfl
  · rfl

end

/-! ### A loss -/

theorem State.bootHold_side (s : State) (i : Nat) : (s.bootHold i).side = s.side :=
  (State.raise_told _ pgMode 0x0A0C noted i).stopping.side

/-- The stop that the loss of a stopping input causes. -/
def lossStop (i : Nat) : StopCause := if i = 0 then .coolant else .leak

theorem State.inputLost_leaves (s : State) (i : Nat) (before : Bool) : (s.inputLost i before).side = s.side ∧
    (s.boot.phase = .running → s.power.stop = .none → s.err.deviceStopped = false →
      (s.inputLost i before).power.stop = lossStop i) := by
  unfold State.inputLost
  split
  next =>
    dsimp only
    generalize (if i = 0 then (0x0710 : BitVec 16) else 0x0711) = code
    have told := ((s.setPower { s.power with restartReady := false }).raise_told pgPower code deviceStopSev 0).stopping
    obtain ⟨side, -, -, -, stops⟩ := State.powerStop_power
      ((s.setPower { s.power with restartReady := false }).raise pgPower code deviceStopSev 0) (lossStop i) code
    exact ⟨side.trans told.side, fun _ free runs => stops ((congrArg Power.stop told.power).trans free) (told.stopped.trans runs)⟩
  next waits =>
    refine ⟨?_, fun running => absurd running waits⟩
    split
    · rfl
    · exact s.bootHold_side i

/-! ### A raw transition -/

/-- The state once a raw transition of an input has been sampled. -/
def State.sampled (s : State) (i : Nat) : State := s.modSide fun x => x.transition i s.time.now.toNat

theorem State.sampled_chatters (s : State) (i : Nat) : (s.sampled i).side.chatters i = s.side.chatters i :=
  Sideband.chatters_transition s.side i _

theorem State.sampleChange_quiet {s : State} {i : Nat} (quiet : s.side.chatters i = true ∨ ((s.sampled i).side.moves i).length < 9) :
    s.sampleChange i = s.sampled i := by
  refine if_pos ?_
  rw [← s.sampled_chatters i] at quiet
  exact (Bool.or_eq_true _ _).mpr (quiet.imp_right decide_eq_true)

theorem State.sampleChange_ninth {s : State} {i : Nat} (calm : s.side.chatters i = false)
    (ninth : 9 ≤ ((s.sampled i).side.moves i).length) : (s.sampleChange i).side.chatters i = true ∧
    (s.sampleChange i).side.raw i = (!s.side.raw i) ∧ (s.sampleChange i).side.chatterEvents = satInc s.side.chatterEvents ∧
    (s.boot.phase = .running → s.power.stop = .none → s.err.deviceStopped = false →
      (s.sampleChange i).power.stop = lossStop i) := by
  have split : s.sampleChange i = ((((s.sampled i).modSide fun x =>
      { x with chatterEvents := satInc x.chatterEvents }.setChatter i true).raise pgSideband 0x0712 noted i).inputLost i
        s.side.loss) := by
    refine if_neg fun quiet => ?_
    obtain chatters | short := (Bool.or_eq_true _ _).mp quiet
    · exact Bool.noConfusion (calm.symm.trans ((s.sampled_chatters i).symm.trans chatters))
    · exact absurd (of_decide_eq_true short) (Nat.not_lt.mpr ninth)
  rw [split]
  have told := (State.raise_told ((s.sampled i).modSide fun x => { x with chatterEvents := satInc x.chatterEvents }.setChatter i true)
    pgSideband 0x0712 noted i).stopping
  obtain ⟨side, stops⟩ := State.inputLost_leaves (((s.sampled i).modSide fun x =>
    { x with chatterEvents := satInc x.chatterEvents }.setChatter i true).raise pgSideband 0x0712 noted i) i s.side.loss
  rw [side, told.side]
  refine ⟨Sideband.chatters_setChatter .., (Sideband.raw_setChatter ..).trans (Sideband.raw_transition s.side i _), ?events, ?stop⟩
  case events =>
    exact (Sideband.chatterEvents_setChatter ..).trans (congrArg satInc (Sideband.chatterEvents_transition s.side i _))
  case stop =>
    rw [told.boot, told.power, told.stopped] at stops
    exact stops

/-- Whether a transition is the ninth or not, the sample changes; the level stays, and the device stops if the input newly chatters. -/
theorem State.sampleChange_cases (s : State) (i : Nat) : (s.sampleChange i = s.sampled i) ∨
    (s.side.chatters i = false ∧ 9 ≤ ((s.sampled i).side.moves i).length) := by
  by_cases quiet : s.side.chatters i = true ∨ ((s.sampled i).side.moves i).length < 9
  · exact .inl (State.sampleChange_quiet quiet)
  · rw [not_or, Bool.not_eq_true, Nat.not_lt] at quiet
    exact .inr quiet

/-! ### An accepted level -/

section
variable {s : State} {i : Nat}

theorem State.acceptLevel_shown {v : Bool} (other : s.side.level i ≠ v) (shown : s.side.raw i = v) : s.acceptLevel i v =
    if s.side.steady i s.time.now.toNat then s.modSide fun x => x.setLevel i v else s :=
  (if_neg other).trans (if_pos shown)

theorem State.acceptLevel_unshown {v : Bool} (other : s.side.level i ≠ v) (hidden : s.side.raw i ≠ v) : s.acceptLevel i v =
    (s.sampleChange i).modSide fun x => x.setLevel i v :=
  (if_neg other).trans (if_neg hidden)

/-- An input whose accepted level has fallen: what a row leaves of it, and of a device that ran. -/
def State.Fallen (s t : State) (i : Nat) : Prop := t.side.level i = false ∧ t.side.raw i = false ∧
  (s.boot.phase = .running → s.power.stop = .none → s.err.deviceStopped = false → t.power.stop = lossStop i)

/-- An input that newly falls, without having begun to chatter, is lost. -/
theorem State.inputLost_fallen {u : State} (before : Bool) (level : u.side.level i = false) (raw : u.side.raw i = false)
    (boot : u.boot = s.boot) (power : u.power = s.power) (err : u.err = s.err) : s.Fallen (u.inputLost i before) i := by
  obtain ⟨side, stops⟩ := u.inputLost_leaves i before
  rw [boot, power, err] at stops
  exact ⟨(congrArg (·.level i) side).trans level, (congrArg (·.raw i) side).trans raw, stops⟩

theorem State.inputFalls_fallen (on : s.side.on = true) (good : s.side.level i = true)
    (shown : s.side.raw i = true ∨ s.side.steady i s.time.now.toNat = true) : s.Fallen (s.inputFalls i) i := by
  have other : s.side.level i ≠ false := by simp [good]
  have first : s.inputFalls i = if (s.acceptLevel i false).side.level i = s.side.level i ∨
      (s.acceptLevel i false).side.chatters i ≠ s.side.chatters i then s.acceptLevel i false
      else (s.acceptLevel i false).inputLost i s.side.loss :=
    if_neg (by simp [on])
  have lost {u : State} (accepts : s.acceptLevel i false = u) (level : u.side.level i = false)
      (same : u.side.chatters i = s.side.chatters i) : s.inputFalls i = u.inputLost i s.side.loss := by
    rw [first, accepts]
    exact if_neg (by simp [level, good, same])
  cases raw : s.side.raw i with
  | false =>
    have steady : s.side.steady i s.time.now.toNat = true := shown.resolve_left (by simp [raw])
    rw [lost ((State.acceptLevel_shown other raw).trans (if_pos steady)) (Sideband.level_setLevel ..) (Sideband.chatters_setLevel ..)]
    exact State.inputLost_fallen _ (Sideband.level_setLevel ..) ((Sideband.raw_setLevel ..).trans raw) rfl rfl rfl
  | true =>
    have accepts := State.acceptLevel_unshown other (show s.side.raw i ≠ false by simp [raw])
    obtain quiet | ⟨calm, ninth⟩ := s.sampleChange_cases i
    · rw [quiet] at accepts
      have sample : ((s.sampled i).side).raw i = false := (Sideband.raw_transition s.side i _).trans (by simp [raw])
      rw [lost accepts (Sideband.level_setLevel ..)
        ((Sideband.chatters_setLevel ..).trans (Sideband.chatters_transition s.side i _))]
      exact State.inputLost_fallen _ (Sideband.level_setLevel ..) ((Sideband.raw_setLevel ..).trans sample) rfl rfl rfl
    · obtain ⟨chatters, sample, -, stops⟩ := State.sampleChange_ninth calm ninth
      have ends : s.inputFalls i = (s.sampleChange i).modSide fun x => x.setLevel i false := by
        have begins : ((s.sampleChange i).modSide fun x => x.setLevel i false).side.chatters i = true :=
          (Sideband.chatters_setLevel ..).trans chatters
        rw [first, accepts]
        exact if_pos (.inr (by simp [begins, calm]))
      rw [ends]
      exact ⟨Sideband.level_setLevel .., (Sideband.raw_setLevel ..).trans (sample.trans (by simp [raw])), stops⟩

/-! ### The rows -/

theorem execSidebandChatter_samples (bound : i < 2) (on : s.side.on = true) : execSidebandChatter i s = .next (s.sampleChange i) :=
  congrArg Host.Outcome.next (if_neg (by simp [on, bound]))

theorem execStoppingInputReturn_accepts (bound : i < 2) (on : s.side.on = true) :
    execStoppingInputReturn i s = .next (s.acceptLevel i true) :=
  congrArg Host.Outcome.next (if_neg (by simp [on, bound]))

theorem execChatterClear_clears (bound : i < 2) (on : s.side.on = true) (good : s.side.level i = true) :
    execChatterClear i s = .next (s.modSide fun x => x.setChatter i false) :=
  congrArg Host.Outcome.next (if_pos (by simp [on, bound, good]))

theorem State.acceptLevel_returns (low : s.side.level i = false) (hidden : s.side.raw i = false) :
    s.acceptLevel i true = (s.sampleChange i).modSide fun x => x.setLevel i true :=
  State.acceptLevel_unshown (by simp [low]) (by simp [hidden])

theorem execRestartReady_ready (on : s.side.on = true) (good : s.side.loss = false) (running : s.boot.phase = .running)
    (stopped : s.power.stop ≠ .none) (cool : s.power.tripped = true → s.zonesCool = true) :
    execRestartReady s = .next (s.setPower { s.power with restartReady := true }) := by
  have cooled : (!s.power.tripped) = true ∨ s.zonesCool = true := by
    cases tripped : s.power.tripped with
    | false => exact .inl rfl
    | true => exact .inr (cool tripped)
  exact congrArg Host.Outcome.next
    ((if_neg (by simp [on, good])).trans ((if_pos running).trans (if_pos ⟨stopped, by simpa using cooled⟩)))

end

end Sys2Proof.Machine

open Sys2Proof Sys2Proof.Machine

/-- Settles O43: an input falls once for its level and its chatter together, and its loss stops a device whose image runs. -/
theorem stoppingInputsWork : Obligations.StoppingInputsWork := by
  unfold Obligations.StoppingInputsWork
  refine ⟨?coolant, ?leak, ?transition, ?clear, ?ready⟩
  case coolant =>
    intro s on good shown
    exact ⟨_, rfl, State.inputFalls_fallen (i := 0) on good shown⟩
  case leak =>
    intro s on good shown
    exact ⟨_, rfl, State.inputFalls_fallen (i := 1) on good shown⟩
  case transition =>
    intro s i bound on
    have row := execSidebandChatter_samples bound on
    have back := execStoppingInputReturn_accepts bound on
    refine ⟨Sideband.raw_transition .., Sideband.level_transition .., Sideband.moves_transition .., ?quiet, ?ninth, ?returns, ?shown⟩
    case quiet =>
      intro quiet
      have sampled : s.sampleChange i = s.sampled i := State.sampleChange_quiet quiet
      refine ⟨row.trans (congrArg Host.Outcome.next sampled), fun low hidden => back.trans (congrArg Host.Outcome.next ?_)⟩
      rw [State.acceptLevel_returns low hidden, sampled]
      rfl
    case ninth =>
      intro calm ninth
      exact ⟨_, row, State.sampleChange_ninth calm ninth⟩
    case returns =>
      intro low hidden
      refine ⟨_, back, ?_⟩
      rw [State.acceptLevel_returns low hidden]
      exact Sideband.level_setLevel ..
    case shown =>
      intro low shown
      exact back.trans (congrArg Host.Outcome.next (State.acceptLevel_shown (by simp [low]) shown))
  case clear =>
    intro s on
    exact ⟨fun good => execChatterClear_clears (i := 0) (by decide) on good,
      fun good => execChatterClear_clears (i := 1) (by decide) on good⟩
  case ready =>
    intro s on good running stopped cool
    exact execRestartReady_ready on good running stopped cool

end

section
/-! SUPPORT. A reset of the device and the rows of its supply and its other inputs (R607, R655, R684, R686 to R688, R693, R697). -/

namespace Sys2Proof.Machine

/-! ### A reset of the device -/

/-- What a reset of the device leaves, whether or not the boot then holds tier zeroing for a loss. -/
structure State.ResetTo (s : State) (phase : BootPhase) (t : State) : Prop where
  phase : t.boot.phase = phase
  fuses : t.fuses = s.fuses
  flash : t.flash = s.flash
  mem : t.mem = []
  cores : t.cores = []
  resetL : t.side.resetL = s.side.resetL

theorem State.ResetTo.hold {s t : State} {phase : BootPhase} (h : s.ResetTo phase t) (i : Nat) : s.ResetTo phase (t.bootHold i) := by
  have told := State.raise_told (t.setBoot { t.boot with wiping := false, zeroed := false }) pgMode 0x0A0C noted i
  obtain ⟨boot, fuses, flash, mem, cores, side⟩ : (t.bootHold i).boot = { t.boot with wiping := false, zeroed := false } ∧
      (t.bootHold i).fuses = t.fuses ∧ (t.bootHold i).flash = t.flash ∧ (t.bootHold i).mem = t.mem ∧
      (t.bootHold i).cores = t.cores ∧ (t.bootHold i).side = t.side := by
    have fields := told.fields
    unfold State.bootHold
    tauto
  exact ⟨(congrArg Boot.phase boot).trans h.phase, fuses.trans h.fuses, flash.trans h.flash, mem.trans h.mem, cores.trans h.cores,
    (congrArg Sideband.resetL side).trans h.resetL⟩

/-- R651, R657: a reset of the device leaves no word of memory and no core, and the fuses and the flash as they are. -/
theorem State.deviceReset_resetTo (s : State) (last : Nat) (phase : BootPhase) : s.ResetTo phase (s.deviceReset last phase) := by
  unfold State.deviceReset
  dsimp only
  split
  · refine State.ResetTo.hold ?_ 0
    exact ⟨rfl, rfl, rfl, rfl, rfl, rfl⟩
  · split
    · refine State.ResetTo.hold ?_ 1
      exact ⟨rfl, rfl, rfl, rfl, rfl, rfl⟩
    · exact ⟨rfl, rfl, rfl, rfl, rfl, rfl⟩

/-! ### Supply and reset pins -/

section
variable {s : State}

/-- `PWR_EN` counts: the rails are down, and it has been low since a fault. -/
theorem State.pwrEn_counts (off : s.side.on = false) (free : s.side.retryHold = false) :
    ¬(s.side.on = true ∨ s.side.retryHold = true ∧ s.side.pwrEn = true) := by
  simp [off, free]

theorem execPwrEnRise_up (off : s.side.on = false) (free : s.side.retryHold = false) : execPwrEnRise s =
    .next (s.open_.2.modSide fun x => { x with
      pwrEn := true, retryHold := false, on := true, vin := BitVec.ofNat 16 (4600 + s.open_.1 % 1001) }) :=
  congrArg Host.Outcome.next (if_neg (State.pwrEn_counts off free))

theorem execPowerUpTimeout_holds (off : s.side.on = false) (free : s.side.retryHold = false) : execPowerUpTimeout s =
    .next (s.modSide fun x => { x with pwrEn := true, retryHold := true }) :=
  congrArg Host.Outcome.next (if_neg (State.pwrEn_counts off free))

theorem execPowerOff_fault (on : s.side.on = true) : execPowerOff true s = .next (s.powerDown true) :=
  congrArg Host.Outcome.next ((if_pos rfl).trans (if_pos on))

theorem execPowerOff_low (on : s.side.on = true) :
    execPowerOff false s = .next ((s.powerDown false).modSide fun x => { x with pwrEn := false }) :=
  congrArg Host.Outcome.next ((if_neg nofun).trans (if_pos on))

theorem execColdReset_rise (on : s.side.on = true) (off : s.boot.phase = .off) : execColdReset false s =
    .next (if s.side.resetL then s.deviceReset 0 .provisioning else s.deviceReset 1 .held) :=
  congrArg Host.Outcome.next ((if_neg (by simp [on])).trans ((if_neg nofun).trans (if_neg (not_not_intro off))))

theorem execColdReset_low (on : s.side.on = true) (high : s.side.resetL = true) : execColdReset true s =
    .next ((s.setSide { s.side with resetL := false }).deviceReset 1 .held) :=
  congrArg Host.Outcome.next ((if_neg (by simp [on])).trans ((if_pos rfl).trans (if_pos high)))

theorem execResetLRelease_starts (low : s.side.resetL = false) (held : s.boot.phase = .held) : execResetLRelease s =
    .next ((s.setSide { s.side with resetL := true }).setBoot { s.boot with phase := .provisioning }) :=
  congrArg Host.Outcome.next ((if_neg (by simp [low])).trans (if_pos held))

/-- R684: the voltage that a power-up leaves is in its range. -/
theorem vin_inRange (o : Nat) :
    4600 ≤ (BitVec.ofNat 16 (4600 + o % 1001)).toNat ∧ (BitVec.ofNat 16 (4600 + o % 1001)).toNat ≤ 5600 := by
  rw [BitVec.toNat_ofNat]
  omega

end

/-! ### Other inputs -/

section
variable {s : State} (on : s.side.on = true)
include on

theorem execFeedIdChange_unpairs {v : BitVec 4} (new : v ≠ s.side.feed) : execFeedIdChange v s =
    .next ((s.modSide fun x => { x with feed := v }).setSnap
      { s.snap with partnerState := if s.snap.partnerEn then 1 else 0, correlated := false, holdFilling := false }) :=
  congrArg Host.Outcome.next (if_neg (by simp [on, new]))

theorem execSlotIdChanged_notes {v : BitVec 6} (new : v ≠ s.side.slot) : execSlotIdChanged v s =
    .next ((s.modSide fun x => { x with slot := v }).raise pgSideband 0x0714 noted v.toNat) :=
  congrArg Host.Outcome.next (if_neg (by simp [on, new]))

theorem execPpsEdge_first (first : s.time.ppsAt = none) : execPpsEdge s =
    .next (((s.modSide fun x => { x with pps := true }).setTime
      { s.time with pps := s.time.now, ppsAt := some s.time.now.toNat }).setSide
      { s.side with pps := true, ppsEdges := satInc s.side.ppsEdges }) := by
  unfold execPpsEdge
  rw [if_neg (show ¬(!s.side.on) = true by simp [on]), first]
  exact congrArg Host.Outcome.next (if_neg nofun)

theorem execVinOutOfRange_brief (mv : BitVec 16) : execVinOutOfRange mv false s = .next (s.modSide fun x => { x with vin := mv }) :=
  congrArg Host.Outcome.next ((if_neg (by simp [on])).trans (if_pos rfl))

theorem execVinOutOfRange_low {mv : BitVec 16} (above : 4400 ≤ mv.toNat) (below : mv.toNat < 4600)
    (due : s.secondPast s.side.vinAt = true) : execVinOutOfRange mv true s =
    .next (((s.modSide fun x => { x with vin := mv }).modSide fun x => { x with vinAt := some s.time.now.toNat }).raiseFull pgSideband
      0x0715 noted mv.toNat 0 true false) := by
  have row : execVinOutOfRange mv true s = .next (((s.modSide fun x => { x with vin := mv }).modSide fun x =>
      { x with vinAt := if s.secondPast s.side.vinAt then some s.time.now.toNat else x.vinAt }).raiseFull pgSideband
        0x0715 noted mv.toNat 0 (s.secondPast s.side.vinAt) false) :=
    congrArg Host.Outcome.next ((if_neg (by simp [on])).trans ((if_neg nofun).trans ((if_neg (by omega)).trans (if_pos below))))
  rw [row, due]
  rfl

end

end Sys2Proof.Machine

open Sys2Proof Sys2Proof.Machine

/-- Settles O44: an input's new value is taken over, and a new feed identity ends the pairing. -/
theorem sidebandInputsWork : Obligations.SidebandInputsWork := by
  unfold Obligations.SidebandInputsWork
  intro s on
  refine ⟨fun v new => ⟨_, execFeedIdChange_unpairs on new, rfl, rfl, ?feed, rfl⟩, fun v new => ?slot,
    fun first => ⟨_, execPpsEdge_first on first, rfl, rfl, rfl⟩, fun mv => ⟨_, execVinOutOfRange_brief on mv, rfl⟩,
    fun mv above below due => ?vin⟩
  case feed =>
    show (if s.snap.partnerEn then 1 else 0) ≠ 2
    split
    · decide
    · decide
  case slot =>
    have told := (State.raise_told (s.modSide fun x => { x with slot := v }) pgSideband 0x0714 noted v.toNat).stopping
    exact ⟨_, execSlotIdChanged_notes on new, congrArg Sideband.slot told.side, told.boot⟩
  case vin =>
    have told := (State.raiseFull_told ((s.modSide fun x => { x with vin := mv }).modSide fun x =>
      { x with vinAt := some s.time.now.toNat }) pgSideband 0x0715 noted mv.toNat 0 true false).stopping
    exact ⟨_, execVinOutOfRange_low on above below due, congrArg Sideband.vin told.side, congrArg Sideband.vinAt told.side,
      (congrArg Sideband.on told.side).trans on⟩

/-- Settles O45: the supply rows set the pins, and each reset of the device is one of `State.deviceReset`. -/
theorem supplyAndResetPinsWork : Obligations.SupplyAndResetPinsWork := by
  unfold Obligations.SupplyAndResetPinsWork
  refine ⟨?rise, fun s off free => execPowerUpTimeout_holds off free, ?off, ?cold, ?low, ?release⟩
  case rise =>
    intro s off free
    exact ⟨_, execPwrEnRise_up off free, rfl, rfl, vin_inRange _⟩
  case off =>
    intro s fault on
    cases fault with
    | true => exact ⟨_, execPowerOff_fault on, rfl, rfl, rfl, rfl, rfl, rfl, rfl⟩
    | false => exact ⟨_, execPowerOff_low on, rfl, rfl, rfl, rfl, rfl, rfl, rfl⟩
  case cold =>
    intro s on off
    refine ⟨_, execColdReset_rise on off, ?_⟩
    split
    · have reset := s.deviceReset_resetTo 0 .provisioning
      exact ⟨reset.phase, reset.fuses, reset.flash, reset.mem, reset.cores⟩
    · have reset := s.deviceReset_resetTo 1 .held
      exact ⟨reset.phase, reset.fuses, reset.flash, reset.mem, reset.cores⟩
  case low =>
    intro s on high
    have reset := (s.setSide { s.side with resetL := false }).deviceReset_resetTo 1 .held
    exact ⟨_, execColdReset_low on high, reset.phase, reset.resetL, reset.fuses, reset.flash, reset.mem, reset.cores⟩
  case release =>
    intro s low held
    exact ⟨_, execResetLRelease_starts low held, rfl, rfl, rfl⟩

end

section
/-! SUPPORT. Writes of registers (R14, R562, R568, R584, R650, R651, R653, R673, R675, R720): the rows that clear, arm, restart and
reset, and a register that one word holds. -/

namespace Sys2Proof.Machine

/-! ### A word of a page -/

section
variable {s : State} {ini pg : Nat} {k : PageKind}

/-- A register of a page with a decoded kind is written word by word. -/
theorem State.writeReg_word {off : Nat} (kind : pageKind pg = some k) (inside : off < 4096) (aligned : off % 4 = 0)
    (fits : 4096 * pg + off < 2 ^ 32) (v : Word) :
    s.writeReg ini (BitVec.ofNat 32 (4096 * pg + off)) v = s.writeWord ini k pg off v := by
  have page : (4096 * pg + off) % 2 ^ 32 / 4096 = pg := by omega
  have offset : (4096 * pg + off) % 2 ^ 32 % 4096 = off := by omega
  have word : (4096 * pg + off) % 2 ^ 32 % 4 = 0 := by omega
  unfold State.writeReg
  dsimp only
  rw [BitVec.toNat_ofNat, page, offset, kind]
  exact if_neg (fun off => off word)

theorem execRegisterWrite_word {off : Nat} (reached : s.admits ini pg = true) (kind : pageKind pg = some k) (inside : off < 4096)
    (aligned : off % 4 = 0) (fits : 4096 * pg + off < 2 ^ 32) (v : Word) :
    s.writeRow ini (BitVec.ofNat 32 (4096 * pg + off)) v = .next (s.writeWord ini k pg off v) := by
  have page : (4096 * pg + off) % 2 ^ 32 / 4096 = pg := by omega
  unfold State.writeRow
  rw [BitVec.toNat_ofNat, page, State.regRow_admitted reached, State.writeReg_word kind inside aligned fits]

/-- A word of rw fields alone, while its page is not locked. -/
theorem State.writeWord_rw {off : Nat} {v : Word} (single : rwPair k off = none) (fields : s.woWrite k pg off v = s)
    (unlocked : (s.page pg).lock = false) : s.writeWord ini k pg off v = (s.rwWrite k pg off v).getD s := by
  unfold State.writeWord
  rw [single]
  dsimp only
  rw [fields, unlocked]
  exact if_neg nofun

theorem State.writeOne_admitted {off : Nat} (reached : s.admits ini pg = true) (kind : pageKind pg = some k) :
    s.writeOne ini pg off = .next (s.woWrite k pg off 1) := by
  unfold State.writeOne
  rw [State.regRow_admitted reached, kind]

/-! ### Errors and injection -/

theorem execErrClearRecord_clears (reached : s.admits ini pg = true) (known : (pageKind pg).isSome = true) :
    execErrClearRecord ini pg s = .next (s.modPage pg fun h => h.clear true false) :=
  (State.regRow_admitted reached _).trans (congrArg Host.Outcome.next (if_pos known))

theorem execErrClearCount_clears (reached : s.admits ini pg = true) (known : (pageKind pg).isSome = true) :
    execErrClearCount ini pg s = .next (s.modPage pg fun h => h.clear false true) :=
  (State.regRow_admitted reached _).trans (congrArg Host.Outcome.next (if_pos known))

/-- What an armed injection of a kind below 3 leaves in `ERR_INJECT`. -/
def injectArmed (v : Word) : Word := BitVec.ofNat 32 (bitsAt v 0 3 + 8 * b2n true + 16 * b2n (v.getLsbD 4) + 2 ^ 16 * bitsAt v 16 16)

theorem injectArmed_kind (v : Word) : (injectArmed v).toNat % 8 = bitsAt v 0 3 := by
  have small : bitsAt v 0 3 < 8 := Nat.mod_lt _ (by decide)
  unfold injectArmed
  rw [BitVec.toNat_ofNat, show b2n true = 1 from rfl]
  omega

theorem injectArmed_armed (v : Word) : (injectArmed v).getLsbD 3 = true := by
  have small : bitsAt v 0 3 < 8 := Nat.mod_lt _ (by decide)
  rw [BitVec.getLsbD, Nat.testBit_eq_decide_div_mod_eq, decide_eq_true_eq]
  unfold injectArmed
  rw [BitVec.toNat_ofNat, show b2n true = 1 from rfl]
  omega

theorem State.writeInject_arms {v : Word} (isOpen : s.injectOpen = true) (below : bitsAt v 0 3 < 3) (arms : v.getLsbD 3 = true) :
    s.writeInject k pg v = s.modPage pg fun h => { h with inject := injectArmed v } := by
  have known : (decide (bitsAt v 0 3 < 5) && (bitsAt v 0 3 != 3 || k.hasCheck)) = true := by
    simp [show bitsAt v 0 3 < 5 by omega, show bitsAt v 0 3 ≠ 3 by omega]
  have holds : (bitsAt v 0 3 == 4) = false := by simp [show bitsAt v 0 3 ≠ 4 by omega]
  unfold State.writeInject
  rw [isOpen]
  refine (if_neg nofun).trans ?_
  dsimp only
  rw [if_pos known, holds, arms]
  exact if_neg nofun

theorem execErrInject_arms {v : Word} (reached : s.admits ini pg = true) (unlocked : (s.page pg).lock = false)
    (known : (pageKind pg).isSome = true) (isOpen : s.injectOpen = true) (below : bitsAt v 0 3 < 3) (arms : v.getLsbD 3 = true) :
    execErrInject ini pg v s = .next (s.modPage pg fun h => { h with inject := injectArmed v }) := by
  obtain ⟨k, kind⟩ := Option.isSome_iff_exists.mp known
  unfold execErrInject
  rw [State.regRow_open reached unlocked, kind]
  exact congrArg Host.Outcome.next (State.writeInject_arms isOpen below arms)

/-! ### Restart -/

/-- A region starts from point 0 again. -/
def State.restartRegion (s : State) (r : Nat) : State := s.modRegion r fun x =>
  { x with
    point := 0, target := 0, step := none, upHold := x.upHold && s.regionStretched r, holdHigh := 0, holdLow := 0
    railMv := s.pointMv r 0 }

/-- What a restart leaves of the regions and of module power. -/
theorem State.restart_restarts (stopped : s.power.stop ≠ .none) (ready : s.power.restartReady = true)
    (cool : s.power.tripped = true → s.zonesCool = true) : ∃ v, MovesRegions s v ∧ (∀ r, r < 8 → (v.region r).point = 0) ∧
    s.restart = v.setPower { v.power with
      stop := .none, tripped := false, restartReady := false
      issue := if s.power.throttle then 1 else 16, memory := if s.power.throttle then 4 else 16 } := by
  have moves : MovesRegions s (s.forEach (upTo 0 8) State.restartRegion) := .forEach (fun _ _ => .modRegion _ _ _) _ s
  have starts (r : Nat) (bound : r < 8) : ((s.forEach (upTo 0 8) State.restartRegion).region r).point = 0 :=
    State.forEach_regions (Q := fun _ _ y => y.point = 0) (fun u k j ne => State.modRegion_other _ _ ne)
      (fun u k => congrArg Region.point (State.modRegion_same u k _)) bound s
  have goes : ¬(s.power.stop = .none ∨ (!s.power.restartReady) = true ∨ s.power.tripped = true ∧ (!s.zonesCool) = true) := by
    rintro (none | late | ⟨tripped, hot⟩)
    · exact stopped none
    · simp [ready] at late
    · simp [cool tripped] at hot
  refine ⟨_, moves, starts, (if_neg goes).trans ?_⟩
  rw [← moves.power]
  rfl

/-! ### Resets, the lifecycle and the token -/

/-- The key of a write of `MODE.RESET_CTL` stands in its top byte. -/
theorem resetCtl_key (low : Nat) (key : Byte) (fits : low < 2 ^ 24) :
    (BitVec.ofNat 32 (low + 2 ^ 24 * key.toNat)).toNat / 2 ^ 24 = key.toNat := by
  have := key.isLt
  rw [BitVec.toNat_ofNat]
  omega

theorem execWarmReset_writes (reached : s.admits ini pgMode = true) (key : Byte) : execWarmReset ini key s =
    .next (s.writeResetCtl (BitVec.ofNat 32 (1 + 2 ^ 24 * key.toNat))) :=
  State.regRow_admitted reached _

theorem execPartitionReset_writes (reached : s.admits ini pgMode = true) (part : Nat) (key : Byte) : execPartitionReset ini part key s =
    .next (s.writeResetCtl (BitVec.ofNat 32 (2 ^ 8 + 2 ^ 16 * (part % 8) + 2 ^ 24 * key.toNat))) :=
  State.regRow_admitted reached _

theorem State.writeResetCtl_unkeyed {low : Nat} {key : Byte} (fits : low < 2 ^ 24) (wrong : key ≠ 0xA5) :
    s.writeResetCtl (BitVec.ofNat 32 (low + 2 ^ 24 * key.toNat)) = s := by
  refine if_pos ?_
  rw [resetCtl_key low key fits]
  exact fun same => wrong (BitVec.eq_of_toNat_eq same)

theorem State.writeResetCtl_partition {part : Nat} (bound : part < 8) {v : Word}
    (word : v.toNat = 2 ^ 8 + 2 ^ 16 * part + 2 ^ 24 * 0xA5) : s.writeResetCtl v = s.partitionReset part := by
  have keyed : ¬v.toNat / 2 ^ 24 ≠ 0xA5 := by omega
  have cold : ¬v.getLsbD 0 = true := by
    rw [BitVec.getLsbD, word, Nat.testBit_eq_decide_div_mod_eq, decide_eq_true_eq]
    omega
  have some_ : v.getLsbD 8 = true := by
    rw [BitVec.getLsbD, word, Nat.testBit_eq_decide_div_mod_eq, decide_eq_true_eq]
    omega
  unfold State.writeResetCtl
  rw [if_neg keyed, if_neg cold, if_pos some_, show v.toNat / 2 ^ 16 % 8 = part by omega]

/-- R673, R674: a transition sets the fused lifecycle, and the device is reset. -/
theorem State.transition_leaves (s : State) (target : Nat) :
    (s.transition target).fuses = { s.fuses with lifecycle := BitVec.ofNat 3 target, flashKeyGen := s.fuses.flashKeyGen + 1 } ∧
    (s.transition target).mem = [] := by
  have reset := ((s.setFuses { s.fuses with lifecycle := BitVec.ofNat 3 target, flashKeyGen := s.fuses.flashKeyGen + 1 }).setFlash
    s.flash.destroyed).deviceReset_resetTo 3 .provisioning
  have fields := (State.raise_told (((s.setFuses { s.fuses with
    lifecycle := BitVec.ofNat 3 target, flashKeyGen := s.fuses.flashKeyGen + 1 }).setFlash s.flash.destroyed).deviceReset 3 .provisioning)
      pgSecurity 0x0A08 noted 0).fields
  obtain ⟨fuses, mem⟩ : (s.transition target).fuses = _ ∧ (s.transition target).mem = _ := by
    unfold State.transition
    exact ⟨by tauto, by tauto⟩
  exact ⟨fuses.trans reset.fuses, mem.trans reset.mem⟩

theorem State.writeTransition_goes {target : Nat}
    (allowed : transitionOk s.fuses.lifecycle.toNat target (decide (s.boot.unlockTarget = some target)) = true)
    (quiet : s.allQuiet = true) (idle : s.snap.phase = .idle) (flash : s.snap.flashDraining = false)
    (partner : s.snap.partnerDraining = false) : s.writeTransition target 0x5EC5 = s.transition target :=
  if_pos ⟨rfl, allowed, quiet, idle, by simp [flash], by simp [partner]⟩

/-- The four bytes that a word puts at an offset are the bytes that stand there. -/
theorem blockBytes_nput_word (m : NMap Byte) (off n : Nat) :
    blockBytes (nblock (nput m off 4 (blockOf 0 (leBytes 4 n))) off 4) 4 = leBytes 4 n := by
  have byte (i : Nat) (bound : i < 4) :
      byteAt (nblock (nput m off 4 (blockOf 0 (leBytes 4 n))) off 4) i = (leBytes 4 n).getD i 0 := by
    have placed := nget_blockOf 0 i (leBytes 4 n)
    rw [Nat.zero_add] at placed
    unfold byteAt
    rw [nget_nblock, if_pos bound, nget_nput_inside 0 m off 4 _ i bound, placed]
  simp only [blockBytes, bytesOf, byte 0 (by decide), byte 1 (by decide), byte 2 (by decide), byte 3 (by decide)]
  rfl

theorem execUnlockToken_checks (reached : s.admits ini pgSecurity = true) (v : Word) : execUnlockToken ini v s =
    .next ((s.modBoot fun b => { b with unlock := nput b.unlock 1908 4 (blockOf 0 (leBytes 4 v.toNat)) }).checkToken) :=
  (State.regRow_admitted reached _).trans (congrArg Host.Outcome.next (by
    unfold State.writeUnlock
    exact if_pos rfl))

end

end Sys2Proof.Machine

open Sys2Proof Sys2Proof.Machine

/-- Settles O53: each register's row is one write, and a restart takes every region to point 0. -/
theorem clearingRegistersWork : Obligations.ClearingRegistersWork := by
  unfold Obligations.ClearingRegistersWork
  intro s ini
  refine ⟨fun pg reached known => ⟨execErrClearRecord_clears reached known, execErrClearCount_clears reached known⟩, ?inject,
    fun reached => State.writeOne_admitted reached (k := .device 9) (by decide),
    fun reached => State.writeOne_admitted reached (k := .device 2) (by decide),
    fun reached => State.writeOne_admitted reached (k := .device 3) (by decide), ?latency, ?restart⟩
  case inject =>
    intro pg v reached unlocked known isOpen below arms
    refine ⟨_, execErrInject_arms reached unlocked known isOpen below arms, ?_⟩
    rw [State.modPage_same]
    exact ⟨rfl, injectArmed_kind v, injectArmed_armed v⟩
  case latency =>
    intro d bound reached
    have kind : pageKind (pgFabric d) = some (.die d 9) := by
      obtain rfl | rfl : d = 0 ∨ d = 1 := by omega
      · decide
      · decide
    exact (if_pos bound).trans (State.writeOne_admitted reached kind)
  case restart =>
    intro reached stopped ready cool
    obtain ⟨v, moves, starts, leaves⟩ := State.restart_restarts stopped ready cool
    refine ⟨_, State.regRow_admitted reached _, ?_⟩
    rw [leaves]
    exact ⟨rfl, rfl, rfl, moves.same State.mem fun _ _ => rfl, moves.same State.cores fun _ _ => rfl, starts⟩

/-- Settles O57: the register is one word of rw fields, and a value out of its range is ignored. -/
theorem powerCapTakesItsRange : Obligations.PowerCapTakesItsRange := by
  unfold Obligations.PowerCapTakesItsRange
  refine ⟨rfl, fun s ini v reached unlocked => ?_⟩
  have row : execRegisterWrite ini (BitVec.ofNat 32 (4096 * pgPower + 0x100)) v s =
      .next (s.writeWord ini (.device 2) pgPower 0x100 v) :=
    execRegisterWrite_word reached (by decide) (by decide) (by decide) (by decide) v
  have fields : s.rwWrite (.device 2) pgPower 0x100 v =
      some (s.unlessReserved (within 500 2200 (v.toNat / 2 ^ 0 % 4096)) fun s =>
        s.setPower { s.power with cap := BitVec.ofNat 12 v.toNat }) :=
    rfl
  have value : BitVec.ofNat 12 v.toNat = BitVec.ofNat 12 (v.toNat % 4096) := by
    apply BitVec.eq_of_toNat_eq
    simp
  refine row.trans (congrArg Host.Outcome.next ?_)
  rw [State.writeWord_rw rfl rfl unlocked, fields, value, Nat.pow_zero, Nat.div_one, Option.getD_some]
  unfold State.unlessReserved within
  simp only [Bool.and_eq_true, decide_eq_true_eq]

/-- Settles O54: a write without its key does nothing, or counts as bad; with it, a reset or a transition follows. -/
theorem resetRegistersWork : Obligations.ResetRegistersWork := by
  unfold Obligations.ResetRegistersWork
  intro s ini
  refine ⟨?warm, ?partition, ?unkeyed, ?lifecycle, ?token⟩
  case warm =>
    intro reached
    have reset := s.deviceReset_resetTo 2 .provisioning
    exact ⟨_, execWarmReset_keyed reached, reset.phase, reset.fuses, reset.flash, reset.mem, reset.cores⟩
  case partition =>
    intro reached part bound
    refine (execPartitionReset_writes reached part _).trans (congrArg Host.Outcome.next (State.writeResetCtl_partition bound ?_))
    rw [BitVec.toNat_ofNat, show (0xA5 : Byte).toNat = 0xA5 from rfl]
    omega
  case unkeyed =>
    intro reached part k wrong
    exact ⟨(execWarmReset_writes reached k).trans (congrArg Host.Outcome.next (State.writeResetCtl_unkeyed (by decide) wrong)),
      (execPartitionReset_writes reached part k).trans (congrArg Host.Outcome.next (State.writeResetCtl_unkeyed (by omega) wrong))⟩
  case lifecycle =>
    intro reached n bound
    have row (k : BitVec 16) : execLifecycleTransition ini n k s = .next (s.writeTransition n k) := by
      refine (State.regRow_admitted reached _).trans ?_
      rw [Nat.mod_eq_of_lt bound]
    refine ⟨fun allowed quiet idle flash partner => ?goes, fun k wrong => (row k).trans ?stays⟩
    case goes =>
      obtain ⟨fuses, mem⟩ := s.transition_leaves n
      exact ⟨_, (row _).trans (congrArg Host.Outcome.next (State.writeTransition_goes allowed quiet idle flash partner)),
        congrArg Fuses.lifecycle fuses, mem⟩
    case stays => exact congrArg Host.Outcome.next (if_neg fun keyed => wrong keyed.1)
  case token =>
    intro reached v
    exact ⟨_, execUnlockToken_checks reached v, blockBytes_nput_word ..⟩

end

section
/-! SUPPORT. Connections and staging fields through registers (R615, R630 to R632), pairing (R605, R606) and the TAPs (R700 to R702). -/

namespace Sys2Proof.Machine

/-! ### Connections -/

section
variable {s : State}

theorem State.restartDrain_conn (s : State) (n k : Nat) : (s.restartDrain n).conn k = s.conn k := by
  unfold State.restartDrain
  split
  · rfl
  · rfl

theorem State.restartDrain_net (s : State) (n : Nat) : (s.restartDrain n).net = s.net := by
  unfold State.restartDrain
  split
  · rfl
  · rfl

/-- The peer's key is no point of the curve. -/
theorem State.openConn_bad (other : s.net.sel ≠ 0) (bad : ecdh s.freshScalar.1 s.net.keyxPeer = none) :
    s.openConn = s.countBad pgTransport := by
  have nonzero : s.net.sel.toNat ≠ 0 := fun zero => other (BitVec.eq_of_toNat_eq zero)
  unfold State.openConn
  dsimp only
  rw [if_neg nonzero, bad]

/-- R631: an opened connection has the keys of its next generation and takes its staged fields. -/
theorem State.openConn_opens (other : s.net.sel ≠ 0) {secret : List Byte}
    (good : ecdh s.freshScalar.1 s.net.keyxPeer = some secret) :
    (s.openConn.conn s.net.sel.toNat).st = .keyed ∧
    (s.openConn.conn s.net.sel.toNat).generation = (s.conn s.net.sel.toNat).generation + 1 ∧
    (s.openConn.conn s.net.sel.toNat).cfg = (s.conn s.net.sel.toNat).staged ∧ s.openConn.net.keyxModule = ecPublic s.freshScalar.1 := by
  have opens : ∃ keys, ∃ net : Transport, s.openConn = ((s.freshScalar.2.freshScalar.2.modConn s.net.sel.toNat fun c =>
      { c with cfg := c.staged }.rekey ((s.conn s.net.sel.toNat).generation + 1) keys).setNet net).restartDrain s.net.sel.toNat ∧
      net.conns = (s.freshScalar.2.freshScalar.2.modConn s.net.sel.toNat fun c =>
        { c with cfg := c.staged }.rekey ((s.conn s.net.sel.toNat).generation + 1) keys).net.conns ∧
      net.keyxModule = ecPublic s.freshScalar.1 := by
    have nonzero : s.net.sel.toNat ≠ 0 := fun zero => other (BitVec.eq_of_toNat_eq zero)
    unfold State.openConn
    dsimp only
    rw [if_neg nonzero, good]
    exact ⟨_, _, rfl, rfl, rfl⟩
  obtain ⟨keys, net, leaves, conns, own⟩ := opens
  have conn : s.openConn.conn s.net.sel.toNat =
      { s.conn s.net.sel.toNat with cfg := (s.conn s.net.sel.toNat).staged }.rekey ((s.conn s.net.sel.toNat).generation + 1) keys := by
    rw [leaves, State.restartDrain_conn]
    refine (congrArg (fun m => nget Conn.reset m s.net.sel.toNat) conns).trans ?_
    exact State.modConn_same s.freshScalar.2.freshScalar.2 _ _
  rw [conn]
  refine ⟨rfl, rfl, rfl, ?_⟩
  rw [leaves, State.restartDrain_net]
  exact own

theorem State.closeConn_conn (s : State) (k : Nat) : s.closeConn.conn k =
    (s.modConn s.net.sel.toNat fun c => { c.rekey c.generation (0, 0) with st := .closed }).conn k :=
  State.restartDrain_conn _ _ k

theorem execConnOpen_opens {ini : Nat} (reached : s.admits ini pgTransport = true) : execConnOpen ini s = .next s.openConn :=
  State.regRow_admitted reached _

theorem execConnClose_closes {ini : Nat} (reached : s.admits ini pgTransport = true) : execConnClose ini s = .next s.closeConn :=
  State.regRow_admitted reached _

/-! ### Staging fields -/

/-- A region's size is written while nothing holds the fields and the regions stay apart. -/
theorem State.writeSize_staging {n : Nat} (free : s.regionsBusy = false) (small : n ≤ 768)
    (staging : regionOk s.snap.stagingBase.toNat n = true) (hold : regionOk s.snap.holdBase.toNat s.snap.holdSize.toNat = true)
    (apart : overlaps s.snap.stagingBase.toNat (gib n) s.snap.holdBase.toNat (gib s.snap.holdSize.toNat) = false) :
    s.writeSize 1 n = s.setSnap { s.snap with stagingSize := BitVec.ofNat 10 n, stagingValid := false } := by
  have size : (BitVec.ofNat 10 n).toNat = n := by
    rw [BitVec.toNat_ofNat]
    omega
  unfold State.writeSize State.unlessReserved State.writeRegion
  rw [free, decide_eq_true small, if_neg nofun, if_pos rfl]
  refine if_neg ?_
  show ¬(s.regionsBusy = true ∨ (!regionOk s.snap.stagingBase.toNat (BitVec.ofNat 10 n).toNat) = true ∨
    (!regionOk s.snap.holdBase.toNat s.snap.holdSize.toNat) = true ∨
    overlaps s.snap.stagingBase.toNat (gib (BitVec.ofNat 10 n).toNat) s.snap.holdBase.toNat (gib s.snap.holdSize.toNat) = true)
  simp [size, free, staging, hold, apart]

theorem State.regionsBusy_free (idle : s.snap.phase = .idle) (flash : s.snap.flashDraining = false)
    (partner : s.snap.partnerDraining = false) (hold : s.snap.holdFilling = false) : s.regionsBusy = false := by
  simp [State.regionsBusy, idle, flash, partner, hold]

theorem execStagingWrite_size {ini : Nat} (reached : s.admits ini pgSnapshot = true) (unlocked : (s.page pgSnapshot).lock = false)
    (v : Word) : execStagingWrite ini 0x108 v s = .next (s.writeSize 1 (bitsAt v 0 10)) := by
  have fields : s.rwWrite (.device 6) pgSnapshot 0x108 v = some (s.writeSize 1 (bitsAt v 0 10)) := rfl
  refine (if_pos rfl).trans ?_
  rw [execRegisterWrite_word reached (k := .device 6) (by decide) (by decide) (by decide) (by decide),
    State.writeWord_rw rfl rfl unlocked, fields]
  rfl

/-! ### Pairing -/

/-- R605, R606: a partner with another feed identity that does not refuse is accepted. -/
theorem execPairingExchange_pairs {f : BitVec 4} (on : s.side.on = true) (en : s.snap.partnerEn = true)
    (pairing : s.snap.partnerState = 1) (other : f ≠ s.side.feed) (i : BitVec 16) (h : Nat) : execPairingExchange f i h false s =
    .next (s.setSnap { s.snap with
      partnerFeed := f, partnerIndex := i, partnerHold := h, partnerState := 2, correlated := false }) := by
  have differs : (f == s.side.feed) = false := by simp [other]
  unfold execPairingExchange
  dsimp only
  rw [if_neg (by simp [on, en, pairing]), differs]
  exact congrArg Host.Outcome.next ((if_neg nofun).trans (if_neg nofun))

/-! ### The TAPs -/

theorem execJtagInstruction_takes {d : Nat} (aux : s.auxUp = true) (bound : d < 2) (ins : TapIns)
    {u : State} (taken : (s.modDie d fun x => { x with tap := ins }) = u) : execJtagInstruction d ins s =
    .next (if ins = .samplePreload ∨ u.tapNow d = .extest then
      u.open_.2.open_.2.modDie d fun x => { x with boundary := (List.range u.open_.1).map u.open_.2.open_.1.testBit } else u) := by
  subst taken
  exact congrArg Host.Outcome.next (if_neg (by simp [aux, bound]))

theorem State.tapNow_idcode {d : Nat} (tap : (s.die d).tap = .idcode) : s.tapNow d = .idcode := by
  simp [State.tapNow, tap, State.tapOk]

/-- R702: EXTEST, CLAMP and HIGHZ wait for quiet queues or no image. -/
theorem State.tapNow_pins {d : Nat} {ins : TapIns} (pins : ins ∈ [TapIns.extest, .clamp, .highz]) (tap : (s.die d).tap = ins) :
    s.tapNow d = if s.allQuiet || s.boot.phase != .running then ins else .bypass := by
  have waits : s.tapOk ins = (s.allQuiet || s.boot.phase != .running) := by
    simp only [List.mem_cons, List.not_mem_nil, or_false] at pins
    obtain rfl | rfl | rfl := pins
    · rfl
    · rfl
    · rfl
  unfold State.tapNow
  rw [tap, waits]

theorem execJtagTransition_moves (on : s.side.on = true) (blank : s.fuses.lifecycle = 0) :
    execJtagTransition 1 s = .next (s.transition 1) :=
  congrArg Host.Outcome.next (if_pos ⟨on, blank, .inl rfl⟩)

end

end Sys2Proof.Machine

open Sys2Proof Sys2Proof.Machine

/-- Settles O55: opening rekeys the selected connection, closing leaves the others, and a size is one word of rw fields. -/
theorem connectionRegistersWork : Obligations.ConnectionRegistersWork := by
  unfold Obligations.ConnectionRegistersWork
  intro s ini
  refine ⟨fun reached other => ⟨_, execConnOpen_opens reached, ?opens⟩,
    fun reached => ⟨_, execConnClose_closes reached, ?closes, ?others⟩, ?size⟩
  case opens =>
    cases secret : ecdh s.freshScalar.1 s.net.keyxPeer with
    | none => exact State.openConn_bad other secret
    | some k => exact State.openConn_opens other secret
  case closes =>
    rw [State.closeConn_conn, State.modConn_same]
  case others =>
    intro k ne
    rw [State.closeConn_conn, State.modConn_other _ _ ne]
  case size =>
    intro reached unlocked idle flash partner filling v small staging hold apart
    rw [← State.writeSize_staging (State.regionsBusy_free idle flash partner filling) small staging hold apart]
    exact execStagingWrite_size reached unlocked v

/-- Settles O49: the exchange sets the pairing's fields, and a TAP's instruction has effect as `State.tapOk` says. -/
theorem pairingAndJtagWork : Obligations.PairingAndJtagWork := by
  unfold Obligations.PairingAndJtagWork
  refine ⟨?pairs, ?instruction, ?scan, fun s d ins pins tap => State.tapNow_pins pins tap, ?blank⟩
  case pairs =>
    intro s f i h on en pairing other
    exact ⟨_, execPairingExchange_pairs on en pairing other i h, rfl, rfl, rfl, rfl, rfl, rfl⟩
  case instruction =>
    intro s d ins aux bound
    refine ⟨fun preload extest => (execJtagInstruction_takes aux bound ins rfl).trans ?_, fun cells =>
      ⟨_, _, (execJtagInstruction_takes aux bound ins rfl).trans (congrArg Host.Outcome.next (if_pos cells)), rfl⟩⟩
    exact congrArg Host.Outcome.next (if_neg (not_or.mpr ⟨preload, extest⟩))
  case scan =>
    intro s west east
    unfold State.dataScan
    rw [State.tapNow_idcode west, State.tapNow_idcode east]
    rfl
  case blank =>
    intro s on blank
    obtain ⟨fuses, -⟩ := s.transition_leaves 1
    exact ⟨_, execJtagTransition_moves on blank, congrArg Fuses.lifecycle fuses, fuses⟩

end

section
/-! SUPPORT. Spares (R578 to R580) and the end of a partition reset (R653). -/

namespace Sys2Proof.Machine

/-! ### The map of the logical cores -/

section
variable {s : State} {n l : Nat}

theorem State.physOf_mapped (h : nget none s.remap.map l = some n) : s.physOf l = 128 + n := by
  unfold State.physOf
  rw [h]

theorem State.physOf_unmapped (h : nget none s.remap.map l = none) : s.physOf l = l := by
  unfold State.physOf
  rw [h]

theorem Remap.serve_spare (m : Remap) (n l : Nat) : nget .reset (m.serve n l).spares n = ⟨some l, false⟩ := by
  simp [Remap.serve]

theorem Remap.serve_map (m : Remap) (n l : Nat) : nget none (m.serve n l).map l = some n := by
  simp [Remap.serve]

theorem Remap.free_map (m : Remap) (n l : Nat) : nget none (m.free n l).map l = none := by
  simp [Remap.free]

theorem State.setRemap_put_spare (s : State) (n : Nat) (x : Spare) : (s.setRemap (s.remap.put n x)).spare n = x :=
  nget_nset_same Spare.reset _ n x

theorem State.setRemap_put_other (s : State) {n k : Nat} (x : Spare) (ne : k ≠ n) :
    (s.setRemap (s.remap.put n x)).spare k = s.spare k :=
  nget_nset_other Spare.reset _ x ne

theorem Remap.free_spare (m : Remap) (n l : Nat) : nget .reset (m.free n l).spares n = ⟨none, false⟩ := by
  simp [Remap.free, Spare.reset]

theorem Core.withForecasts_queues (c old : Core) : ∃ m, c.withForecasts old = { c with queues := m } := by
  unfold Core.withForecasts
  induction upTo 0 4 generalizing c with
  | nil => exact ⟨c.queues, rfl⟩
  | cons i is ih => exact ih (c.modQueue i fun x => { x with forecast := (old.queue i).forecast })

/-! ### The rows of the spares -/

theorem execRemapMap_writes {ini : Nat} (reached : s.admits ini pgRemap = true) (unlocked : (s.page pgRemap).lock = false)
    (spare : n < 4) (logical : l < 128) : execRemapMap ini n l s = .next (s.writeSpare n l true) :=
  (State.regRow_open reached unlocked true _).trans (by rw [if_pos ⟨spare, logical⟩])

theorem execRemapUnmap_writes {ini : Nat} (reached : s.admits ini pgRemap = true) (unlocked : (s.page pgRemap).lock = false)
    (spare : n < 4) : execRemapUnmap ini n s = .next (s.writeSpare n 0 false) :=
  (State.regRow_open reached unlocked true _).trans (by rw [if_pos spare])

/-- R578: a spare that is present and free is mapped in place of a fenced core of its region. -/
theorem State.writeSpare_maps (fenced : (s.lcore l).fence = .fenced) (present : s.fuses.sparePresent.getLsbD n = true)
    (free : s.spare n = ⟨none, false⟩) (own : s.physOf l = l) (region : regionOfPhys l = regionOfPhys (128 + n)) :
    s.writeSpare n l true = s.setRemap (s.remap.put n ⟨some l, true⟩) := by
  have unused : (!((s.spare n).logical.isSome || (s.spare n).starting)) = true := by
    rw [free]
    rfl
  unfold State.writeSpare
  dsimp only
  rw [if_pos rfl]
  exact if_pos ⟨fenced, present, unused, own, region⟩

/-- R580: a spare whose core is fenced gives its logical core back. -/
theorem State.writeSpare_unmaps (serves : s.spare n = ⟨some l, false⟩) (fenced : (s.core (128 + n)).fence = .fenced) :
    s.writeSpare n 0 false = (((s.setRemap (s.remap.free n l)).modCore (128 + n) fun c =>
      { c with fence := .inService, cause := 0 }).modCore l fun c => c.withForecasts (s.core (128 + n))) := by
  unfold State.writeSpare
  rw [serves]
  exact (if_neg nofun).trans (if_pos ⟨rfl, fenced⟩)

/-- R579: the spare serves its logical core, in service and wiped. -/
theorem execCoreRemapped_serves (spare : n < 4) (starts : s.spare n = ⟨some l, true⟩) (runs : s.halted = false)
    (free : s.inReset (128 + n) = false) : execCoreRemapped n s = .next (((s.setRemap (s.remap.serve n l)).modCore (128 + n) fun c =>
      { c.wipe with fence := .inService, cause := 0 }.withForecasts (s.lcore l)).raise pgErragg 0x0B06 noted
        (errInfo l (clusterOf l) (regionOf l) 0)) := by
  unfold execCoreRemapped
  rw [starts, decide_eq_true spare, runs, free]
  rfl

/-! ### Zeroed memory -/

theorem State.zeroTier_inside {a len k : Nat} (low : a ≤ k) (high : k < a + len) : byteAt (s.zeroTier a len).mem k = 0 :=
  (byteAt_nclear ..).trans (if_neg (by omega))

theorem State.zeroTier_zero {a len k : Nat} (zero : byteAt s.mem k = 0) : byteAt (s.zeroTier a len).mem k = 0 := by
  refine (byteAt_nclear ..).trans ?_
  split
  · exact zero
  · rfl

/-- What a fold makes true at one turn, and every turn keeps, holds at its end. -/
theorem State.forEach_reaches {P : State → Prop} {f : State → Nat → State} (keeps : ∀ u k, P u → P (f u k)) {k : Nat}
    (turn : ∀ u, P (f u k)) {ks : List Nat} (mem : k ∈ ks) (s : State) : P (s.forEach ks f) := by
  induction ks generalizing s with
  | nil => exact absurd mem List.not_mem_nil
  | cons j ks ih =>
    obtain rfl | later := List.mem_cons.1 mem
    · exact State.forEach_induction keeps ks (turn s)
    · exact ih later (f s j)

/-- Zero the stacks of Tier 1 and the local parts of Tier 2 of some regions, the length and place of the latter as `g` says. -/
def State.zeroRegions (s : State) (rs : List Nat) : State :=
  s.forEach rs fun s r => (s.zeroTier (tier1Size * r) tier1Size).zeroTier (s.localTier2 r).1 (s.localTier2 r).2

theorem State.zeroRegions_tier1 (s : State) {rs : List Nat} {r : Nat} (mem : r ∈ rs) {a : Nat} (low : tier1Size * r ≤ a)
    (high : a < tier1Size * r + tier1Size) : byteAt (s.zeroRegions rs).mem a = 0 :=
  State.forEach_reaches (P := fun u => byteAt u.mem a = 0) (fun _ _ zero => State.zeroTier_zero (State.zeroTier_zero zero))
    (fun _ => State.zeroTier_zero (State.zeroTier_inside low high)) mem s

/-! ### What stays when a partition's cores, controllers and pages take their reset values -/

/-- Memory and the boot's record stay. -/
structure KeepsMemory (s t : State) : Prop where
  mem : t.mem = s.mem
  boot : t.boot = s.boot

theorem KeepsMemory.refl (s : State) : KeepsMemory s s := ⟨rfl, rfl⟩

theorem KeepsMemory.trans {a b c : State} (h : KeepsMemory a b) (h' : KeepsMemory b c) : KeepsMemory a c :=
  ⟨h'.mem.trans h.mem, h'.boot.trans h.boot⟩

theorem KeepsMemory.forEach {f : State → Nat → State} (hf : ∀ u k, KeepsMemory u (f u k)) (ks : List Nat) (s : State) :
    KeepsMemory s (s.forEach ks f) :=
  State.forEach_induction (P := KeepsMemory s) (fun u k h => h.trans (hf u k)) ks (.refl s)

theorem KeepsMemory.ite {s a b : State} {c : Prop} [Decidable c] (ha : KeepsMemory s a) (hb : KeepsMemory s b) :
    KeepsMemory s (if c then a else b) := by
  split
  · exact ha
  · exact hb

theorem Told.remap {s t : State} (h : Told s t) : t.remap = s.remap := by
  have fields := h.fields
  tauto

theorem Told.keepsMemory {s t : State} (h : Told s t) : KeepsMemory s t := by
  have fields := h.fields
  exact ⟨by tauto, by tauto⟩

/-- The clusters and the controllers of a region, and the region itself, take their reset values. -/
def State.reinitRegion (s : State) (r : Nat) : State :=
  let s := s.modRegion r fun x => x.reinit (s.pointMv r 0)
  let s := s.forEach (upTo (4 * r) 4) fun s c => s.modCluster c fun _ => .reset
  s.forEach (r :: upTo (8 + 3 * r) 3) fun s k => s.modCtl k Ctl.reinit

theorem State.reinitRegion_keepsMemory (s : State) (r : Nat) : KeepsMemory s (s.reinitRegion r) := by
  have region : KeepsMemory s (s.modRegion r fun x => x.reinit (s.pointMv r 0)) := ⟨rfl, rfl⟩
  have cluster (u : State) (c : Nat) : KeepsMemory u (u.modCluster c fun _ => .reset) := ⟨rfl, rfl⟩
  have controller (u : State) (k : Nat) : KeepsMemory u (u.modCtl k Ctl.reinit) := ⟨rfl, rfl⟩
  exact region.trans (KeepsMemory.trans (.forEach cluster (upTo (4 * r) 4) _) (.forEach controller (r :: upTo (8 + 3 * r) 3) _))

/-- The cores `ps` and the regions `rs` of a partition take their reset values, with what their pages show. -/
def State.reinitPartition (s : State) (rs ps : List Nat) : State :=
  let s := s.forEach ps fun s p => s.modCore p fun c => c.reinit (s.dark p)
  let s := s.forEach rs State.reinitRegion
  let s := if rs.isEmpty then s else s.reinitShared
  s.setPages (s.pages.filter fun e => !pageInRegions rs e.1)

theorem State.reinitPartition_keepsMemory (s : State) (rs ps : List Nat) : KeepsMemory s (s.reinitPartition rs ps) := by
  have core (u : State) (p : Nat) : KeepsMemory u (u.modCore p fun c => c.reinit (u.dark p)) := ⟨rfl, rfl⟩
  have shared (u : State) : KeepsMemory u (if rs.isEmpty then u else u.reinitShared) := .ite (.refl u) ⟨rfl, rfl⟩
  exact KeepsMemory.trans (.forEach core ps s)
    (KeepsMemory.trans (.forEach State.reinitRegion_keepsMemory rs _) (KeepsMemory.trans (shared _) ⟨rfl, rfl⟩))

/-- The cores in service say that their reset is over. -/
def State.tellUnfenced (s : State) (ps : List Nat) : State :=
  s.forEach ps fun s p => if s.dark p then s else
    s.raise pgErragg 0x0B05 noted (errInfo (s.logOr p) (clusterOf (s.logOr p)) (regionOf (s.logOr p)) 0)

theorem State.tellUnfenced_keepsMemory (s : State) (ps : List Nat) : KeepsMemory s (s.tellUnfenced ps) :=
  .forEach (fun u _ => .ite (.refl u) (u.raise_told _ _ _ _).keepsMemory) ps s

/-! ### The end of a partition reset -/

/-- The contexts at home in a partition are closed: those that close now, and those that were open. -/
def State.closePartition (s : State) (rs : List Nat) : State :=
  let s := ((s.closes.filter fun c => rs.contains ((s.ctx c.ctx).home.toNat / 4)).map fun c => c.ctx).foldl
    (fun s n => (s.closeRelease n).closeZero n) s
  ((s.ctxs.filter fun e => decide (e.2.st ≠ .closed) && rs.contains (e.2.home.toNat / 4)).map (·.1)).foldl (fun s n => s.closeNow n) s

/-- R653: with its cores fenced, a partition's contexts close, its memory is zero, its cores and pages take their reset values. -/
theorem execPartitionResetComplete_completes {part : Nat} (busy : s.boot.partBusy = some part) (runs : s.halted = false)
    (fenced : (physIn (s.partRegions part)).any (fun p => !s.dark p && decide ((s.core p).fence ≠ .fenced)) = false) :
    ∃ v, KeepsMemory ((s.closePartition (s.partRegions part)).zeroRegions (s.partRegions part)) v ∧
    execPartitionResetComplete s =
      .next ((v.setBoot { v.boot with partBusy := none }).tellUnfenced (physIn (s.partRegions part))) := by
  refine ⟨_, State.reinitPartition_keepsMemory _ (s.partRegions part) (physIn (s.partRegions part)), ?_⟩
  unfold execPartitionResetComplete
  rw [busy]
  dsimp only
  rw [runs, fenced]
  exact congrArg Host.Outcome.next (if_neg nofun)

end

end Sys2Proof.Machine

open Sys2Proof Sys2Proof.Machine

/-- Settles O48: each row of a spare writes the map of the logical cores, and the stacks of a partition that is reset stay zero. -/
theorem sparesAndPartitionsWork : Obligations.SparesAndPartitionsWork := by
  unfold Obligations.SparesAndPartitionsWork
  refine ⟨⟨?maps, ?serves, ?unmaps⟩, ?partition⟩
  case maps =>
    intro s ini n l reached unlocked spare logical fenced present free own region
    refine ⟨_, execRemapMap_writes reached unlocked spare logical, ?_⟩
    rw [State.writeSpare_maps fenced present free own region]
    exact ⟨State.setRemap_put_spare .., own, fun k ne => State.setRemap_put_other _ _ ne⟩
  case serves =>
    intro s n l spare starts runs free
    refine ⟨_, execCoreRemapped_serves spare starts runs free, ?_⟩
    have told := ((s.setRemap (s.remap.serve n l)).modCore (128 + n) fun c =>
      { c.wipe with fence := .inService, cause := 0 }.withForecasts (s.lcore l)).raise_told pgErragg 0x0B06 noted
        (errInfo l (clusterOf l) (regionOf l) 0)
    generalize State.raise _ pgErragg 0x0B06 noted (errInfo l (clusterOf l) (regionOf l) 0) = t at told ⊢
    have remap : t.remap = s.remap.serve n l := told.remap
    have serving : t.physOf l = 128 + n :=
      State.physOf_mapped ((congrArg (fun m : Remap => nget none m.map l) remap).trans (Remap.serve_map ..))
    have core := told.core (128 + n)
    rw [State.modCore_same] at core
    obtain ⟨m, forecasts⟩ := Core.withForecasts_queues
      { ((s.setRemap (s.remap.serve n l)).core (128 + n)).wipe with fence := .inService, cause := 0 } (s.lcore l)
    refine ⟨(congrArg (fun m : Remap => nget Spare.reset m.spares n) remap).trans (Remap.serve_spare ..), serving, ?fence, ?memory⟩
    case fence =>
      unfold State.lcore
      rw [serving, core, forecasts]
    case memory =>
      unfold State.lcore
      rw [serving, core, forecasts]
      rfl
  case unmaps =>
    intro s ini n l reached unlocked spare serves fenced
    refine ⟨_, execRemapUnmap_writes reached unlocked spare, ?_⟩
    rw [State.writeSpare_unmaps serves fenced]
    exact ⟨s.remap.free_spare n l, State.physOf_unmapped (s.remap.free_map n l)⟩
  case partition =>
    intro s part busy runs fenced
    obtain ⟨v, keeps, completes⟩ := execPartitionResetComplete_completes busy runs fenced
    have tells := (v.setBoot { v.boot with partBusy := none }).tellUnfenced_keepsMemory (physIn (s.partRegions part))
    refine ⟨_, completes, congrArg Boot.partBusy tells.boot, fun r mem a low high => ?_⟩
    rw [tells.mem]
    exact (congrArg (byteAt · a) keeps.mem).trans (State.zeroRegions_tier1 _ mem low high)

end

section
/-! SUPPORT. Snapshots and restores (R592 to R604, R608 to R612): what the copies leave of the SNAPSHOT page's record and of the flash. -/

namespace Sys2Proof.Machine

/-! ### What leaves the record of snapshots -/

/-- The record of snapshots and the local flash stay. -/
structure KeepsSnap (s t : State) : Prop where
  snap : t.snap = s.snap
  flash : t.flash = s.flash

theorem KeepsSnap.refl (s : State) : KeepsSnap s s := ⟨rfl, rfl⟩

theorem KeepsSnap.trans {a b c : State} (h : KeepsSnap a b) (h' : KeepsSnap b c) : KeepsSnap a c :=
  ⟨h'.snap.trans h.snap, h'.flash.trans h.flash⟩

theorem KeepsSnap.ite {s a b : State} {c : Prop} [Decidable c] (ha : KeepsSnap s a) (hb : KeepsSnap s b) :
    KeepsSnap s (if c then a else b) := by
  split
  · exact ha
  · exact hb

theorem KeepsSnap.foldl {α : Type} {f : State → α → State} (hf : ∀ u x, KeepsSnap u (f u x)) (xs : List α) (s : State) :
    KeepsSnap s (xs.foldl f s) := by
  induction xs generalizing s with
  | nil => exact .refl s
  | cons x xs ih => exact (hf s x).trans (ih (f s x))

theorem KeepsSnap.forEach {f : State → Nat → State} (hf : ∀ u k, KeepsSnap u (f u k)) (ks : List Nat) (s : State) :
    KeepsSnap s (s.forEach ks f) := .foldl hf ks s

theorem Looked.keepsSnap {s t : State} (h : Looked s t) : KeepsSnap s t := by
  have rest := h.rest
  exact ⟨by tauto, by tauto⟩

theorem Told.keepsSnap {s t : State} (h : Told s t) : KeepsSnap s t := ((Looked.refl s).told h).keepsSnap

theorem KeepsSnap.setCtxs (s : State) (v : NMap Ctx) (w : NMap WordCond) : KeepsSnap s ((s.setCtxs v).setCtxCond w) := ⟨rfl, rfl⟩

theorem KeepsSnap.modLcore (s : State) (l : Nat) (f : Core → Core) : KeepsSnap s (s.modLcore l f) := ⟨rfl, rfl⟩

theorem KeepsSnap.modQueue (s : State) (q : Nat) (f : QState → QState) : KeepsSnap s (s.modQueue q f) := by
  unfold State.modQueue
  split
  · exact ⟨rfl, rfl⟩
  · exact ⟨rfl, rfl⟩

theorem State.countTier_keepsSnap (s : State) (a n : Nat) (w : Bool) : KeepsSnap s (s.countTier a n w) :=
  ((Looked.refl s).countTier a n w).keepsSnap

theorem State.countBytes_keepsSnap (s : State) (w : Who) (a n : Nat) : KeepsSnap s (s.countBytes w a n) :=
  ((Looked.refl s).countBytes w a n).keepsSnap

theorem State.noteTier_keepsSnap (s : State) (a n : Nat) : KeepsSnap s (s.noteTier a n) := ((Looked.refl s).noteTier a n).keepsSnap

theorem State.countExtents_keepsSnap (s : State) (q : Nat) (xs : List Extent) : KeepsSnap s (s.countExtents q xs) :=
  .foldl (fun u _ => .ite (.refl u) (u.countBytes_keepsSnap _ _ _)) xs s

/-! ### SNAPSHOT and RESTORE start -/

theorem State.abandonPartner_time (s : State) : s.abandonPartner.time = s.time := by
  unfold State.abandonPartner State.sendOwn State.sendMsg
  dsimp only
  split
  · split
    · split
      · rfl
      · rfl
    · rfl
  · rfl

theorem execSnapshot_starts {s : State} {q : Nat} {e : Entry} (ready : s.Ready q e (hasOp 0x78) fun s e => snapshotGate s e) :
    execSnapshot q s = .next (((((s.fetchMarks q).abandonPartner.noteRead (deviceWho q) (snList e) (16 * snCount e)).issue q)).modSnap
      fun x => { x with
        phase := .quiescing, job := (s.fetchMarks q).abandonPartner.newJob q e, start := (s.fetchMarks q).abandonPartner.time.now.toNat
        flashDraining := false, partnerDraining := false, headerMsg := none }) := by
  unfold execSnapshot
  rw [State.tryIssue_ready ready]

/-- The state in which RESTORE makes its checks, with the image of the flash in staging where that is its source. -/
def State.restoreSource (s : State) (q : Nat) (e : Entry) : State × Bool := if rsFlash e then s.loadSlot q else (s, true)

/-- The reads of its rewind list. -/
def State.restoreReads (s : State) (q : Nat) (e : Entry) : State :=
  (s.restoreSource q e).1.noteRead (deviceWho q) (rsList e) (8 * rsCount e)

theorem execRestore_starts {s : State} {q : Nat} {e : Entry} (ready : s.Ready q e (hasOp 0x79) (restoreGate q))
    (loaded : ((s.fetchMarks q).restoreSource q e).2 = true) (image : ((s.fetchMarks q).restoreReads q e).stagedOk e = true)
    (rewinds : (((s.fetchMarks q).restoreReads q e).rewinds e).any
      (fun r => !rewindOk ((s.fetchMarks q).restoreReads q e).stagedCtxs r) = false) :
    execRestore q s = .next ((((s.fetchMarks q).restoreReads q e).issue q).modSnap fun x => { x with
      phase := .restoring, job := ((s.fetchMarks q).restoreReads q e).newJob q e
      start := ((s.fetchMarks q).restoreReads q e).time.now.toNat }) := by
  have accepted : ¬((!((s.fetchMarks q).restoreSource q e).2 || !((s.fetchMarks q).restoreReads q e).stagedOk e) = true) := by
    simp [loaded, image]
  unfold execRestore
  rw [State.tryIssue_ready ready]
  exact congrArg Host.Outcome.next ((if_neg accepted).trans (if_neg fun bad => Bool.false_ne_true (rewinds.symm.trans bad)))

/-! ### The copy into staging -/

/-- Reads in a row that stop at the first failure leave the record alone where none fails. -/
theorem KeepsSnap.reads {α : Type} {f : State × Bool → α → State × Bool} (dead : ∀ a x, a.2 = false → f a x = a)
    (alive : ∀ a x, a.2 = true → (f a x).2 = true → KeepsSnap a.1 (f a x).1) (xs : List α) {a : State × Bool}
    (good : (xs.foldl f a).2 = true) : KeepsSnap a.1 (xs.foldl f a).1 := by
  have ends : ∀ (xs : List α) (a : State × Bool), a.2 = false → xs.foldl f a = a := by
    intro xs
    induction xs with
    | nil => exact fun _ _ => rfl
    | cons x xs ih =>
      intro a failed
      rw [List.foldl_cons, dead a x failed, ih a failed]
  induction xs generalizing a with
  | nil => exact .refl a.1
  | cons x xs ih =>
    have first : (f a x).2 = true := by
      by_contra failed
      rw [List.foldl_cons, ends xs (f a x) (Bool.not_eq_true _ ▸ failed)] at good
      exact failed good
    have started : a.2 = true := by
      by_contra failed
      rw [dead a x (Bool.not_eq_true _ ▸ failed)] at first
      exact failed first
    exact (alive a x started first).trans (ih good)

theorem State.ctxRead_keepsSnap {s : State} {n : Nat} (good : (s.ctxRead n).2 = true) : KeepsSnap s (s.ctxRead n).1 := by
  refine KeepsSnap.reads (a := (s, true)) (fun a k failed => ?dead) (fun a k runs read => ?alive) [2 * n, 2 * n + 1] good
  case dead => exact if_pos (by rw [failed]; rfl)
  case alive =>
    rw [if_neg (by rw [runs]; exact nofun)] at read ⊢
    split
    next => exact .refl a.1
    next =>
      exact KeepsSnap.trans (b := (a.1.setCtxCorrected (satInc a.1.ctxCorrected)).setCtxCond (nset .sound a.1.ctxCond k .sound))
        ⟨rfl, rfl⟩ (State.raiseRare_told _ _ _ _ _).keepsSnap
    next other other' =>
      split at read
      next sound => exact absurd sound other
      next correctable => exact absurd correctable other'
      next => exact absurd read Bool.false_ne_true

theorem State.copyCtxs_keepsSnap {s : State} (good : s.copyCtxs.2 = true) : KeepsSnap s s.copyCtxs.1 := by
  refine KeepsSnap.reads (a := (s, true)) (fun a k failed => ?dead) (fun a k runs read => ?alive) s.ctxCond good
  case dead => exact if_neg (by rw [failed]; exact nofun)
  case alive =>
    rw [if_pos runs] at read ⊢
    exact State.ctxRead_keepsSnap read

theorem State.noteRecords_keepsSnap (s : State) : KeepsSnap s s.noteRecords := by
  have word (l : Nat) (u : State) (c : Nat × WordCond) :
      KeepsSnap u (if c.2 = .sound then u else u.noteLedgerWord l netWho (c.1 / 216, 0, 0) c.2) :=
    .ite (.refl u) ((Looked.refl u).noteLedgerWord l netWho (c.1 / 216, 0, 0) c.2).keepsSnap
  unfold State.noteRecords State.forEach
  exact .foldl (fun u l => .ite (.refl u) (.foldl (word l) _ u)) _ s

theorem State.noteCopied_keepsSnap (s : State) (cores : Bool) (xs : List Extent) : KeepsSnap s (s.noteCopied cores xs) := by
  have records : KeepsSnap s (if cores then s.noteRecords else s) := .ite s.noteRecords_keepsSnap (.refl s)
  refine records.trans (.foldl (fun u x => .ite (.refl u) ?_) xs _)
  split
  next l off _ =>
    have word (v : State) (c : Nat × WordCond) : KeepsSnap v (v.noteScratchWord l netWho c.1 c.2) :=
      ((Looked.refl v).noteScratchWord l netWho c.1 c.2).keepsSnap
    exact .foldl word _ u
  next => exact u.noteTier_keepsSnap x.addr x.len

/-- R598: the copy is complete, once every descriptor has been read. -/
theorem execSnapshotCopyComplete_completes {s : State} (copying : s.snap.phase = .copying) (good : s.copyCtxs.2 = true) :
    ∃ (v : State) (img : BitVec 64) (n : Nat), execSnapshotCopyComplete s =
      .next ((((v.modSnap fun x => { x with
          phase := .idle, stagingValid := true, sequence := s.copyCtxs.1.nextSequence, imageBytes := img
          lastStop := BitVec.ofNat 64 (v.time.now.toNat - x.start), snapshots := satInc x.snapshots }).raiseEach pgSnapshot 0x090C
        (seqInfo s.copyCtxs.1.nextSequence) true n).startDrains s.copyCtxs.1.snap.job.cmd).finish s.copyCtxs.1.snap.job) ∧
      KeepsSnap s.copyCtxs.1 v := by
  refine ⟨_, _, _, congrArg Host.Outcome.next ((if_neg (not_not_intro copying)).trans
    ((if_neg (by rw [good]; exact nofun)).trans rfl)), ?_⟩
  refine KeepsSnap.trans ?_ (State.countExtents_keepsSnap _ _ _)
  refine KeepsSnap.trans ?_ (State.countBytes_keepsSnap _ _ _ _)
  refine KeepsSnap.trans ?_ (State.countTier_keepsSnap _ _ _ _)
  exact KeepsSnap.trans (State.noteCopied_keepsSnap s.copyCtxs.1 _ _) ⟨rfl, rfl⟩

theorem execSnapshotCopyComplete_fails {s : State} (copying : s.snap.phase = .copying) (lost : s.copyCtxs.2 = false) :
    execSnapshotCopyComplete s = .next s.copyCtxs.1 :=
  congrArg Host.Outcome.next ((if_neg (not_not_intro copying)).trans (if_pos (by rw [lost]; rfl)))

theorem execQuiesceEnd_copies {s : State} (quiescing : s.snap.phase = .quiescing) (quiet : s.quiesced = true) : execQuiesceEnd s =
    .next (s.modSnap fun x => { x with phase := .copying, endTime := s.time.now, stagingValid := false }) :=
  congrArg Host.Outcome.next (if_pos ⟨quiescing, quiet⟩)

/-! ### The drains -/

/-- The warning of the flash's wear leaves the flash and its drain. -/
theorem State.warnWear_leaves (w : State) (c : Prop) [Decidable c] (info : Nat) :
    (if c then (w.modSnap fun x => { x with wearWarned := true }).raise pgSnapshot 0x090B noted info else w).flash = w.flash ∧
    (if c then (w.modSnap fun x => { x with wearWarned := true }).raise pgSnapshot 0x090B noted info else w).snap.flashDraining =
      w.snap.flashDraining := by
  split
  · have told := ((w.modSnap fun x => { x with wearWarned := true }).raise_told pgSnapshot 0x090B noted info).keepsSnap
    exact ⟨told.flash, (congrArg Snap.flashDraining told.snap).trans rfl⟩
  · exact ⟨rfl, rfl⟩

/-- R602: the drain into flash writes the slot that does not hold the newest complete image. -/
theorem execFlashDrainComplete_drains {s : State} (drains : s.snap.flashDraining = true) (runs : s.halted = false) :
    ∃ (u : State) (x : FlashSlot), execFlashDrainComplete s = .next u.drained ∧ u.snap.flashDraining = false ∧
      x.sequence = s.snap.sequence ∧ u.flash.slot0 = (s.flash.setSlot s.flash.drainSlot1 x).slot0 ∧
      u.flash.slot1 = (s.flash.setSlot s.flash.drainSlot1 x).slot1 := by
  have keeps := s.noteTier_keepsSnap s.snap.stagingBase.toNat s.snap.imageBytes.toNat
  have row : ∃ (u w : State) (x : FlashSlot) (f : Flash), execFlashDrainComplete s = .next u.drained ∧
      (u.flash = w.flash ∧ u.snap.flashDraining = w.snap.flashDraining) ∧ w.snap.flashDraining = false ∧
      f = (s.noteTier s.snap.stagingBase.toNat s.snap.imageBytes.toNat).flash.setSlot
        (s.noteTier s.snap.stagingBase.toNat s.snap.imageBytes.toNat).flash.drainSlot1 x ∧
      w.flash = { f with writtenGib := w.flash.writtenGib, wear := w.flash.wear } ∧
      x.sequence = (s.noteTier s.snap.stagingBase.toNat s.snap.imageBytes.toNat).snap.sequence := by
    unfold execFlashDrainComplete
    rw [if_neg (by rw [drains, runs]; exact nofun)]
    dsimp only
    exact ⟨_, _, _, _, rfl, State.warnWear_leaves _ _ _, rfl, rfl, rfl, rfl⟩
  obtain ⟨u, w, x, f, row, ⟨flash, draining⟩, ended, written, slots, sequence⟩ := row
  rw [keeps.flash] at written
  rw [keeps.snap] at sequence
  refine ⟨u, x, row, draining.trans ended, sequence, ?_, ?_⟩
  · rw [flash, slots, written]
  · rw [flash, slots, written]

/-- R604: a drain that fails ends. -/
theorem execSnapDrainFailed_fails {s : State} {partner : Bool}
    (drains : (if partner then s.snap.partnerDraining else s.snap.flashDraining) = true) : execSnapDrainFailed partner s =
    .next ((s.modSnap fun x =>
      if partner then { x with partnerDraining := false, headerMsg := none, drainFailed := true }
      else { x with flashDraining := false, drainFailed := true }).raise pgSnapshot 0x0908 noted (seqInfo s.snap.sequence)) := by
  refine congrArg Host.Outcome.next ((if_neg (by rw [drains]; exact nofun)).trans ?_)
  cases partner
  · rfl
  · rfl

/-! ### The copy back -/

theorem State.restoreExtent_keepsSnap (s : State) (x : Extent) (data : NMap Byte) (lost : NMap WordCond) :
    KeepsSnap s (s.restoreExtent x data lost) := by
  refine .ite (.refl s) ?_
  split
  next => exact .modLcore s _ _
  next =>
    have written : KeepsSnap s ((s.setMem (putMem s.mem x.addr x.len data)).setMemCond
      (nput s.memCond (x.addr / 32) (x.len / 32) lost)) := ⟨rfl, rfl⟩
    exact written.trans (State.countTier_keepsSnap _ x.addr x.len true)

theorem State.restoreQueue_keepsSnap (s : State) (own q : Nat) (b : NMap Byte) : KeepsSnap s (s.restoreQueue own q b) := by
  have segment (u : State) (e : Entry) : KeepsSnap u (if blkNat b 16 4 = 0 then u else u.modQueue q fun x =>
      { x with seg := some ⟨fld e 8 6, fld e 16 4, blkNat b 16 4⟩ }) := .ite (.refl u) (.modQueue u q _)
  have stop (u : State) : KeepsSnap u (if q = own then u else u.modQueue q fun x => { x.stopAt 0x0906 false with flight := [] }) :=
    .ite (.refl u) (.modQueue u q _)
  exact (KeepsSnap.modQueue s q _).trans ((segment _ _).trans (stop _))

theorem execRestoreComplete_completes {s : State} (restoring : s.snap.phase = .restoring) : ∃ (v : State) (n : Nat),
    execRestoreComplete s = .next ((v.modSnap fun x =>
      { x with phase := .idle, restores := satInc x.restores, skews := satAdd x.skews n }).finish s.snap.job) ∧ KeepsSnap s v := by
  refine ⟨_, _, congrArg Host.Outcome.next ((if_neg (not_not_intro restoring)).trans rfl), ?_⟩
  refine KeepsSnap.trans ?_ (State.raiseEach_told _ _ _ _ _ _).keepsSnap
  have rewound (u : State) (r : Nat × Nat × Bool) : KeepsSnap u (u.modCtx r.1 fun c => c.rewind r.2.1) := ⟨rfl, rfl⟩
  refine KeepsSnap.trans ?_ (KeepsSnap.foldl rewound _ _)
  refine KeepsSnap.trans ?_ (State.raise_told _ _ _ _ _).keepsSnap
  have emptied (u : State) (p : Nat) : KeepsSnap u (u.modCore p Core.afterRestore) := ⟨rfl, rfl⟩
  refine KeepsSnap.trans ?_ (KeepsSnap.forEach emptied _ _)
  refine KeepsSnap.trans ?_ (KeepsSnap.forEach (fun u q => u.restoreQueue_keepsSnap _ q _) _ _)
  refine KeepsSnap.trans ?before (KeepsSnap.ite (.refl _) (KeepsSnap.forEach ?record _ _))
  case record => exact fun u l => .ite (.refl u) (.modLcore u l _)
  refine KeepsSnap.trans ?_ (KeepsSnap.setCtxs _ _ _)
  have extents {data : Extent × Nat → NMap Byte} {lost : Extent × Nat → NMap WordCond} (u : State) (x : Extent × Nat) :
      KeepsSnap u (u.restoreExtent x.1 (data x) (lost x)) := u.restoreExtent_keepsSnap x.1 _ _
  refine KeepsSnap.trans ?_ (KeepsSnap.foldl extents _ _)
  refine KeepsSnap.trans ?_ (State.countExtents_keepsSnap _ _ _)
  exact (State.noteTier_keepsSnap s _ _).trans (State.countBytes_keepsSnap _ _ _ _)

end Sys2Proof.Machine

open Sys2Proof Sys2Proof.Machine

/-- Settles O21: both commands issue as `State.tryIssue_ready` says, and set the record of snapshots. -/
theorem snapshotCommandsIssue : Obligations.SnapshotCommandsIssue := by
  unfold Obligations.SnapshotCommandsIssue
  refine fun s q e => ⟨fun ready => ?snapshot, fun ready loaded image rewinds => ?restore⟩
  case snapshot =>
    exact ⟨_, execSnapshot_starts ready, rfl, rfl, rfl, congrArg (fun t : TimeSt => t.now.toNat) (State.abandonPartner_time _), rfl,
      rfl, rfl⟩
  case restore => exact ⟨_, execRestore_starts ready loaded image rewinds, rfl, rfl, rfl, rfl⟩

/-- Settles O30: what lies between a row's start and its end leaves the record of snapshots and the flash. -/
theorem snapshotsComplete : Obligations.SnapshotsComplete := by
  unfold Obligations.SnapshotsComplete
  refine ⟨fun s quiescing quiet => ⟨_, execQuiesceEnd_copies quiescing quiet, rfl, rfl, rfl, rfl, rfl⟩, ?copy,
    fun s copying lost => execSnapshotCopyComplete_fails copying lost, ?flash, ?fails, ?restore⟩
  case copy =>
    intro s copying good
    obtain ⟨v, img, n, row, keeps⟩ := execSnapshotCopyComplete_completes copying good
    have read := State.copyCtxs_keepsSnap good
    have told := ((v.modSnap fun x => { x with
      phase := .idle, stagingValid := true, sequence := s.copyCtxs.1.nextSequence, imageBytes := img
      lastStop := BitVec.ofNat 64 (v.time.now.toNat - x.start), snapshots := satInc x.snapshots }).raiseEach_told pgSnapshot 0x090C
        (seqInfo s.copyCtxs.1.nextSequence) true n).keepsSnap
    rw [read.snap] at row
    refine ⟨_, row, congrArg Snap.phase told.snap, congrArg Snap.stagingValid told.snap, ?sequence, ?count⟩
    case sequence =>
      refine (congrArg Snap.sequence told.snap).trans ?_
      exact congrArg (fun f : Flash => f.newest + 1) read.flash
    case count =>
      refine (congrArg Snap.snapshots told.snap).trans ?_
      exact congrArg (fun x : Snap => satInc x.snapshots) (keeps.snap.trans read.snap)
  case flash =>
    intro s drains runs
    obtain ⟨u, x, row, ended, sequence, slot0, slot1⟩ := execFlashDrainComplete_drains drains runs
    refine ⟨u, row, ended, ?_⟩
    rw [slot0, slot1]
    unfold Flash.setSlot
    cases s.flash.drainSlot1
    · exact ⟨sequence, rfl⟩
    · exact ⟨sequence, rfl⟩
  case fails =>
    intro s partner drains
    have told := (State.raise_told (s.modSnap fun x =>
      if partner then { x with partnerDraining := false, headerMsg := none, drainFailed := true }
      else { x with flashDraining := false, drainFailed := true }) pgSnapshot 0x0908 noted (seqInfo s.snap.sequence)).keepsSnap
    refine ⟨_, execSnapDrainFailed_fails drains, ?_⟩
    rw [told.snap]
    cases partner
    · exact ⟨rfl, rfl⟩
    · exact ⟨rfl, rfl⟩
  case restore =>
    intro s restoring
    obtain ⟨v, n, row, keeps⟩ := execRestoreComplete_completes restoring
    exact ⟨_, row, rfl, congrArg (fun x : Snap => satInc x.restores) keeps.snap⟩

end

section
/-! SUPPORT. Ports, neighbours and PTP (R618 to R627, R698, R714): each row as one change of its port or of the clock, and the report
that goes with it. -/

namespace Sys2Proof.Machine

/-! ### PTP -/

section
variable {s : State} {p dom n : Nat}

theorem execPtpSync_hears (hears : s.ptpHears p dom = true) : execPtpSync p dom n s = .next ((s.modPort p Port.rx).modTime fun t =>
    { t with
      syncSeq := some n, interval := (t.now.toNat - t.t2).toNat, t2 := t.now.toNat
      state := if t.state = 0 then 1 else t.state }) :=
  congrArg Host.Outcome.next (if_neg (by rw [hears]; exact nofun))

theorem execPtpDelayResp_hears (hears : s.ptpHears p dom = true) {rx : Nat} (asked : s.time.delaySeq = some n) :
    execPtpDelayResp p dom n rx s = .next ((s.modPort p Port.rx).modTime fun t =>
      { t with delaySeq := none, pathDelay := (t.lastMs + (rx - (t.t3 + t.servo))) / 2 }) :=
  congrArg Host.Outcome.next (if_neg (by simp [hears, asked]))

theorem execPtpDelayReq_sends (up : s.ptpUp s.ptpPort = true) : execPtpDelayReq s =
    .next (((s.modPort s.ptpPort fun p => p.tx s.time.now.toNat (frameBytes s.delayIp 44)).setOutbox (s.outbox ++
      [.delayReq (s.ethOwn s.ptpPort) s.delayIp (udpSum s.delayIp (s.delayBody s.time.nextDelay)) s.ptpPort
        (s.delayBody s.time.nextDelay)])).modTime fun t =>
      { t with delaySeq := some s.time.nextDelay, t3 := t.now.toNat, nextDelay := (s.time.nextDelay + 1) % 65536 }) :=
  congrArg Host.Outcome.next (if_neg (by rw [up]; exact nofun))

theorem Told.time {s t : State} (h : Told s t) : t.time = s.time := by
  have fields := h.fields
  tauto

/-- R627: a Follow_Up leaves what the servo makes of the measured offset; its events leave the clock alone. -/
theorem execPtpFollowUp_hears (hears : s.ptpHears p dom = true) (origin : Nat) (synced : s.time.syncSeq = some n) : ∃ t,
    execPtpFollowUp p dom n origin s = .next t ∧ t.time =
      { (s.time.follow ((s.time.t2 + s.time.servo - origin : Int) - s.time.pathDelay)).1 with
        lastMs := (s.time.t2 + s.time.servo - origin : Int) } := by
  have told (u : State) (a b : Prop) [Decidable a] [Decidable b] :
      (if a then (if b then u.raise pgTime 0x0808 noted 0 else u).raise pgTime 0x0807 noted 0
        else if b then u.raise pgTime 0x0808 noted 0 else u).time = u.time := by
    have stepped : (if b then u.raise pgTime 0x0808 noted 0 else u).time = u.time := by
      split
      · exact (u.raise_told _ _ _ _).time
      · rfl
    split
    · exact (State.raise_told _ _ _ _ _).time.trans stepped
    · exact stepped
  exact ⟨_, congrArg Host.Outcome.next (if_neg (by simp [hears, synced])), told _ _ _⟩

/-- R698: until PTP has locked, device time takes no correction. -/
theorem TimeSt.follow_unlocked {t : TimeSt} {off : Int} (free : (t.follow off).1.state < 2) :
    (t.follow off).1.now = t.now ∧ (t.follow off).1.servo = t.servo - slew off t.interval := by
  have state : ∃ st : Nat, (t.follow off).1.state = st ∧
      (t.follow off).1.now = BitVec.ofInt 64 (t.now.toNat + (if st < 2 then 0 else slew (t.servo - slew off t.interval) t.interval)) ∧
      (t.follow off).1.servo = t.servo - slew off t.interval -
        (if st < 2 then 0 else slew (t.servo - slew off t.interval) t.interval) := ⟨_, rfl, rfl, rfl⟩
  obtain ⟨st, same, now, servo⟩ := state
  rw [same] at free
  rw [if_pos free] at now servo
  refine ⟨now.trans ?_, servo.trans (by omega)⟩
  simp

end

end Sys2Proof.Machine

open Sys2Proof Sys2Proof.Machine

/-- Settles O38: each message is one change of the clock, and a Follow_Up's is `TimeSt.follow`. -/
theorem timeFollowsTheServer : Obligations.TimeFollowsTheServer := by
  unfold Obligations.TimeFollowsTheServer
  refine ⟨fun s p dom n hears => ⟨⟨_, execPtpSync_hears hears, rfl, rfl, rfl, rfl⟩, fun origin synced => ?follow,
    fun rx asked => ⟨_, execPtpDelayResp_hears hears asked, rfl, rfl, rfl⟩⟩, fun s up =>
      ⟨_, execPtpDelayReq_sends up, rfl, rfl, rfl⟩⟩
  obtain ⟨t, row, time⟩ := execPtpFollowUp_hears hears origin synced
  have offset := congrArg TimeSt.offset time
  refine ⟨t, row, congrArg TimeSt.syncSeq time, offset, time, fun free => ?_⟩
  rw [time] at free
  obtain ⟨now, servo⟩ := TimeSt.follow_unlocked free
  rw [time]
  exact ⟨now, servo⟩

end

section
/-! SUPPORT. Links, frames and neighbours (R618 to R625, R646, R714): a row leaves one port changed, or a report besides. -/

namespace Sys2Proof.Machine

/-! ### One port changed -/

section
variable {s t : State} {p : Nat} {x : Port}

theorem State.WithPort.modPort (h : s.WithPort t p x) (f : Port → Port) : s.WithPort (t.modPort p f) p (f x) := by
  obtain ⟨port, others, rest⟩ := h
  refine ⟨?_, fun k ne => ?_, ?_⟩
  · rw [State.modPort_same, port]
  · rw [State.modPort_other _ _ ne, others k ne]
  · generalize t.net.ports = ports at rest
    subst rest
    rfl

theorem State.modPort_ethOwn (f : Port → Port) (vid : (f (s.port p)).vid = (s.port p).vid) :
    (s.modPort p f).ethOwn p = s.ethOwn p := by
  unfold State.ethOwn State.ethHead
  rw [State.modPort_same, vid]
  rfl

theorem State.portUp_bound (up : s.portUp p = true) : p < 8 := by
  simp only [State.portUp, Bool.and_eq_true, decide_eq_true_eq] at up
  exact up.1.1.2

/-! ### Links -/

theorem execLinkUp_up {cr1 : Bool} (on : s.side.on = true) (bound : p < 8) (en : (s.port p).enable = true)
    (down : (s.port p).linkUp = false) : execLinkUp p cr1 s =
    .next ((s.modPort p fun x => { x with linkUp := true, cr1 := cr1, training := false }).raise (pgEth p) 0x0803 noted 0) :=
  congrArg Host.Outcome.next (if_neg (by simp [on, bound, en, down]))

theorem execLinkDown_loses (on : s.side.on = true) (bound : p < 8) : execLinkDown p s = .next (s.loseLink p) :=
  congrArg Host.Outcome.next (if_pos ⟨on, bound⟩)

theorem State.loseLink_down (down : (s.port p).linkUp = false) : s.loseLink p = s := if_pos (by rw [down]; rfl)

/-- The state of a port's loss of its link, its report and its plane apart. -/
def State.linkLost (s : State) (p : Nat) : State := s.modPort p fun x => { x with linkUp := false, linkDowns := satInc x.linkDowns }

/-- Whether another port of its plane has its link. -/
def State.anotherUp (s : State) (p : Nat) : Prop := ∃ k, k / 4 = p / 4 ∧ k ≠ p ∧ (s.port k).linkUp = true

/-- A plane has a link while another of its ports has one. -/
theorem State.linkLost_plane (s : State) (p pg : Nat) (code : BitVec 16) (sev info : Nat) :
    ((planePorts (p / 4)).any fun k => (((s.linkLost p).raise pg code sev info).port k).linkUp) = true ↔ s.anotherUp p := by
  obtain ⟨-, -, -, ports, -⟩ := ((s.linkLost p).raise_told pg code sev info).more
  rw [List.any_eq_true]
  constructor
  · rintro ⟨k, mem, up⟩
    rw [ports] at up
    have ne : k ≠ p := by
      rintro rfl
      rw [State.linkLost, State.modPort_same] at up
      exact Bool.false_ne_true up
    rw [State.linkLost, State.modPort_other _ _ ne] at up
    have range := mem_upTo mem
    exact ⟨k, by omega, ne, up⟩
  · rintro ⟨k, plane, ne, up⟩
    refine ⟨k, mem_upTo_of_lt (by omega) (by omega), ?_⟩
    rw [ports, State.linkLost, State.modPort_other _ _ ne]
    exact up

theorem State.linkLost_raise_plane (s : State) (p pg : Nat) (code : BitVec 16) (sev info plane : Nat) :
    ((s.linkLost p).raise pg code sev info).net.plane plane = s.net.plane plane := by
  have lost := ((s.linkLost p).raise_reports pg code sev info).lost
  unfold Transport.plane
  rw [lost]
  rfl

theorem State.loseLink_stays (up : (s.port p).linkUp = true) (stays : s.anotherUp p ∨ s.net.plane (p / 4) = false) :
    s.loseLink p = (s.linkLost p).raise (pgEth p) 0x0802 noted 0 := by
  refine (if_neg (by rw [up]; exact nofun)).trans ?_
  show (if (planePorts (p / 4)).any (fun k => (((s.linkLost p).raise (pgEth p) 0x0802 noted 0).port k).linkUp) = true then
    (s.linkLost p).raise (pgEth p) 0x0802 noted 0 else ((s.linkLost p).raise (pgEth p) 0x0802 noted 0).setPlane (p / 4) false) = _
  split
  next => rfl
  next alone =>
    have down := stays.resolve_left (mt (s.linkLost_plane p _ _ _ _).2 alone)
    exact if_pos ((s.linkLost_raise_plane ..).trans down)

theorem State.loseLink_planeDown (up : (s.port p).linkUp = true) (alone : ¬s.anotherUp p) (plane : s.net.plane (p / 4) = true) :
    s.loseLink p = (((s.linkLost p).raise (pgEth p) 0x0802 noted 0).setNet (if p / 4 = 0 then
        { ((s.linkLost p).raise (pgEth p) 0x0802 noted 0).net with planeA := false, lossesA := 0 }
      else { ((s.linkLost p).raise (pgEth p) 0x0802 noted 0).net with planeB := false, lossesB := 0 })).raise
        pgTransport 0x0804 noted (p / 4) := by
  refine (if_neg (by rw [up]; exact nofun)).trans ((if_neg (mt (s.linkLost_plane p _ _ _ _).1 alone)).trans ?_)
  exact if_neg fun same => Bool.false_ne_true (same.symm.trans ((s.linkLost_raise_plane p _ _ _ _ _).trans plane))

/-! ### FEC -/

/-- The counts of a second's codewords are in. -/
def State.fecCounted (s : State) (p c n : Nat) : State := s.modPort p fun x =>
  { x with fecCorrected := satAdd x.fecCorrected c, fecUncorrected := satAdd x.fecUncorrected n }

theorem execFecDegraded_counts {c n : Nat} (up : s.portUp p = true) (good : c ≤ (s.port p).fecLimit.toNat ∧ n = 0) :
    execFecDegraded p c n s = .next (s.fecCounted p c n) :=
  congrArg Host.Outcome.next ((if_neg (by rw [up]; exact nofun)).trans (if_neg (by omega)))

theorem execFecDegraded_degrades {c n : Nat} (up : s.portUp p = true) (bad : (s.port p).fecLimit.toNat < c ∨ 0 < n) :
    execFecDegraded p c n s = .next (((s.fecCounted p c n).modPort p fun x =>
      { x with fecAt := if s.secondPast (s.port p).fecAt then some s.time.now.toNat else x.fecAt }).raiseFull (pgEth p) 0x0809 noted
        0 0 (s.secondPast (s.port p).fecAt) false) := by
  have last : (s.fecCounted p c n).secondPast ((s.fecCounted p c n).port p).fecAt = s.secondPast (s.port p).fecAt := by
    rw [State.fecCounted, State.modPort_same]
    rfl
  refine congrArg Host.Outcome.next ((if_neg (by rw [up]; exact nofun)).trans ((if_pos bad).trans ?_))
  rw [← last]
  rfl

/-! ### Frames -/

/-- Whether a frame stands outside the port's VLAN. -/
def Port.foreign (x : Port) (f : EthFrame) : Prop := match f.vid with
  | some v => v ≠ x.vid.toNat
  | none => x.acceptUntagged = false

/-- Whether a frame is addressed to the port (R621). -/
def State.addressed (s : State) (p : Nat) (f : EthFrame) : Prop := 64 ≤ f.bytes ∧ s.macOk p f.dstMac = true ∧
  (f.dstIp = 0 ∨ s.ownIp p f.dstIp = true ∨ s.ptpGroup p f.dstIp f.udpPort = true)

/-- Whether a frame is a fragment, fails its checksum, or goes to a UDP port that nothing serves. -/
def frameWrong (f : EthFrame) : Prop :=
  f.fragment = true ∨ f.badChecksum = true ∨ ∃ n, f.udpPort = some n ∧ n ≠ 47712 ∧ n ≠ 319 ∧ n ≠ 320

open Classical in
/-- What a port does with a frame, in the words of the spec. -/
theorem execFrameReceive_cases (up : s.portUp p = true) (f : EthFrame) : execFrameReceive p f s = .next (
    if ¬(f.bytes ≤ 9216 ∧ f.badFcs = false) then s.modPort p Port.drop
    else if f.pause = true then s
    else if (s.port p).foreign f then s.modPort p Port.drop
    else if ¬s.addressed p f then s
    else if frameWrong f then s.modPort p Port.drop
    else s.modPort p Port.rx) := by
  have whole : (9216 < f.bytes ∨ f.badFcs = true) ↔ ¬(f.bytes ≤ 9216 ∧ f.badFcs = false) := by
    rw [not_and_or, Nat.not_le, Bool.not_eq_false]
  have vlan : ((match f.vid with
      | some v => v != (s.port p).vid.toNat
      | none => !(s.port p).acceptUntagged) = true) ↔ (s.port p).foreign f := by
    unfold Port.foreign
    cases f.vid with
    | none => simp
    | some v => simp
  have passes : (f.bytes < 64 ∨ (!s.macOk p f.dstMac) = true ∨
      (f.dstIp ≠ 0 ∧ (!s.ownIp p f.dstIp) = true ∧ (!s.ptpGroup p f.dstIp f.udpPort) = true)) ↔ ¬s.addressed p f := by
    unfold State.addressed
    simp only [Bool.not_eq_true', not_and_or, not_or, Nat.not_le, Bool.not_eq_true, ne_eq]
  have wrong : (f.fragment = true ∨ f.badChecksum = true ∨ f.udpPort.any (fun u => u != 47712 && u != 319 && u != 320) = true) ↔
      frameWrong f := by
    unfold frameWrong
    cases f.udpPort with
    | none => simp
    | some u => simp [and_assoc]
  refine congrArg Host.Outcome.next ((if_neg (by rw [up]; exact nofun)).trans ?_)
  exact if_congr whole rfl (if_congr Iff.rfl rfl (if_congr vlan rfl (if_congr passes rfl (if_congr wrong rfl rfl))))

/-! ### Neighbours -/

theorem execArpRequest_answers {mac : BitVec 48} {sip tip : Word} (up : s.portUp p = true) (some_ : tip ≠ 0)
    (own : tip = (s.port p).ipv4) : execArpRequest p mac sip tip s =
    .next (((s.modPort p Port.rx).modPort p fun x => x.tx s.time.now.toNat 64).setOutbox
      (s.outbox ++ [.arpReply (s.ethOwn p) p mac sip])) := by
  have ask : tip ≠ 0 ∧ tip = ((s.modPort p Port.rx).port p).ipv4 := ⟨some_, by rw [State.modPort_same]; exact own⟩
  refine congrArg Host.Outcome.next ((if_neg (by rw [up]; exact nofun)).trans ((if_pos ask).trans ?_))
  rw [State.modPort_ethOwn Port.rx rfl]
  rfl

theorem execArpRequest_other {mac : BitVec 48} {sip tip : Word} (up : s.portUp p = true)
    (other : tip = 0 ∨ tip ≠ (s.port p).ipv4) : execArpRequest p mac sip tip s = .next (s.modPort p Port.rx) := by
  refine congrArg Host.Outcome.next ((if_neg (by rw [up]; exact nofun)).trans (if_neg fun ask => ?_))
  rw [State.modPort_same] at ask
  exact other.elim ask.1 fun ne => ne ask.2

theorem State.family_hears (up : s.portUp p = true) (family : (s.port p).ipv6 ≠ 0) :
    ¬(!s.portUp p || (s.port p).ipv6 == 0) = true := by
  rw [up, beq_eq_false_iff_ne.2 family]
  exact nofun

theorem execNeighbourSolicitation_answers {mac : BitVec 48} {sip tip : BitVec 128} (up : s.portUp p = true)
    (family : (s.port p).ipv6 ≠ 0) (own : tip = (s.port p).ipv6) : execNeighbourSolicitation p mac sip tip s =
    .next (((s.modPort p Port.rx).modPort p fun x => x.tx s.time.now.toNat 94).setOutbox
      (s.outbox ++ [.neighbourAdvert (s.ethOwn p) p mac sip])) := by
  have ask : tip = ((s.modPort p Port.rx).port p).ipv6 := by
    rw [State.modPort_same]
    exact own
  refine congrArg Host.Outcome.next ((if_neg (State.family_hears up family)).trans ((if_pos ask).trans ?_))
  rw [State.modPort_ethOwn Port.rx rfl]
  rfl

theorem execNeighbourSolicitation_other {mac : BitVec 48} {sip tip : BitVec 128} (up : s.portUp p = true)
    (family : (s.port p).ipv6 ≠ 0) (other : tip ≠ (s.port p).ipv6) :
    execNeighbourSolicitation p mac sip tip s = .next (s.modPort p Port.rx) := by
  refine congrArg Host.Outcome.next ((if_neg (State.family_hears up family)).trans (if_neg fun ask => other ?_))
  rw [State.modPort_same] at ask
  exact ask

theorem execNeighbourSolicitation_none {mac : BitVec 48} {sip tip : BitVec 128} (none_ : (s.port p).ipv6 = 0) :
    execNeighbourSolicitation p mac sip tip s = .next s :=
  congrArg Host.Outcome.next (if_pos (by simp [none_]))

theorem execArpReply_learns {mac : BitVec 48} {ip : Word} (up : s.portUp p = true) : execArpReply p mac ip s =
    .next (s.modPort p fun x => x.rx.learn (ipv4Mapped ip) mac s.time.now.toNat) :=
  congrArg Host.Outcome.next (if_neg (by rw [up]; exact nofun))

theorem execNeighbourAdvertisement_learns {mac : BitVec 48} {ip : BitVec 128} (up : s.portUp p = true)
    (family : (s.port p).ipv6 ≠ 0) : execNeighbourAdvertisement p mac ip s =
    .next (s.modPort p fun x => x.rx.learn ip mac s.time.now.toNat) :=
  congrArg Host.Outcome.next (if_neg (State.family_hears up family))

theorem execNeighbourAdvertisement_none {mac : BitVec 48} {ip : BitVec 128} (none_ : (s.port p).ipv6 = 0) :
    execNeighbourAdvertisement p mac ip s = .next s :=
  congrArg Host.Outcome.next (if_pos (by simp [none_]))

/-! ### The cache of a port's neighbours -/

section
variable (x : Port) (ip : BitVec 128) (mac : BitVec 48) (now : Nat)

/-- The entries that stay when a neighbour is learnt: those of other addresses, but for the oldest where they fill the cache. -/
def Port.others (x : Port) (ip : BitVec 128) : List Neighbour :=
  if (x.neighbours.filter fun n => n.ip != ip).length < 256 then x.neighbours.filter fun n => n.ip != ip
  else (x.neighbours.filter fun n => n.ip != ip).drop 1

theorem Port.learn_neighbours : (x.learn ip mac now).neighbours = x.others ip ++ [⟨ip, mac, now⟩] := rfl

theorem Port.others_mem {n : Neighbour} (mem : n ∈ x.others ip) : n ∈ x.neighbours ∧ n.ip ≠ ip := by
  have kept : n ∈ x.neighbours.filter fun n => n.ip != ip := by
    unfold Port.others at mem
    split at mem
    · exact mem
    · exact List.mem_of_mem_drop mem
  simpa using List.mem_filter.1 kept

theorem Port.others_length (full : x.neighbours.length ≤ 256) : (x.others ip).length < 256 := by
  have fewer := List.length_filter_le (fun n : Neighbour => n.ip != ip) x.neighbours
  unfold Port.others
  split
  next room => exact room
  next =>
    rw [List.length_drop]
    omega

theorem Port.others_room (room : x.neighbours.length < 256) : x.others ip = x.neighbours.filter fun n => n.ip != ip :=
  if_pos (Nat.lt_of_le_of_lt (List.length_filter_le _ _) room)

theorem Port.learn_length (full : x.neighbours.length ≤ 256) : (x.learn ip mac now).neighbours.length ≤ 256 := by
  have fewer := x.others_length ip full
  rw [Port.learn_neighbours, List.length_append]
  exact fewer

theorem Port.learn_mem {n : Neighbour} (mem : n ∈ (x.learn ip mac now).neighbours) :
    n = ⟨ip, mac, now⟩ ∨ (n ∈ x.neighbours ∧ n.ip ≠ ip) := by
  rw [Port.learn_neighbours, List.mem_append, List.mem_singleton] at mem
  exact mem.symm.imp_right (x.others_mem ip)

theorem Port.learn_keeps (room : x.neighbours.length < 256) {n : Neighbour} (mem : n ∈ x.neighbours) (other : n.ip ≠ ip) :
    n ∈ (x.learn ip mac now).neighbours := by
  rw [Port.learn_neighbours, x.others_room ip room]
  exact List.mem_append_left _ (List.mem_filter.2 ⟨mem, by simp [other]⟩)

end

/-! ### Registers -/

theorem execPortEnable_writes {ini : Nat} {on : Bool} (reached : s.admits ini (pgEth p) = true)
    (unlocked : (s.page (pgEth p)).lock = false) (bound : p < 8) : execPortEnable ini p on s = .next (s.writeEnable p on) :=
  (State.regRow_open reached unlocked true _).trans (by rw [if_pos bound])

theorem State.admits_on {ini pg : Nat} (reached : s.admits ini pg = true) : s.side.on = true := by
  simp only [State.admits, State.reaches, Bool.and_eq_true] at reached
  exact reached.1.1

end

end Sys2Proof.Machine

open Sys2Proof Sys2Proof.Machine

/-- Settles O37: each row is a change of its port by `State.modPort`, or that and a report. -/
theorem portsWork : Obligations.PortsWork := by
  unfold Obligations.PortsWork
  intro leaves answers tells
  have told (c : Instr) {s : State} {p : Nat} {f : Port → Port} {code : BitVec 16}
      (row : exec c s = .next ((s.modPort p f).raise (pgEth p) code noted 0)) : tells s c p (f (s.port p)) code :=
    ⟨_, s.modPort_withPort p f, State.raise_reports .., row⟩
  have left (c : Instr) {s : State} {p : Nat} {f : Port → Port} (row : exec c s = .next (s.modPort p f)) :
      leaves s c p (f (s.port p)) := ⟨_, row, s.modPort_withPort p f⟩
  refine ⟨?up, ?down, ?fec, fun s p up => ⟨?frames, ?arp, ?solicitation, ?reply, ?advertisement⟩, ?learn, fun s p => rfl, ?expiry,
    ?enable⟩
  case up => exact fun s p cr1 on bound en down => told (.linkUp p cr1) (execLinkUp_up on bound en down)
  case down =>
    refine fun s p on bound => ⟨fun down => ?_, fun up => ⟨fun stays => ?_, fun alone plane => ?_⟩⟩
    · exact (execLinkDown_loses on bound).trans (congrArg Host.Outcome.next (State.loseLink_down down))
    · exact told (.linkDown p) ((execLinkDown_loses on bound).trans (congrArg Host.Outcome.next (State.loseLink_stays up stays)))
    · exact ⟨_, _, _, s.modPort_withPort p _, rfl, State.raise_reports .., rfl, State.raise_reports ..,
        (execLinkDown_loses on bound).trans (congrArg Host.Outcome.next (State.loseLink_planeDown up alone plane))⟩
  case fec =>
    refine fun s p c n up => ⟨fun good => left (.fecDegraded p c n) (execFecDegraded_counts up good),
      fun bad => ⟨fun due => ?_, fun early => ?_⟩⟩
    · have row := execFecDegraded_degrades up bad
      rw [due] at row
      exact ⟨_, (s.modPort_withPort p _).modPort _, State.raise_reports .., row⟩
    · have row := execFecDegraded_degrades up bad
      rw [early] at row
      exact ⟨_, (s.modPort_withPort p _).modPort _, State.raiseFull_reports .., row⟩
  case frames =>
    intro f
    have row := execFrameReceive_cases up f
    refine ⟨fun part => ?part, fun whole pause => ?pause, fun whole plain foreign => ?foreign, fun whole plain own other => ?other,
      fun taken wrong => ?wrong, fun taken right => ?taken⟩
    case part => exact left (.frameReceive p f) (row.trans (congrArg Host.Outcome.next (if_pos part)))
    case pause => exact row.trans (congrArg Host.Outcome.next ((if_neg (not_not_intro whole)).trans (if_pos pause)))
    case foreign =>
      exact left (.frameReceive p f) (row.trans (congrArg Host.Outcome.next ((if_neg (not_not_intro whole)).trans
        ((if_neg (by simp [plain])).trans (if_pos foreign)))))
    case other =>
      have unaddressed : ¬s.addressed p f := fun addressed => other ⟨whole, plain, own, addressed⟩
      exact row.trans (congrArg Host.Outcome.next ((if_neg (not_not_intro whole)).trans
        ((if_neg (by simp [plain])).trans ((if_neg own).trans (if_pos unaddressed)))))
    case wrong =>
      obtain ⟨whole, plain, own, addressed⟩ := taken
      exact left (.frameReceive p f) (row.trans (congrArg Host.Outcome.next ((if_neg (not_not_intro whole)).trans
        ((if_neg (by simp [plain])).trans ((if_neg own).trans ((if_neg (not_not_intro addressed)).trans (if_pos wrong)))))))
    case taken =>
      obtain ⟨whole, plain, own, addressed⟩ := taken
      exact left (.frameReceive p f) (row.trans (congrArg Host.Outcome.next ((if_neg (not_not_intro whole)).trans
        ((if_neg (by simp [plain])).trans ((if_neg own).trans ((if_neg (not_not_intro addressed)).trans (if_neg right)))))))
  case arp =>
    exact fun mac sip tip => ⟨fun some_ own => ⟨_, execArpRequest_answers up some_ own, (s.modPort_withPort p Port.rx).modPort _⟩,
      fun other => left (.arpRequest p mac sip tip) (execArpRequest_other up other)⟩
  case solicitation =>
    exact fun mac sip tip =>
      ⟨fun family own => ⟨_, execNeighbourSolicitation_answers up family own, (s.modPort_withPort p Port.rx).modPort _⟩,
        fun family other => left (.neighbourSolicitation p mac sip tip) (execNeighbourSolicitation_other up family other),
        fun none_ => execNeighbourSolicitation_none none_⟩
  case reply => exact fun mac ip => left (.arpReply p mac ip) (execArpReply_learns up)
  case advertisement =>
    exact fun mac ip => ⟨fun family => left (.neighbourAdvertisement p mac ip) (execNeighbourAdvertisement_learns up family),
      fun none_ => execNeighbourAdvertisement_none none_⟩
  case learn =>
    exact fun x ip mac now => ⟨rfl, List.mem_append_right _ (List.mem_singleton.2 rfl), x.learn_length ip mac now,
      fun n mem => x.learn_mem ip mac now mem, fun room n mem other => x.learn_keeps ip mac now room mem other⟩
  case expiry => exact fun s p ip bound => left (.neighbourExpiry p ip) (congrArg Host.Outcome.next (if_pos bound))
  case enable =>
    refine fun s ini p reached unlocked bound => ⟨fun en => ?_, fun off => ?_, ?_⟩
    · exact (execPortEnable_writes reached unlocked bound).trans (congrArg Host.Outcome.next ((if_pos rfl).trans (if_pos en)))
    · exact left (.portEnable ini p true) ((execPortEnable_writes reached unlocked bound).trans
        (congrArg Host.Outcome.next ((if_pos rfl).trans (if_neg (by simp [off])))))
    · exact ⟨_, _, execLinkDown_loses (State.admits_on reached) bound, (execPortEnable_writes reached unlocked bound).trans
        (congrArg Host.Outcome.next (if_neg nofun)), State.modPort_withPort _ p _⟩

end

section
/-! SUPPORT. The Relsen transport (R633 to R647): packets in, the timers of a live connection, pacing, probes and events. -/

namespace Sys2Proof.Machine

section
variable {s : State}

/-- R635 to R637: a packet of an opened connection that brings no message and has not been received is accepted once it
authenticates. -/
theorem execRelsenPacket_authenticates {port : Nat} {p : RxPacket} (up : s.portUp port = true)
    (family : s.hasFamily port p.srcIp = true) (mac : s.macOk port p.dstMac = true) (own : s.ownIp port p.dstIp = true)
    {u : State} (counted : s.modPort port Port.rx = u) {n : Nat} (number : hConn p.header = n) (bound : n < 4096)
    (opened : (u.conn n).st = .opened) (peer : p.srcIp = (u.conn n).cfg.peerA ∨ p.srcIp = (u.conn n).cfg.peerB)
    (from_ : p.srcPort = (u.conn n).cfg.port.toNat) (header : headerOk p.header = true)
    (new : (u.conn n).hasReceived (hPacket p.header) = false) (plain : hType p.header = 0) : execRelsenPacket port p s =
    .next (match gcmOpen (keyBytes (u.conn n).keyIn) (nonceOf n (hPacket p.header)) (leBytes 64 p.header.toNat) p.body
        (beBytes 16 p.tag.toNat) with
      | some msg => u.acceptPacket port n p msg
      | none => u.stranger port p.srcIp) := by
  subst counted number
  have known : ¬(4096 ≤ hConn p.header ∨ ((s.modPort port Port.rx).conn (hConn p.header)).st = .closed ∨
      (p.srcIp ≠ ((s.modPort port Port.rx).conn (hConn p.header)).cfg.peerA ∧
        p.srcIp ≠ ((s.modPort port Port.rx).conn (hConn p.header)).cfg.peerB) ∨
      p.srcPort ≠ ((s.modPort port Port.rx).conn (hConn p.header)).cfg.port.toNat ∨ (!headerOk p.header) = true) := by
    rintro (large | closed | ⟨notA, notB⟩ | wrong | bad)
    · omega
    · rw [opened] at closed
      exact nomatch closed
    · exact peer.elim notA notB
    · exact wrong from_
    · simp [header] at bad
  have stands : ((s.modPort port Port.rx).conn (hConn p.header)).st ≠ .lost := by
    rw [opened]
    exact nofun
  unfold execRelsenPacket
  rw [if_neg (by simp [up, family, mac, own])]
  dsimp only
  rw [if_neg known]
  cases gcmOpen (keyBytes ((s.modPort port Port.rx).conn (hConn p.header)).keyIn) (nonceOf (hConn p.header) (hPacket p.header))
      (leBytes 64 p.header.toNat) p.body (beBytes 16 p.tag.toNat) with
  | none => rfl
  | some msg =>
    dsimp only
    rw [if_neg (by rw [new]; exact nofun), if_neg stands, if_neg fun held => held.1 plain]

/-! ### The timers of a live connection -/

section
variable {n : Nat} (on : s.side.on = true) (bound : n < 4096) (live : (s.conn n).live = true)
include on bound live

theorem execAckTimer_sends (due : (s.conn n).ackDue ≠ 0) : execAckTimer n s = .next (s.sendPacket n none none).2 :=
  congrArg Host.Outcome.next (if_pos ⟨on, bound, live, due⟩)

theorem execLossDetectionTimer_loses {k : Nat} (later : (s.conn n).maxAcked.any (fun a => decide (k < a)) = true) :
    execLossDetectionTimer n k s = .next (s.loseSent n ((s.conn n).unacked.filter fun p => p.packet == k)) :=
  congrArg Host.Outcome.next (if_pos ⟨on, bound, live, later⟩)

theorem execRetransmissionTimer_loses (waits : (s.conn n).unacked ≠ []) : execRetransmissionTimer n s =
    .next ((s.loseSent n (s.conn n).unacked).modConn n fun c => { c with rto := min 100000000 (2 * c.rto) }) :=
  congrArg Host.Outcome.next (if_pos ⟨on, bound, live, waits⟩)

/-- A connection that is lost drops what waits on it; the others stay as they are. -/
theorem execConnectionLost_loses (other : n ≠ 0) : ∃ t, execConnectionLost n s = .next t ∧ ∀ k, t.conn k =
    (s.modConn n fun c => { c with st := .lost, unsent := [], unacked := [] }).conn k := by
  refine ⟨_, congrArg Host.Outcome.next (if_pos ⟨on, other, bound, live⟩), fun k => ?_⟩
  have told := (((s.modConn n fun c => { c with st := .lost, unsent := [], unacked := [] }).restartDrain n).raise_told pgTransport
    0x0806 noted n).more.2.2.1 k
  have drained := told.trans (State.restartDrain_conn _ n k)
  dsimp only
  split
  · exact drained
  · exact drained

/-- R645: the oldest message that waits leaves once the windows have room for it. -/
theorem execPacketPacing_sends {m : Msg} {rest : List Msg} (waits : ((s.feedDrain n).conn n).unsent = m :: rest)
    (room : (((s.feedDrain n).conn n).unacked.map Sent.size).sum + 80 + m.bytes.length ≤ ((s.feedDrain n).conn n).cwnd)
    (window : (((s.feedDrain n).conn n).unacked.filter fun p => p.msg.isSome).length ≤ ((s.feedDrain n).conn n).window)
    (leaves : ((s.feedDrain n).sendPacket n (some m) none).1 = true) : execPacketPacing n s =
    .next (((s.feedDrain n).sendPacket n (some m) none).2.modConn n fun c => { c with unsent := rest }) := by
  unfold execPacketPacing
  rw [if_neg (by simp [on, bound, live])]
  dsimp only
  rw [waits]
  dsimp only
  rw [if_neg (by omega)]
  generalize (s.feedDrain n).sendPacket n (some m) none = sent at leaves
  obtain ⟨gone, t⟩ := sent
  obtain rfl : gone = true := leaves
  rfl

end

/-! ### Probes and events -/

theorem execPlaneProbe_sends {plane n : Nat} (bound : plane < 2) (on : s.side.on = true) (down : s.net.plane plane = false)
    (uses : s.probeConn plane = some n) : execPlaneProbe plane s = .next (s.sendPacket n none (some plane)).2 := by
  unfold execPlaneProbe
  rw [uses, decide_eq_true bound, on, down]
  rfl

/-- R642: a die sends its oldest events, at most 255. -/
theorem execEventSend_sends {d : Nat} (on : s.side.on = true) (bound : d < 2) (waits : (s.die d).events ≠ [])
    (live : (s.conn 0).live = true) (keyed : 2 ≤ (s.conn 0).generation.toNat) : execEventSend d s =
    .next ((s.modDie d fun d => { d with events := d.events.drop 255 }).sendOwn 0 0x05 (leBytes 2 ((s.die d).events.take 255).length ++
      leBytes 6 0 ++ ((s.die d).events.take 255).flatMap (EventRec.bytes d))) := by
  have due : ¬((!s.side.on) = true ∨ 2 ≤ d ∨ (s.die d).events.take 255 = [] ∨ (!(s.conn 0).live) = true ∨
      (s.conn 0).generation.toNat < 2) := by
    rintro (off | large | none | dead | early)
    · simp [on] at off
    · omega
    · exact waits ((List.take_eq_nil_iff.1 none).resolve_left (by decide))
    · simp [live] at dead
    · omega
  exact congrArg Host.Outcome.next (if_neg due)

end

end Sys2Proof.Machine

open Sys2Proof Sys2Proof.Machine

/-- Settles O36: each row's conditions hold, so that it does what its definition says; a packet is opened by its key first. -/
theorem relsenWorks : Obligations.RelsenWorks := by
  unfold Obligations.RelsenWorks
  refine ⟨fun s port p up family mac own bound opened peer from_ header new plain =>
      execRelsenPacket_authenticates up family mac own rfl rfl bound opened peer from_ header new plain,
    fun s n on bound live => ⟨fun due => execAckTimer_sends on bound live due,
      fun k later => execLossDetectionTimer_loses on bound live later, ?retransmission, ?lost, ?pacing⟩,
    fun s plane n bound on down uses => execPlaneProbe_sends bound on down uses, ?events⟩
  case retransmission =>
    exact fun waits => ⟨_, _, execRetransmissionTimer_loses on bound live waits, rfl, State.modConn_same ..⟩
  case lost =>
    intro other
    obtain ⟨t, row, conn⟩ := execConnectionLost_loses on bound live other
    exact ⟨t, row, (conn n).trans (State.modConn_same ..), fun k ne => (conn k).trans (State.modConn_other _ _ ne)⟩
  case pacing =>
    intro m rest waits room window leaves
    refine ⟨_, execPacketPacing_sends on bound live waits room window leaves, ?_⟩
    rw [State.modConn_same]
  case events =>
    intro s d on bound waits live keyed
    refine ⟨_, ?_, execEventSend_sends on bound waits live keyed⟩
    rw [State.modDie_same]

end

section
/-! SUPPORT. The boot (R652 to R667): its rows, and what reading the silicon and starting the image leave alone. -/

namespace Sys2Proof.Machine

/-! ### What leaves memory and the dies -/

/-- Memory stays, and the dies but for their events. -/
structure KeepsDies (s t : State) : Prop where
  mem : t.mem = s.mem
  die : ∀ d, ∃ x y, t.die d = { s.die d with events := x, evSeq := y }

theorem KeepsDies.refl (s : State) : KeepsDies s s := ⟨rfl, fun _ => ⟨_, _, rfl⟩⟩

theorem KeepsDies.trans {a b c : State} (h : KeepsDies a b) (h' : KeepsDies b c) : KeepsDies a c := by
  refine ⟨h'.mem.trans h.mem, fun d => ?_⟩
  obtain ⟨x, y, first⟩ := h.die d
  obtain ⟨x', y', second⟩ := h'.die d
  exact ⟨x', y', by rw [second, first]⟩

theorem KeepsDies.ite {s a b : State} {c : Prop} [Decidable c] (ha : KeepsDies s a) (hb : KeepsDies s b) :
    KeepsDies s (if c then a else b) := by
  split
  · exact ha
  · exact hb

theorem KeepsDies.foldl {f : State → Nat → State} (hf : ∀ u k, KeepsDies u (f u k)) (ks : List Nat) (s : State) :
    KeepsDies s (ks.foldl f s) :=
  State.forEach_induction (P := KeepsDies s) (fun u k h => h.trans (hf u k)) ks (.refl s)

theorem Told.keepsDies {s t : State} (h : Told s t) : KeepsDies s t := ⟨h.keepsMemory.mem, h.more.2.2.2.2⟩

theorem KeepsDies.fuseOk {s t : State} (h : KeepsDies s t) (d : Nat) : (t.die d).fuseOk = (s.die d).fuseOk := by
  obtain ⟨x, y, die⟩ := h.die d
  rw [die]

theorem KeepsDies.imageRunning {s t : State} (h : KeepsDies s t) (d : Nat) : (t.die d).imageRunning = (s.die d).imageRunning := by
  obtain ⟨x, y, die⟩ := h.die d
  rw [die]

/-! ### Reading the silicon -/

section
variable {s : State}

theorem State.train_keepsDies (s : State) (p : Nat) : KeepsDies s (s.train p) := ⟨rfl, fun _ => ⟨_, _, rfl⟩⟩

theorem State.nextEpoch_keepsDies (s : State) : KeepsDies s s.nextEpoch := by
  have spent : KeepsDies s (s.modBoot fun b => { b with exhausted := true }) := ⟨rfl, fun _ => ⟨_, _, rfl⟩⟩
  unfold State.nextEpoch
  exact .ite ⟨rfl, fun _ => ⟨_, _, rfl⟩⟩ (spent.trans (State.raiseEach_told _ _ _ _ _ _).keepsDies)

theorem State.readLmsRecord_keepsDies (s : State) : KeepsDies s s.readLmsRecord := by
  unfold State.readLmsRecord
  exact .ite (.ite s.nextEpoch_keepsDies (.refl s))
    (.ite (s.nextEpoch_keepsDies.trans (State.raise_told _ _ _ _ _).keepsDies) s.nextEpoch_keepsDies)

theorem State.raiseStop_die (s : State) (pg : Nat) (code : BitVec 16) (info d : Nat) :
    ∃ x y, (s.raiseStop pg code info).die d = { s.die d with events := x, evSeq := y } := by
  have raised := s.raise_told pg code deviceStopSev info
  by_cases stands : s.err.deviceStopped = false ∧ s.power.stop = .none
  · exact (State.raiseStop_leaves stands.1 stands.2 pg code info).2.2 d
  · have stays : (s.raiseStop pg code info) = s.raise pg code deviceStopSev info := by
      refine if_pos ?_
      rw [raised.more.1, raised.stopping.power]
      simpa [or_iff_not_imp_left] using stands
    rw [stays]
    exact raised.more.2.2.2.2 d

/-- R729: a die that has no lost fuse word reads its fuses, and leaves memory as it is. -/
theorem State.readFuses_mem {d : Nat} (ok : ((s.readFuses d).die d).fuseOk = true) : (s.readFuses d).mem = s.mem := by
  unfold State.readFuses at ok ⊢
  dsimp only at ok ⊢
  cases lost : s.fuses.words d .lost with
  | nil => rfl
  | cons w ws =>
    rw [lost] at ok
    obtain ⟨x, y, die⟩ := State.raiseStop_die (s.modDie d fun x => { x with
      fuseOk := (w :: ws).isEmpty, fuseCorrected := satAdd x.fuseCorrected (s.fuses.words d .outvoted).length }) (pgFuse d) 0x0B13
        (w / 2 % 2 ^ 16) d
    rw [State.modDie_same] at die
    exact absurd ((congrArg Die.fuseOk die).symm.trans ok) Bool.false_ne_true

theorem State.readFuses_other {d k : Nat} (other : k ≠ d) : ((s.readFuses d).die k).fuseOk = (s.die k).fuseOk := by
  unfold State.readFuses
  dsimp only
  split
  · rw [State.modDie_other _ _ other]
  next w _ _ =>
    obtain ⟨x, y, die⟩ := State.raiseStop_die (s.modDie d fun x => { x with
      fuseOk := (s.fuses.words d .lost).isEmpty
      fuseCorrected := satAdd x.fuseCorrected (s.fuses.words d .outvoted).length }) (pgFuse d) 0x0B13 (w / 2 % 2 ^ 16) k
    rw [State.modDie_other _ _ other] at die
    rw [die]

/-- A module that has read its fuses has left memory as it was. -/
theorem State.openSilicon_mem (read : s.openSilicon.fusesRead = true) : s.openSilicon.mem = s.mem := by
  unfold State.openSilicon at read ⊢
  split at read
  next early => rw [if_pos early]
  next late =>
    rw [if_neg late]
    dsimp only at read ⊢
    generalize same : (s.modDie 0 _).modDie 1 _ = u at read ⊢
    have mem : u.mem = s.mem := by
      rw [← same]
      rfl
    have rest : KeepsDies ((u.readFuses 0).readFuses 1) ([0, 4].foldl State.train ((u.readFuses 0).readFuses 1)).readLmsRecord :=
      (KeepsDies.foldl State.train_keepsDies [0, 4] _).trans (State.readLmsRecord_keepsDies _)
    obtain ⟨west, east⟩ := (Bool.and_eq_true _ _).mp read
    rw [rest.fuseOk, State.readFuses_other (by decide)] at west
    rw [rest.fuseOk] at east
    rw [rest.mem, State.readFuses_mem east, State.readFuses_mem west, mem]

/-! ### Provisioning and the boot exchange -/

/-- R658: a valid record is taken, and HELLO is due. -/
theorem execProvisionRead_takes {record : List Byte} (on : s.side.on = true) (runs : s.runsImages = true)
    (waits : s.boot.phase = .provisioning) (read : s.openSilicon.fusesRead = true) (valid : recordOk s.openSilicon record = true) :
    ∃ t, execProvisionRead record s = .next t ∧ t.boot.phase = .helloDue ∧ t.boot.provision.isSome = true ∧
      t.mem = s.openSilicon.mem := by
  unfold execProvisionRead
  rw [if_neg (by simp [on, runs, waits])]
  dsimp only
  generalize s.openSilicon = v at read valid ⊢
  have mem (f g : Port → Port) (n : Transport) (h : Boot → Boot) :
      ((((v.modPort 0 f).modPort 4 g).setNet n).modBoot h).mem = v.mem := by simp [State.modBoot]
  rw [if_neg (by rw [read]; exact nofun), if_pos valid]
  exact ⟨_, rfl, rfl, rfl, mem _ _ _ _⟩

/-- R661: HELLO goes to the server whose turn it is. -/
theorem execHello_sends {p : Provision} (record : s.boot.provision = some p)
    (due : s.boot.phase = .helloDue ∨ s.boot.phase = .helloSent) (link : ((s.port 0).linkUp || (s.port 4).linkUp) = true) :
    ∃ (u : State) (body : List Byte), execHello s = .next (u.sendBoot 0x01 body) ∧ u.boot.phase = .helloSent ∧
      u.boot.server = 1 - s.boot.server := by
  unfold execHello
  rw [record, decide_eq_true due, link]
  exact ⟨_, _, rfl, rfl, rfl⟩

section
variable {hdr : MsgHdr} {se ss sig : List Byte} {len : Nat}
  (arrives : s.arrives 0 0x09 (reqHeader hdr ++ bootBody 0x02 (se ++ ss ++ sig ++ leBytes 4 len)) = true)
include arrives

theorem execOffer_early (early : s.boot.phase ≠ .helloSent) :
    execOffer hdr ⟨se, ss⟩ sig len s = .next ((s.modConn 0 Conn.applied).bootAnswer 0 hdr 0x0811) := by
  have phase : decide ((s.modConn 0 Conn.applied).boot.phase = .helloSent) = false := decide_eq_false early
  unfold execOffer
  dsimp only
  rw [if_neg (by rw [arrives]; exact nofun), phase]
  cases (s.modConn 0 Conn.applied).boot.provision
  · rfl
  · rfl

section
variable {p : Provision} (record : s.boot.provision = some p) (sent : s.boot.phase = .helloSent)
include record sent

/-- R662: an OFFER that passes its checks starts the fetches. -/
theorem execOffer_accepts (good : ((s.modConn 0 Conn.applied).offerOk p se ss sig &&
      (ecdh (s.modConn 0 Conn.applied).boot.ephemeral se).isSome) = true) : ∃ u : State, execOffer hdr ⟨se, ss⟩ sig len s =
    .next ((u.bootAnswer 0 hdr 0).forEach (upTo 0 (min 64 (fetchCount len))) fun s i => s.sendFetch i) ∧
    u.boot.phase = .fetching ∧ u.boot.imageLen = len ∧ u.boot.got = [] := by
  have phase : decide ((s.modConn 0 Conn.applied).boot.phase = .helloSent) = true := decide_eq_true sent
  have taken : (s.modConn 0 Conn.applied).boot.provision = some p := record
  obtain ⟨authentic, shared⟩ := (Bool.and_eq_true _ _).mp good
  obtain ⟨secret, shared⟩ := Option.isSome_iff_exists.mp shared
  unfold execOffer
  dsimp only
  rw [if_neg (by rw [arrives]; exact nofun), phase, taken]
  dsimp only
  rw [authentic, shared]
  exact ⟨_, rfl, rfl, rfl, rfl⟩

/-- R660: another one is answered, and BOOT_SERVER_UNAUTHENTIC is raised. -/
theorem execOffer_refuses (bad : ((s.modConn 0 Conn.applied).offerOk p se ss sig &&
      (ecdh (s.modConn 0 Conn.applied).boot.ephemeral se).isSome) = false) : execOffer hdr ⟨se, ss⟩ sig len s =
    .next (((s.modConn 0 Conn.applied).raise pgSecurity 0x0A03 noted 0).bootAnswer 0 hdr 0x0811) := by
  have phase : decide ((s.modConn 0 Conn.applied).boot.phase = .helloSent) = true := decide_eq_true sent
  have taken : (s.modConn 0 Conn.applied).boot.provision = some p := record
  unfold execOffer
  dsimp only
  rw [if_neg (by rw [arrives]; exact nofun), phase, taken]
  dsimp only
  cases authentic : (s.modConn 0 Conn.applied).offerOk p se ss sig with
  | false => rfl
  | true =>
    cases shared : ecdh (s.modConn 0 Conn.applied).boot.ephemeral se with
    | none => rfl
    | some secret =>
      rw [authentic, shared] at bad
      exact nomatch bad

end

end

section
variable {hdr : MsgHdr} {off : Nat} {d : List Byte}
  (arrives : s.arrives 0 0x09 (reqHeader hdr ++ bootBody 0x04 (leBytes 4 off ++ leBytes 4 d.length ++ d)) = true)
include arrives

/-- A CHUNK is one that a FETCH asked for. -/
def State.chunkFits (s : State) (off : Nat) (d : List Byte) : Prop := s.boot.phase = .fetching ∧ off % 8192 = 0 ∧
  off / 8192 < fetchCount s.boot.imageLen ∧ d.length = fetchLen s.boot.imageLen (off / 8192)

omit arrives in
theorem State.chunkFits_iff : ¬s.chunkFits off d ↔ (s.modConn 0 Conn.applied).boot.phase ≠ .fetching ∨ off % 8192 ≠ 0 ∨
    fetchCount (s.modConn 0 Conn.applied).boot.imageLen ≤ off / 8192 ∨
    d.length ≠ fetchLen (s.modConn 0 Conn.applied).boot.imageLen (off / 8192) := by
  unfold State.chunkFits
  rw [not_and_or, not_and_or, not_and_or, Nat.not_lt]
  exact Iff.rfl

theorem execChunk_refuses (misfit : ¬s.chunkFits off d) :
    execChunk hdr ⟨off, d⟩ s = .next ((s.modConn 0 Conn.applied).bootAnswer 0 hdr 0x0811) :=
  congrArg Host.Outcome.next ((if_neg (by rw [arrives]; exact nofun)).trans (if_pos (State.chunkFits_iff.1 misfit)))

theorem execChunk_again (fits : s.chunkFits off d) (again : s.boot.got.any (fun g => g.1 == off) = true) :
    execChunk hdr ⟨off, d⟩ s = .next ((s.modConn 0 Conn.applied).bootAnswer 0 hdr 0) :=
  congrArg Host.Outcome.next ((if_neg (by rw [arrives]; exact nofun)).trans
    ((if_neg (fun misfit => State.chunkFits_iff.2 misfit fits)).trans (if_pos again)))

/-- R663: the first CHUNK for an offset is stored, and the next FETCH goes out. -/
theorem execChunk_stores (fits : s.chunkFits off d) (new : s.boot.got.any (fun g => g.1 == off) = false) : ∃ u : State,
    execChunk hdr ⟨off, d⟩ s = .next ((if u.boot.got.length + 63 < fetchCount u.boot.imageLen then
      u.sendFetch (u.boot.got.length + 63) else u).bootAnswer 0 hdr 0) ∧ u.boot.got = s.boot.got ++ [(off, d.length)] ∧
    u.boot.image = nput s.boot.image off d.length (blockOf 0 d) ∧ u.boot.imageLen = s.boot.imageLen := by
  have first : ¬((s.modConn 0 Conn.applied).boot.got.any (fun g => g.1 == off) = true) :=
    fun again => Bool.false_ne_true (new.symm.trans again)
  refine ⟨(s.modConn 0 Conn.applied).modBoot fun b => { b with
      image := nput b.image off d.length (blockOf 0 d), got := b.got ++ [(off, d.length)] },
    congrArg Host.Outcome.next ((if_neg (by rw [arrives]; exact nofun)).trans
      ((if_neg (fun misfit => State.chunkFits_iff.2 misfit fits)).trans ((if_neg first).trans rfl))), rfl, rfl, rfl⟩

end

/-! ### Verification and start -/

section
variable (fetching : s.boot.phase = .fetching) (whole : fetchCount s.boot.imageLen ≤ s.boot.got.length)
include fetching whole

/-- R665: RESULT goes to the server; a good image is verified, a bad one is thrown away. -/
theorem execImageVerify_results : ∃ (u : State) (body : List Byte),
    execImageVerify s = .next ((u.sendBoot 0x05 body).refuseMalformed 0) ∧
    if s.imageReason s.boot.imageLen s.boot.image = 0 then u.boot.phase = .verified ∧ u.boot.verified = true
    else u.boot.phase = .helloDue ∧ u.boot.image = [] := by
  have due : ¬(s.boot.phase ≠ .fetching ∨ s.boot.got.length < fetchCount s.boot.imageLen) := by
    rintro (other | short)
    · exact other fetching
    · omega
  unfold execImageVerify
  dsimp only
  rw [if_neg due]
  by_cases good : s.imageReason s.boot.imageLen s.boot.image = 0
  · simp only [if_neg (not_not_intro good), if_pos good]
    exact ⟨_, _, rfl, rfl, rfl⟩
  · simp only [if_pos good, if_neg good]
    exact ⟨_, _, rfl, rfl, rfl⟩

end

theorem execTierZeroingComplete_zeroes (on : s.side.on = true) (wiping : s.boot.wiping = true) (free : s.boot.phase ≠ .held)
    (runs : s.power.stop = .none) : execTierZeroingComplete s =
    .next (((s.setMem []).setMemCond []).setBoot { s.boot with wiping := false, zeroed := true }) :=
  congrArg Host.Outcome.next (if_neg (by simp [on, wiping, free, runs]))

theorem State.marginCheck_keeps (s : State) (r : Nat) (failing : List Nat) :
    KeepsMemory s (s.marginCheck r failing) ∧ KeepsDies s (s.marginCheck r failing) := by
  have core (u : State) (l : Nat) (f : Core → Core) : KeepsMemory u (u.modLcore l f) ∧ KeepsDies u (u.modLcore l f) :=
    ⟨⟨rfl, rfl⟩, ⟨rfl, fun _ => ⟨_, _, rfl⟩⟩⟩
  have turn (u : State) (l : Nat) : KeepsMemory u (if failing.contains l then u.fallBack r l
      else u.modLcore l fun c => { c with fallback := false }) ∧ KeepsDies u (if failing.contains l then u.fallBack r l
      else u.modLcore l fun c => { c with fallback := false }) := by
    split
    · have told := (u.modLcore l fun c => { c with fallback := true, fallbackSeen := true }).raiseEach_told pgPower 0x0704
        (powerInfo r l) (!(u.lcore l).fallbackSeen) 1
      exact ⟨(core u l _).1.trans told.keepsMemory, (core u l _).2.trans told.keepsDies⟩
    · exact core u l _
  have moved (u : State) (x : Power) : KeepsMemory u (u.setPower x) ∧ KeepsDies u (u.setPower x) :=
    ⟨⟨rfl, rfl⟩, ⟨rfl, fun _ => ⟨_, _, rfl⟩⟩⟩
  have departs (u : State) : KeepsMemory u (u.setDeparted true (some r)) ∧ KeepsDies u (u.setDeparted true (some r)) := by
    unfold State.setDeparted
    dsimp only
    split
    · have told := (u.setPower { u.power with departed := true }).raiseRegion_told 0x0705 (some r)
      exact ⟨(moved u _).1.trans told.keepsMemory, (moved u _).2.trans told.keepsDies⟩
    · exact moved u _
  unfold State.marginCheck
  exact ⟨(KeepsMemory.forEach (fun u l => (turn u l).1) _ s).trans (.ite (departs _).1 (.refl _)),
    (KeepsDies.foldl (fun u l => (turn u l).2) _ s).trans (.ite (departs _).2 (.refl _))⟩

/-- The image runs on both dies. -/
def State.imageOn (s : State) : State :=
  (s.modDie 0 fun d => { d with imageRunning := true }).modDie 1 fun d => { d with imageRunning := true }

theorem State.imageOn_west (s : State) : (s.imageOn.die 0).imageRunning = true := by
  unfold State.imageOn
  rw [State.modDie_other _ _ (by decide), State.modDie_same]

theorem State.imageOn_east (s : State) : (s.imageOn.die 1).imageRunning = true := by
  unfold State.imageOn
  rw [State.modDie_same]

/-- The margin checks of a state whose image has started, and the training of its other ports. -/
def State.startUp (s : State) : State :=
  [1, 2, 3, 5, 6, 7].foldl State.train (s.open_.2.forEach (upTo 0 8) fun u r => u.marginCheck r (bitsOf s.open_.1 128))

theorem State.startUp_keepsMemory (s : State) : KeepsMemory s s.startUp := by
  have train (u : State) (p : Nat) : KeepsMemory u (u.train p) := ⟨rfl, rfl⟩
  have checked := KeepsMemory.forEach (fun u r => (u.marginCheck_keeps r (bitsOf s.open_.1 128)).1) (upTo 0 8) s.open_.2
  exact (Told.opened .refl).keepsMemory.trans (checked.trans (KeepsMemory.forEach train [1, 2, 3, 5, 6, 7] _))

theorem State.startUp_keepsDies (s : State) : KeepsDies s s.startUp := by
  have checked := KeepsDies.foldl (fun u r => (u.marginCheck_keeps r (bitsOf s.open_.1 128)).2) (upTo 0 8) s.open_.2
  exact (Told.opened .refl).keepsDies.trans (checked.trans (KeepsDies.foldl State.train_keepsDies [1, 2, 3, 5, 6, 7] _))

/-- R657: the image starts, and its regions and ports start with it. -/
theorem execImageStart_starts (verified : s.boot.phase = .verified) (zeroed : s.boot.zeroed = true) (good : s.side.loss = false) :
    execImageStart s = .next (s.imageOn.modBoot fun b => { b with phase := .running }).startUp := by
  have ready : ¬(s.boot.phase ≠ .verified ∨ (!s.boot.zeroed) = true ∨ s.side.loss = true) := by simp [verified, zeroed, good]
  exact congrArg Host.Outcome.next ((if_neg (by rw [verified]; exact nofun)).trans (if_neg ready))

theorem execImageStart_ready (running : s.boot.phase = .running) (starting : s.boot.ready = false) (runs : s.halted = false) :
    execImageStart s = .next ((s.setBoot { s.boot with
      ready := true, bootTimeMs := BitVec.ofNat 32 (s.time.now.toNat / 1000000) }).raise pgSecurity 0x0A01 noted 0) :=
  congrArg Host.Outcome.next ((if_pos running).trans (if_neg (by simp [starting, runs])))

end

end Sys2Proof.Machine

open Sys2Proof Sys2Proof.Machine

/-- Settles O35: each step of the boot is its row, and reading the silicon and starting the image leave memory as it is. -/
theorem bootGoesOn : Obligations.BootGoesOn := by
  unfold Obligations.BootGoesOn
  refine ⟨?provision, ?hello, ?offer, ?chunk, fun s fetching whole => execImageVerify_results fetching whole, ?zeroing, ?start, ?ready⟩
  case provision =>
    intro s record on runs waits read valid
    obtain ⟨t, row, due, taken, mem⟩ := execProvisionRead_takes on runs waits read valid
    exact ⟨t, row, due, taken, mem.trans (State.openSilicon_mem read)⟩
  case hello =>
    intro s p record due link
    obtain ⟨u, body, row, phase, server⟩ := execHello_sends record due link
    exact ⟨_, u, body, row, rfl, phase, server⟩
  case offer =>
    refine fun s hdr se ss sig len arrives => ⟨fun p record sent => ?_, fun early => execOffer_early arrives early⟩
    by_cases good : ((s.modConn 0 Conn.applied).offerOk p se ss sig &&
      (ecdh (s.modConn 0 Conn.applied).boot.ephemeral se).isSome) = true
    · obtain ⟨u, row, fields⟩ := execOffer_accepts arrives record sent good
      refine ⟨_, row, ?_⟩
      rw [if_pos good]
      exact ⟨u, rfl, fields⟩
    · refine ⟨_, execOffer_refuses arrives record sent (Bool.not_eq_true _ ▸ good), ?_⟩
      rw [if_neg good]
  case chunk =>
    refine fun s hdr off d arrives => ⟨fun fits new => ?_, fun fits again => execChunk_again arrives fits again,
      fun misfit => execChunk_refuses arrives misfit⟩
    obtain ⟨u, row, got, image, len⟩ := execChunk_stores arrives fits new
    exact ⟨u, got, image, len, row⟩
  case zeroing =>
    exact fun s on wiping free runs => ⟨_, execTierZeroingComplete_zeroes on wiping free runs, rfl, rfl, rfl⟩
  case start =>
    intro s verified zeroed good
    have memory := (s.imageOn.modBoot fun b => { b with phase := .running }).startUp_keepsMemory
    have dies := (s.imageOn.modBoot fun b => { b with phase := .running }).startUp_keepsDies
    exact ⟨_, execImageStart_starts verified zeroed good, congrArg Boot.phase memory.boot, (congrArg Boot.ready memory.boot).trans rfl,
      (dies.imageRunning 0).trans s.imageOn_west, (dies.imageRunning 1).trans s.imageOn_east, memory.mem⟩
  case ready =>
    exact fun s running starting runs => ⟨_, execImageStart_ready running starting runs, rfl, rfl⟩

end
